-- ==== Sys2Proof/Word.lean ====
section
/-! DEFINITION. The word types of the machine (R4, R24, R227): bytes, the 32-bit word that one lane of a vector register
holds, the 64-bit scalar, and the 32-bit mask that holds one bit for each lane of a wave. -/
namespace Sys2Proof

/-- One byte of memory. -/
abbrev Byte := BitVec 8

/-- One lane of a vector register, and one instruction word (R24, R227). -/
abbrev Word := BitVec 32

/-- A scalar register, an address, an FP64 value (R12, R47, R227). -/
abbrev Dword := BitVec 64

/-- One bit for each of the 32 lanes of a wave, lane 0 in bit 0 (R12, R166). -/
abbrev Mask := BitVec 32

/-- A register or field number as the instruction word carries it (R27, R28). -/
abbrev Reg6 := BitVec 6
/-- A five-bit register number: s0–s31, and v0–v31 in format X (R28, R316). -/
abbrev Reg5 := BitVec 5
/-- A four-bit predicate register number; 12–15 name none (R28). -/
abbrev Reg4 := BitVec 4
/-- A three-bit matrix register number or shape field (R28, R316). -/
abbrev Reg3 := BitVec 3

end Sys2Proof
end

