-- ==== Sys2Proof/Config.lean ====
section
/-! DEFINITION. What the spec leaves open, as constants without a body: nothing can be proved of their values, so a statement holds
for every one of them. -/
namespace Sys2Proof.Config

/-- The n-th free value a run takes: an undefined value (R6), or one of several that the spec leaves unspecified (R7). Applied to
the counter `fresh` of the state (log 4). -/
opaque freeValue : Nat → BitVec 64

/-- The byte at an offset of a typed-buffer slice that nothing has written since its block started (R51): by block, buffer
(2 W, 3 A, 4 C) and block-relative offset; block 0 stands for a byte of no slice, by absolute offset. -/
opaque freshByte : Nat → Nat → Nat → BitVec 8

/-- A byte that a wave reads from, or stores into, a region of a Graver command in flight (R123): by cycle, entity, buffer and
offset. -/
opaque raceByte : Nat → Nat → Nat → Nat → BitVec 8

/-- The bits that an approximate function returns on an input that Table 11.6 does not make exact (R274): by function and input
code; taken only within the stated bound. -/
opaque approx : Nat → Nat → Nat

/-- Which of the values that a reader may still find — of a block-shared register, a TID entry or the block key — it finds (R76, R117,
R241): by cycle, entity and item. -/
opaque staleChoice : Nat → Nat → Nat → Nat

/-- Which of the translations that an access may use it uses — the old or the new one of a changed entry (R88), or one of the 16 of a
64 KiB span that differ (R81): by cycle, walker and address. -/
opaque pageChoice : Nat → Nat → Nat → Nat

/-- The set of a core's TLB that a translation lies in, by ASID, first address and size; the spec names no index (R86). -/
opaque tlbSet : Nat → Nat → Nat → Nat

/-- The loader's image in the module flash, or the recovery image (R424). -/
opaque bootImage : Bool → List (BitVec 8)

/-- The ML-DSA-87 signature of the device over a digest, and its public identity key; the private part never leaves the security engine
(R426). -/
opaque sign : List (BitVec 8) → Vector (BitVec 8) 4627
opaque identityKey : Vector (BitVec 8) 2592

/-- Does the ML-DSA-87 signature of an image verify over its digest against the key in mask ROM (R425)? By digest and image; the spec does
not say where in the image its signature stands. -/
opaque verifies : List (BitVec 8) → List (BitVec 8) → Bool

/-- The virtual and physical address at which slot `n` of the task shard of a core stands; the spec names neither (R203, R204). -/
opaque shardVa : Nat → Nat → BitVec 64
opaque shardPa : Nat → Nat → Nat

end Sys2Proof.Config
end

