-- ==== Sys2Proof/Machine/Float.lean ====
section
/-! DEFINITION. Floating formats, exact values, rounding and arithmetic (R227–R236, R270–R276): operands become exact values,
results are computed exactly and rounded once. -/
namespace Sys2Proof.Machine

/-- Rounding modes (R232). -/
inductive RMode where
  | rne | rtz | rup | rdn | rna
deriving DecidableEq, Repr

/-- The rounding mode of a code of `HMOD` rm, 0 and 1 both RNE (R41, R232). -/
def rmodeOf (rm : BitVec 3) : RMode :=
  match rm.toNat with
  | 2 => .rtz | 3 => .rup | 4 => .rdn | 5 => .rna | _ => .rne

/-- FP flags in the order of `fpf` bits 4:0: INV, DZ, OVF, UNF, INX (Table 11.3). -/
abbrev FFlags := BitVec 5
def flNone : FFlags := 0
def flInv : FFlags := 1
def flDz  : FFlags := 2
def flOvf : FFlags := 4
def flUnf : FFlags := 8
def flInx : FFlags := 16

/-- A binary floating format (Table 10.1): exponent and fraction bits and bias; `hasInf` is false for E4M3, whose all-ones
exponent is finite but for the NaN code. -/
structure Fmt where
  ebits : Nat
  fbits : Nat
  bias  : Nat
  hasInf : Bool := true
deriving DecidableEq, Repr

def fmt64 : Fmt := { ebits := 11, fbits := 52, bias := 1023 }
def fmt32 : Fmt := { ebits := 8, fbits := 23, bias := 127 }
def fmt16 : Fmt := { ebits := 5, fbits := 10, bias := 15 }
def fmtB16 : Fmt := { ebits := 8, fbits := 7, bias := 127 }
def fmtE5m2 : Fmt := { ebits := 5, fbits := 2, bias := 15 }
def fmtE4m3 : Fmt := { ebits := 4, fbits := 3, bias := 7, hasInf := false }

def Fmt.signBit (f : Fmt) : Nat := 2 ^ (f.ebits + f.fbits)
/-- The code of infinity, or the first code beyond the largest finite one where the format has none. -/
def Fmt.infCode (f : Fmt) : Nat :=
  if f.hasInf then (2 ^ f.ebits - 1) * 2 ^ f.fbits else 2 ^ (f.ebits + f.fbits) - 1
def Fmt.maxCode (f : Fmt) : Nat := f.infCode - 1
/-- The canonical NaN (Table 10.1). -/
def Fmt.nanCode (f : Fmt) : Nat :=
  if f.hasInf then f.infCode + 2 ^ (f.fbits - 1) else 2 ^ (f.ebits + f.fbits) - 1
/-- The smallest normal value is 2 ^ (1 − bias); its code. -/
def Fmt.minNormal (f : Fmt) : Nat := 2 ^ f.fbits

/-- The exact value of an operand: a NaN, an infinity, or ± num / den. -/
inductive FV where
  | nan (signalling : Bool)
  | inf (neg : Bool)
  | fin (neg : Bool) (num den : Nat)
deriving DecidableEq, Repr

/-- The value of a magnitude code (without sign) that is finite (R228). -/
def Fmt.magValue (f : Fmt) (code : Nat) : Nat × Nat :=
  let e := code / 2 ^ f.fbits
  let m := if e = 0 then code % 2 ^ f.fbits else code % 2 ^ f.fbits + 2 ^ f.fbits
  let e := if e = 0 then 1 else e
  if f.bias + f.fbits ≤ e then (m * 2 ^ (e - f.bias - f.fbits), 1) else (m, 2 ^ (f.bias + f.fbits - e))

/-- The exact value of a code (R228, R229). -/
def Fmt.value (f : Fmt) (code : Nat) : FV :=
  let neg := code / f.signBit % 2 = 1
  let mag := code % f.signBit
  if f.hasInf then
    if mag = f.infCode then .inf neg
    else if f.infCode < mag then .nan (mag < f.nanCode && decide (2 < f.fbits))
    else .fin neg (f.magValue mag).1 (f.magValue mag).2
  else if mag = f.nanCode then .nan false
  else .fin neg (f.magValue mag).1 (f.magValue mag).2

/-- Is the code a subnormal number? -/
def Fmt.isSubnormal (f : Fmt) (code : Nat) : Bool :=
  let mag := code % f.signBit
  decide (0 < mag) && decide (mag < f.minNormal)

/-- The exact value with subnormal inputs replaced by zero of their sign when `ftz` is set (R233). -/
def Fmt.valueZ (f : Fmt) (ftz : Bool) (code : Nat) : FV :=
  if ftz && f.isSubnormal code then .fin (code / f.signBit % 2 = 1) 0 1 else f.value code

/-- ⌊log2 (num / den)⌋ for num, den > 0. -/
def qlog2 (num den : Nat) : Int :=
  let e : Int := (num.log2 : Int) - (den.log2 : Int)
  let ge : Bool := if 0 ≤ e then decide (den * 2 ^ e.toNat ≤ num) else decide (den ≤ num * 2 ^ (-e).toNat)
  if ge then e else e - 1

/-- Does a magnitude between a unit and the next round up, given the remainder `rem` of `den` and whether the unit is even? -/
def roundsUp (mode : RMode) (neg : Bool) (odd : Bool) (rem den : Nat) : Bool :=
  if rem = 0 then false else
  match mode with
  | .rne => decide (den < 2 * rem) || (decide (den = 2 * rem) && odd)
  | .rna => decide (den ≤ 2 * rem)
  | .rtz => false
  | .rup => !neg
  | .rdn => neg

/-- A rounded magnitude: its code with the exponent range unbounded above, whether it differs from the exact value, and whether
the exact value lies below the smallest normal one. -/
structure Rounded where
  code : Nat
  inexact : Bool
  tiny : Bool
deriving DecidableEq, Repr

/-- Rounds num / den > 0 to the format (R232). Codes of consecutive magnitudes are consecutive, beyond the largest finite one
as well. -/
def Fmt.round (f : Fmt) (mode : RMode) (neg : Bool) (num den : Nat) : Rounded :=
  let emin : Int := 1 - (f.bias : Int)
  let e := qlog2 num den
  let eb := if e < emin then emin else e
  let q : Int := eb - (f.fbits : Int)
  let n := if q < 0 then num * 2 ^ (-q).toNat else num
  let d := if q < 0 then den else den * 2 ^ q.toNat
  let t := n / d
  let rem := n % d
  let t' := if roundsUp mode neg (t % 2 = 1) rem d then t + 1 else t
  { code := (eb - emin).toNat * 2 ^ f.fbits + t', inexact := decide (rem ≠ 0), tiny := decide (e < emin) }

/-- Is the mode one toward zero for the sign (R234, R270)? -/
def towardZero (mode : RMode) (neg : Bool) : Bool :=
  match mode with
  | .rtz => true | .rdn => !neg | .rup => neg | _ => false

/-- Puts the sign on a magnitude code. -/
def Fmt.signed (f : Fmt) (neg : Bool) (mag : Nat) : Nat := if neg then f.signBit + mag else mag

/-- The rounded result of an arithmetic operation with its flags (R270, R233). A zero keeps the sign given. -/
def Fmt.finish (f : Fmt) (mode : RMode) (ftz : Bool) (neg : Bool) (num den : Nat) : Nat × FFlags :=
  if num = 0 then (f.signed neg 0, flNone) else
  let r := f.round mode neg num den
  if f.maxCode < r.code then
    (f.signed neg (if towardZero mode neg then f.maxCode else f.infCode), flOvf ||| flInx)
  else if ftz && decide (0 < r.code) && decide (r.code < f.minNormal) then (f.signed neg 0, flUnf ||| flInx)
  else (f.signed neg r.code, if r.inexact then (if r.tiny then flUnf ||| flInx else flInx) else flNone)

/-- The canonical NaN as a result, with INV when asked. -/
def Fmt.nanR (f : Fmt) (inv : Bool) : Nat × FFlags := (f.nanCode, if inv then flInv else flNone)

/-- Is the operand a signalling NaN? -/
def FV.isSig : FV → Bool
  | .nan s => s
  | _ => false
def FV.isNan : FV → Bool
  | .nan _ => true
  | _ => false
def FV.neg : FV → FV
  | .nan s => .nan s
  | .inf n => .inf !n
  | .fin n a b => .fin (!n) a b
def FV.isNeg : FV → Bool
  | .nan _ => false
  | .inf n => n
  | .fin n _ _ => n

/-- The sum of two signed rationals: sign, num, den; an exact zero from opposite signs has the sign `zneg`. -/
def qadd (zneg : Bool) (n1 : Bool) (a1 b1 : Nat) (n2 : Bool) (a2 b2 : Nat) : Bool × Nat × Nat :=
  let g := Nat.gcd b1 b2
  let x := a1 * (b2 / g)
  let y := a2 * (b1 / g)
  let d := b1 * (b2 / g)
  if n1 = n2 then (n1, x + y, d)
  else if y < x then (n1, x - y, d)
  else if x < y then (n2, y - x, d)
  else (zneg, 0, d)

/-- The exact sum: none where it is ∞ − ∞ or a NaN operand makes it NaN. -/
def FV.add (zneg : Bool) : FV → FV → FV
  | .nan _, _ => .nan false
  | _, .nan _ => .nan false
  | .inf n, .inf m => if n = m then .inf n else .nan true
  | .inf n, _ => .inf n
  | _, .inf m => .inf m
  | .fin n1 a1 b1, .fin n2 a2 b2 =>
    let r := qadd zneg n1 a1 b1 n2 a2 b2
    .fin r.1 r.2.1 r.2.2

/-- The exact product: 0 × ∞ is a NaN. -/
def FV.mul : FV → FV → FV
  | .nan _, _ => .nan false
  | _, .nan _ => .nan false
  | .inf n, .inf m => .inf (n != m)
  | .inf n, .fin m a _ => if a = 0 then .nan true else .inf (n != m)
  | .fin n a _, .inf m => if a = 0 then .nan true else .inf (n != m)
  | .fin n a b, .fin m a' b' => .fin (n != m) (a * a') (b * b')

/-- A value rounded to the format. `nan true` is an invalid operation of the computation itself. -/
def Fmt.ofFV (f : Fmt) (mode : RMode) (ftz : Bool) : FV → Nat × FFlags
  | .nan inv => f.nanR inv
  | .inf n => (f.signed n f.infCode, flNone)
  | .fin n a b => f.finish mode ftz n a b

/-- x + y (R270, R271): a signalling operand raises INV, a NaN operand none other. -/
def Fmt.add (f : Fmt) (mode : RMode) (ftz : Bool) (x y : Nat) : Nat × FFlags :=
  let a := f.valueZ ftz x
  let b := f.valueZ ftz y
  if a.isSig || b.isSig then f.nanR true
  else f.ofFV mode ftz (a.add (mode = .rdn) b)

/-- x − y. -/
def Fmt.sub (f : Fmt) (mode : RMode) (ftz : Bool) (x y : Nat) : Nat × FFlags :=
  let a := f.valueZ ftz x
  let b := f.valueZ ftz y
  if a.isSig || b.isSig then f.nanR true
  else f.ofFV mode ftz (a.add (mode = .rdn) b.neg)

/-- x × y. -/
def Fmt.mul (f : Fmt) (mode : RMode) (ftz : Bool) (x y : Nat) : Nat × FFlags :=
  let a := f.valueZ ftz x
  let b := f.valueZ ftz y
  if a.isSig || b.isSig then f.nanR true
  else f.ofFV mode ftz (a.mul b)

/-- x × y + z with one rounding; 0 × ∞ raises INV even when the addend is a quiet NaN (R270). -/
def Fmt.fma (f : Fmt) (mode : RMode) (ftz : Bool) (x y z : Nat) : Nat × FFlags :=
  let a := f.valueZ ftz x
  let b := f.valueZ ftz y
  let c := f.valueZ ftz z
  if a.isSig || b.isSig || c.isSig then f.nanR true
  else
    match a.mul b with
    | .nan inv => f.nanR inv
    | p => f.ofFV mode ftz (p.add (mode = .rdn) c)

/-- x / y, correctly rounded (R273). -/
def Fmt.div (f : Fmt) (mode : RMode) (ftz : Bool) (x y : Nat) : Nat × FFlags :=
  let a := f.valueZ ftz x
  let b := f.valueZ ftz y
  if a.isSig || b.isSig then f.nanR true
  else match a, b with
  | .nan _, _ => f.nanR false
  | _, .nan _ => f.nanR false
  | .inf _, .inf _ => f.nanR true
  | .inf n, .fin m _ _ => (f.signed (n != m) f.infCode, flNone)
  | .fin n _ _, .inf m => (f.signed (n != m) 0, flNone)
  | .fin n a1 b1, .fin m a2 b2 =>
    if a2 = 0 then
      if a1 = 0 then f.nanR true else (f.signed (n != m) f.infCode, flDz)
    else f.finish mode ftz (n != m) (a1 * b2) (b1 * a2)

/-- The integer square root, bit by bit from bit `k` of the root downward. -/
def isqrtAux (n : Nat) : Nat → Nat → Nat
  | 0, r => r
  | k + 1, r => isqrtAux n k (if (r + 2 ^ k) * (r + 2 ^ k) ≤ n then r + 2 ^ k else r)
def isqrt (n : Nat) : Nat := isqrtAux n (n.log2 / 2 + 1) 0

/-- √(a / b) as a rational that lies strictly between the same two consecutive multiples of 2 ^ −k as the root does, and is the
root itself where that is a multiple. -/
def qsqrt (k a b : Nat) : Nat × Nat :=
  let n := a * b * 2 ^ (2 * k)
  let r := isqrt n
  if r * r = n then (r, b * 2 ^ k) else (2 * r + 1, 2 * b * 2 ^ k)

/-- √x, correctly rounded (R274, Table 11.7). -/
def Fmt.sqrt (f : Fmt) (mode : RMode) (ftz : Bool) (x : Nat) : Nat × FFlags :=
  match f.valueZ ftz x with
  | .nan s => f.nanR s
  | .inf n => if n then f.nanR true else (f.infCode, flNone)
  | .fin n a b =>
    if a = 0 then (f.signed n 0, flNone)
    else if n then f.nanR true
    else f.finish mode ftz false (qsqrt (2 * f.bias + 64) a b).1 (qsqrt (2 * f.bias + 64) a b).2

/-- A key that orders the numbers of a format with −0 below +0: larger value, larger key. -/
def Fmt.orderKey (f : Fmt) (code : Nat) : Nat :=
  if code / f.signBit % 2 = 1 then f.signBit - 1 - code % f.signBit else f.signBit + code % f.signBit

/-- The smaller (or larger) operand (R272). -/
def Fmt.minMax (f : Fmt) (max : Bool) (ftz : Bool) (x y : Nat) : Nat × FFlags :=
  let z c := if ftz && f.isSubnormal c then c / f.signBit % 2 * f.signBit else c
  let a := f.value x
  let b := f.value y
  if a.isNan || b.isNan then f.nanR (a.isSig || b.isSig)
  else
    let x := z x
    let y := z y
    (if (decide (f.orderKey x < f.orderKey y)) = max then y else x, flNone)

/-- Ordered comparison of two values that are no NaN: −0 equals +0. -/
def FV.cmp : FV → FV → Ordering
  | .inf n, .inf m => if n = m then .eq else if n then .lt else .gt
  | .inf n, _ => if n then .lt else .gt
  | _, .inf m => if m then .gt else .lt
  | .fin n a b, .fin m c d =>
    if a = 0 ∧ c = 0 then .eq
    else if n ∧ ¬ m then .lt
    else if ¬ n ∧ m then .gt
    else if n then compare (c * b) (a * d) else compare (a * d) (c * b)
  | _, _ => .eq

/-- The relation of `FCMP` (R265) for a code 0–7: its truth and whether it raises INV. -/
def Fmt.cmp (f : Fmt) (rel : Nat) (ftz : Bool) (x y : Nat) : Bool × FFlags :=
  let a := f.valueZ ftz x
  let b := f.valueZ ftz y
  let un := a.isNan || b.isNan
  let inv : Bool := if 2 ≤ rel ∧ rel ≤ 5 then un else a.isSig || b.isSig
  let o := a.cmp b
  let r : Bool :=
    match rel with
    | 0 => !un && decide (o = .eq)
    | 1 => un || decide (o ≠ .eq)
    | 2 => !un && decide (o = .lt)
    | 3 => !un && decide (o ≠ .gt)
    | 4 => !un && decide (o = .gt)
    | 5 => !un && decide (o ≠ .lt)
    | 6 => un
    | _ => !un
  (r, if inv then flInv else flNone)

/-- num / den rounded to an integer magnitude under the mode (R232). -/
def roundInt (mode : RMode) (neg : Bool) (num den : Nat) : Nat × Bool :=
  let t := num / den
  let rem := num % den
  (if roundsUp mode neg (t % 2 = 1) rem den then t + 1 else t, decide (rem ≠ 0))

/-- `FRND`: rounded to an integral value, with no INX (R274). A zero keeps the sign. -/
def Fmt.rint (f : Fmt) (mode : RMode) (ftz : Bool) (x : Nat) : Nat × FFlags :=
  match f.valueZ ftz x with
  | .nan s => f.nanR s
  | .inf n => (f.signed n f.infCode, flNone)
  | .fin n a b =>
    let r := (roundInt mode n a b).1
    if r = 0 then (f.signed n 0, flNone) else (f.signed n (f.round .rne n r 1).code, flNone)

/-- The class mask of `FCLASS` (R276). -/
def Fmt.classMask (f : Fmt) (x : Nat) : Nat :=
  let neg := x / f.signBit % 2 = 1
  let mag := x % f.signBit
  match f.value x with
  | .nan s => if s then 2 ^ 8 else 2 ^ 9
  | .inf n => if n then 2 ^ 0 else 2 ^ 7
  | .fin _ _ _ =>
    if mag = 0 then (if neg then 2 ^ 3 else 2 ^ 4)
    else if mag < f.minNormal then (if neg then 2 ^ 2 else 2 ^ 5)
    else if neg then 2 ^ 1 else 2 ^ 6

/-! ### DX8 and integer destinations -/

/-- The exact magnitude of a DX8 low field 1–63 with exponent sign es (R230). -/
def dx8Mag (es : Bool) (low : Nat) : Nat × Nat :=
  let z := 5 - low.log2
  let wf := 5 - z
  let f := low % 2 ^ wf
  let num := 2 ^ wf + 9 * f
  if es then (num, 10 ^ (z + 1) * 2 ^ wf) else (10 ^ z * num, 2 ^ wf)

/-- The exact value of a DX8 code (R230). -/
def dx8Value (code : Nat) : FV :=
  let neg := code / 128 % 2 = 1
  let es := code / 64 % 2 = 1
  let low := code % 64
  if low = 0 then (if es then .nan false else .fin neg 0 1)
  else .fin neg (dx8Mag es low).1 (dx8Mag es low).2

/-- The low seven bits of the DX8 codes of positive values, in ascending order of value (Table 10.2). -/
def dx8Order : List Nat :=
  [0x41] ++ (List.range 2).map (0x42 + ·) ++ (List.range 4).map (0x44 + ·) ++ (List.range 8).map (0x48 + ·)
    ++ (List.range 16).map (0x50 + ·) ++ (List.range 32).map (0x60 + ·)
    ++ (List.range 32).map (0x20 + ·) ++ (List.range 16).map (0x10 + ·) ++ (List.range 8).map (0x08 + ·)
    ++ (List.range 4).map (0x04 + ·) ++ (List.range 2).map (0x02 + ·) ++ [0x01]

/-- The neighbours of a magnitude among codes in ascending order: the last code at or below it and the first above it. -/
def dx8Bracket (num den : Nat) : List Nat → Nat → Nat × Option Nat
  | [], lo => (lo, none)
  | c :: cs, lo =>
    let m := dx8Mag (c / 64 = 1) (c % 64)
    if m.1 * den ≤ num * m.2 then dx8Bracket num den cs c else (lo, some c)

/-- A magnitude at or below 100,000 rounded to DX8 (R232): the low seven bits and whether it is inexact. Code 0 is zero. DESIGN CHOICE (log 95): the
tie at 77,500 between 0x03 and 0x01, neither of them even, goes to the larger one. -/
def dx8Round (mode : RMode) (neg : Bool) (num den : Nat) : Nat × Bool :=
  let (lo, hi?) := dx8Bracket num den dx8Order 0
  let ml := if lo = 0 then (0, 1) else dx8Mag (lo / 64 = 1) (lo % 64)
  if ml.1 * den = num * ml.2 then (lo, false) else
  match hi? with
  | none => (lo, true)
  | some hi =>
    let mh := dx8Mag (hi / 64 = 1) (hi % 64)
    -- x − lo and hi − lo over the common denominator den × ml.2 × mh.2
    let x := num * ml.2 * mh.2
    let l := ml.1 * den * mh.2
    let h := mh.1 * den * ml.2
    let up := match mode with
      | .rne => decide (h - l < 2 * (x - l)) || (decide (h - l = 2 * (x - l)) && decide (lo % 2 = 1))
      | .rna => decide (h - l ≤ 2 * (x - l))
      | .rtz => false
      | .rup => !neg
      | .rdn => neg
    (if up then hi else lo, true)

/-- A conversion's result (Table 10.3): the destination's code, its flags, and whether the lane is counted in `satc`. -/
structure Conv where
  code  : Nat
  flags : FFlags := flNone
  counted : Bool := false
deriving DecidableEq, Repr

/-- Converts to a binary floating format (R232–R236, Table 10.3). `sat`: saturate, else propagate. -/
def Fmt.convert (f : Fmt) (mode : RMode) (ftz sat : Bool) (x : FV) : Conv :=
  match x with
  | .nan s => { code := f.nanCode, flags := if s then flInv else flNone }
  | .inf n =>
    if f.hasInf then { code := f.signed n f.infCode }
    else if sat then { code := f.signed n f.maxCode, counted := true }
    else { code := f.nanCode, flags := flInv }
  | .fin n a b =>
    if a = 0 then { code := f.signed n 0 } else
    let r := f.round mode n a b
    if f.maxCode < r.code then
      if towardZero mode n then { code := f.signed n f.maxCode, flags := flInx }
      else if sat then { code := f.signed n f.maxCode, flags := flOvf ||| flInx, counted := true }
      else { code := if f.hasInf then f.signed n f.infCode else f.nanCode, flags := flOvf ||| flInx }
    else if ftz && decide (0 < r.code) && decide (r.code < f.minNormal) then
      { code := f.signed n 0, flags := flUnf ||| flInx }
    else { code := f.signed n r.code,
           flags := if r.inexact then (if r.tiny then flUnf ||| flInx else flInx) else flNone }

/-- Converts to DX8 (R230, R233, R234, Table 10.3). -/
def dx8Convert (mode : RMode) (sat : Bool) (x : FV) : Conv :=
  let sg (n : Bool) (c : Nat) := if n then 128 + c else c
  match x with
  | .nan s => { code := 0x40, flags := if s then flInv else flNone }
  | .inf n => if sat then { code := sg n 1, counted := true } else { code := 0x40, flags := flInv }
  | .fin n a b =>
    if a = 0 then { code := sg n 0 }
    else if 100000 * b < a then
      if towardZero mode n then { code := sg n 1, flags := flInx }
      else if sat then { code := sg n 1, flags := flOvf ||| flInx, counted := true }
      else { code := 0x40, flags := flOvf ||| flInx }
    else
      let r := dx8Round mode n a b
      { code := sg n r.1,
        flags := if r.2 then (if a * 1000000 < b then flUnf ||| flInx else flInx) else flNone }

/-- Converts to an integer destination of a width, signed or unsigned (Table 10.3). -/
def intConvert (width : Nat) (signed : Bool) (mode : RMode) (sat : Bool) (x : FV) : Conv :=
  let hi : Nat := if signed then 2 ^ (width - 1) - 1 else 2 ^ width - 1
  let lo : Nat := if signed then 2 ^ (width - 1) else 0
  let bad : Nat := if signed then 2 ^ (width - 1) else 2 ^ width - 1
  let out (n : Bool) : Conv :=
    if sat then { code := if n then (if signed then 2 ^ (width - 1) else 0) else hi, flags := flInv, counted := true }
    else { code := bad, flags := flInv }
  match x with
  | .nan _ => if sat then { code := 0, flags := flInv } else { code := bad, flags := flInv }
  | .inf n => out n
  | .fin n a b =>
    let r := roundInt mode n a b
    if n then
      if lo < r.1 then out true
      else { code := (2 ^ width - r.1) % 2 ^ width, flags := if r.2 then flInx else flNone }
    else if hi < r.1 then out false
    else { code := r.1, flags := if r.2 then flInx else flNone }

/-- The exact value of a signed or unsigned integer code. -/
def intValue (width : Nat) (signed : Bool) (code : Nat) : FV :=
  if signed ∧ 2 ^ (width - 1) ≤ code then .fin true (2 ^ width - code) 1 else .fin false code 1

/-- An element format of Table 3.5. -/
inductive Elem where
  | int8 | e4m3 | e5m2 | dx8 | fp16 | bf16 | fp32 | int32 | fp64
deriving DecidableEq, Repr

/-- The element format of a code of Table 3.5 (R59). -/
def elemOf (code : Nat) : Option Elem :=
  match code with
  | 1 => some .int8 | 2 => some .e4m3 | 3 => some .e5m2 | 4 => some .dx8 | 5 => some .fp16
  | 6 => some .bf16 | 7 => some .fp32 | 8 => some .int32 | 9 => some .fp64 | _ => none

/-- Its size in bytes. -/
def Elem.size : Elem → Nat
  | .int8 | .e4m3 | .e5m2 | .dx8 => 1
  | .fp16 | .bf16 => 2
  | .fp32 | .int32 => 4
  | .fp64 => 8

/-- Its floating format, where it is a binary one. -/
def Elem.fmt? : Elem → Option Fmt
  | .e4m3 => some fmtE4m3 | .e5m2 => some fmtE5m2 | .fp16 => some fmt16 | .bf16 => some fmtB16
  | .fp32 => some fmt32 | .fp64 => some fmt64 | _ => none

/-- The exact value of an element's code (R227–R231). -/
def Elem.value (e : Elem) (code : Nat) : FV :=
  match e with
  | .int8 => intValue 8 true code
  | .int32 => intValue 32 true code
  | .dx8 => dx8Value code
  | .e4m3 => fmtE4m3.value code | .e5m2 => fmtE5m2.value code | .fp16 => fmt16.value code
  | .bf16 => fmtB16.value code | .fp32 => fmt32.value code | .fp64 => fmt64.value code

/-- Converts a value to an element format (R232–R236). -/
def Elem.convert (e : Elem) (mode : RMode) (ftz sat : Bool) (x : FV) : Conv :=
  match e with
  | .int8 => intConvert 8 true mode sat x
  | .int32 => intConvert 32 true mode sat x
  | .dx8 => dx8Convert mode sat x
  | .e4m3 => fmtE4m3.convert mode ftz sat x | .e5m2 => fmtE5m2.convert mode ftz sat x
  | .fp16 => fmt16.convert mode ftz sat x | .bf16 => fmtB16.convert mode ftz sat x
  | .fp32 => fmt32.convert mode ftz sat x | .fp64 => fmt64.convert mode ftz sat x

/-- A 32-bit word's value as FP32. -/
def fv32 (w : Word) : FV := fmt32.value w.toNat
/-- Rounds an exact value to FP32 with ties to even, subnormals kept, a NaN canonical: the rne32 of the pseudocode (R22). -/
def rne32 (x : FV) : Word := BitVec.ofNat 32 (fmt32.ofFV .rne false x).1

end Sys2Proof.Machine
end

