-- ==== Sys2Proof/Machine/Lanes.lean ====
section
/-! DEFINITION. Values held once for each of the 32 lanes of a wave (R160), and masks of lanes (R166). -/
namespace Sys2Proof.Machine

/-- A value for each of the 32 lanes of a wave. -/
abbrev Lanes (α : Type) := Vector α 32

/-- The lane values given lane by lane. -/
def lanesOf {α : Type} (f : Fin 32 → α) : Lanes α := ⟨⟨List.ofFn f⟩, by simp⟩

theorem lanesOf_get {α : Type} (f : Fin 32 → α) (i : Fin 32) : (lanesOf f)[i.val] = f i := by
  have h : ∀ (n : Nat) (g : Fin n → α) (j : Fin n) (h' : j.val < (List.ofFn g).length),
      (List.ofFn g)[j.val] = g j := by intro n g j h'; simp
  exact h 32 f i (by simp)

/-- The lane indices in ascending order. -/
def laneList : List (Fin 32) := List.finRange 32

/-- Is lane l in the mask? -/
def inMask (m : Mask) (l : Fin 32) : Bool := m.getLsbD l.val

/-- The lanes of a mask in ascending order (R22: lanes are visited in ascending index). -/
def lanesIn (m : Mask) : List (Fin 32) := laneList.filter (inMask m)

/-- The mask of the lanes where p holds. -/
def maskOf (p : Fin 32 → Bool) : Mask :=
  laneList.foldr (fun l acc => if p l then acc ||| (1#32 <<< l.val) else acc) 0#32

/-- The number of lanes in a mask. -/
def maskCount (m : Mask) : Nat := (lanesIn m).length

/-- The lowest lane of a mask. -/
def lowestLane (m : Mask) : Option (Fin 32) := (lanesIn m).head?

/-- The lane a number names, if it is one. -/
def laneOfNat (n : Nat) : Option (Fin 32) := if h : n < 32 then some ⟨n, h⟩ else none

/-- A new value in the lanes of the mask, the old one elsewhere (R22: a lane that does not take part keeps its value). -/
def lanesMerge {α : Type} (m : Mask) (new : Fin 32 → α) (old : Lanes α) : Lanes α :=
  lanesOf fun l => if inMask m l then new l else old[l]

end Sys2Proof.Machine
end

