-- ==== Sys2Proof/Machine/Table.lean ====
section
/-! DEFINITION. Sparse data by number: a list of (key, value) pairs with strictly rising keys. Blocks, cores, launches, memory
bytes and the like are held so; a key that is not listed has no entry. -/
namespace Sys2Proof.Machine

/-- Sparse data by key. -/
abbrev Table (α : Type) := List (Nat × α)

/-- The entry of a key. -/
def tget {α : Type} : Table α → Nat → Option α
  | [], _ => none
  | (k, v) :: t, n => if n = k then some v else tget t n

/-- The entry of a key, or a default. -/
def tgetD {α : Type} (t : Table α) (n : Nat) (d : α) : α := (tget t n).getD d

/-- Sets the entry of a key; the keys stay strictly rising. -/
def tset {α : Type} : Table α → Nat → α → Table α
  | [], n, x => [(n, x)]
  | (k, v) :: t, n, x =>
    if n = k then (n, x) :: t else if n < k then (n, x) :: (k, v) :: t else (k, v) :: tset t n x

/-- Removes the entry of a key. -/
def tdel {α : Type} (t : Table α) (n : Nat) : Table α := t.filter fun p => p.1 ≠ n

/-- Removes every entry whose key lies in [lo, lo + len). -/
def tclear {α : Type} (t : Table α) (lo len : Nat) : Table α :=
  t.filter fun p => p.1 < lo || lo + len ≤ p.1

/-- The keys are strictly rising. -/
def tsorted {α : Type} : Table α → Bool
  | [] => true
  | [_] => true
  | (k, _) :: (k', v') :: t => decide (k < k') && tsorted ((k', v') :: t)

end Sys2Proof.Machine
end

