-- ==== Sys2Proof/Syntax.lean ====
section
/-! DEFINITION. The syntax of the machine: one constructor for each row of spec/opcode_table.json. The first 223 are the
instruction words, with the fields of their encoding (R27, R28) as their arguments; the rest are the table's events, the acts
of engines, of the hub, of the host and of other modules, with what the act carries as their arguments. -/
namespace Sys2Proof

/-- The guard of formats V, F, I, J, VS, M, P, K and X: the predicate number g and the sense bit n (R29). -/
structure Guard where
  n : Bool
  g : BitVec 4
deriving DecidableEq, Repr

/-- An issue entity (R26): wave slot `slot` of block `blk` (slot 16 is the block's surrender wave), its parent entity or its
fragment. -/
structure EntRef where
  blk  : Nat
  slot : Nat
  frag : Bool
deriving DecidableEq, Repr

/-- The kind of an access that is translated (Table 4.4, field acc). -/
inductive AccKind where
  | load | store | atomic | fetch | engineRead | engineWrite
deriving DecidableEq, Repr

/-- One byte at an address, as the host gives it. -/
abbrev Cell := Nat × Byte

/-- What fabric traffic asks for (R118, R119, R423): a store of its bytes; a read, with the module that asks; an atomic request, with its source
core's number in the domain; or it is an answer. -/
inductive FabricKind where
  | store
  | read (src len : Nat)
  | atomic (src : Nat) (seq : BitVec 24) (fop ty : BitVec 3) (val cmp : Dword) (replay : Bool)
  | answer
deriving DecidableEq, Repr

/-- A request or response that reaches the module over the fabric (R421, R423): its destination module, its class 0–3, the
physical address it concerns and the bytes it carries. -/
structure FabricMsg where
  dest  : Nat
  cls   : BitVec 2
  pa    : Nat
  bytes : List Byte
  kind  : FabricKind := .store
deriving DecidableEq, Repr

/-- What the Executives do about a failure beside the routes (R427): the launches they checkpoint, memory as it stood at the checkpoints, and the
launches they resume. -/
structure Recovery where
  saved    : List Nat := []
  image    : List Cell := []
  affected : List Nat := []
deriving DecidableEq, Repr

/-- One constructor for each row of spec/opcode_table.json. -/
inductive Instr where
  /-- `BRA` (R283). -/
  | bra (m : BitVec 3) (k : BitVec 4) (n : Bool) (o : BitVec 17)
  /-- `CALL` (R285). -/
  | call (d : BitVec 5) (i : BitVec 20)
  /-- `JMPS` (R287). -/
  | jmps (a : BitVec 5)
  /-- `CALLS` (R287). -/
  | calls (d a : BitVec 5)
  /-- `RET` (R287). -/
  | ret (a : BitVec 5)
  /-- `EXIT` (R289). -/
  | exit
  /-- `REJOIN` (R170). -/
  | rejoin
  /-- `ISYNC` (R304). -/
  | isync
  /-- `NAP` (R292). -/
  | nap (a : BitVec 5)
  /-- `BAR` (R293). -/
  | bar
  /-- `CBAR` (R294). -/
  | cbar (a : BitVec 5)
  /-- `POST` (R297). -/
  | post (d : BitVec 6) (m : Bool) (gd : Guard)
  /-- `SADD` (R250). -/
  | sadd (d a b : BitVec 5) (i : Bool)
  /-- `SSUB` (R250). -/
  | ssub (d a b : BitVec 5) (i : Bool)
  /-- `SMUL` (R250). -/
  | smul (d a b : BitVec 5) (i : Bool)
  /-- `SMULH` (R250). -/
  | smulh (d a b : BitVec 5) (i u : Bool)
  /-- `SAND` (R250). -/
  | sand (d a b : BitVec 5) (i : Bool)
  /-- `SOR` (R250). -/
  | sor (d a b : BitVec 5) (i : Bool)
  /-- `SXOR` (R250). -/
  | sxor (d a b : BitVec 5) (i : Bool)
  /-- `SSHL` (R250). -/
  | sshl (d a b : BitVec 5) (i : Bool)
  /-- `SSHR` (R250). -/
  | sshr (d a b : BitVec 5) (i : Bool)
  /-- `SSAR` (R250). -/
  | ssar (d a b : BitVec 5) (i : Bool)
  /-- `SMIN` (R250). -/
  | smin (d a b : BitVec 5) (i u : Bool)
  /-- `SMAX` (R250). -/
  | smax (d a b : BitVec 5) (i u : Bool)
  /-- `SCMP` (R250). -/
  | scmp (d a b : BitVec 5) (i : Bool) (c : BitVec 4)
  /-- `SSEL` (R250). -/
  | ssel (d a b : BitVec 5) (i : Bool)
  /-- `SMOV` (R250). -/
  | smov (d a : BitVec 5)
  /-- `SLEA` (R250). -/
  | slea (d a b : BitVec 5) (i : Bool) (c : BitVec 4)
  /-- `SMOVI` (R252). -/
  | smovi (d : BitVec 5) (i : BitVec 20)
  /-- `SLD` (R73). -/
  | sld (d a : BitVec 5) (w : BitVec 3) (p : BitVec 2)
  /-- `SST` (R73). -/
  | sst (a b : BitVec 5) (w : BitVec 3) (p : BitVec 2)
  /-- `SRD` (R253). -/
  | srd (d : BitVec 5) (v : Bool) (n : BitVec 8)
  /-- `SWR` (R253). -/
  | swr (a : BitVec 5) (n : BitVec 8)
  /-- `VADD` (R256). -/
  | vadd (d a b : BitVec 6) (la lb : Bool) (gd : Guard)
  /-- `VSUB` (R256). -/
  | vsub (d a b : BitVec 6) (la lb : Bool) (gd : Guard)
  /-- `VMUL` (R256). -/
  | vmul (d a b : BitVec 6) (la lb : Bool) (gd : Guard)
  /-- `VMULH` (R256). -/
  | vmulh (d a b : BitVec 6) (la lb : Bool) (gd : Guard)
  /-- `VAND` (R256). -/
  | vand (d a b : BitVec 6) (la lb : Bool) (gd : Guard)
  /-- `VOR` (R256). -/
  | vor (d a b : BitVec 6) (la lb : Bool) (gd : Guard)
  /-- `VXOR` (R256). -/
  | vxor (d a b : BitVec 6) (la lb : Bool) (gd : Guard)
  /-- `VSHL` (R256). -/
  | vshl (d a b : BitVec 6) (la lb : Bool) (gd : Guard)
  /-- `VSHR` (R256). -/
  | vshr (d a b : BitVec 6) (la lb : Bool) (gd : Guard)
  /-- `VSAR` (R256). -/
  | vsar (d a b : BitVec 6) (la lb : Bool) (gd : Guard)
  /-- `VMIN` (R256). -/
  | vmin (d a b : BitVec 6) (la lb : Bool) (gd : Guard)
  /-- `VMAX` (R256). -/
  | vmax (d a b : BitVec 6) (la lb : Bool) (gd : Guard)
  /-- `VMINN` (R256). -/
  | vminn (d a b : BitVec 6) (la lb : Bool) (gd : Guard)
  /-- `VMAXN` (R256). -/
  | vmaxn (d a b : BitVec 6) (la lb : Bool) (gd : Guard)
  /-- `VADDC` (R257). -/
  | vaddc (d a b : BitVec 6) (la lb : Bool) (gd : Guard)
  /-- `VSUBB` (R257). -/
  | vsubb (d a b : BitVec 6) (la lb : Bool) (gd : Guard)
  /-- `VADDI` (R258). -/
  | vaddi (d a : BitVec 6) (i : BitVec 8) (gd : Guard)
  /-- `VSHLI` (R258). -/
  | vshli (d a : BitVec 6) (i : BitVec 8) (gd : Guard)
  /-- `VSHRI` (R258). -/
  | vshri (d a : BitVec 6) (i : BitVec 8) (gd : Guard)
  /-- `VSARI` (R258). -/
  | vsari (d a : BitVec 6) (i : BitVec 8) (gd : Guard)
  /-- `VANDI` (R258). -/
  | vandi (d a : BitVec 6) (i : BitVec 8) (gd : Guard)
  /-- `VMOVI` (R259). -/
  | vmovi (d : BitVec 6) (i : BitVec 14) (gd : Guard)
  /-- `VNOT` (R260). -/
  | vnot (d a : BitVec 6) (la : Bool) (gd : Guard)
  /-- `VNEG` (R260). -/
  | vneg (d a : BitVec 6) (la : Bool) (gd : Guard)
  /-- `VABS` (R260). -/
  | vabs (d a : BitVec 6) (la : Bool) (gd : Guard)
  /-- `VCLZ` (R260). -/
  | vclz (d a : BitVec 6) (la : Bool) (gd : Guard)
  /-- `VPOPC` (R260). -/
  | vpopc (d a : BitVec 6) (la : Bool) (gd : Guard)
  /-- `VMOV` (R260). -/
  | vmov (d a : BitVec 6) (la : Bool) (gd : Guard)
  /-- `VBFE` (R261). -/
  | vbfe (d a : BitVec 6) (la m : Bool) (gd : Guard)
  /-- `VBFI` (R261). -/
  | vbfi (d a : BitVec 6) (la : Bool) (gd : Guard)
  /-- `VSEL` (R262). -/
  | vsel (d a b : BitVec 6) (la lb : Bool) (gd : Guard)
  /-- `VMAD` (R263). -/
  | vmad (d a b : BitVec 6) (la lb : Bool) (gd : Guard)
  /-- `VLEA` (R264). -/
  | vlea (d a : BitVec 6) (s : BitVec 5) (h : BitVec 3) (gd : Guard)
  /-- `VCMP` (R265). -/
  | vcmp (k c : BitVec 4) (a b : BitVec 6) (gd : Guard)
  /-- `FCMP` (R265). -/
  | fcmp (k c : BitVec 4) (a b : BitVec 6) (gd : Guard)
  /-- `PAND` (R266). -/
  | pand (d a b : BitVec 4) (x : BitVec 2) (gd : Guard)
  /-- `POR` (R266). -/
  | por (d a b : BitVec 4) (x : BitVec 2) (gd : Guard)
  /-- `PXOR` (R266). -/
  | pxor (d a b : BitVec 4) (x : BitVec 2) (gd : Guard)
  /-- `PNOT` (R266). -/
  | pnot (d a : BitVec 4) (gd : Guard)
  /-- `PSET` (R266). -/
  | pset (d : BitVec 4) (x : Bool) (gd : Guard)
  /-- `KTOV` (R267). -/
  | ktov (k : BitVec 4) (r : BitVec 8) (gd : Guard)
  /-- `VTOK` (R267). -/
  | vtok (k : BitVec 4) (r : BitVec 8) (gd : Guard)
  /-- `KTOS` (R267). -/
  | ktos (k : BitVec 4) (r : BitVec 8) (gd : Guard)
  /-- `STOK` (R267). -/
  | stok (k : BitVec 4) (r : BitVec 8) (gd : Guard)
  /-- `PCNT` (R267). -/
  | pcnt (k : BitVec 4) (r : BitVec 8) (gd : Guard)
  /-- `XMGET` (R267). -/
  | xmget (r : BitVec 8)
  /-- `XMSET` (R267). -/
  | xmset (r : BitVec 8)
  /-- `VMATCH` (R269). -/
  | vmatch (k c : BitVec 4) (a : BitVec 6) (gd : Guard)
  /-- `FADD` (R271). -/
  | fadd (d a b : BitVec 6) (la lb : Bool) (gd : Guard)
  /-- `FSUB` (R271). -/
  | fsub (d a b : BitVec 6) (la lb : Bool) (gd : Guard)
  /-- `FMUL` (R271). -/
  | fmul (d a b : BitVec 6) (la lb : Bool) (gd : Guard)
  /-- `FFMA` (R271). -/
  | ffma (d a b : BitVec 6) (la lb : Bool) (gd : Guard)
  /-- `FMIN` (R272). -/
  | fmin (d a b : BitVec 6) (la lb : Bool) (gd : Guard)
  /-- `FMAX` (R272). -/
  | fmax (d a b : BitVec 6) (la lb : Bool) (gd : Guard)
  /-- `FABS` (R274). -/
  | fabs (d a : BitVec 6) (la m : Bool) (gd : Guard)
  /-- `FNEG` (R274). -/
  | fneg (d a : BitVec 6) (la m : Bool) (gd : Guard)
  /-- `FRCP` (R274). -/
  | frcp (d a : BitVec 6) (la m : Bool) (gd : Guard)
  /-- `FRSQ` (R274). -/
  | frsq (d a : BitVec 6) (la m : Bool) (gd : Guard)
  /-- `FSQRT` (R274). -/
  | fsqrt (d a : BitVec 6) (la m : Bool) (gd : Guard)
  /-- `FEXP2` (R274). -/
  | fexp2 (d a : BitVec 6) (la : Bool) (gd : Guard)
  /-- `FLOG2` (R274). -/
  | flog2 (d a : BitVec 6) (la : Bool) (gd : Guard)
  /-- `FSIN` (R274). -/
  | fsin (d a : BitVec 6) (la : Bool) (gd : Guard)
  /-- `FCOS` (R274). -/
  | fcos (d a : BitVec 6) (la : Bool) (gd : Guard)
  /-- `FRND` (R274). -/
  | frnd (d a : BitVec 6) (la m : Bool) (gd : Guard)
  /-- `FCLASS` (R276). -/
  | fclass (d a : BitVec 6) (la m : Bool) (gd : Guard)
  /-- `FDIV` (R273). -/
  | fdiv (d a b : BitVec 6) (la lb : Bool) (gd : Guard)
  /-- `HADD` (R271). -/
  | hadd (d a b : BitVec 6) (la lb : Bool) (gd : Guard)
  /-- `HSUB` (R271). -/
  | hsub (d a b : BitVec 6) (la lb : Bool) (gd : Guard)
  /-- `HMUL` (R271). -/
  | hmul (d a b : BitVec 6) (la lb : Bool) (gd : Guard)
  /-- `HFMA` (R271). -/
  | hfma (d a b : BitVec 6) (la lb : Bool) (gd : Guard)
  /-- `HMIN` (R272). -/
  | hmin (d a b : BitVec 6) (la lb : Bool) (gd : Guard)
  /-- `HMAX` (R272). -/
  | hmax (d a b : BitVec 6) (la lb : Bool) (gd : Guard)
  /-- `BADD` (R271). -/
  | badd (d a b : BitVec 6) (la lb : Bool) (gd : Guard)
  /-- `BSUB` (R271). -/
  | bsub (d a b : BitVec 6) (la lb : Bool) (gd : Guard)
  /-- `BMUL` (R271). -/
  | bmul (d a b : BitVec 6) (la lb : Bool) (gd : Guard)
  /-- `BFMA` (R271). -/
  | bfma (d a b : BitVec 6) (la lb : Bool) (gd : Guard)
  /-- `BMIN` (R272). -/
  | bmin (d a b : BitVec 6) (la lb : Bool) (gd : Guard)
  /-- `BMAX` (R272). -/
  | bmax (d a b : BitVec 6) (la lb : Bool) (gd : Guard)
  /-- `DADD` (R271). -/
  | dadd (d a b : BitVec 6) (la lb : Bool) (gd : Guard)
  /-- `DSUB` (R271). -/
  | dsub (d a b : BitVec 6) (la lb : Bool) (gd : Guard)
  /-- `DMUL` (R271). -/
  | dmul (d a b : BitVec 6) (la lb : Bool) (gd : Guard)
  /-- `DFMA` (R271). -/
  | dfma (d a b : BitVec 6) (la lb : Bool) (gd : Guard)
  /-- `CVT` (R242). -/
  | cvt (d a : BitVec 6) (c : BitVec 4) (p : BitVec 2) (la m : Bool) (gd : Guard)
  /-- `CVTS` (R245). -/
  | cvts (d a b : BitVec 6) (la lb : Bool) (gd : Guard)
  /-- `PACK` (R244). -/
  | pack (d a b : BitVec 6) (la lb : Bool) (gd : Guard)
  /-- `UNPK` (R243). -/
  | unpk (d a : BitVec 6) (c : BitVec 4) (p : BitVec 2) (la : Bool) (gd : Guard)
  /-- `RND` (R246). -/
  | rnd (d a : BitVec 6) (s : BitVec 5) (la m : Bool) (gd : Guard)
  /-- `RSLICE` (R247). -/
  | rslice (d a : BitVec 6) (w : BitVec 3) (la m : Bool) (gd : Guard)
  /-- `RBERN` (R248). -/
  | rbern (k c : BitVec 4) (a b : BitVec 6) (gd : Guard)
  /-- `RKEY` (R249). -/
  | rkey (a : BitVec 5)
  /-- `SHFL` (R278). -/
  | shfl (d a b : BitVec 6) (la lb : Bool) (gd : Guard)
  /-- `SHFX` (R278). -/
  | shfx (d a : BitVec 6) (i : BitVec 8) (gd : Guard)
  /-- `SHFU` (R278). -/
  | shfu (d a : BitVec 6) (i : BitVec 8) (gd : Guard)
  /-- `SHFD` (R278). -/
  | shfd (d a : BitVec 6) (i : BitVec 8) (gd : Guard)
  /-- `BCST` (R279). -/
  | bcst (d a : BitVec 6) (s : BitVec 5) (x : BitVec 3) (gd : Guard)
  /-- `RDFL` (R280). -/
  | rdfl (k a : BitVec 6) (s : BitVec 5) (w : Bool) (gd : Guard)
  /-- `VRED` (R281). -/
  | vred (d a f : BitVec 6) (la : Bool) (gd : Guard)
  /-- `VSCAN` (R282). -/
  | vscan (d a f : BitVec 6) (la e : Bool) (gd : Guard)
  /-- `LD` (R70). -/
  | ld (d : BitVec 6) (p q : Bool) (i : BitVec 4) (s : BitVec 5) (w : BitVec 3) (gd : Guard)
  /-- `ST` (R70). -/
  | st (d : BitVec 6) (p q : Bool) (i : BitVec 4) (s : BitVec 5) (w : BitVec 3) (gd : Guard)
  /-- `LDA` (R71). -/
  | lda (d : BitVec 6) (p q : Bool) (i : BitVec 4) (s : BitVec 5) (w : BitVec 3) (gd : Guard)
  /-- `STA` (R71). -/
  | sta (d : BitVec 6) (p q : Bool) (i : BitVec 4) (s : BitVec 5) (w : BitVec 3) (gd : Guard)
  /-- `LDW` (R71). -/
  | ldw (d : BitVec 6) (p q : Bool) (i : BitVec 4) (s : BitVec 5) (w : BitVec 3) (gd : Guard)
  /-- `STW` (R71). -/
  | stw (d : BitVec 6) (p q : Bool) (i : BitVec 4) (s : BitVec 5) (w : BitVec 3) (gd : Guard)
  /-- `LDC` (R71). -/
  | ldc (d : BitVec 6) (p q : Bool) (i : BitVec 4) (s : BitVec 5) (w : BitVec 3) (gd : Guard)
  /-- `STC` (R71). -/
  | stc (d : BitVec 6) (p q : Bool) (i : BitVec 4) (s : BitVec 5) (w : BitVec 3) (gd : Guard)
  /-- `LDT` (R72). -/
  | ldt (d a : BitVec 6) (s : BitVec 5) (w : Bool) (gd : Guard)
  /-- `STT` (R72). -/
  | stt (d a : BitVec 6) (s : BitVec 5) (w : Bool) (gd : Guard)
  /-- `PREF` (R74). -/
  | pref (d : BitVec 6) (p q : Bool) (i : BitVec 4) (s : BitVec 5) (gd : Guard)
  /-- `CFLUSH` (R74). -/
  | cflush (d : BitVec 6) (p q : Bool) (i : BitVec 4) (s : BitVec 5) (gd : Guard)
  /-- `CINV` (R74). -/
  | cinv (d : BitVec 6) (p q : Bool) (i : BitVec 4) (s : BitVec 5) (gd : Guard)
  /-- `TIDSET` (R75). -/
  | tidset (a : BitVec 5) (t : BitVec 8)
  /-- `TIDGET` (R75). -/
  | tidget (a : BitVec 5) (t : BitVec 8)
  /-- `TIDINV` (R75). -/
  | tidinv (t : BitVec 8)
  /-- `ATOM` (R127). -/
  | atom (d a : BitVec 6) (f t : BitVec 3) (la m : Bool) (gd : Guard)
  /-- `RED` (R127). -/
  | red (d a : BitVec 6) (f t : BitVec 3) (la m : Bool) (gd : Guard)
  /-- `ATOMA` (R127). -/
  | atoma (d a : BitVec 6) (f t : BitVec 3) (la : Bool) (gd : Guard)
  /-- `FENCE` (R129). -/
  | fence (o : BitVec 3) (s : BitVec 4)
  /-- `BSRD` (R130). -/
  | bsrd (d : BitVec 5) (r : BitVec 4)
  /-- `BSWR` (R130). -/
  | bswr (a : BitVec 5) (r : BitVec 4)
  /-- `BSXCH` (R130). -/
  | bsxch (d a : BitVec 5) (r : BitVec 4)
  /-- `BSADD` (R130). -/
  | bsadd (d a : BitVec 5) (r : BitVec 4)
  /-- `CPY` (R138). -/
  | cpy (s : BitVec 5) (g : BitVec 6)
  /-- `CPYT` (R138). -/
  | cpyt (s : BitVec 5) (t : BitVec 8) (g : BitVec 6) (p : BitVec 2) (r : Bool)
  /-- `TGWAIT` (R141). -/
  | tgwait (a : BitVec 5)
  /-- `TGANY` (R141). -/
  | tgany (a : BitVec 5)
  /-- `TGFIND` (R141). -/
  | tgfind (d a : BitVec 5)
  /-- `TGCLR` (R141). -/
  | tgclr (a : BitVec 5)
  /-- `TGTEST` (R141). -/
  | tgtest (d a : BitVec 5) (e : Bool)
  /-- `RIDX` (R145). -/
  | ridx (d a b : BitVec 5)
  /-- `RWAIT` (R145). -/
  | rwait (a b : BitVec 5) (f p : Bool) (c : BitVec 4)
  /-- `RFLIP` (R145). -/
  | rflip (a b : BitVec 5) (f p : Bool) (c : BitVec 4)
  /-- `TACQ` (R156). -/
  | tacq (d a : BitVec 5) (t : BitVec 6) (r : BitVec 2) (k : Bool)
  /-- `TREL` (R157). -/
  | trel (d a : BitVec 5)
  /-- `CEDE` (R153). -/
  | cede (o : BitVec 2)
  /-- `TSTAT` (R159). -/
  | tstat (d a : BitVec 5)
  /-- `MLD` (R318). -/
  | mld (d r c : BitVec 3) (s : BitVec 5) (gd : Guard)
  /-- `MLD.a` (R318). -/
  | mldA (d r c : BitVec 3) (s : BitVec 5) (gd : Guard)
  /-- `MST` (R318). -/
  | mst (a : BitVec 3) (s : BitVec 5) (gd : Guard)
  /-- `MST.a` (R318). -/
  | mstA (a : BitVec 3) (s : BitVec 5) (gd : Guard)
  /-- `MMOV` (R319). -/
  | mmov (d a : BitVec 3) (gd : Guard)
  /-- `MGET` (R319). -/
  | mget (i a j : BitVec 3) (v : BitVec 5) (gd : Guard)
  /-- `MSET` (R319). -/
  | mset (d i j : BitVec 3) (v : BitVec 5) (gd : Guard)
  /-- `MZERO` (R319). -/
  | mzero (d r c : BitVec 3) (gd : Guard)
  /-- `MIDENT` (R319). -/
  | mident (d r c : BitVec 3) (gd : Guard)
  /-- `MTRN` (R319). -/
  | mtrn (d a : BitVec 3) (gd : Guard)
  /-- `MADD` (R320). -/
  | madd (d a b : BitVec 3) (gd : Guard)
  /-- `MSUB` (R320). -/
  | msub (d a b : BitVec 3) (gd : Guard)
  /-- `MSCL` (R320). -/
  | mscl (d a : BitVec 3) (v : BitVec 5) (gd : Guard)
  /-- `MMUL` (R320). -/
  | mmul (d a b : BitVec 3) (gd : Guard)
  /-- `MMULT` (R320). -/
  | mmult (d a b : BitVec 3) (gd : Guard)
  /-- `MFMA` (R320). -/
  | mfma (d a b c : BitVec 3) (gd : Guard)
  /-- `MCHOL` (R321). -/
  | mchol (d a : BitVec 3) (gd : Guard)
  /-- `MLU` (R322). -/
  | mlu (d a : BitVec 3) (v : BitVec 5) (gd : Guard)
  /-- `MSOLVE` (R323). -/
  | msolve (d a b : BitVec 3) (m : BitVec 2) (gd : Guard)
  /-- `MFLG` (R324). -/
  | mflg (m k : BitVec 4) (gd : Guard)
  /-- `GCMD` (R347). -/
  | gcmd (d a b : BitVec 5)
  /-- `GRDY` (R339). -/
  | grdy
  /-- `GFENCE` (R337). -/
  | gfence (d : BitVec 5)
  /-- `GWAIT` (R338). -/
  | gwait (a : BitVec 5)
  /-- `GWIN` (R348). -/
  | gwin (a b : BitVec 5)
  /-- `GCTR` (R349). -/
  | gctr (d a : BitVec 5)
  /-- `GCLR` (R349). -/
  | gclr (a : BitVec 5)
  /-- `GQRY` (R350). -/
  | gqry (d b : BitVec 5)
  /-- `VAPP` (R367). -/
  | vapp (d a : BitVec 6) (la m : Bool) (gd : Guard)
  /-- `VSEAL` (R368). -/
  | vseal (d a : BitVec 6) (la : Bool) (gd : Guard)
  /-- `VCONN` (R358). -/
  | vconn (d a : BitVec 6) (la : Bool) (gd : Guard)
  /-- `VMERGE` (R370). -/
  | vmerge (d a : BitVec 6) (la : Bool) (gd : Guard)
  /-- `VRWT` (R359). -/
  | vrwt (d a : BitVec 6) (la : Bool) (gd : Guard)
  /-- `VGET` (R371). -/
  | vget (d a : BitVec 6) (la : Bool) (gd : Guard)
  /-- `VREF` (R372). -/
  | vref (d a : BitVec 6) (la : Bool) (gd : Guard)
  /-- `VREL` (R372). -/
  | vrel (d a : BitVec 6) (la : Bool) (gd : Guard)
  /-- `VGEN` (R373). -/
  | vgen (d a : BitVec 6) (la : Bool) (gd : Guard)
  /-- `TRACE` (R377). -/
  | trace (d a : BitVec 6) (la m : Bool) (gd : Guard)
  /-- `TRACE.any` (R377). -/
  | traceAny (d a : BitVec 6) (la m : Bool) (gd : Guard)
  /-- `HITGET` (R378). -/
  | hitget (d a : BitVec 6) (la : Bool) (gd : Guard)
  /-- `TRAP` (R392). -/
  | trap (c : BitVec 15)
  /-- `TRET` (R393). -/
  | tret
  /-- `CCLR` (R392). -/
  | cclr (a : BitVec 5)
  /-- `RESV` (R225). -/
  | resv (d : BitVec 5)
  /-- `LVQ` (R226). -/
  | lvq
  /-- `LVQ.seg` (R226). -/
  | lvqSeg
  /-- `MARK` (R416). -/
  | mark (d a b : BitVec 5)
  /-- `HCTR` (R416). -/
  | hctr (d a : BitVec 5)
  /-- `DBRK` (R417). -/
  | dbrk (d a : BitVec 5)
  /-- `HIMM` (R38). -/
  | himm (p : BitVec 21)
  /-- `HOLD` (R39). -/
  | hold (a b c : BitVec 2)
  /-- `HSRC` (R40). -/
  | hsrc (v : BitVec 6) (w : Bool) (s : BitVec 5) (t : Bool)
  /-- `HMOD` (R41). -/
  | hmod (r : BitVec 3) (f : Bool) (c p : BitVec 2) (o : BitVec 3) (s : BitVec 4)
  /-- `HFREE` (R42). -/
  | hfree (a b c : BitVec 7)
  /-- `REGISTER_WRITE` (R430). -/
  | registerWrite (off size : Nat) (val : Dword)
  /-- `FREPLY_REPLAY` (R93). -/
  | freplyReplay (plate : Nat) (group : BitVec 12)
  /-- `FREPLY_FATAL_XLATE` (R93). -/
  | freplyFatalXlate (plate : Nat) (group : BitVec 12)
  /-- `FREPLY_FATAL_WPROT` (R93). -/
  | freplyFatalWprot (plate : Nat) (group : BitVec 12)
  /-- `FREPLY_IGNORED` (R93). -/
  | freplyIgnored (plate : Nat) (group : BitVec 12)
  /-- `SHOOTDOWN_START` (R98). -/
  | shootdownStart (control : Nat) (purge : Bool)
  /-- `SHOOTDOWN_COMPLETE` (R99). -/
  | shootdownComplete (control : Nat)
  /-- `FIRMWARE_DOWNLOAD` (R425). -/
  | firmwareDownload (kind : BitVec 4)
  /-- `FIRMWARE_DOWNLOAD_DONE` (R425). -/
  | firmwareDownloadDone (sigOk lenOk : Bool)
  /-- `ATTESTATION_REQUEST` (R426). -/
  | attestationRequest (addr : Dword)
  /-- `ATTESTATION_REPORT` (R426). -/
  | attestationReport
  /-- `PARTITION_SWAP_OUT` (R397). -/
  | partitionSwapOut (part : Nat)
  /-- `PARTITION_SWAP_IN` (R397). -/
  | partitionSwapIn (part : Nat)
  /-- `PARTITION_SWAP_DONE` (R397). -/
  | partitionSwapDone (part : Nat)
  /-- `HATCH_CLEAR` (R404). -/
  | hatchClear (core : Nat)
  /-- `LAUNCH_RING_WORD_WRITE` (R181). -/
  | launchRingWordWrite (part ring : Nat) (word : Dword)
  /-- `MODID_WRITE` (R431). -/
  | modidWrite (val : Dword)
  /-- `PTCL_WRITE` (R419). -/
  | ptclWrite (part : Nat) (val : Dword)
  /-- `XRTE_WRITE` (R423). -/
  | xrteWrite (module : Nat) (val : Dword)
  /-- `STIPPLE_ENABLE` (R354). -/
  | stippleEnable (val : Dword)
  /-- `LAUNCH_RECORD_TAKE` (R182). -/
  | launchRecordTake (part ring : Nat)
  /-- `BLOCK_PLACEMENT` (R191). -/
  | blockPlacement (launch core q0 : Nat)
  /-- `LAUNCH_COMPLETION` (R192). -/
  | launchCompletion (launch : Nat)
  /-- `BLOCK_EVICTION` (R195). -/
  | blockEviction (blk : Nat)
  /-- `REGISTER_DEADLOCK_BREAK` (R180). -/
  | registerDeadlockBreak (core quad : Nat)
  /-- `BLOCK_RESTORE` (R196). -/
  | blockRestore (blk q0 : Nat)
  /-- `BLOCK_MIGRATION` (R199). -/
  | blockMigration (blk core q0 : Nat)
  /-- `CORE_LEAVES_SERVICE` (R197). -/
  | coreLeavesService (core : Nat)
  /-- `FORWARDED_ARRIVAL` (R200). -/
  | forwardedArrival (core blk : Nat)
  /-- `FORWARDING_ENTRY_EXPIRY` (R200). -/
  | forwardingEntryExpiry (core blk : Nat)
  /-- `TASK_RECORD_ARRIVAL` (R203). -/
  | taskRecordArrival (pos : Nat)
  /-- `OVERFLOW_RECORD_ENTRY` (R203). -/
  | overflowRecordEntry (part pos : Nat)
  /-- `TASK_DISPATCH` (R203). -/
  | taskDispatch (core q0 : Nat)
  /-- `REGISTER_GRANT` (R177). -/
  | registerGrant (core quad : Nat)
  /-- `WAKE_CONDITION_MET` (R178). -/
  | wakeConditionMet (ent : EntRef)
  /-- `BARRIER_COMPLETION` (R293). -/
  | barrierCompletion (blk : Nat)
  /-- `COHORT_BARRIER_COMPLETION` (R294). -/
  | cohortBarrierCompletion (launch cohort : Nat)
  /-- `NAP_EXPIRY` (R292). -/
  | napExpiry (ent : EntRef)
  /-- `PAGE_WALK` (R87). -/
  | pageWalk (core : Nat) (asid : BitVec 9) (va : Dword) (acc : AccKind)
  /-- `FAULT_BUFFER_ENTRY` (R91). -/
  | faultBufferEntry (plate : Nat)
  /-- `FAULT_RECORD_WRITE` (R92). -/
  | faultRecordWrite (plate : Nat)
  /-- `TAG_COMPLETION` (R139). -/
  | tagCompletion (core cmd : Nat)
  /-- `LOAD_RETURN` (R178). -/
  | loadReturn (ent : EntRef)
  /-- `ATOMIC_REQUEST_ARRIVAL` (R119). -/
  | atomicRequestArrival (core : Nat) (seq : BitVec 24)
  /-- `ATOMIC_ACKNOWLEDGEMENT` (R120). -/
  | atomicAcknowledgement (core : Nat) (seq : BitVec 24)
  /-- `REPLAY_ANSWER` (R120). -/
  | replayAnswer (core : Nat) (seq : BitVec 24)
  /-- `RETRANSMIT_TIMEOUT` (R120). -/
  | retransmitTimeout (core : Nat) (seq : BitVec 24)
  /-- `LINK_CORRECTABLE_ERROR` (R120). -/
  | linkCorrectableError (core : Nat) (seq : BitVec 24)
  /-- `SEQUENCE_WINDOW_EXPIRY` (R119). -/
  | sequenceWindowExpiry (unit : Nat) (source : Nat) (seq : BitVec 24)
  /-- `PROMOTION` (R114). -/
  | promotion (core : Nat)
  /-- `TILE_REQUEST_ARRIVAL` (R147). -/
  | tileRequestArrival (req : Nat)
  /-- `RECALL_ARRIVAL` (R149). -/
  | recallArrival (req : Nat)
  /-- `RECALL_RESEND` (R149). -/
  | recallResend (req : Nat)
  /-- `SURRENDER_WAVE_START` (R150). -/
  | surrenderWaveStart (core : Nat)
  /-- `SURRENDER_BOUND_EXPIRY` (R152). -/
  | surrenderBoundExpiry (core : Nat)
  /-- `TILE_DELIVERY` (R153). -/
  | tileDelivery (req : Nat)
  /-- `GRAVER_COMMAND_START` (R331). -/
  | graverCommandStart (blk slot : Nat)
  /-- `GRAVER_COMMAND_COMPLETE` (R329). -/
  | graverCommandComplete (blk slot : Nat)
  /-- `GRAVER_COMMAND_FAULT` (R344). -/
  | graverCommandFault (blk slot : Nat) (kind : BitVec 3) (iter : Nat)
  /-- `VERTEX_RETIREMENT` (R363). -/
  | vertexRetirement (plate slot : Nat)
  /-- `TRACE_COMPLETION` (R377). -/
  | traceCompletion (core cmd : Nat)
  /-- `HANDLER_ENTRY` (R389). -/
  | handlerEntry (blk : Nat)
  /-- `FP_WINDOW_CLOSE` (R390). -/
  | fpWindowClose (blk slot : Nat)
  /-- `UNCORRECTABLE_ECC_ERROR` (R383). -/
  | uncorrectableEccError (ent : EntRef)
  /-- `QUANTUM_COUNT_EXPIRY` (R211). -/
  | quantumCountExpiry (ent : EntRef)
  /-- `QUANTUM_BOUNDARY_COMMIT` (R212). -/
  | quantumBoundaryCommit (blk : Nat)
  /-- `NOTCH_SEGMENT_RELEASE` (R215). -/
  | notchSegmentRelease (launch : Nat)
  /-- `SAMPLE` (R408). -/
  | sample (core : Nat)
  /-- `ETCH_TS` (R413). -/
  | etchTs (core : Nat)
  /-- `POWER_UP` (R424). -/
  | powerUp (loaderOk recoveryOk : Bool)
  /-- `POWER_LIMIT_THROTTLE` (R428). -/
  | powerLimitThrottle (watts : Nat)
  /-- `THERMAL_HALT` (R428). -/
  | thermalHalt (tj : BitVec 16)
  /-- `FAILURE_RECOVERY` (R427). -/
  | failureRecovery (routes : List (Nat × BitVec 12)) (ports : List (Nat × Dword)) (x : Recovery)
  /-- `FABRIC_TRAFFIC_ARRIVAL` (R423). -/
  | fabricTrafficArrival (msg : FabricMsg)
  /-- `HOST_CXL_STORE` (R418), at an offset of the HDM decoder. -/
  | hostCxlStore (hdm : Nat) (bytes : List Byte)
  /-- `HOST_CXL_READ` (R418), at an offset of the HDM decoder. -/
  | hostCxlRead (hdm len : Nat)
  /-- `NON_INSTRUCTION_ENCODING` (R33). -/
  | nonInstructionEncoding (word : Word)
  /-- `STORE_ARRIVAL_AT_HOME` (R113). -/
  | storeArrivalAtHome (core id : Nat)
  /-- `STORE_ACKNOWLEDGEMENT` (R395). -/
  | storeAcknowledgement (core id : Nat)
  /-- `ENGINE_ACCESS_ERROR` (R135). -/
  | engineAccessError (core cmd : Nat) (ecc : Bool) (run : Nat)
  /-- `STIPPLE_RESULT_RETURN` (R374). -/
  | stippleResultReturn (ent : EntRef) (errLanes : Mask)
  /-- `EXECUTIVE_ENDS_LAUNCH` (R391). -/
  | executiveEndsLaunch (blk : Nat)
  /-- `REGISTER_POOL_REPAIR` (R197). -/
  | registerPoolRepair (core quad size : Nat)
  /-- `EMPTY_ISSUE_CYCLE` (R403). -/
  | emptyIssueCycle (core quad : Nat)
  /-- `INSTRUCTION_FETCH_RETURN` (R302). -/
  | instructionFetchReturn (ent : EntRef)
  /-- `C0_REQUEST_ADMITTED` (R422). -/
  | c0RequestAdmitted (core id : Nat)
  /-- `EXVOS_LINK_STATE_CHANGE` (R423). -/
  | exvosLinkStateChange (port : Nat) (up : Bool)
deriving DecidableEq, Repr

end Sys2Proof
end

