-- ==== Sys2Proof/Machine/WaveState.lean ====
section
/-! DEFINITION. The state of a wave (Table 7.1): its issue entities with program counter, execution mask, mask stack and
pending hint group, its registers, its special registers, and what it keeps for traps, collection, profiling and Level mode. -/
namespace Sys2Proof.Machine

/-- A translation that an access went through (R99): its address space and its page. -/
structure Via where
  asid : BitVec 9 := 0
  va   : Nat := 0
  bits : Nat := 12
deriving DecidableEq, Repr

/-- A matrix register: its shape and, when the name is mapped, each lane's elements in row order (R175, R309). -/
structure MReg where
  rows : Nat := 1
  cols : Nat := 1
  data : Option (Lanes (List Word)) := none
deriving DecidableEq, Repr

/-- One entry of a mask stack (R169, R170, R289). Until the first arm stops it holds the other arm, which has not yet run: its
lanes, its `xm` and its next pc. Once the first arm has stopped at its `REJOIN` the entry holds that arm and the recorded
pc. -/
structure SplitEntry where
  arm     : Mask
  xm      : Mask
  pc      : Dword
  /-- the first arm has stopped at the recorded `REJOIN` -/
  stopped : Bool := false
  /-- marked *partner exited* (R289) -/
  partner : Bool := false
deriving DecidableEq, Repr

/-- What an issue entity waits for (R178 and the stalls that are not blocking points). -/
inductive Wait where
  /-- `BAR` (R293) -/
  | bar
  /-- `CBAR` on a cohort (R294) -/
  | cbar (id : BitVec 8)
  /-- `RWAIT` on a ring header, a physical address or an offset of the block's A slice; what it read there, what it waits for (R145), and
  the translation of its address (R99) -/
  | ring (global : Bool) (addr : Nat) (seen want : Dword) (via : Via)
  /-- `TGWAIT` (any = false) or `TGANY` on the tags of a mask (R141) -/
  | tags (mask : Dword) (any : Bool)
  /-- `HITGET` on its tag (R378) -/
  | hit (tag : Nat)
  /-- `TGFIND`, `TGTEST` of a Level launch: no pending command on the tags of the mask (R214) -/
  | idle (mask : Dword)
  /-- the data of a cluster-remote, cross-plate or cross-module load, or of an atomic (R178, R44) -/
  | data
  /-- the promotion of a core by a remote acquire (R114) -/
  | promote
  /-- register wait for that many more entries, since that cycle (R177) -/
  | regs (n since : Nat)
  /-- the wave's other entity has a result outstanding in a name that the group reads or writes (R44) -/
  | arm
  /-- a parked replayable fault (R90): the plate whose buffer holds it -/
  | parked (plate : Nat)
  /-- a Level-mode boundary (R211) -/
  | boundary
  /-- `GWAIT` up to a batch number (R338) -/
  | batch (n : BitVec 16)
  /-- `GCMD` waiting for a slot of its ring (R329): the slot's offset in the A slice and the header it read -/
  | gslot (off : Nat) (seen : Dword)
  /-- a result that the Stipple returns (R362 and following) -/
  | stipple
  /-- an issue stall: 128 copies in flight, or the pending count of a tag at 255 (R131, R139) -/
  | copySlot (tag : Nat) (copy : Bool)
  /-- `POST` with numbers of records for cores, for which shards and overflow ring have no room (R203) -/
  | post (recs : List (Nat × Nat))
  /-- earlier atomic and reduction requests of the wave not yet acknowledged or reported (R121); at a `BAR` or `CBAR` -/
  | drain
  | arrive
  /-- `EXIT` while the Graver still has commands of the wave (R290, R337) -/
  | graver
  /-- `TREL` while the surrender wave serves a recall of its tile (R157) -/
  | surrender
  /-- the delivery of a tile granted at once (R147, R156) -/
  | tile
  /-- `TREL`: the home's acknowledgement of the fold of a tile (R157) -/
  | fold (pa size : Nat)
  /-- a C0 request above its core's admission rate (R422), and one for a module whose old route still carries traffic (R423), held at
  their source: the word is performed once they leave -/
  | c0
  | route (m : Nat)
  /-- `TRET`: entries sufficient for the restore (R393) -/
  | restore
deriving DecidableEq, Repr

/-- The Graver ring of a wave (R328, R143): its ring word, the producer's index and its wrap bit. -/
structure GravRing where
  word : Dword
  prod : Word := 0
  wrap : Bool := false
deriving DecidableEq, Repr

/-- A Graver command from its `GCMD` until it is in flight no more (R329–R331, R337). -/
structure GravCmd where
  /-- its ring index, and the base of its slot in the core's A-buffer -/
  idx   : Word
  slot  : Nat
  /-- the number of its batch; none while it is open -/
  batch : Option (BitVec 16) := none
  /-- the command as a number of 1,024 bits (Table 16.1), and the captured images of its TIDs (R76) -/
  cmd   : Nat
  tida  : List Byte := []
  tidb  : List Byte := []
  /-- taken from its ring by the Graver -/
  started : Bool := false
  /-- completed: its slot is free -/
  done  : Bool := false
  /-- the next iteration vector, level 0 first -/
  iv    : List Nat := [0, 0, 0, 0, 0]
  /-- parked on a replayable fault of a scale read (R336) -/
  parked : Bool := false
  /-- the traffic class of its scale reads (R421) -/
  cls   : BitVec 2 := 0
  /-- its results are undefined: another agent stored to its slot or to bytes that it reads or writes (R123, R329, R335) -/
  spoiled : Bool := false
  /-- the element updates of the present iteration that it has performed, and the scales that the iteration read (R331) -/
  el      : Nat := 0
  scales  : Option (List (Option Nat) × List (Option Nat)) := none
  /-- its wave, and the buffer stores of other waves that come before its reads: those numbered below this (R123, R339) -/
  wave    : Nat × Nat := (0, 0)
  ready   : Nat := 0
  /-- what it added to the counters of the C-buffer's tiles (R342), and the tiles cleared while it ran (R343) -/
  adds  : Table (Nat × Nat × Nat) := []
  cleared : List Nat := []
deriving DecidableEq, Repr

/-- A deferred or held effect of Level mode (Table 9.1), with what it needs when the block commits. -/
inductive Held where
  /-- bytes written to a typed buffer of the block: 2 W, 3 A, 4 C, at a block-relative offset -/
  | buf (space : Nat) (off : Nat) (bytes : List Byte)
  /-- a block-shared register -/
  | breg (r : BitVec 4) (val : Dword)
  /-- a TID entry; none marks it invalid -/
  | tid (t : Nat) (image : Option (List Byte))
  /-- the block key -/
  | key (val : List Word)
  /-- bytes stored to global memory: the staged entry of one lane -/
  | store (pa : Nat) (bytes : List Byte) (via : Via) (lane : Nat)
  /-- a reduction of one lane: operation, type, address and operand -/
  | red (fop ty : BitVec 3) (pa : Nat) (val : Dword) (via : Via) (lane : Nat)
  /-- a `POST` record for the shard of a core -/
  | record (bytes : List Byte) (core : Nat)
  /-- a tile request, by its number, and the release of a tile -/
  | tacq (req : Nat)
  | trel (pa : Nat) (via : Via)
  /-- a command that `GCMD` has checked and captured, and the ring and index that it goes to (R347) -/
  | gcmd (q : GravCmd) (ring : GravRing)
  /-- an instruction of the ending or engine class, to be performed at the commit with the scalar and vector registers, the
  predicates and the mask that it read; of an `ATOM` also each lane's location and its translation -/
  | instr (i : Instr) (hints : List Instr) (pc : Dword) (xm : Mask) (s : Vector Dword 32)
      (v : Vector (Option (Lanes Word)) 64) (k : Vector Mask 12) (places : List (Nat × Nat × Via))
deriving DecidableEq, Repr

/-- A captured loop of a quadrant's loop buffer: its first and last word address and the words captured so far (R301). -/
structure LoopBuf where
  first : Dword
  last  : Dword
  words : List (Dword × Word) := []
deriving DecidableEq, Repr

/-- An issue entity (R26, R160): a wave's parent, its fragment, a surrender wave or a handler entity. -/
structure Entity where
  pc        : Dword := 0
  xm        : Mask := 0
  /-- the lanes of the entity's current arm that have not exited (R166) -/
  arm       : Mask := 0
  stack     : List SplitEntry := []
  /-- stopped at the `REJOIN` at `pc` for its other arm (R170) -/
  stopped   : Bool := false
  /-- hints issued in front of the next instruction, in issue order (R34), and the address of the first of them -/
  hints     : List Instr := []
  gpc       : Dword := 0
  wait      : Option Wait := none
  /-- entries granted to it after a register wait and not yet allocated (R177) -/
  grant     : Nat := 0
  /-- the cycle at which a `NAP` ends (R292) -/
  napEnd    : Nat := 0
  lastIssue : Nat := 0
  /-- the cycle of its last word and the first word of that word's group (R408) -/
  issued    : Option (Nat × Dword) := none
  /-- groups issued since the halt began (R386) -/
  skid      : Nat := 0
  /-- stopped by a halt: issues nothing until its block resumes (R385) -/
  halted    : Bool := false
  /-- prefetched words (R302) -/
  fetched   : List (Dword × Word) := []
  /-- the loop this entity runs from the loop buffer (R301), and the loops on whose last pass it took the backward branch: each
  branch's address and target -/
  loop      : Option LoopBuf := none
  lastBack  : List (Dword × Dword) := []
  /-- the next group is matched by no comparator (R410) -/
  stepOver  : Bool := false
  /-- words issued in the current quantum, and whether the quantum has ended (R211) -/
  qcount    : Nat := 0
  qended    : Bool := false
  /-- the entity's quantum ended at the instruction at `pc`, which now waits physically or has seen its condition hold (R214) -/
  qwaited   : Bool := false
  /-- effects held in Level mode in program order, each with the first word of its group and the group's number in the quantum
  (R211–R213) -/
  held      : List ((Dword × Nat) × Held) := []
  /-- the entity has sent a packet since its start, its restore, its trap entry or its return: no SYNC is due for those (R414) -/
  sync      : Bool := false
deriving DecidableEq, Repr

/-- What the report of a trap holds for the handler (Table 20.3). -/
structure Report where
  pc     : Dword
  causes : Dword
  lane   : Option Nat := none
  code   : Dword := 0
  byFrag : Bool := false
deriving DecidableEq, Repr

/-- The collection window of FP exceptions and MATSING of a wave (R390). -/
structure FpWindow where
  opened : Nat
  report : Report
  cmask  : Mask
deriving DecidableEq, Repr

/-- The context of a handled wave, kept in the shadow bank while its handler runs (R389). -/
structure SavedCtx where
  parent : Entity
  frag   : Option Entity
  s      : Vector Dword 32
  v      : Vector (Option (Lanes Word)) 64
  m      : Vector MReg 8
  k      : Vector Mask 12
deriving DecidableEq, Repr

/-- A fault record of a wave (R344): kind, iteration vector, ring index, remote core-in-cluster index. -/
structure GravFault where
  kind : BitVec 3
  iv   : List Nat
  idx  : Word
  rem  : Option Nat := none
deriving DecidableEq, Repr

/-- A closed batch that is not complete (R337): its number, the commands it holds, and whether one of them ended with an error. -/
structure Batch where
  num   : BitVec 16
  size  : Nat
  err   : Bool := false
deriving DecidableEq, Repr

/-- Graver state of a wave (R328, R337, R340, R344, R350). -/
structure WaveGraver where
  ring   : Option GravRing := none
  /-- the wave's commands in flight, in ring order: those not completed, and those whose batch no `GWAIT` has acquired (R337) -/
  queue  : List GravCmd := []
  /-- number of the batch last closed by `GFENCE`; commands issued since, and whether one of them ended with an error -/
  gbat   : BitVec 16 := 0
  opened : Nat := 0
  openErr : Bool := false
  /-- batches closed and not yet complete, oldest first -/
  out    : List Batch := []
  /-- batches that completed with an error not yet raised -/
  failed : List (BitVec 16) := []
  /-- L, the number of the last completed batch -/
  last   : BitVec 16 := 0
  /-- the wave is faulted, and its last fault record (R344) -/
  faulted : Bool := false
  fault  : Option GravFault := none
  /-- a window set by `GWIN` that applies from the wave's next barrier with wave 0 (R340) -/
  win    : Option (Nat × Nat) := none
  /-- the buffer stores that its last `GRDY` came after: those numbered below this (R339) -/
  ready  : Nat := 0
deriving DecidableEq, Repr

/-- A wave (Table 7.1). -/
structure Wave where
  present : Mask := 0xFFFFFFFF
  exited  : Mask := 0
  role    : BitVec 2 := 0
  /-- its wave slot of the core, 0–63: quadrant × 16 + the slot in the quadrant; 64 for the surrender wave -/
  cslot   : Nat := 0
  floor   : Nat := 64
  cap     : Nat := 512
  s       : Vector Dword 32 := Vector.replicate 32 0
  /-- v0–v63, unmapped at start (R19, R175) -/
  v       : Vector (Option (Lanes Word)) 64 := Vector.replicate 64 none
  m       : Vector MReg 8 := Vector.replicate 8 {}
  k       : Vector Mask 12 := Vector.replicate 12 0
  parent  : Entity := {}
  frag    : Option Entity := none
  /-- while the wave is split, what one entity's writes of a scalar and of a matrix register have replaced since the other's last write of it,
  the newest first: the register, whether the fragment wrote it, and the value that the other may still find (R171, R312) -/
  slog    : List (Reg5 × Bool × Dword) := []
  mlog    : List (Reg3 × Bool × MReg) := []
  /-- held effects of a fragment that ended in this quantum (R212) -/
  fragHeld : List ((Dword × Nat) × Held) := []
  cause   : Dword := 0
  cmask   : Mask := 0
  epc     : Dword := 0
  skid    : Dword := 0
  fpx     : Dword := 0
  fpf     : Dword := 0
  satc    : Word := 0
  mf      : Lanes Word := Vector.replicate 32 0
  cwb     : Nat := 0
  cwl     : Nat := 0
  qnt     : Dword := 0
  dbhit   : Dword := 0
  saved   : Option SavedCtx := none
  /-- pending (R388): the report its handler will be given -/
  pending : Option Report := none
  window  : Option FpWindow := none
  stall   : Vector Word 8 := Vector.replicate 8 0
  stallSat : Bool := false
  start   : Nat := 0
  evicted : Bool := false
  /-- while its block is evicted, the stall class of the waits that it was saved with (R406) -/
  away    : Option Nat := none
  grav    : WaveGraver := {}
  /-- cores named by the release tags its strong loads returned since its last `FENCE.racq`, at most 4, and the full mark
  (R115) -/
  racq    : List Nat := []
  racqFull : Bool := false
deriving DecidableEq, Repr

end Sys2Proof.Machine
end

