-- ==== Sys2Proof/Machine/BlockState.lean ====
section
/-! DEFINITION. The state of a block (Table 7.1) — its waves, block-shared registers, slices, TID and tag slices, tiles, barrier
and halt state, Level-mode stage — and of a launch. -/
namespace Sys2Proof.Machine

/-- A tag of a block's tag slice (R139): the ready bit (seen in `tgb`), the error bit with the recorded cause, the pending count, and the
cycle of a `TGCLR` since its last command was issued (R141). -/
structure Tag where
  ready   : Bool := false
  error   : Bool := false
  cause   : Nat := 0
  pending : Nat := 0
  cleared : Option Nat := none
deriving DecidableEq, Repr

/-- What a block knows of one of its tiles (R159). -/
inductive TileView where
  | held | pending | refused | delivered
deriving DecidableEq, Repr

/-- An entry of a block's part of the core's tile table (R146–R159). -/
structure TileEntry where
  /-- the tile's address as the block named it, its home address and its size -/
  va    : Dword
  pa    : Nat
  size  : Nat
  view  : TileView
  kind  : BitVec 2 := 0
  aoff  : Nat := 0
  /-- the surrender pc of the tenure (R156) -/
  spc   : Dword := 0
  refusals : Nat := 0
deriving DecidableEq, Repr

/-- What the surrender wave of a block serves (R150): the request, whether it was cancelled meanwhile (R155), and the words it
issued of its bound (R152). -/
structure Surrender where
  req       : Nat
  tile      : Nat
  cancelled : Bool := false
  issued    : Nat := 0
deriving DecidableEq, Repr

/-- A slice of a typed buffer (R51): its base in the core's buffer, its length, and the footprint that it was granted for. -/
structure Slice where
  base : Nat := 0
  len  : Nat := 0
  foot : Nat := 0
deriving DecidableEq, Repr

/-- Where a block's registers are (R179, R195, R397). -/
inductive Residence where
  | resident
  /-- evicted, at that cycle -/
  | evicted (at_ : Nat)
  /-- swapped out with its partition -/
  | swapped
deriving DecidableEq, Repr

/-- The hit records of a tag's last `TRACE` (R377, R378): the lanes that took part, and for each lane the four words of its
record. -/
structure Hits where
  lanes : Mask
  recs  : Lanes (List Word)
deriving DecidableEq, Repr

/-- One entry of a Level block's stage (R215). -/
inductive StageEntry where
  /-- a store, with the entity and the lane that made it -/
  | store (pa : Nat) (bytes : List Byte) (via : Via) (ent : EntRef) (lane : Nat)
  /-- a reduction, or the addend of an `ATOM` -/
  | red (fop ty : BitVec 3) (pa : Nat) (val : Dword) (via : Via) (ent : EntRef) (lane : Nat)
  | record (bytes : List Byte) (core : Nat)
  /-- a tile request, by its number -/
  | tacq (req : Nat)
  /-- the release of a tile by the block: its address, its kind, the copy as the commit found it, and the translation of its `TREL` -/
  | trel (pa : Nat) (kind : BitVec 2) (bytes : List Byte) (via : Via)
  /-- the fold or grant of a `CEDE` of the block's surrender wave: its outcome, the request it served and whether that was
  cancelled, the tile, its kind and the copy -/
  | cede (out : BitVec 2) (req : Nat) (cancelled : Bool) (pa : Nat) (kind : BitVec 2) (bytes : List Byte)
deriving DecidableEq, Repr

/-- A segment of a Level block's stage (R215): its number and its entries in commit order. -/
structure Segment where
  n       : Nat
  entries : List StageEntry := []
deriving DecidableEq, Repr

/-- Level-mode state of a block (R211–R221). -/
structure BlockLevel where
  /-- the block's level index (R217) -/
  index   : Nat
  /-- the open segment, and the closed segments not yet released, oldest first -/
  open_   : Segment
  closed  : List Segment := []
  /-- reservation slots: location and count given out (R220) -/
  slots   : List (Nat × Int) := []
  /-- the closing key the block waits for at its boundary (R216), and whether every key below it has been released -/
  waitKey : Option Nat := none
  ready   : Bool := false
  /-- the quantum in progress executed `LVQ.seg` -/
  seg     : Bool := false
  /-- the segment number with which the block arrived at its `CBAR` (R218) -/
  cbarSeg : Option Nat := none
  /-- the last wave has exited: what follows is its exit close (R216, R221) -/
  ended   : Bool := false
  /-- a commit is in progress: some of the held effects are committed (R212); and the traps of instructions that it performs: the entity's
  slot and whether it is the fragment, the cause bits, the lanes, and the group's first word -/
  committing : Bool := false
  traps   : List (Nat × Bool × Dword × Option Mask × Dword) := []
  /-- the W- and A-buffers of the cluster's cores as they stood at the block's last quantum boundary, by index in the cluster (R213) -/
  remote  : Table (Table Byte × Table Byte) := []
deriving DecidableEq, Repr

/-- A `BSRD` that found a write: its wave slot, its cycle, and the scalar register that it wrote (R117). -/
structure BregRead where
  slot : Nat
  at_  : Nat
  dst  : BitVec 5
deriving DecidableEq, Repr

/-- A write of a block-shared register in the register's order (R116): its cycle and wave, the register, whether it adds, its operand, the
value that immediately precedes it, the scalar register that received that value, and the reads that found the write. -/
structure BregWrite where
  at_    : Nat
  slot   : Nat
  reg    : BitVec 4
  add    : Bool
  val    : Dword
  before : Dword
  dst    : Option (BitVec 5)
  found  : List BregRead := []
deriving DecidableEq, Repr

/-- A block (Table 7.1). -/
structure Block where
  launch  : Nat
  /-- refusal limit, surrender bound and Level quantum of the block's kernel descriptor (Table 8.2) -/
  lim     : Nat := 2
  bnd     : Nat := 1024
  qnt     : Nat := 4096
  /-- `blk` as it reads (R189, R204, R217) -/
  blk     : BitVec 32 := 0
  task    : Bool := false
  /-- the shard slot that a task block's record stands in (R204) -/
  record  : Option Nat := none
  core    : Nat := 0
  q0      : Nat := 0
  /-- the order of placement, which is the age of its waves (R177, R193), and of the last placement or restore (R180) -/
  placed  : Nat := 0
  restored : Nat := 0
  coh     : List (BitVec 8) := []
  waves   : Table Wave := []
  /-- the surrender wave and what it serves -/
  sur     : Option (Wave × Surrender) := none
  breg    : Vector Dword 16 := Vector.replicate 16 0
  /-- the writes of block-shared registers of the last 4 cycles that some agent of the block may still miss, the last of each register's
  order first (R116, R117) -/
  bregLog : List BregWrite := []
  wslice  : Slice := {}
  aslice  : Slice := {}
  cslice  : Slice := {}
  tidBase : Nat := 0
  /-- the TID slice: none is an invalid entry, else the 128 bytes of the image (R57, R58) -/
  tids    : List (Option (List Byte)) := [none]
  /-- writes of TID entries and of the key since the last barrier, the newest first: the writer's wave slot and what its write
  replaced, which another wave may still find (R76, R241) -/
  tidLog  : List (Nat × Nat × Option (List Byte)) := []
  keyLog  : List (Nat × List Word) := []
  tagBase : Nat := 0
  tags    : List Tag := [{}]
  key     : List Word := List.replicate 8 0
  res     : Residence := .resident
  /-- the cycle at which a halt began (R385) -/
  halt    : Option Nat := none
  /-- every entity of the halted block has stopped and recorded where (R386) -/
  frozen  : Bool := false
  /-- its partition is being swapped out (R397): the halt holds a running handler too, and no `TRET` ends it -/
  swap    : Bool := false
  /-- the Executive has been told of a handler fault of the block (R391) -/
  reported : Bool := false
  tiles   : List TileEntry := []
  /-- hit records by block tag (R377, R378) -/
  hits    : Table Hits := []
  level   : Option BlockLevel := none
  /-- since when every non-exited wave has been at a blocking point (R195) -/
  blockedSince : Option Nat := none
  /-- the last wave has exited; slices and tags stay while copies run (R137) -/
  ended   : Bool := false
deriving DecidableEq, Repr

/-- A kernel descriptor as the distributor read it (Table 8.2). -/
structure Kd where
  entry : Dword := 0
  vtab  : Dword := 0
  cbase : Dword := 0
  ttab  : Dword := 0
  nblk  : Nat := 1
  wpb   : Nat := 1
  lastl : Nat := 32
  prio  : Nat := 2
  level : Bool := false
  rolemap : Word := 0
  /-- floor and cap of roles 0–3 -/
  budget : List (Nat × Nat) := [(64, 512), (0, 0), (0, 0), (0, 0)]
  tids  : Nat := 1
  tags  : Nat := 1
  lim   : Nat := 2
  wfp   : Nat := 0
  afp   : Nat := 0
  cfp   : Nat := 0
  bnd   : Nat := 1024
  ntask : Nat := 0
  qnt   : Nat := 4096
  resv  : Nat := 0
  sig   : Dword := 0
  cohl  : Dword := 0
  ncoh  : Nat := 0
deriving DecidableEq, Repr

/-- Who makes a fabric request (R421): a wave, an engine command or a task of a launch of a priority class; or the machine itself. -/
inductive FabricSource where
  | agent (prio : Nat) | controlCore | pageWalk | shootdown | faultRecord
deriving DecidableEq, Repr

/-- The traffic class of its requests: C0 to C3. -/
def FabricSource.cls : FabricSource → BitVec 2
  | .agent prio => BitVec.ofNat 2 prio
  | .controlCore | .pageWalk | .shootdown | .faultRecord => 0

/-- An entry of the cohort list (R187). -/
structure CohortEntry where
  id   : Nat
  cpin : Nat
  kpin : Nat
  first : Nat
  last  : Nat
deriving DecidableEq, Repr

/-- A launch (R182–R192): its record, its chosen kernel descriptor, its group table and what remains of it. -/
structure Launch where
  part  : Nat := 0
  ring  : Nat := 0
  index : Nat := 0
  /-- the launch before it on its ring (R183) -/
  prev  : Option Nat := none
  /-- the address of its kernel descriptor; the record's checks have been made (R182–R187) -/
  kdva  : Dword := 0
  ready : Bool := false
  asid  : BitVec 9 := 0
  args  : Dword := 0
  done  : Dword := 0
  dval  : Dword := 0
  prof  : Dword := 0
  prio  : Nat := 2
  after : Bool := false
  etch  : Bool := false
  lid   : Word := 0
  kd    : Kd := {}
  cohorts : List CohortEntry := []
  /-- the next block to place, and how many have exited -/
  nextBlk : Nat := 0
  exited  : Nat := 0
  /-- task records posted and not yet ended (R207) -/
  tasks   : Nat := 0
  /-- the numbers the Notch has assigned to continuation records (R217) -/
  notch   : Nat := 0
  /-- waves of each cohort id that wait, per block: arrival counts of cohort barriers (R294) -/
  arrived : List (BitVec 8 × Nat) := []
  /-- blocks that have exited (they count as arrived, R294, and their last Level segment number, R217) -/
  gone    : Table Nat := []
  /-- the machine's numbers of its blocks that have ended (R192) -/
  ends    : List Nat := []
  status  : Nat := 0
  failing : Word := 0xFFFFFFFF
  /-- ended by the Executive or refused: nothing more is placed -/
  stopped : Bool := false
  completed : Bool := false
deriving DecidableEq, Repr

/-- The traffic class of the requests that a launch's waves, engine commands and tasks make (R421). -/
def Launch.cls (l : Launch) : BitVec 2 := (FabricSource.agent l.prio).cls

end Sys2Proof.Machine
end

