-- ==== Sys2Proof/Machine/CoreState.lean ====
section
/-! DEFINITION. The state of a core — typed buffers, caches, TLB, engine queues, requests in flight, comparators, profiling —
and of the units beside it. -/
namespace Sys2Proof.Machine

/-- A 128-byte cache line: its bytes, which of them are valid and which are dirty (R62). -/
structure Line where
  bytes : List Byte := List.replicate 128 0
  valid : BitVec 128 := 0
  dirty : BitVec 128 := 0
deriving DecidableEq, Repr

/-- The state of a leaf (R83). -/
inductive LeafState where
  | normal | rdup | nclass | uncached
deriving DecidableEq, Repr

/-- A translation of one page (R86): its ASID, the first virtual and physical byte, the log2 of its size, the leaf's state,
permissions and D bit, and where the leaf stands. -/
structure TlbEntry where
  asid : BitVec 9
  va   : Nat
  pa   : Nat
  bits : Nat
  st   : LeafState
  w    : Bool
  x    : Bool
  d    : Bool
  ts   : BitVec 2
  leaf : Nat
deriving DecidableEq, Repr

/-- An entry above the leaves that a plate's walker keeps (R87): its ASID, its level, the first address it covers and the entry. -/
structure WalkEntry where
  asid : BitVec 9
  lvl  : Nat
  va   : Nat
  pte  : Nat
  /-- the traffic class of the walk that read it (R421) -/
  cls  : BitVec 2 := 0
deriving DecidableEq, Repr

/-- A strong store on its way to its home unit (R103, R113). -/
structure PendStore where
  id    : Nat
  ent   : EntRef
  lane  : Nat
  pa    : Nat
  bytes : List Byte
  via   : Via := {}
  /-- both arms of the wave's split come after it (R105) -/
  both  : Bool := false
  /-- a release of `.clu` scope or narrower leaves a release tag (R113) -/
  tagged : Bool := false
  /-- performed at home, its acknowledgement not yet back -/
  arrived : Bool := false
  /-- discarded on the way for want of a usable port (R423) -/
  lost    : Bool := false
  /-- its traffic class (R421) -/
  cls     : BitVec 2 := 0
deriving DecidableEq, Repr

/-- What a request in flight knows of its answer (R119, R120). -/
inductive ReqState where
  | sent
  /-- the home unit has applied it, or found it kept; the value to return -/
  | answered (val : Dword)
  | replay
  /-- the answer was lost on the link -/
  | lost
deriving DecidableEq, Repr

/-- One lane's atomic or reduction request (R118–R121). -/
structure AtomReq where
  seq   : BitVec 24
  ent   : EntRef
  lane  : Nat
  pa    : Nat
  fop   : BitVec 3
  ty    : BitVec 3
  val   : Dword
  cmp   : Dword
  via   : Via := {}
  both  : Bool := false
  /-- the destination register of an `ATOM`; none for a reduction -/
  dst   : Option (BitVec 6)
  tagged : Bool := false
  /-- the scope of its acquire, 0 for none; with `.racq`, and the core that a release tag named at its home (R114) -/
  acq   : Nat := 0
  racq  : Bool := false
  tagger : Option Nat := none
  st    : ReqState := .sent
  /-- the sequence number of the first request of its instruction -/
  grp   : BitVec 24 := 0
  /-- transmissions so far beyond the first, the cycle of the last one, and the replay bit -/
  tries : Nat := 0
  sent  : Nat := 0
  replayBit : Bool := false
  cls    : BitVec 2 := 0
deriving DecidableEq, Repr

/-- A load whose data is still to return (R178): the registers it will write, lane by lane. -/
structure PendLoad where
  ent   : EntRef
  /-- v registers and their new lane values; an s register -/
  vregs : List (BitVec 6 × Mask × Lanes Word)
  sreg  : Option (BitVec 5 × Dword) := none
  mreg  : Option (BitVec 3 × Mask × MReg) := none
  /-- the traffic class of its reads and of the lines that they fill (R421) -/
  cls    : BitVec 2 := 0
  /-- discarded on the way for want of a usable port (R423): it will be reported -/
  lost  : Bool := false
deriving DecidableEq, Repr

/-- A copy command in flight (R131–R137), as it was captured. Offsets of typed buffers are absolute. -/
structure Copy where
  blk   : Nat
  tag   : Nat
  /-- asid of the launch, the wave's id and the launch id for fault records -/
  asid  : BitVec 9
  wid   : Dword := 0
  lid   : Word := 0
  /-- where its descriptor stands in the A slice; none for a `CPYT` -/
  desc  : Option Nat
  /-- the start vector -/
  first : List Nat := []
  src   : Dword
  dst   : Dword
  /-- spaces: 0 zero, 1 global, 2 W, 3 A, 4 C, 5 and 6 remote W and A; the core behind a remote one -/
  sspc  : Nat
  srcore : Nat
  /-- the core that a typed-buffer source of the own block has moved to (R137) -/
  moved  : Option Nat := none
  dspc  : Nat
  run   : Nat
  n     : List Nat
  /-- the vector of the next run (R133) -/
  iv    : List Nat
  ss    : List Dword
  ds    : List Dword
  /-- `CPYT`: the positions of each dimension that lie within the extents, and its direction -/
  ext   : Option (List Nat) := none
  put   : Bool := false
  /-- the traffic class of its requests (R421) -/
  cls   : BitVec 2 := 0
  /-- stopped on a replayable fault -/
  parked : Bool := false
deriving DecidableEq, Repr

/-- A trace command of the ray unit in flight (R375–R379). -/
structure Trace where
  blk  : Nat
  tag  : Nat
  asid : BitVec 9
  lid  : Word
  any  : Bool
  /-- the hierarchy's first virtual address and its length in bytes -/
  base : Dword
  len  : Nat
  lanes : Mask
  /-- per lane the eight words of its ray (R376) -/
  rays : Lanes (List Word)
  /-- the traffic class of its requests (R421) -/
  cls  : BitVec 2 := 0
  parked : Bool := false
  /-- a store reached the hierarchy while the command was in flight: its hit records are undefined (R379) -/
  spoiled : Bool := false
deriving DecidableEq, Repr

/-- A Stipple instruction whose results have not returned (R366): its lanes, the words of its source group and, for `VRWT`, m. -/
structure StipOp where
  ent   : EntRef
  /-- the first word of its group -/
  gpc   : Dword
  i     : Instr
  lanes : Mask
  src   : List (Lanes Word)
  m     : Word := 0
  /-- it acquires the records that it reads (R124) -/
  acq   : Bool := false
  /-- the traffic class of its requests (R421) -/
  cls   : BitVec 2 := 0
deriving DecidableEq, Repr

/-- A recall in the queue of a holder's core (R149): the request it serves. -/
abbrev Recall := Nat

/-- A conditional comparator (R410, R417). -/
structure Comparator where
  blk  : Nat
  sreg : Bool
  reg  : Nat
  all  : Bool
  cc   : BitVec 4
  wmask : BitVec 16
  imm  : Word
deriving DecidableEq, Repr

/-- A forwarding entry of a core for a block that moved (R200). -/
structure Forward where
  blk   : Nat
  dest  : Nat
  since : Nat
  /-- the block's tag slice on the old core, which stays reserved -/
  tagBase : Nat := 0
  tags  : Nat := 0
deriving DecidableEq, Repr

/-- An Etch packet of the present cycle (R414): the quadrant and the entity tag of its word, whether a SYNC is due for the entity, that
SYNC, and the packet. -/
structure EtchItem where
  quad  : Nat
  tag   : Nat
  fresh : Bool
  sync  : List Byte
  pkt   : List Byte
  /-- the word has started the wave's fragment -/
  starts : Bool := false
deriving DecidableEq, Repr

/-- The Etch writer of a core (R412–R414): producer index, wrap bit, packets of the slot being filled, drops, packets written
and the cycle of the last SYNC or TS. -/
structure Etch where
  prod : Word := 0
  wrap : Bool := false
  buf  : List Byte := []
  lost : Nat := 0
  last : Nat := 0
  /-- the cycle of the last TS that was due -/
  ts   : Nat := 0
  /-- packets written since the stream began, and that number at the last LOSS -/
  total : Nat := 0
  lossAt : Nat := 0
  /-- by entity tag that number at the last SYNC; and the packets of the present cycle -/
  syncs : Table Nat := []
  queue : List EtchItem := []
deriving DecidableEq, Repr

/-- A continuation record on its way to a shard (R201–R205): its 32 bytes, its core — module × 512 + core —, its
launch, the entity that posted it, and in Level mode its number of R217 with the segment that posted it. -/
structure TaskRec where
  bytes  : List Byte
  core   : Nat
  launch : Nat
  ent    : Option EntRef := none
  level  : Option (Nat × Nat) := none
  /-- the traffic class in which it travels (R421) -/
  cls    : BitVec 2 := 0
deriving DecidableEq, Repr

/-- A record in a core's task shard (R203): its arrival number, the 32 bytes of R201, the launch it belongs to, its number of
R217 in Level mode with the segment that posted it, and whether its task block runs. -/
structure ShardRec where
  idx    : Nat
  bytes  : List Byte
  launch : Nat
  level  : Option (Nat × Nat) := none
  running : Bool := false
deriving DecidableEq, Repr

/-- A wave's store to a typed buffer while a MATRIX wave runs in the cluster: its number, its wave, and the bytes that it replaced, which
a Graver command may still read (R123, R339). -/
structure LateStore where
  id    : Nat
  wave  : Nat × Nat
  space : Nat
  off   : Nat
  old   : List Byte
deriving DecidableEq, Repr

/-- The debug registers of a core (Table 22.7), with their reset values (Table 22.8). -/
structure Debug where
  tenant : Bool := false
  pcen   : Bool := false
  hctlEn : Bool := false
  hctlWr : Bool := false
  etring : Dword := 0
  etctl  : Dword := 0x1000
  smpctl : Dword := 0x40000
  smpring : Dword := 0
  smploss : Word := 0
  hbase  : Vector Dword 16 := Vector.replicate 16 0
  hlim   : Vector Dword 16 := Vector.replicate 16 0
  pcc    : Vector Dword 8 := Vector.replicate 8 0
  pcr    : Vector Dword 8 := Vector.replicate 8 0
  pcw    : Vector Dword 8 := Vector.replicate 8 0
deriving DecidableEq, Repr

/-- What a sample says of a wave that has exited (R408): its core slot, the address of its `EXIT`, its `wid` and its launch id. -/
structure ExitNote where
  cslot : Nat
  pc    : Dword
  wid   : Dword
  lid   : Word
deriving DecidableEq, Repr

/-- A core (Table 7.1, R2). -/
structure Core where
  /-- bytes of the typed buffers by absolute offset; an unlisted byte is an undefined value of its slice (R51) -/
  wbuf : Table Byte := []
  abuf : Table Byte := []
  cbuf : Table Byte := []
  /-- L1 data and instruction cache lines by physical line number (R62, R63) -/
  l1d  : Table Line := []
  l1i  : Table (List Byte) := []
  tlb  : List TlbEntry := []
  /-- physical entries of each quadrant's register pool (R174) -/
  pool : Vector Nat 4 := Vector.replicate 4 2048
  /-- operand latches: per quadrant the register names held (R39) -/
  latches : Vector (List (Option (BitVec 6))) 4 := Vector.replicate 4 [none, none, none]
  stores : List PendStore := []
  atoms  : List AtomReq := []
  seq    : BitVec 24 := 0
  loads  : List PendLoad := []
  copies : Table Copy := []
  traces : Table Trace := []
  stip   : List StipOp := []
  /-- the counters nan, ovf and snan of each 128-row tile of the C-buffer (R342) -/
  ctiles : Table (Word × Word × Word) := []
  /-- stores to its buffers that some `GRDY` of the cluster has not yet followed, the newest first (R123) -/
  late   : List LateStore := []
  nextCmd : Nat := 0
  recalls : List Recall := []
  /-- the cycle since which no entry has been freed in each quadrant (R180) -/
  freedAt : Vector Nat 4 := Vector.replicate 4 0
  /-- since when each quadrant's entities have all waited, one of them for registers (R180) -/
  stuckAt : Vector (Option Nat) 4 := Vector.replicate 4 none
  /-- blocks selected for eviction by the register-deadlock break (R180) -/
  selected : List Nat := []
  inService : Bool := true
  forwards : List Forward := []
  comps  : Vector (Option Comparator) 4 := Vector.replicate 4 none
  /-- per comparator the cycle of the last `DBRK` and the setting before it (R417) -/
  compsOld : Vector (Nat × Option Comparator) 4 := Vector.replicate 4 (0, none)
  dbg    : Debug := {}
  /-- Hatch counters: bin b, class k at 5b + k, and the empty count at 80 (R404) -/
  hatch  : Table (BitVec 48) := []
  etch   : Etch := {}
  /-- the sampler: producer index and wrap bit of its ring, samples taken, the cycle of the last one, and per quadrant the last
  entity it took (slot, fragment); and the waves that have exited since -/
  smpProd : Word := 0
  smpWrap : Bool := false
  smpCount : Nat := 0
  smpLast : Nat := 0
  smpPos  : Vector (Option (Nat × Bool)) 4 := Vector.replicate 4 none
  smpExits : List ExitNote := []
  /-- task shard: its records, oldest first, and the number of records that have entered it (R203, R204) -/
  shard   : List ShardRec := []
  shardCount : Nat := 0
  /-- C0 requests admitted in the current interval and its start (R422) -/
  c0used  : Nat := 0
  c0start : Nat := 0
deriving DecidableEq, Repr

end Sys2Proof.Machine
end

