-- ==== Sys2Proof/Machine/HubState.lean ====
section
/-! DEFINITION. The registers of the hub register window under their own names, with their reset values (Tables 4.6, 18.1, 20.6,
23.1, 23.2, 23.4, R425, R426), and the state of the hub's and the plates' units: launch distributor, fault buffers, home
units. -/
namespace Sys2Proof.Machine

/-- A launch ring (R181): its word, the distributor's consumer index and whether that index has passed 0xFFFF_FFFF. -/
structure LaunchRing where
  word : Dword := 0
  cons : Word := 0
  wrap : Bool := false
deriving DecidableEq, Repr

/-- Registers and state of a partition (Tables 20.6 and 23.1). `PTSIG` has no stated reset value: DESIGN CHOICE 0 (log 5). -/
structure Partition where
  trhvec  : Dword := 0
  trhdata : Dword := 0
  ctxbase : Dword := 0
  swBusy  : Bool := false
  swDone  : Bool := false
  swapped : Bool := false
  nospace : Bool := false
  /-- the swap in progress moves in (true) or out -/
  swIn    : Bool := false
  ptcl    : BitVec 24 := 0
  ptsig   : Dword := 0
  evd     : Nat := 20
  mig     : Nat := 32
  shk     : Nat := 12
  ptovf   : Dword := 0
  rings   : Table LaunchRing := []
  /-- the launch ring last served in each priority class (R183) -/
  lastRing : Vector Nat 4 := Vector.replicate 4 63
  /-- the overflow ring's producer index, its wrap bit and the records it holds, oldest first, with their
  slots' addresses and indices (R203) -/
  ovfProd : Word := 0
  ovfWrap : Bool := false
  held    : List (Nat × Word × TaskRec) := []
deriving DecidableEq, Repr

/-- A shootdown in progress, with its registers as they stood at its start (R98). -/
structure ShootRun where
  asid  : Dword
  va    : Dword
  len   : Dword
  mod_  : Dword
  pa    : Dword
  purge : Bool
  /-- the traffic class of its requests to other modules (R421) -/
  cls   : BitVec 2 := FabricSource.shootdown.cls
deriving DecidableEq, Repr

/-- The shootdown registers of a control core (Table 4.6) and the shootdown in progress. -/
structure Shootdown where
  asid  : Dword := 0
  va    : Dword := 0
  len   : Dword := 0
  mod_  : Dword := 0
  pa    : Dword := 0
  purge : Bool := false
  /-- `XSCTL`.busy reads 1 while it is there -/
  run   : Option ShootRun := none
  done  : Bool := false
deriving DecidableEq, Repr

/-- Who made a parked access (R90, R91, R432). -/
inductive Faulter where
  | wave (e : EntRef)
  | copy (core cmd : Nat)
  | graver (blk slot : Nat)
  | trace (core cmd : Nat)
  /-- the launch distributor, checking a launch -/
  | distributor (launch : Nat)
  /-- the launch distributor, reading the task KD of a record of a shard, by its arrival number -/
  | task (core idx : Nat)
  /-- the launch distributor, writing the completion record of a launch -/
  | completion (launch : Nat)
deriving DecidableEq, Repr

/-- A parked access (R90, R91): who made it, which lanes met the key, and its group's key. -/
structure Parked where
  by_   : Faulter
  lanes : Mask
  asid  : BitVec 9
  va    : Dword
  kind  : Nat
  acc   : AccKind
  level : Nat
  pte   : Dword
  core  : Nat
  who   : Dword
  lid   : Word
deriving DecidableEq, Repr

/-- A fault group (R91): its key and whether its record is still to be written. -/
structure FaultGroup where
  first : Parked
  recorded : Bool := false
  /-- the traffic class of its record (R421) -/
  cls   : BitVec 2 := FabricSource.faultRecord.cls
deriving DecidableEq, Repr

/-- A plate: fault buffer, its rings' registers (Table 4.6), release tags and kept sequence numbers of its home units. -/
structure Plate where
  frbase : Dword := 0
  frctl  : Dword := 0
  frcons : Word := 0
  frprod : Word := 0
  frwrap : Bool := false
  /-- the walker's entries above the leaves, at most 512 (R87) -/
  walker : List WalkEntry := []
  /-- the fault buffer: entry index to the access and its group (R91) -/
  buffer : Table (Parked × Nat) := []
  groups : Table FaultGroup := []
  /-- faulting accesses held at their core because the buffer is full, oldest first -/
  waiting : List Parked := []
deriving DecidableEq, Repr

/-- A release tag (R113): the 8-byte word's address and the releasing core's module and core id. -/
structure ReleaseTag where
  word : Nat
  mod_ : Nat
  core : Nat
  at_  : Nat
deriving DecidableEq, Repr

/-- A kept sequence number at a home unit (R119): the source, the number, the value returned, and when it was applied. -/
structure KeptSeq where
  src : Nat
  seq : BitVec 24
  val : Dword
  at_ : Nat
deriving DecidableEq, Repr

/-- A home memory-side unit (R49): its release tags, oldest first, and the sequence numbers it keeps, newest first. -/
structure HomeUnit where
  tags : List ReleaseTag := []
  kept : List KeptSeq := []
deriving DecidableEq, Repr

/-- A held tile in its home directory (R146). -/
structure TileDir where
  size   : Nat
  holder : Nat
  kind   : BitVec 2
deriving DecidableEq, Repr

/-- Where a tile request stands (R147–R153). -/
inductive ReqPhase where
  /-- in the stage of its Level block -/
  | staged
  /-- on its way to the home directory -/
  | toHome
  /-- a recall on its way to a core -/
  | recall (core : Nat)
  /-- in the recall queue of a core -/
  | queued (core : Nat)
  /-- served by the surrender wave of a block -/
  | serving (blk : Nat)
  /-- decided: the image, or the identity, is on its way to the requester; tenure or snapshot -/
  | delivering (image : List Byte) (tenure : Bool)
  /-- decided, while elements of a fold of the tile are on their way to its home: the image is read once they are performed (R153) -/
  | folding (tenure : Bool)
  /-- to be re-sent by the home directory -/
  | resend
  /-- refused: the completion is on its way -/
  | refused
deriving DecidableEq, Repr

/-- A tile request (R147). -/
structure TileReq where
  blk    : Nat
  pa     : Nat
  size   : Nat
  excl   : Bool
  kind   : BitVec 2
  aoff   : Nat
  tag    : Nat
  spc    : Dword
  /-- granted at once: the wave that waits for the delivery and the register for its status (R156) -/
  direct : Option (EntRef × BitVec 5) := none
  phase  : ReqPhase := .toHome
  cancelled : Bool := false
  /-- Level mode: the requesting segment's key (R221) -/
  key    : Option (Nat × Nat) := none
  /-- the order in which the home directory sent its recalls, and that in which a forwarding entry has redirected them (R149) -/
  sent   : Nat := 0
  fwd    : Option Nat := none
  /-- the translation of its tile address (R99) -/
  via    : Via := {}
  /-- the traffic class in which it travels (R421) -/
  cls    : BitVec 2 := 0
deriving DecidableEq, Repr

/-- A port (Table 23.2). -/
structure Port where
  en   : Bool := false
  c0   : Nat := 4
  peer : BitVec 6 := 0
  up   : Bool := false
  crc  : Word := 0
deriving DecidableEq, Repr

/-- A route register (Table 23.4), and the traffic held while the old path drains (R423). -/
structure Route where
  ports : BitVec 12 := 0
  drop  : Word := 0
  held  : List FabricMsg := []
  draining : Bool := false
deriving DecidableEq, Repr

/-- An attestation request (R426): nonce, buffer size and address as latched. -/
structure AttReq where
  nonce : List Dword
  len   : Dword
  addr  : Dword
deriving DecidableEq, Repr

/-- The Stipple of a plate (Table 18.1): its areas' offsets and cell edge, the slots that hold a live vertex, and the identifiers
in its merge grid, in the order of their seals (R354, R360). -/
structure StipPlate where
  base : Dword := 0
  slot : Dword := 0
  grid : Dword := 0
  cell : Word := 0x3F800000
  live : Table Unit := []
  merge : List Word := []
  /-- the records that the Stipple has written, and what stood in the other two areas when it was enabled: software that stores there
  makes results undefined (R354) -/
  written : Table Nat := []
  slotArea : List Host.Cell := []
  gridArea : List Host.Cell := []
  /-- the slot allocator's producer index and wrap bit (R143) -/
  prod : Word := 0
  wrap : Bool := false
deriving DecidableEq, Repr

/-- The Stipple registers of the module (Table 18.2). -/
structure Stipple where
  en   : Bool := false
  heur : Bool := false
  wret : BitVec 2 := 0
  ncap : BitVec 5 := 0
  gen  : Dword := 0
  plates : Vector StipPlate 2 := Vector.replicate 2 {}
deriving DecidableEq, Repr

/-- Registers of the hub that stand once per module, and what stands behind them. -/
structure Hub where
  asroot : Table Dword := []
  xs     : Vector Shootdown 8 := Vector.replicate 8 {}
  parts  : Vector Partition 8 := Vector.replicate 8 {}
  plates : Vector Plate 2 := Vector.replicate 2 {}
  ports  : Vector Port 12 := Vector.replicate 12 {}
  /-- `XADM` of each core, 8 where not listed; `XRTE` of each module, its reset value where not listed -/
  xadm   : Table (BitVec 16) := []
  xrte   : Table Route := []
  modid  : BitVec 6 := 0
  modidSet : Bool := false
  stage  : BitVec 3 := 0
  recovery : Bool := false
  watts  : BitVec 16 := 4200
  thr    : Bool := false
  /-- `THERM`.tj; no stated reset value: DESIGN CHOICE 0 (log 5) -/
  therm  : BitVec 16 := 0
  /-- steps of 25 MHz by which the arithmetic clock is lowered (R428) -/
  clockSteps : Nat := 0
  fwaddr : Dword := 0
  fwlen  : Dword := 0
  fwctl  : Dword := 0
  fwstat : Dword := 0
  /-- the download in progress: kind, address and length; and the accepted images' digests by kind, at 16 that of the loader or
  of the recovery image -/
  fwBusy : Option (BitVec 4 × Dword × Dword) := none
  images : Table (List Byte) := []
  nonce  : List Dword := [0, 0, 0, 0]
  attlen : Dword := 0
  attaddr : Dword := 0
  attstat : Dword := 0
  attq   : List AttReq := []
  attseq : Nat := 0
  /-- variant tables accepted since power-up: the bytes digested, in acceptance order (R426) -/
  variants : List (List Byte) := []
  stip   : Stipple := {}
  /-- what the last host read returned (R418), and the traffic forwarded to other modules, each with its port (R423) -/
  hostData : List Byte := []
  out    : List (Nat × FabricMsg) := []
  /-- reports to the Executive: names of blocks and launches (R192, R197, R207, R391) -/
  reports : List (Nat × Nat) := []
deriving DecidableEq, Repr

end Sys2Proof.Machine
end

