-- ==== Sys2Proof/Machine/State.lean ====
section
/-! DEFINITION. The whole state of the machine as plain data, its outcomes' reasons, and the state right after reset. Every
field carries its reset value; the machine's own registers stand in Machine/WaveState, BlockState, CoreState, HubState. -/
namespace Sys2Proof.Machine

/-- Why a step stops with a fault. No meaning of an instruction raises one: what the spec calls a fault of a program is a trap,
an error record or a refused launch, all next states. Safe. -/
inductive Fault where
  /-- nobody raises it -/
  | none_
deriving DecidableEq, Repr

/-- Why a step is refused. Safe: the machine goes no further, and nothing about a next state is claimed. -/
inductive Refusal where
  /-- Dispatch: the instruction has no meaning yet -/
  | notModelled (mnemonic : String)
  /-- an instruction was put to an entity that does not exist or may not issue: no word issues there -/
  | noIssuer
  /-- an event was put to the machine in a state in which the spec lets it not happen -/
  | notEnabled (event : String)
deriving DecidableEq, Repr

/-- What the machine does next: an event of the table, or an issue slot of a quadrant. -/
inductive Action where
  | event (i : Instr)
  | slot (core quad : Nat)
deriving DecidableEq, Repr

/-- The word of an issue slot: its entity and address, the lanes of its classes (R403), and the entity's last issue before it. -/
structure Issued where
  ent    : EntRef
  pc     : Dword
  lanes  : List Nat
  last   : Nat
  issued : Option (Nat × Dword)
deriving DecidableEq, Repr

/-- An issue slot of the present cycle that is used: the quadrant, and its word; none in a cycle in which it issued nothing. -/
structure Slot where
  core : Nat
  quad : Nat
  word : Option Issued := none
deriving DecidableEq, Repr

/-- A checkpoint of a launch (R427; log 65): its record, and its saved blocks with the bytes of their W, A and C slices. -/
structure Checkpoint where
  launch : Launch
  blocks : List (Nat × Block × List (List Byte)) := []
deriving DecidableEq, Repr

/-- The machine. -/
structure State where
  /-- who acts next; when the list is empty, the issue slot of the quadrant in `focus` (log 2) -/
  agenda : List Action := []
  focus  : Nat × Nat := (0, 0)
  /-- the entity whose word is issuing -/
  cur    : EntRef := { blk := 0, slot := 0, frag := false }
  /-- the arithmetic cycle (R5, Table 11.2 `tick`), and its used issue slots (log 3) -/
  now    : Nat := 0
  used   : List Slot := []
  /-- the number of free values taken so far (log 4) -/
  fresh  : Nat := 0
  /-- the physical memory of the domain: bytes by 52-bit address, an unlisted one reads 0 (log 6) -/
  mem    : List Host.Cell := []
  blocks : Table Block := []
  nextBlock : Nat := 0
  /-- the order of placements and restores -/
  nextPlace : Nat := 0
  /-- cores in a state other than their reset state -/
  cores  : Table Core := []
  /-- cluster cache lines of remote homes, by cluster × 2^45 + line (R64) -/
  clu    : Table Line := []
  /-- home units in a state other than their reset state, by core id; 288 is the hub's (R49) -/
  homes  : Table HomeUnit := []
  /-- promotions asked for and not yet performed: the core, the scope of its release action, the acquirer and the scope of its
  acquire (R114) -/
  promos : List (Nat × Nat × EntRef × Nat) := []
  tiles  : Table TileDir := []
  treqs  : Table TileReq := []
  /-- the number of the next tile request, of a recall as it is sent, and of a buffer store -/
  nextReq : Nat := 0
  launches : Table Launch := []
  nextLaunch : Nat := 0
  /-- continuation records on their way to a shard, in order of sending (R203) -/
  records : List TaskRec := []
  hub    : Hub := {}
  /-- the last checkpoints of launches (R427), which the Executive keeps in the DRAM of another module -/
  checkpoints : Table Checkpoint := []
deriving DecidableEq, Repr

/-- The machine right after reset: every register at the value its rule states, every unit idle, no block, no launch, memory
with nothing listed. -/
def State.reset : State := {}

end Sys2Proof.Machine
end

