-- ==== Sys2Proof/Machine/Mem.lean ====
section
/-! DEFINITION. Physical memory, byte order, the home of an address (R48, R49), accessors of cores, blocks and hub parts, and the
typed buffers' bytes (R50–R52). -/
namespace Sys2Proof.Machine

/-! ### Bytes and numbers -/

/-- The number that bytes hold, least significant first (R4). -/
def leNat : List Byte → Nat
  | [] => 0
  | b :: bs => b.toNat + 256 * leNat bs

/-- A number as `len` bytes, least significant first. -/
def leBytes (n : Nat) : Nat → List Byte
  | 0 => []
  | len + 1 => BitVec.ofNat 8 n :: leBytes (n / 256) len

/-- Bits hi down to lo of a number (R22). -/
def natBits (n hi lo : Nat) : Nat := n / 2 ^ lo % 2 ^ (hi + 1 - lo)

/-- Bit i of a number. -/
def natBit (n i : Nat) : Bool := n / 2 ^ i % 2 = 1

/-- Bits hi down to lo of a number replaced by v. -/
def natSet (n hi lo v : Nat) : Nat :=
  n / 2 ^ (hi + 1) * 2 ^ (hi + 1) + v % 2 ^ (hi + 1 - lo) * 2 ^ lo + n % 2 ^ lo

/-- The signed value of the low `w` bits of n. -/
def sextInt (n w : Nat) : Int :=
  let m := n % 2 ^ w
  if m < 2 ^ (w - 1) then (m : Int) else (m : Int) - (2 ^ w : Nat)

/-- The low `w` bits of n, sign-extended to a 64-bit word (R22). -/
def sext64 (n w : Nat) : Dword := BitVec.ofInt 64 (sextInt n w)

/-- A list of bytes as a 64-bit word. -/
def dwordOf (bs : List Byte) : Dword := BitVec.ofNat 64 (leNat bs)
def wordOf (bs : List Byte) : Word := BitVec.ofNat 32 (leNat bs)

/-! ### Memory -/

/-- What an unlisted byte of memory reads as (log 6). -/
def memDefault : Byte := 0

/-- The byte at an address. -/
def memGet (m : List Host.Cell) (a : Nat) : Byte := tgetD m a memDefault

/-- Memory with one byte written; the canonical form is kept. -/
def memSet (m : List Host.Cell) (a : Nat) (b : Byte) : List Host.Cell :=
  if b = memDefault then tdel m a else tset m a b

/-- The bytes from an address on. -/
def memRead (m : List Host.Cell) (a : Nat) : Nat → List Byte
  | 0 => []
  | n + 1 => memGet m a :: memRead m (a + 1) n

/-- Memory with bytes written from an address on. -/
def memWrite (m : List Host.Cell) (a : Nat) : List Byte → List Host.Cell
  | [] => m
  | b :: bs => memWrite (memSet m a b) (a + 1) bs

/-- The canonical form: addresses strictly rising, and no entry equal to what an unlisted address reads as. -/
def Memory.wf (m : List Host.Cell) : Bool := tsorted m && m.all fun c => c.2 != memDefault

/-! ### Places -/

/-- Bytes of DRAM of a plate (Table 3.1). -/
def dramSize : Nat := 0x3000000000

def moduleOf (pa : Nat) : Nat := pa / 2 ^ 46 % 64
def plateOf (pa : Nat) : Nat := pa / 2 ^ 45 % 2
def offsetOf (pa : Nat) : Nat := pa % 2 ^ 45

/-- The offset lies in DRAM (Table 3.1). -/
def inDram (pa : Nat) : Bool := decide (offsetOf pa < dramSize)
/-- The offset lies in the host window of plate 0. -/
def inHostWindow (pa : Nat) : Bool := decide (plateOf pa = 0) && decide (0x100000000000 ≤ offsetOf pa)
/-- The offset lies in the hub register window of plate 1. -/
def inHubWindow (pa : Nat) : Bool := decide (plateOf pa = 1) && decide (0x100000000000 ≤ offsetOf pa)
/-- The address exists (R48): not one marked unpopulated. -/
def populated (pa : Nat) : Bool := decide (pa < 2 ^ 52) && (inDram pa || inHostWindow pa || inHubWindow pa)

/-- The home index on its plate of a DRAM offset (R49). -/
def homeIndex (off : Nat) : Nat :=
  let g := off / 4096
  (g ^^^ (g / 2 ^ 11) ^^^ (g / 2 ^ 22)) % 144

/-- The home unit of an address: module × 512 + core id, or + 288 for the module's hub (R49). -/
def homeOf (pa : Nat) : Nat :=
  moduleOf pa * 512 + (if inDram pa then plateOf pa * 144 + homeIndex (offsetOf pa) else 288)

/-- The module's own index, 0 until `MODID` is written (R431). -/
def State.ownModule (s : State) : Nat := s.hub.modid.toNat

def corePlate (c : Nat) : Nat := c / 144
def coreCluster (c : Nat) : Nat := c / 12

/-! ### Accessors -/

def State.core (s : State) (c : Nat) : Core := tgetD s.cores c {}
def State.setCore (s : State) (c : Nat) (x : Core) : State := { s with cores := tset s.cores c x }
def State.modCore (s : State) (c : Nat) (f : Core → Core) : State := s.setCore c (f (s.core c))
def State.setBlock (s : State) (b : Nat) (x : Block) : State := { s with blocks := tset s.blocks b x }
def State.modBlock (s : State) (b : Nat) (f : Block → Block) : State :=
  match tget s.blocks b with
  | some x => s.setBlock b (f x)
  | none => s
def State.launch (s : State) (l : Nat) : Launch := tgetD s.launches l {}
def State.modLaunch (s : State) (l : Nat) (f : Launch → Launch) : State :=
  { s with launches := tset s.launches l (f (s.launch l)) }
def State.modHub (s : State) (f : Hub → Hub) : State := { s with hub := f s.hub }
def Hub.plate (h : Hub) (p : Nat) : Plate := if p = 0 then h.plates[0] else h.plates[1]
def Hub.setPlate (h : Hub) (p : Nat) (x : Plate) : Hub :=
  { h with plates := if p = 0 then h.plates.set 0 x else h.plates.set 1 x }
def Hub.part (h : Hub) (n : Nat) : Partition := h.parts[n]?.getD {}
def Hub.setPart (h : Hub) (n : Nat) (x : Partition) : Hub := { h with parts := h.parts.setIfInBounds n x }
def State.part (s : State) (n : Nat) : Partition := s.hub.part n
def State.modPart (s : State) (n : Nat) (f : Partition → Partition) : State :=
  s.modHub fun h => h.setPart n (f (h.part n))
def State.modPlate (s : State) (p : Nat) (f : Plate → Plate) : State :=
  s.modHub fun h => h.setPlate p (f (h.plate p))
def State.home (s : State) (h : Nat) : HomeUnit := tgetD s.homes h {}
def State.setHome (s : State) (h : Nat) (x : HomeUnit) : State := { s with homes := tset s.homes h x }

/-- A free value of a width and the state that has taken it (log 4). -/
def State.takeFree (s : State) : Dword × State := (Config.freeValue s.fresh, { s with fresh := s.fresh + 1 })

/-- One of a list, which one left open (R7). -/
def State.pick (s : State) (xs : List Nat) : Nat × State :=
  if xs.length ≤ 1 then (xs.headD 0, s) else
  let (v, s) := s.takeFree
  (xs.getD (v.toNat % xs.length) 0, s)

/-- One of two, which one left open (R7). -/
def State.either (s : State) (a b : Nat) : Nat × State :=
  let (v, s) := s.takeFree
  (if v.getLsbD 0 then a else b, s)

/-- The wave of a slot of a block; slot 16 is the surrender wave. -/
def Block.wave (b : Block) (slot : Nat) : Option Wave :=
  if slot = 16 then b.sur.map (·.1) else tget b.waves slot

/-- The block with a wave replaced. -/
def Block.setWave (b : Block) (slot : Nat) (w : Wave) : Block :=
  if slot = 16 then { b with sur := b.sur.map fun p => (w, p.2) } else { b with waves := tset b.waves slot w }

/-- An entity of a wave. -/
def Wave.entity (w : Wave) (frag : Bool) : Option Entity := if frag then w.frag else some w.parent
def Wave.setEntity (w : Wave) (frag : Bool) (e : Entity) : Wave :=
  if frag then { w with frag := some e } else { w with parent := e }

/-- The quadrant of a wave of a block (R161, R150). -/
def Block.quad (b : Block) (slot : Nat) : Nat := if slot = 16 then b.q0 % 4 else (b.q0 + slot) % 4

/-- Is the launch of the block a Level launch (R209)? -/
def Block.isLevel (b : Block) : Bool := b.level.isSome

/-! ### Memory of the state, at the home units -/

/-- The bytes at a physical address, as the home unit holds them. -/
def State.readHome (s : State) (pa len : Nat) : List Byte := memRead s.mem pa len

/-- Removes the release tags of the 8-byte words that [pa, pa + len) touches (R113). -/
def State.clearTags (s : State) (pa len : Nat) : State :=
  { s with homes := s.homes.map fun h =>
      (h.1, { h.2 with tags := h.2.tags.filter fun t => t.word + 8 ≤ pa || pa + len ≤ t.word }) }

/-- A store performed at its home unit: the bytes are written and the release tags of the words are cleared. -/
def State.writeHome (s : State) (pa : Nat) (bytes : List Byte) : State :=
  let s := s.clearTags pa bytes.length
  { s with mem := memWrite s.mem pa bytes }

/-! ### Typed buffers -/

/-- A space of a TID or a copy: 2 W, 3 A, 4 C (Tables 3.4 and 6.1). -/
def bufSize (space : Nat) : Nat := if space = 4 then 0x100000 else 0x200000

def Core.buf (c : Core) (space : Nat) : Table Byte :=
  if space = 2 then c.wbuf else if space = 3 then c.abuf else c.cbuf
def Core.setBuf (c : Core) (space : Nat) (t : Table Byte) : Core :=
  if space = 2 then { c with wbuf := t } else if space = 3 then { c with abuf := t } else { c with cbuf := t }
def Block.slice (b : Block) (space : Nat) : Slice :=
  if space = 2 then b.wslice else if space = 3 then b.aslice else b.cslice

/-- The block whose slice of a core's buffer holds an absolute offset. -/
def State.sliceOwner (s : State) (core space off : Nat) : Option (Nat × Block) :=
  s.blocks.find? fun p =>
    decide (p.2.core = core) && decide ((p.2.slice space).base ≤ off) &&
      decide (off < (p.2.slice space).base + (p.2.slice space).len)

/-- An unwritten byte of a typed buffer: an undefined value of its slice (R51, log 7). -/
def State.unwritten (s : State) (core space off : Nat) : Byte :=
  match s.sliceOwner core space off with
  | some (id, b) => Config.freshByte (id + 1) space (off - (b.slice space).base)
  | none => Config.freshByte 0 (core * 8 + space) off

/-- The byte at an absolute offset of a core's typed buffer. -/
def State.bufByte (s : State) (core space off : Nat) : Byte := (tget ((s.core core).buf space) off).getD (s.unwritten core space off)

def State.bufRead (s : State) (core space off : Nat) : Nat → List Byte
  | 0 => []
  | n + 1 => s.bufByte core space off :: s.bufRead core space (off + 1) n

/-- The W- and A-buffers of a cluster, by index in it. -/
def State.clusterBufs (s : State) (core : Nat) : Table (Table Byte × Table Byte) :=
  s.cores.filterMap fun k => if k.1 / 12 = core / 12 then some (k.1 % 12, k.2.wbuf, k.2.abuf) else none

/-- Bytes written from an absolute offset of a core's typed buffer. -/
def tputBytes (t : Table Byte) (off : Nat) : List Byte → Table Byte
  | [] => t
  | b :: bs => tputBytes (tset t off b) (off + 1) bs

def State.bufWrite (s : State) (core space off : Nat) (bytes : List Byte) : State :=
  s.modCore core fun c => c.setBuf space (tputBytes (c.buf space) off bytes)

end Sys2Proof.Machine
end

