-- ==== Sys2Proof/Machine/TidImage.lean ====
section
/-! DEFINITION. The image of a tensor identifier (R57–R61): its fields, malformed images, the addresses of elements and of scales. -/
namespace Sys2Proof.Machine

/-- The fields of a TID entry (Table 3.4). -/
structure Tid where
  base   : Dword
  space  : Nat
  rcore  : Nat
  format : Nat
  rank   : Nat
  conv   : Bool
  rmode  : Nat
  ncls   : Bool
  smode  : Nat
  ext    : List Nat
  stride : List Dword
  tile   : List Nat
  sbase  : Dword
deriving DecidableEq, Repr

/-- The fields of an image of 128 bytes. -/
def tidOf (image : List Byte) : Tid :=
  let n := leNat image
  { base := BitVec.ofNat 64 (natBits n 63 0), space := natBits n 67 64, rcore := natBits n 71 68, format := natBits n 79 72
    rank := natBits n 82 80, conv := natBit n 83, rmode := natBits n 86 84, ncls := natBit n 87, smode := natBits n 89 88
    ext := (List.range 5).map fun i => natBits n (159 + 32 * i) (128 + 32 * i)
    stride := (List.range 5).map fun i => BitVec.ofNat 64 (natBits n (351 + 64 * i) (288 + 64 * i))
    tile := (List.range 5).map fun i => natBits n (623 + 16 * i) (608 + 16 * i)
    sbase := BitVec.ofNat 64 (natBits n 767 704) }

def Tid.elem (t : Tid) : Elem := (elemOf t.format).getD .int8
/-- The bytes of an element (Table 3.5). -/
def Tid.esize (t : Tid) : Nat := t.elem.size
/-- The rounding mode of a TID (Table 3.4). -/
def Tid.mode (t : Tid) : RMode :=
  match t.rmode with
  | 1 => .rtz | 2 => .rup | 3 => .rdn | 4 => .rna | _ => .rne
/-- The space is one of the core's typed buffers or a cluster-remote one: 2 W, 3 A, 4 C. -/
def Tid.isRemote (t : Tid) : Bool := decide (t.space = 5) || decide (t.space = 6)
/-- The buffer behind a remote space. -/
def Tid.buffer (t : Tid) : Nat := if t.isRemote then t.space - 3 else t.space

/-- An image as an entry keeps it: its reserved bits read zero (R8, Table 3.4). -/
def tidKept (image : List Byte) : List Byte :=
  leBytes (natSet (natSet (natSet (leNat image) 127 90 0) 703 688 0) 1023 768 0) 128

/-- Is an image with a non-zero space malformed (R60)? DESIGN CHOICE (log 81): a buffer's base exceeds the offset limits of R52 where it
lies beyond the whole buffer, whatever the block's slice. -/
def Tid.malformed (t : Tid) : Bool :=
  let r := t.rank
  let size := t.esize
  decide (7 ≤ t.space) || (elemOf t.format).isNone || decide (5 ≤ t.rmode) || decide (r = 0) || decide (6 ≤ r) ||
  ((List.range r).any fun i =>
    decide (t.ext.getD i 0 = 0) || decide (t.tile.getD i 0 = 0) || decide (t.ext.getD i 0 < t.tile.getD i 0) ||
      decide ((t.stride.getD i 0).toNat % size ≠ 0)) ||
  decide (t.base.toNat % size ≠ 0) ||
  (decide (t.smode ≠ 0) && (decide (t.sbase = 0) || decide (t.sbase.toNat % 4 ≠ 0))) ||
  (decide (2 ≤ t.smode) && decide (r = 1)) ||
  (decide (2 ≤ t.space) && decide (t.space ≤ 6) && decide (bufSize (if t.space = 4 then 4 else 2) ≤ t.base.toNat))

/-- The address of an element (R61). DESIGN CHOICE (log 82): the sum wraps modulo 2^64, as the address of a scale does. -/
def Tid.addr (t : Tid) (cs : List Nat) : Dword :=
  (List.range t.rank).foldl (fun a i => a + BitVec.ofNat 64 (cs.getD i 0) * t.stride.getD i 0) t.base

/-- The address of the scale of an element, where there is one (R61). -/
def Tid.scaleAddr (t : Tid) (cs : List Nat) : Option Dword :=
  let kb := t.esize
  let c0 := cs.getD 0 0
  let c1 := cs.getD 1 0
  let e0 := t.ext.getD 0 0
  match t.smode with
  | 0 => none
  | 1 => some t.sbase
  | 2 => some (t.sbase + BitVec.ofNat 64 (4 * (c1 * ((e0 * kb + 255) / 256) + c0 * kb / 256)))
  | _ => some (t.sbase + BitVec.ofNat 64 (4 * (c1 * kb / 256 * e0 + c0)))

end Sys2Proof.Machine
end

