-- ==== Sys2Proof/Machine/GravCmd.lean ====
section
/-! DEFINITION. A Graver command (Table 16.1): its fields, its iterations (R331), the bytes that they read and write (R332–R335), and
what a wave's access to such bytes comes to while the command is in flight (R123, R329, R335). -/
namespace Sys2Proof.Machine

/-! ### Fields -/

def gKind (n : Nat) : Nat := natBits n 67 64
def gRst (n : Nat) : Bool := natBit n 68
def gCol (n : Nat) : Bool := natBit n 69
def gCvt (n : Nat) : Nat := natBits n 75 72
def gTida (n : Nat) : Nat := natBits n 87 80
def gTidb (n : Nat) : Nat := natBits n 95 88
def gCrow (n : Nat) : Nat := natBits n 106 96
def gM (n : Nat) : Nat := natBits n 113 107 + 1
def gN (n : Nat) : Nat := natBits n 120 114 + 1
def gFval (n : Nat) : Nat := natBits n 255 224
def gCounts (n : Nat) : List Nat := (List.range 5).map fun j => natBits n (271 + 16 * j) (256 + 16 * j)
def gStart (n : Nat) : List Nat := (List.range 5).map fun j => natBits n (351 + 16 * j) (336 + 16 * j)

/-- A coordinate of an iteration: its first value and its signed strides by level, whose place in a level is `lo` (R331). -/
def gCoord (n first lo : Nat) (iv : List Nat) : Int :=
  iv.zipIdx.foldl (fun a p => a + (p.1 : Int) * sextInt (natBits n (448 + 64 * p.2 + lo + 15) (448 + 64 * p.2 + lo)) 16) first
def gR (n : Nat) (iv : List Nat) : Int := gCoord n (natBits n 159 128) 0 iv
def gC (n : Nat) (iv : List Nat) : Int := gCoord n (natBits n 191 160) 16 iv
def gG (n : Nat) (iv : List Nat) : Int := gCoord n (natBits n 223 192) 32 iv
def gW (n : Nat) (iv : List Nat) : Int := gCoord n (gCrow n) 48 iv

/-! ### Iterations -/

/-- The vector after another: level 0 counts first, with carry (R133, R331). -/
def nextIv : List Nat → List Nat → List Nat
  | i :: iv, n :: ns => if i + 1 < n then (i + 1) :: iv else 0 :: nextIv iv ns
  | iv, _ => iv

/-- The place of a vector in the order. -/
def ivIndex : List Nat → List Nat → Nat
  | i :: iv, n :: ns => i + n * ivIndex iv ns
  | _, _ => 0

/-- The vector at a place in the order. -/
def ivAt : Nat → List Nat → List Nat
  | _, [] => []
  | k, n :: ns => k % n :: ivAt (k / n) ns

def gTotal (n : Nat) : Nat := (gCounts n).foldl (· * ·) 1
/-- The vector at which a command starts. -/
def gFirst (n : Nat) : List Nat := if gRst n then gStart n else [0, 0, 0, 0, 0]
/-- The iterations of a command from a vector on. -/
def gIters (n : Nat) (start : List Nat) : List (List Nat) :=
  (List.range (gTotal n - ivIndex start (gCounts n))).map fun k => ivAt (ivIndex start (gCounts n) + k) (gCounts n)

/-! ### Operands -/

/-- The elements of a K-group, and the K positions of a group within the extent. -/
def groupSize (t : Tid) : Nat := 256 / t.esize
def groupPositions (t : Tid) (extent g : Nat) : List Nat :=
  ((List.range (groupSize t)).map fun k => g * groupSize t + k).filter fun k => decide (k < extent)

/-- The rows of A and the columns of B that an iteration of a GEMM uses (R332). -/
def gRows (n : Nat) (a : Tid) (iv : List Nat) : List Nat :=
  ((List.range (gM n)).map fun i => (gR n iv).toNat + i).filter fun r => decide (r < a.ext.getD 1 0)
def gCols (n : Nat) (b : Tid) (iv : List Nat) : List Nat :=
  ((List.range (gN n)).map fun j => (gC n iv).toNat + j).filter fun c => decide (c < b.ext.getD 0 0)
/-- The scale indices that an iteration of a SCALE uses. -/
def gScaleIdx (n : Nat) (t : Tid) (iv : List Nat) : List Nat :=
  if gCol n then ((List.range (gN n)).map fun j => (gC n iv).toNat + j).filter fun i => decide (i < t.ext.getD 0 0)
  else ((List.range (gM n)).map fun j => (gR n iv).toNat + j).filter fun i => decide (i < t.ext.getD 0 0)

/-- The exact offset of an element with two coordinates. -/
def Tid.offset2 (t : Tid) (c0 c1 : Nat) : Int :=
  (t.base.toNat : Int) + (c0 : Int) * (t.stride.getD 0 0).toInt +
    (if 2 ≤ t.rank then (c1 : Int) * (t.stride.getD 1 0).toInt else 0)

/-- The offsets of the operand elements that an iteration reads: of the first TID and of the second. -/
def gReads (n : Nat) (a b : Tid) (iv : List Nat) : List (Bool × Int) :=
  match gKind n with
  | 0 =>
    let rows := gRows n a iv
    let cols := gCols n b iv
    let ks := groupPositions a (a.ext.getD 0 0) (gG n iv).toNat
    if rows.isEmpty || cols.isEmpty then [] else
    (rows.flatMap fun r => ks.map fun k => (false, a.offset2 k r)) ++ cols.flatMap fun c => ks.map fun k => (true, b.offset2 c k)
  | 2 => (gScaleIdx n a iv).map fun i => (false, a.offset2 i 0)
  | _ => []

/-- The block-relative C rows of an iteration. -/
def gRowsC (n : Nat) (iv : List Nat) : List Nat := (List.range (gM n)).map fun i => (gW n iv).toNat + i

/-! ### Regions of commands in flight -/

/-- The core and the buffer of an operand of a block, and its first absolute offset. -/
def Tid.place (t : Tid) (b : Block) : Nat × Nat × Nat :=
  if t.isRemote then (b.core / 12 * 12 + t.rcore, t.buffer, 0) else (b.core, t.space, (b.slice t.space).base)

/-- Does a command of a block read or write the byte at an absolute offset of a core's buffer? -/
def GravCmd.covers (q : GravCmd) (b : Block) (core space off : Nat) : Bool :=
  let a := tidOf q.tida
  let b' := tidOf q.tidb
  (gIters q.cmd (gFirst q.cmd)).any fun iv =>
    (decide (core = b.core) && decide (space = 4) &&
      (gRowsC q.cmd iv).any fun r => decide (b.cslice.base + 512 * r ≤ off) && decide (off < b.cslice.base + 512 * r + 512)) ||
    (gReads q.cmd a b' iv).any fun x =>
      let t := if x.1 then b' else a
      let p := t.place b
      decide (p.1 = core) && decide (p.2.1 = space) && decide ((p.2.2 : Int) + x.2 ≤ off) &&
        decide ((off : Int) < p.2.2 + x.2 + t.esize)

/-- Does the byte lie in the slot that the Graver still owns (R329)? -/
def GravCmd.owns (q : GravCmd) (b : Block) (core space off : Nat) : Bool :=
  !q.done && decide (core = b.core) && decide (space = 3) && decide (q.slot ≤ off) && decide (off < q.slot + 128)

/-- Does some command in flight satisfy a condition? -/
def State.anyGraver (s : State) (p : Block → GravCmd → Bool) : Bool :=
  s.blocks.any fun b => b.2.waves.any fun w => w.2.grav.queue.any (p b.2)

/-- The block-relative places that an iteration writes: row, first byte and bytes (R332, R333). -/
def gWrites (n : Nat) (a b : Tid) (iv : List Nat) : List (Nat × Nat × Nat) :=
  let w := (gW n iv).toNat
  let all := (List.range (gM n)).flatMap fun i => (List.range (gN n)).map fun j => (i, j)
  let kept := all.filter fun p => match gKind n with
    | 0 => decide ((gR n iv).toNat + p.1 < a.ext.getD 1 0) && decide ((gC n iv).toNat + p.2 < b.ext.getD 0 0)
    | 1 => true
    | _ => decide ((if gCol n then (gC n iv).toNat + p.2 else (gR n iv).toNat + p.1) < a.ext.getD 0 0)
  if gCvt n = 0 then kept.map fun p => (w + p.1, 4 * p.2, 4) else (kept.map (·.1)).eraseDups.map fun i => (w + i, 0, 512)

/-- The iterations that a command has performed, the present one if it has begun. -/
def GravCmd.performed (q : GravCmd) : List (List Nat) :=
  let its := gIters q.cmd (gFirst q.cmd)
  if q.done then its
  else its.take (ivIndex q.iv (gCounts q.cmd) - ivIndex (gFirst q.cmd) (gCounts q.cmd) + if q.el = 0 then 0 else 1)

/-- The number of an entity, for the free values of a race. -/
def entCode (r : EntRef) : Nat := r.blk * 34 + r.slot * 2 + (if r.frag then 1 else 0)

/-- Bytes of a typed buffer as an agent reads them: free values from regions of commands in flight (R77, R123). -/
def State.raceRead (s : State) (code core space off len : Nat) : List Byte :=
  (s.bufRead core space off len).zipIdx.map fun p =>
    if s.anyGraver fun b q => q.covers b core space (off + p.2) then Config.raceByte s.now code (core * 8 + space) (off + p.2) else p.1

/-- Undefined bytes are written to a core's C-buffer. -/
def State.raceWrite (s : State) (core off len : Nat) : State :=
  s.bufWrite core 4 off ((List.range len).map fun i => Config.raceByte s.now 1 (core * 8 + 4) (off + i))

/-- The results of commands that satisfy a condition are undefined (R123, R335): those still to come, and those written. -/
def State.spoilGraver (s : State) (p : Block → GravCmd → Bool) : State :=
  if s.anyGraver p = false then s else
  let hit := s.blocks.flatMap fun x => x.2.waves.flatMap fun w => (w.2.grav.queue.filter (p x.2)).map fun q => (x.2, q)
  let s := hit.foldl (fun s x =>
    (x.2.performed.flatMap (gWrites x.2.cmd (tidOf x.2.tida) (tidOf x.2.tidb))).foldl (fun s w =>
      s.raceWrite x.1.core (x.1.cslice.base + 512 * w.1 + w.2.1) w.2.2) s) s
  let mark (b : Block) (q : GravCmd) : GravCmd := if !q.done && p b q then { q with spoiled := true } else q
  { s with blocks := s.blocks.map fun x =>
      (x.1, { x.2 with waves := x.2.waves.map fun w =>
        (w.1, { w.2 with grav := { w.2.grav with queue := w.2.grav.queue.map (mark x.2) } }) }) }

/-- Bytes stored to a typed buffer: undefined in regions and slots of commands in flight, whose results are then undefined as well
(R77, R123, R329, R335). -/
def State.raceStore (s : State) (code core space off : Nat) (bytes : List Byte) : State :=
  let hits (o : Nat) (b : Block) (q : GravCmd) : Bool := q.covers b core space o || q.owns b core space o
  let bs := bytes.zipIdx.map fun p =>
    if s.anyGraver (hits (off + p.2)) then Config.raceByte s.now code (core * 8 + space) (off + p.2) else p.1
  let s := s.spoilGraver fun b q => (List.range bytes.length).any fun i => hits (off + i) b q
  s.bufWrite core space off bs

/-- Has the cluster of a core a MATRIX wave? -/
def State.matrixNear (s : State) (core : Nat) : Bool :=
  s.blocks.any fun b => decide (b.2.core / 12 = core / 12) && b.2.waves.any fun w => decide (w.2.role = 2)

/-- A wave's loads of a typed buffer. -/
def State.waveRead (s : State) (r : EntRef) (core space off len : Nat) : List Byte := s.raceRead (entCode r * 4) core space off len

/-- A wave's stores to a typed buffer: a Graver command that no `GRDY` orders after one may read what it replaced (R123). -/
def State.waveWrite (s : State) (r : EntRef) (core space off : Nat) (bytes : List Byte) : State :=
  let s := if s.matrixNear core then
      let x : LateStore := { id := s.nextReq, wave := (r.blk, r.slot), space := space, off := off, old := s.bufRead core space off bytes.length }
      { s.modCore core fun c => { c with late := x :: c.late } with nextReq := s.nextReq + 1 }
    else s
  s.raceStore (entCode r * 4 + 1) core space off bytes

/-- A copy's reads of a typed buffer, and an engine's writes to one. -/
def State.engineLoad (s : State) (core space off len : Nat) : List Byte := s.raceRead 2 core space off len
def State.engineWrite (s : State) (core space off : Nat) (bytes : List Byte) : State := s.raceStore 3 core space off bytes

/-- Bytes from `at_` on, with those that `new`, standing from `newAt` on, replaces. -/
def patchBytes (bs : List Byte) (at_ : Nat) (new : List Byte) (newAt : Nat) : List Byte :=
  bs.zipIdx.map fun p =>
    let a := at_ + p.2
    if newAt ≤ a ∧ a < newAt + new.length then new.getD (a - newAt) p.1 else p.1

/-- What a range of a buffer held before each of its late stores, the present bytes first. -/
def lateValues (off : Nat) (bs : List Byte) : List LateStore → List (List Byte)
  | [] => [bs]
  | x :: xs => bs :: lateValues off (patchBytes bs off x.old x.off) xs

/-- Bytes of a buffer as a command's Graver reads them: of a store of another wave that no `GRDY` orders before the command, the old bytes
or the new (R123, R339). -/
def State.gBuf (s : State) (q : GravCmd) (core space off len : Nat) : List Byte :=
  let bs := s.bufRead core space off len
  let late := (s.core core).late.filter fun x =>
    decide (q.ready ≤ x.id) && decide (x.wave ≠ q.wave) && decide (x.space = space) && decide (x.off < off + len) && decide (off < x.off + x.old.length)
  match late with
  | [] => bs
  | _ =>
    let vs := lateValues off bs late
    vs.getD ((Config.raceByte s.now (ivIndex q.iv (gCounts q.cmd) * 4 + 2) (core * 8 + space) off).toNat % vs.length) bs

end Sys2Proof.Machine
end

