-- ==== Sys2Proof/Machine/Fabric.lean ====
section
/-! DEFINITION. What leaves a core or the module through the fabric: the admission of C0 requests (R422), the routes of traffic for other
modules, and what becomes of traffic without one (R423). -/
namespace Sys2Proof.Machine

/-! ### Admission of C0 requests (R422) -/

/-- The bytes of C0 requests that count against a core's current interval, and its start: rate × 1 GB/s over intervals of 1,100 cycles, 1 µs,
are rate × 1,000 bytes each; what a request takes beyond its interval counts in the next ones (log 9). -/
def State.c0Rate (s : State) (core : Nat) : Nat := (tgetD s.hub.xadm core 8#16).toNat * 1000
def State.c0Now (s : State) (core : Nat) : Nat × Nat :=
  let c := s.core core
  let n := (s.now - c.c0start) / 1100
  (c.c0used - n * s.c0Rate core, c.c0start + n * 1100)

/-- Does the rate of a core admit a C0 request? -/
def State.admits (s : State) (core : Nat) : Bool := decide ((s.c0Now core).1 < s.c0Rate core)

/-- The bytes of a request of a priority class leave a core; those of C0 count against its rate. -/
def State.charge (s : State) (core prio bytes : Nat) : State :=
  if prio ≠ 0 ∨ bytes = 0 then s
  else s.modCore core fun c => { c with c0used := (s.c0Now core).1 + bytes, c0start := (s.c0Now core).2 }

/-- The priority class of the launch whose entity issues on a core; the lowest where none does. -/
def State.prioOn (s : State) (core : Nat) : Nat :=
  match tget s.blocks s.cur.blk with
  | some b => if b.core = core then (s.launch b.launch).prio else 3
  | none => 3

/-! ### Routes (R423) -/

/-- Is there a way for traffic to the module of an address? -/
def State.usablePorts (s : State) (m : Nat) : List Nat :=
  let r := tgetD s.hub.xrte m {}
  (List.range 12).filter fun p =>
    r.ports.getLsbD p && (s.hub.ports[p]?.map fun q => q.en && q.up).getD false
def State.reachable (s : State) (pa : Nat) : Bool :=
  decide (moduleOf pa = s.ownModule) || !(s.usablePorts (moduleOf pa)).isEmpty

/-- Counts discarded traffic in `XRTE`m.drop, saturating. -/
def State.countDrop (s : State) (m n : Nat) : State :=
  s.modHub fun h =>
    let r := tgetD h.xrte m {}
    { h with xrte := tset h.xrte m { r with drop := BitVec.ofNat 32 (min (r.drop.toNat + n) 0xFFFFFFFF) } }

/-- The port that traffic for an address leaves by, of those usable. -/
def State.portFor (s : State) (m pa : Nat) : Option Nat :=
  let ps := s.usablePorts m
  if ps.isEmpty then none else ps[natBits pa 44 12 % ps.length]?

/-- Traffic for another module leaves by its port, or is discarded and counted. -/
def State.sendOut (s : State) (x : FabricMsg) : State :=
  match s.portFor x.dest x.pa with
  | some p => s.modHub fun h => { h with out := h.out ++ [(p, x)] }
  | none => s.countDrop x.dest 1

/-- Does the module hold new traffic for another until what went on the old path has been acknowledged? -/
def State.draining (s : State) (m : Nat) : Bool := (tgetD s.hub.xrte m {}).draining

/-- Has the traffic on the old path been acknowledged? What it held then leaves by the new one. The acknowledgements pass through
other modules, so a free value tells. -/
def State.drainRoute (s : State) (m : Nat) : State :=
  let r := tgetD s.hub.xrte m {}
  let (v, s) := s.takeFree
  if v.getLsbD 0 then
    let s := s.modHub fun h => { h with xrte := tset h.xrte m { r with draining := false, held := [] } }
    r.held.foldl (fun s x => s.sendOut x) s
  else s

end Sys2Proof.Machine
end

