-- ==== Sys2Proof/Machine/Cache.lean ====
section
/-! DEFINITION. The L1 data and instruction caches and the cluster cache (R62–R65), and the cache actions of acquires and releases
(Table 5.1). The cluster cache is coherent for lines whose home lies on its own plate (R64): of such a line only its presence is kept,
and its bytes are those of its home. A full cache gives up a line for a new one; which one is left open (log 8). -/
namespace Sys2Proof.Machine

/-- The physical number of the line that holds an address. -/
def lineOf (pa : Nat) : Nat := pa / 128

/-- Does the address's home lie elsewhere than on the plate of the core: on the other plate, in another module or in the host
window (R64)? -/
def State.remoteHome (s : State) (core pa : Nat) : Bool :=
  decide (moduleOf pa ≠ s.ownModule) || decide (plateOf pa ≠ corePlate core) || !inDram pa

/-- The key of a line in the table of cluster cache lines. -/
def cluKey (core line : Nat) : Nat := coreCluster core * 2 ^ 45 + line

/-- The lines that an L1 data cache of 256 KiB, an L1 instruction cache of 128 KiB and a cluster cache of 24 MiB hold (R62–R64). -/
def l1dLines : Nat := 2048
def l1iLines : Nat := 1024
def cluLines : Nat := 196608

/-- Bytes `i, i+1, …` of a line replaced where the mask of the new line says so. -/
def lineMix (mask : BitVec 128) (new old : List Byte) : List Byte :=
  (List.range 128).map fun i => if mask.getLsbD i then new.getD i 0 else old.getD i 0

/-- The mask of `len` bytes from byte `i` of a line on. -/
def byteMask (i len : Nat) : BitVec 128 := BitVec.ofNat 128 ((2 ^ len - 1) * 2 ^ i)

/-- A line with bytes stored from byte `i` on, dirty or as fetched. -/
def Line.put (l : Line) (i : Nat) (bs : List Byte) (dirty : Bool) : Line :=
  let m := byteMask i bs.length
  { bytes := (List.range 128).map fun j => if i ≤ j ∧ j < i + bs.length then bs.getD (j - i) 0 else l.bytes.getD j 0
    valid := l.valid ||| m
    dirty := if dirty then l.dirty ||| m else l.dirty &&& ~~~ m }

/-- `len` bytes of a line from byte `i` on. -/
def Line.read (l : Line) (i len : Nat) : List Byte := (List.range len).map fun j => l.bytes.getD (i + j) 0

/-- The bytes of a line as the level below the L1 holds them: the cluster cache for a line of a remote home, its home else. -/
def State.below (s : State) (core line : Nat) : List Byte :=
  let home := s.readHome (line * 128) 128
  if s.remoteHome core (line * 128) then
    match tget s.clu (cluKey core line) with
    | some l => lineMix l.valid l.bytes home
    | none => home
  else home

/-- Is the line of a remote home wholly in the cluster cache? -/
def State.inClu (s : State) (core line : Nat) : Bool :=
  match tget s.clu (cluKey core line) with
  | some l => l.valid == BitVec.allOnes 128
  | none => false

/-- The bytes that a mask names. -/
def maskBytes (m : BitVec 128) : Nat := (List.range 128).countP fun i => m.getLsbD i

/-- Writes the dirty bytes of a cluster cache line to its home, on behalf of a core. Without a usable port they are lost, and every
transmission counts (R423; log 99). -/
def State.cluClean (s : State) (core key : Nat) : State :=
  match tget s.clu key with
  | none => s
  | some l =>
    let line := key % 2 ^ 45
    let s := s.charge core (s.prioOn core) (maskBytes l.dirty)
    let s := if s.reachable (line * 128) then (List.range 128).foldl
        (fun s i => if l.dirty.getLsbD i then s.writeHome (line * 128 + i) [l.bytes.getD i 0] else s) s
      else if l.dirty = 0 then s else s.countDrop (moduleOf (line * 128)) 4
    { s with clu := tset s.clu key { l with dirty := 0 } }

/-- The keys of a cluster's lines. -/
def State.cluKeys (s : State) (core : Nat) : List Nat :=
  (s.clu.map (·.1)).filter fun k => k / 2 ^ 45 = coreCluster core

/-- A full cluster cache gives up one of its lines for a line that it does not hold (R64). -/
def State.cluRoom (s : State) (core line : Nat) : State :=
  if (tget s.clu (cluKey core line)).isSome || decide ((s.cluKeys core).length < cluLines) then s else
  let (k, s) := s.pick (s.cluKeys core)
  let s := s.cluClean core k
  { s with clu := tdel s.clu k }

/-- Fetches a line into the cluster cache; one that nothing leads to stays as it is. -/
def State.cluFill (s : State) (core line : Nat) : State :=
  if s.reachable (line * 128) = false ∧ s.inClu core line = false then s else
  let s := s.cluRoom core line
  let old := tgetD s.clu (cluKey core line) {}
  let l : Line :=
    if s.remoteHome core (line * 128) then { bytes := s.below core line, valid := BitVec.allOnes 128, dirty := old.dirty } else {}
  { s with clu := tset s.clu (cluKey core line) l }

/-- Writes the bytes of a mask of a line to the level below the L1. -/
def State.putBelow (s : State) (core line : Nat) (mask : BitVec 128) (bytes : List Byte) : State :=
  if mask = 0 then s else
  if s.remoteHome core (line * 128) then
    let s := s.cluRoom core line
    let old := tgetD s.clu (cluKey core line) {}
    let l : Line := { bytes := lineMix mask bytes old.bytes, valid := old.valid ||| mask, dirty := old.dirty ||| mask }
    { s with clu := tset s.clu (cluKey core line) l }
  else
    (List.range 128).foldl
      (fun s i => if mask.getLsbD i then s.writeHome (line * 128 + i) [bytes.getD i 0] else s) (s.charge core (s.prioOn core) (maskBytes mask))

/-- Writes back the dirty bytes of a line of the L1; the line stays valid. -/
def State.l1Clean (s : State) (core line : Nat) : State :=
  match tget (s.core core).l1d line with
  | none => s
  | some l =>
    let s := s.putBelow core line l.dirty l.bytes
    s.modCore core fun c => { c with l1d := tset c.l1d line { l with dirty := 0 } }

/-- Removes a line from the L1 data cache. -/
def State.l1Drop (s : State) (core line : Nat) : State :=
  s.modCore core fun c => { c with l1d := tdel c.l1d line }

/-- A full L1 data cache writes back and gives up one of its lines for a line that it does not hold (R62). -/
def State.l1Room (s : State) (core line : Nat) : State :=
  if (tget (s.core core).l1d line).isSome || decide ((s.core core).l1d.length < l1dLines) then s else
  let (k, s) := s.pick ((s.core core).l1d.map (·.1))
  (s.l1Clean core k).l1Drop core k

/-- Fetches a line into the L1 data cache: valid bytes stay, the others come from below; nothing comes from a module that no port leads to
(R423). True when data had to come from a remote home. -/
def State.l1Fill (s : State) (core line : Nat) : State × Bool :=
  let old := tgetD (s.core core).l1d line {}
  if old.valid == BitVec.allOnes 128 || (!s.reachable (line * 128) && !s.inClu core line) then (s, false) else
  let s := s.l1Room core line
  let far := s.remoteHome core (line * 128) && !s.inClu core line
  let bytes := lineMix old.valid old.bytes (s.below core line)
  let s := s.cluFill core line
  (s.modCore core fun c => { c with l1d := tset c.l1d line { bytes := bytes, valid := BitVec.allOnes 128, dirty := old.dirty } },
   far)

/-- Writes back every dirty byte of the L1 of a core. -/
def State.l1CleanAll (s : State) (core : Nat) : State :=
  (s.core core).l1d.foldl (fun s p => s.l1Clean core p.1) s

/-- The release cache action of a scope code (Table 5.1). -/
def State.releaseCaches (s : State) (core scope : Nat) : State :=
  let s := if 4 ≤ scope then s.l1CleanAll core else s
  if 5 ≤ scope then (s.cluKeys core).foldl (fun s k => s.cluClean core k) s else s

/-- A line with its clean bytes invalidated; none when nothing is left. -/
def Line.dropClean (l : Line) : Option Line :=
  if l.dirty = 0 then none else some { l with valid := l.valid &&& l.dirty }

/-- The acquire cache action of a scope code (Table 5.1, R62, R64): dirty bytes stay. -/
def State.acquireCaches (s : State) (core scope : Nat) : State :=
  let s := if 4 ≤ scope then
      s.modCore core fun c => { c with l1d := c.l1d.filterMap fun p => p.2.dropClean.map fun l => (p.1, l) }
    else s
  if 5 ≤ scope then
    { s with clu := s.clu.filterMap fun p =>
        if p.1 / 2 ^ 45 = coreCluster core ∧ s.remoteHome core (p.1 % 2 ^ 45 * 128) = true then p.2.dropClean.map fun l => (p.1, l) else some p }
  else s

/-- Bytes of [pa, pa + len) that are dirty in the L1 of the core or its cluster's cache, over others given. -/
def State.overlayDirty (s : State) (core pa : Nat) (bs : List Byte) : List Byte :=
  let line := lineOf pa
  let pick (l? : Option Line) (i : Nat) (b : Byte) : Byte :=
    match l? with
    | some l => if l.dirty.getLsbD (pa % 128 + i) then l.bytes.getD (pa % 128 + i) 0 else b
    | none => b
  let cl := if s.remoteHome core pa then tget s.clu (cluKey core line) else none
  let l1 := tget (s.core core).l1d line
  bs.zipIdx.map fun p => pick l1 p.2 (pick cl p.2 p.1)

/-- How a load reaches its data: through the L1; past it, at the cluster cache or the home (R103, `HMOD` cp 2); at the home alone
(UNCACHED pages, R65). -/
inductive Path where
  | l1 | past | home
deriving DecidableEq, Repr

/-- The bytes a load within one line reads by a path, and whether they came from a remote home. -/
def State.loadBytes (s : State) (path : Path) (core pa len : Nat) : List Byte × Bool × State :=
  match path with
  | .l1 =>
    let (s, far) := s.l1Fill core (lineOf pa)
    ((tgetD (s.core core).l1d (lineOf pa) {}).read (pa % 128) len, far, s)
  | .past => (s.overlayDirty core pa (s.readHome pa len), s.remoteHome core pa, s)
  | .home => (s.readHome pa len, s.remoteHome core pa, s)

/-- The bytes that a load asks the fabric for: of what the caches hold, none; of a line that they fetch, the line. -/
def State.loadCost (s : State) (path : Path) (core pa len : Nat) : Nat :=
  match path with
  | .l1 =>
    let held := (tgetD (s.core core).l1d (lineOf pa) {}).valid == BitVec.allOnes 128
    let near := if s.remoteHome core (lineOf pa * 128) then s.inClu core (lineOf pa) else (tget s.clu (cluKey core (lineOf pa))).isSome
    if held || near then 0 else 128
  | _ => len

/-- Is a load lost for want of a usable port (R423)? One whose bytes the L1 holds is not. -/
def State.loadLost (s : State) (path : Path) (core pa len : Nat) : Bool :=
  let mine := byteMask (pa % 128) len
  !s.reachable pa && decide (s.loadCost path core pa len ≠ 0) &&
    !(path = .l1 && (tgetD (s.core core).l1d (lineOf pa) {}).valid &&& mine == mine)

/-- A plain store to the L1: its bytes become dirty (R62). -/
def State.l1Store (s : State) (core pa : Nat) (bytes : List Byte) : State :=
  (s.l1Room core (lineOf pa)).modCore core fun c =>
    { c with l1d := tset c.l1d (lineOf pa) ((tgetD c.l1d (lineOf pa) {}).put (pa % 128) bytes true) }

/-- A store performed at the home updates the line in the issuing core's L1, if present, and in its cluster's cache (R103). -/
def State.updateLines (s : State) (core pa : Nat) (bytes : List Byte) : State :=
  let s := match tget (s.core core).l1d (lineOf pa) with
    | some l => s.modCore core fun c => { c with l1d := tset c.l1d (lineOf pa) (l.put (pa % 128) bytes false) }
    | none => s
  match tget s.clu (cluKey core (lineOf pa)) with
  | some l => if s.remoteHome core pa then { s with clu := tset s.clu (cluKey core (lineOf pa)) (l.put (pa % 128) bytes false) } else s
  | none => s

/-- The dirty bytes that the core's L1 and its cluster's cache hold of the line at an address are written to its home: an operation
performed there finds the core's own earlier stores (R43, R112). -/
def State.cleanLine (s : State) (core pa : Nat) : State := (s.l1Clean core (lineOf pa)).cluClean core (cluKey core (lineOf pa))

/-- The 8 bytes at an address as the core's L1 shows them. -/
def State.l1View (s : State) (core pa : Nat) : List Byte :=
  let line := lineOf pa
  let bs := match tget (s.core core).l1d line with
    | some l => lineMix l.valid l.bytes (s.below core line)
    | none => s.below core line
  (bs.drop (pa % 128)).take 8

/-- A full L1 instruction cache gives up one of its lines for another (R63). -/
def State.l1iRoom (s : State) (core : Nat) : State :=
  if (s.core core).l1i.length < l1iLines then s else
  let (k, s) := s.pick ((s.core core).l1i.map (·.1))
  s.modCore core fun c => { c with l1i := tdel c.l1i k }

/-- The word at an address of the instruction cache, which is filled from below on a miss (R63); one of an UNCACHED page comes from its
home (R65). -/
def State.l1iFetch (s : State) (core pa : Nat) (st : LeafState) : Word × State :=
  if st = .uncached then (wordOf (s.readHome pa 4), s) else
  match tget (s.core core).l1i (lineOf pa) with
  | some bs => (wordOf ((bs.drop (pa % 128)).take 4), s)
  | none =>
    let bs := s.below core (lineOf pa)
    let s := (s.cluFill core (lineOf pa)).l1iRoom core
    (wordOf ((bs.drop (pa % 128)).take 4), s.modCore core fun c => { c with l1i := tset c.l1i (lineOf pa) bs })

end Sys2Proof.Machine
end

