-- ==== Sys2Proof/Machine/Home.lean ====
section
/-! DEFINITION. What the home memory-side units do (R49, R103, R113–R120): strong stores and atomic requests performed there,
release tags, kept sequence numbers; and what reaches them from a core. -/
namespace Sys2Proof.Machine

/-- The bytes of an atomic's type (Table 5.14). -/
def atomSize (ty : BitVec 3) : Nat := if ty = 2 ∨ ty = 3 then 8 else 4

/-- The new value of a location under an atomic operation (Table 5.14, R127). -/
def atomOp (fop ty : BitVec 3) (old v c : Dword) : Dword :=
  let n := atomSize ty * 8
  let o := old.toNat % 2 ^ n
  let x := v.toNat % 2 ^ n
  let k := c.toNat % 2 ^ n
  let signed : Bool := decide (ty = 0) || decide (ty = 2)
  let less (a b : Nat) : Bool := if signed then decide (sextInt a n < sextInt b n) else decide (a < b)
  let r : Nat :=
    if ty = 4 then
      match fop.toNat with
      | 0 => (fmt32.add .rne false o x).1
      | 1 => (fmt32.minMax false false o x).1
      | 2 => (fmt32.minMax true false o x).1
      | _ => x
    else
      match fop.toNat with
      | 0 => o + x
      | 1 => if less x o then x else o
      | 2 => if less o x then x else o
      | 3 => o &&& x
      | 4 => o ||| x
      | 5 => o ^^^ x
      | 6 => x
      | _ => if o = k then x else o
  BitVec.ofNat 64 (r % 2 ^ n)

/-- Leaves a release tag of a core on the word at an address; a tag displaced for want of room first promotes its core to `.dom`
scope (R113, R115). DESIGN CHOICE (log 79): a full unit displaces its oldest tag. -/
def State.setReleaseTag (s : State) (core pa : Nat) : State :=
  let s := s.clearTags pa 1
  let h := s.home (homeOf pa)
  let s := if h.tags.length < 1024 then s else
    match h.tags with
    | [] => s
    | t :: ts =>
      let s := if t.mod_ = s.ownModule then s.releaseCaches t.core 7 else s
      s.setHome (homeOf pa) { s.home (homeOf pa) with tags := ts }
  let h := s.home (homeOf pa)
  s.setHome (homeOf pa) { h with tags := h.tags ++
    [{ word := pa / 8 * 8, mod_ := s.ownModule, core := core, at_ := s.now }] }

/-- The release tag of the word at an address (R114). -/
def State.releaseTag (s : State) (pa : Nat) : Option ReleaseTag :=
  (s.home (homeOf pa)).tags.find? fun t => t.word = pa / 8 * 8

/-- A strong store performed at its home unit (R103, R113): memory, the release tag and the issuing core's lines. -/
def State.strongStore (s : State) (core pa : Nat) (bytes : List Byte) (tagged : Bool) : State :=
  let s := s.writeHome pa bytes
  let s := s.updateLines core pa bytes
  if tagged then s.setReleaseTag core pa else s

/-- Does [a, a + m) meet [b, b + n)? -/
def overlaps (a m b n : Nat) : Bool := decide (a < b + n) && decide (b < a + m)

/-- Performs a pending store at home, or loses it when nothing leads to its module. -/
def State.arriveStore (s : State) (core : Nat) (p : PendStore) : State :=
  let mark (f : PendStore → PendStore) (s : State) : State :=
    s.modCore core fun c => { c with stores := c.stores.map fun q => if q.id = p.id then f q else q }
  if p.arrived || p.lost then s
  else if s.reachable p.pa then
    mark (fun q => { q with arrived := true }) (s.strongStore core p.pa p.bytes p.tagged)
  else mark (fun q => { q with lost := true }) (s.countDrop (moduleOf p.pa) 4)

/-- How long a home unit keeps a sequence number, 32 µs, and how long a core waits for an acknowledgement, 8 µs, in cycles of
1.10 GHz (R119, R120, R5). -/
def keepCycles : Nat := 35200
def retryCycles : Nat := 8800

/-- The kept value of a sequence number of a source at a home unit (R119). -/
def State.keptSeq (s : State) (unit src : Nat) (seq : BitVec 24) : Option Dword :=
  ((s.home unit).kept.find? fun k => k.src = src && k.seq = seq && decide (s.now < k.at_ + keepCycles)).map (·.val)

/-- Keeps a sequence number, at most 4,096 of a source. -/
def State.keepSeq (s : State) (unit src : Nat) (seq : BitVec 24) (val : Dword) : State :=
  let h := s.home unit
  let mine := (h.kept.filter fun k => k.src = src).take 4095
  let others := h.kept.filter fun k => k.src ≠ src
  s.setHome unit { h with kept := { src := src, seq := seq, val := val, at_ := s.now } :: mine ++ others }

/-- Applies an operation at the home of a location and answers the old value (R118, R127). -/
def State.applyAtom (s : State) (core : Nat) (fop ty : BitVec 3) (pa : Nat) (v c : Dword) (tagged : Bool) : Dword × State :=
  let n := atomSize ty
  let old := dwordOf (s.readHome pa n)
  (old, s.strongStore core pa (leBytes (atomOp fop ty old v c).toNat n) tagged)

/-- The source of a core's requests (R119). -/
def State.source (s : State) (core : Nat) : Nat := s.ownModule * 512 + core

/-- Replaces a request of a core. -/
def State.setReq (s : State) (core : Nat) (seq : BitVec 24) (f : AtomReq → AtomReq) : State :=
  s.modCore core fun c => { c with atoms := c.atoms.map fun q => if q.seq = seq then f q else q }

/-- A request at its home unit (R119): applied, found kept, or answered REPLAY; lost when nothing leads there. -/
def State.arriveReq (s : State) (core : Nat) (q : AtomReq) : State :=
  match q.st with
  | .sent =>
    if s.reachable q.pa = false then (s.countDrop (moduleOf q.pa) 1).setReq core q.seq fun r => { r with st := .lost }
    else
      let unit := homeOf q.pa
      match s.keptSeq unit (s.source core) q.seq with
      | some v => s.setReq core q.seq fun r => { r with st := .answered v }
      | none =>
        if q.replayBit then s.setReq core q.seq fun r => { r with st := .replay }
        else
          let tagger := match s.releaseTag q.pa with
            | some t => if q.racq ∧ t.mod_ = s.ownModule ∧ t.core ≠ core then some t.core else none
            | none => none
          let (old, s) := s.applyAtom core q.fop q.ty q.pa q.val q.cmp q.tagged
          (s.keepSeq unit (s.source core) q.seq old).setReq core q.seq fun r => { r with st := .answered old, tagger := tagger }
  | _ => s

/-- Comes a pending access of one entity before the accesses of another in program order: its own, or the wave's before its split (R105)? -/
def comesBefore (p : EntRef) (both : Bool) (ent : EntRef) : Bool :=
  p = ent || (both && decide (p.blk = ent.blk) && decide (p.slot = ent.slot))

/-- Performs the entity's own earlier stores to bytes that an access touches, and its earlier atomic requests (R112: program order
to a common byte, and after an atomic, is kept). -/
def State.performOwn (s : State) (core : Nat) (ent : EntRef) (pa len : Nat) (reqs : Bool) : State :=
  let s := (s.core core).stores.foldl
    (fun s p => if comesBefore p.ent p.both ent && overlaps p.pa p.bytes.length pa len then s.arriveStore core p else s) s
  (s.core core).atoms.foldl
    (fun s q => if comesBefore q.ent q.both ent && (reqs || overlaps q.pa (atomSize q.ty) pa len) then s.arriveReq core q else s) s

/-- Has the wave of a slot of a block a store or an atomic request that is neither acknowledged nor reported (R121)? -/
def State.outstanding (s : State) (core blk slot : Nat) : Bool :=
  ((s.core core).stores.any fun p => p.ent.blk = blk && p.ent.slot = slot) ||
    (s.core core).atoms.any fun q => q.ent.blk = blk && q.ent.slot = slot

/-- Sends a strong store of an entity to its home (R103). -/
def State.sendStore (s : State) (core : Nat) (ent : EntRef) (prio lane pa : Nat) (bytes : List Byte) (tagged : Bool) (via : Via) :
    State :=
  (s.charge core prio bytes.length).modCore core fun c =>
    let p : PendStore :=
      { id := c.nextCmd, ent := ent, lane := lane, pa := pa, bytes := bytes, via := via, tagged := tagged
        cls := (FabricSource.agent prio).cls }
    { c with nextCmd := c.nextCmd + 1, stores := c.stores ++ [p] }

/-- Sends a reduction of an entity to its home (R118, R119). -/
def State.sendRed (s : State) (core : Nat) (ent : EntRef) (prio lane : Nat) (fop ty : BitVec 3) (pa : Nat) (v : Dword) (via : Via) :
    State :=
  (s.charge core prio (atomSize ty)).modCore core fun k =>
    { k with seq := k.seq + 1
             atoms := k.atoms ++ [{ seq := k.seq, ent := ent, lane := lane, pa := pa, fop := fop, ty := ty, val := v, cmp := 0, dst := none
                                    via := via, grp := k.seq, sent := s.now, cls := (FabricSource.agent prio).cls }] }

/-- A store, or a reduction, that is performed and acknowledged at once where its home can be reached; else it is on its way, to be
transmitted again or reported (R119–R121). -/
def State.storeNow (s : State) (core : Nat) (ent : EntRef) (prio lane pa : Nat) (bytes : List Byte) (via : Via) : State :=
  if s.reachable pa then (s.charge core prio bytes.length).strongStore core pa bytes false else s.sendStore core ent prio lane pa bytes false via
def State.redNow (s : State) (core : Nat) (ent : EntRef) (prio lane : Nat) (fop ty : BitVec 3) (pa : Nat) (v : Dword) (via : Via) : State :=
  if s.reachable pa then
    -- with the core's next sequence number, which the home unit keeps (R119)
    let seq := (s.core core).seq
    let (old, s) := (s.charge core prio (atomSize ty)).applyAtom core fop ty pa v 0 false
    (s.modCore core fun k => { k with seq := seq + 1 }).keepSeq (homeOf pa) (s.source core) seq old
  else s.sendRed core ent prio lane fop ty pa v via

end Sys2Proof.Machine
end

