-- ==== Sys2Proof/Machine/Translate.lean ====
section
/-! DEFINITION. Address translation (R79–R88), the TLB, and the parking of accesses that meet a replayable fault (R89–R91). -/
namespace Sys2Proof.Machine

/-- Replayable fault kinds (Table 4.3). -/
def pfNotValid : Nat := 0
def pfMalformed : Nat := 1
def pfWrite : Nat := 2
def pfRdupW : Nat := 3
def pfExec : Nat := 4

def accWrites : AccKind → Bool
  | .store | .atomic | .engineWrite => true
  | _ => false

/-- The acc field of a fault record (Table 4.4). -/
def accCode : AccKind → Nat
  | .load => 0 | .store => 1 | .atomic => 2 | .fetch => 3 | .engineRead => 4 | .engineWrite => 5

/-- The index of a virtual address at a level (Table 4.1). -/
def vaIndex (va lvl : Nat) : Nat :=
  match lvl with
  | 3 => natBits va 56 39
  | 2 => natBits va 38 30
  | 1 => natBits va 29 21
  | _ => natBits va 20 12

/-- log2 of the page size of a leaf at a level (Table 4.1, R81). -/
def leafBits (lvl : Nat) (p64 : Bool) : Nat :=
  match lvl with
  | 2 => 30 | 1 => 21 | _ => if p64 then 16 else 12

/-- Does the address lie in the DRAM of a module? -/
def inModuleDram (m pa : Nat) : Bool := decide (pa < 2 ^ 52) && decide (moduleOf pa = m) && inDram pa

/-- Is an entry read at a level malformed (R84)? -/
def pteMalformed (own pte lvl : Nat) : Bool :=
  let leaf := natBit pte 1
  let st := natBits pte 3 2
  let frame := natBits pte 51 12 * 4096
  let ts := natBits pte 10 9
  let p64 := natBit pte 8
  natBit pte 11 || natBit pte 63 ||
  (leaf && decide (lvl = 3)) || (!leaf && decide (lvl = 0)) ||
  (if leaf then
    (decide (lvl = 2) && decide (natBits pte 29 12 ≠ 0)) || (decide (lvl = 1) && decide (natBits pte 20 12 ≠ 0)) ||
    (p64 && (decide (lvl ≠ 0) || decide (natBits pte 15 12 ≠ 0))) ||
    decide (ts = 3) || (decide (ts ≠ 0) && decide (st ≠ 2)) ||
    (decide (st = 2) && decide (leafBits lvl p64 < 12 + 2 * ts)) ||
    inHubWindow frame
   else
    decide (natBits pte 10 2 ≠ 0) || !inModuleDram own frame)

/-- What a walk finds: a translation, or a replayable fault with its kind, level and the entry read. -/
inductive Walk where
  /-- with the entries above the leaf that led to it -/
  | ok (t : TlbEntry) (path : List WalkEntry)
  | fault (kind lvl : Nat) (pte : Dword)
deriving DecidableEq, Repr

def leafStateOf (n : Nat) : LeafState :=
  match n with
  | 0 => .normal | 1 => .rdup | 2 => .nclass | _ => .uncached

/-- Does an entry that a walker keeps cover an address of an address space? An entry of level l covers 2^(12 + 9l) bytes. -/
def WalkEntry.covers (e : WalkEntry) (asid : BitVec 9) (va : Nat) : Bool :=
  e.asid = asid && decide (va / 2 ^ (12 + 9 * e.lvl) * 2 ^ (12 + 9 * e.lvl) = e.va)

/-- The entry that a walk reads at the address of a last-level entry: where it lies in a 64 KiB span whose 16 entries differ in more than
A and D, one of the 16, which one left open (R81). -/
def spanEntry (s : State) (who addr va : Nat) : Nat :=
  let pte (a : Nat) : Nat := leNat (s.readHome a 8)
  let first := addr / 128 * 128
  let all := (List.range 16).map fun j => pte (first + 8 * j)
  let plain (e : Nat) : Nat := e / 256 * 64 + e % 64
  if all.any (fun e => natBit e 0 && natBit e 8) && all.any (fun e => decide (plain e ≠ plain (pte addr))) then
    first + 8 * (Config.pageChoice s.now who va % 16)
  else addr

/-- The walk of R85 from level `lvl` down, its table at `base`; `plate` is the plate whose walker makes it and whose copy of a
read-duplicated page serves, or none for an agent of the hub (R96). Where an entry above the leaves that the walker keeps has changed in
memory, it serves as it was or as it is, which one left open, until a shootdown ends it (R87, R88). -/
def walkFrom (s : State) (asid : BitVec 9) (va : Nat) (acc : AccKind) (plate : Option Nat) (path : List WalkEntry) :
    Nat → Nat → Nat → Walk
  | 0, _, _ => .fault pfMalformed 0 0
  | fuel + 1, lvl, base =>
    let who := plate.getD 2
    let addr := base + 8 * vaIndex va lvl
    let addr := if lvl = 0 then spanEntry s who addr va else addr
    let new := leNat (s.readHome addr 8)
    let pte := match plate.bind fun p => (s.hub.plate p).walker.find? fun e => e.lvl = lvl && e.covers asid va with
      | some e => if e.pte ≠ new ∧ Config.pageChoice s.now (4 * lvl + who) va % 2 = 1 then new else e.pte
      | none => new
    let pd := BitVec.ofNat 64 pte
    if natBit pte 0 = false then .fault pfNotValid lvl pd
    else if pteMalformed s.ownModule pte lvl then .fault pfMalformed lvl pd
    else if natBit pte 1 then
      let st := leafStateOf (natBits pte 3 2)
      let w := natBit pte 4
      if acc = .fetch && !natBit pte 5 then .fault pfExec lvl pd
      else if accWrites acc && st = .rdup then .fault pfRdupW lvl pd
      else if accWrites acc && !w then .fault pfWrite lvl pd
      else
        let bits := leafBits lvl (natBit pte 8)
        let frame := natBits pte 51 12 * 4096 / 2 ^ bits * 2 ^ bits
        let frame := match plate with
          | some p => if st = .rdup ∧ moduleOf frame = s.ownModule then
              frame - plateOf frame * 2 ^ 45 + p * 2 ^ 45 else frame
          | none => frame
        .ok { asid := asid, va := va / 2 ^ bits * 2 ^ bits, pa := frame, bits := bits, st := st,
              w := w && decide (st ≠ .rdup), x := natBit pte 5, d := natBit pte 7,
              ts := BitVec.ofNat 2 (natBits pte 10 9), leaf := addr } path
    else
      let e : WalkEntry := { asid := asid, lvl := lvl, va := va / 2 ^ (12 + 9 * lvl) * 2 ^ (12 + 9 * lvl), pte := pte, cls := FabricSource.pageWalk.cls }
      walkFrom s asid va acc plate (e :: path) fuel (lvl - 1) (natBits pte 51 12 * 4096)

/-- The walk of an address space's tables (R85). -/
def walk (s : State) (asid : BitVec 9) (va : Nat) (acc : AccKind) (plate : Option Nat) : Walk :=
  let t := (tgetD s.hub.asroot asid.toNat 0).toNat
  let base := natBits t 51 21 * 2 ^ 21
  if natBit t 0 = false then .fault pfNotValid 3 0
  else if inModuleDram s.ownModule base = false then .fault pfMalformed 3 (BitVec.ofNat 64 t)
  else walkFrom s asid va acc plate [] 4 3 base

/-- Sets bits of the leaf entry with an atomic OR at its home unit (R87). -/
def State.orLeaf (s : State) (leaf mask : Nat) : State :=
  let old := leNat (s.readHome leaf 8)
  if old ||| mask = old then s else s.writeHome leaf (leBytes (old ||| mask) 8)

/-- Does a TLB entry translate an address of an address space? -/
def TlbEntry.covers (t : TlbEntry) (asid : BitVec 9) (va : Nat) : Bool :=
  t.asid = asid && decide (t.va ≤ va) && decide (va < t.va + 2 ^ t.bits)

/-- May an access of a kind use the translation without a new walk? -/
def TlbEntry.permits (t : TlbEntry) (acc : AccKind) : Bool :=
  !(acc = .fetch && !t.x) && !(accWrites acc && !t.w)

/-- The outcome of translating one address: a physical address with its leaf's state and tile size; an immediate XLATE (R89); or a
replayable fault. -/
inductive Trans where
  | ok (pa : Nat) (st : LeafState) (ts : BitVec 2)
  | xlate
  | fault (kind lvl : Nat) (pte : Dword)
deriving DecidableEq, Repr

/-- A successful translation's physical address (R48): its low 12 bits are those of the virtual address. -/
def TlbEntry.answer (t : TlbEntry) (va : Nat) : Trans :=
  let pa := (t.pa + (va - t.va)) / 4096 * 4096 + va % 4096
  if populated pa then .ok pa t.st t.ts else .xlate

/-- The set of a TLB in which a translation lies: of 2,048 entries in 8 ways there are 256 (R86). -/
def TlbEntry.set (t : TlbEntry) : Nat := Config.tlbSet t.asid.toNat t.va t.bits % 256

/-- A translation enters the TLB of a core in the place of those of its addresses; a full set of 8 gives up one of its entries, which
one left open (R86; log 8). -/
def State.tlbInstall (s : State) (core : Nat) (t : TlbEntry) : State :=
  let l := (s.core core).tlb.filter fun u =>
    !(u.asid = t.asid && decide (u.va < t.va + 2 ^ t.bits) && decide (t.va < u.va + 2 ^ u.bits))
  let mates := if l.length < 8 then [] else (l.zipIdx.filter fun u => u.1.set = t.set).map (·.2)
  let (out, s) := if mates.length < 8 then (l.length, s) else s.pick mates
  s.modCore core fun c => { c with tlb := t :: l.eraseIdx out }

/-- The walker of a plate keeps the entries that a walk went through, at most 512; which one a full walker gives up is left open
(R87; log 8). -/
def State.walkerKeep (s : State) (plate : Nat) (path : List WalkEntry) : State :=
  path.foldl (fun s e =>
    let l := (s.hub.plate plate).walker
    if l.contains e then s else
    let (out, s) := if l.length < 512 then (l.length, s) else s.pick (List.range 512)
    s.modPlate plate fun p => { p with walker := e :: l.eraseIdx out }) s

/-- A walk that a core's miss starts: A is set before the translation is installed, D before the first write (R87). A translation
that faults is held by no TLB and no walker (R86, R88). -/
def State.walkInstall (s : State) (core : Nat) (asid : BitVec 9) (va : Nat) (acc : AccKind) : Trans × State :=
  match walk s asid va acc (some (corePlate core)) with
  | .fault k l p =>
    (.fault k l p,
      (s.modPlate (corePlate core) fun p => { p with walker := p.walker.filter fun e => !e.covers asid va }).modCore core fun c =>
        { c with tlb := c.tlb.filter fun t => !t.covers asid va })
  | .ok t path =>
    let s := (s.walkerKeep (corePlate core) path).orLeaf t.leaf (if accWrites acc then 0xC0 else 0x40)
    let t := { t with d := t.d || accWrites acc }
    (t.answer va, s.tlbInstall core t)

/-- Does a walk find the translation that a TLB entry holds of an address? -/
def Walk.finds (x : Walk) (t : TlbEntry) (va : Nat) : Bool :=
  match x with
  | .ok u _ => u.answer va = t.answer va && u.w = t.w && u.x = t.x
  | .fault .. => false

/-- Translates an address for an access of a core (R47, R85–R87). Until a shootdown of a changed page completes, an access that the TLB
holds the old translation of uses the old or the new one, which one left open (R88). -/
def State.translate (s : State) (core : Nat) (asid : BitVec 9) (va : Dword) (acc : AccKind) : Trans × State :=
  let v := va.toNat
  if 2 ^ 57 ≤ v then (.xlate, s) else
  match (s.core core).tlb.find? fun t => t.covers asid v with
  | some t =>
    if t.permits acc && (t.d || !accWrites acc) &&
      ((walk s asid v acc (some (corePlate core))).finds t v || decide (Config.pageChoice s.now (16 + core) v % 2 = 0)) then (t.answer v, s)
    else s.walkInstall core asid v acc
  | none => s.walkInstall core asid v acc

/-- The translation that an access of a core has just gone through. -/
def State.viaOf (s : State) (core : Nat) (asid : BitVec 9) (va : Nat) : Via :=
  match (s.core core).tlb.find? fun t => t.covers asid va with
  | some t => { asid := t.asid, va := t.va, bits := t.bits }
  | none => { asid := asid, va := va / 4096 * 4096, bits := 12 }

/-- Translates an address for the launch distributor or another agent of the hub: no TLB, and a read-duplicated page is served from
the frame as written (R96). -/
def State.translateHub (s : State) (asid : BitVec 9) (va : Dword) (acc : AccKind) : Trans × State :=
  let v := va.toNat
  if 2 ^ 57 ≤ v then (.xlate, s) else
  match walk s asid v acc none with
  | .fault k l p => (.fault k l p, s)
  | .ok t _ => (t.answer v, s.orLeaf t.leaf (if accWrites acc then 0xC0 else 0x40))

/-! ### Fault buffers and groups -/

/-- The key of a fault group (R91). -/
def Parked.sameKey (p q : Parked) : Bool :=
  p.asid = q.asid && decide (natBits p.va.toNat 56 12 = natBits q.va.toNat 56 12) && decide (p.kind = q.kind)

/-- The lowest buffer entry that is in use by no access and is the id of no open group. -/
def Plate.freeEntry (p : Plate) : Option Nat :=
  (List.range 4096).find? fun i => (tget p.buffer i).isNone && (tget p.groups i).isNone

/-- Puts an access into a fault buffer: it joins the open group of its key, or opens a new one; false when no entry is free. -/
def Plate.enter (p : Plate) (a : Parked) : Option Plate :=
  match p.freeEntry with
  | none => none
  | some i =>
    match p.groups.find? fun g => g.2.first.sameKey a with
    | some g => some { p with buffer := tset p.buffer i (a, g.1) }
    | none => some { p with buffer := tset p.buffer i (a, i), groups := tset p.groups i { first := a } }

/-- Parks an access at a plate's fault buffer, or holds it at its core while the buffer is full (R91). -/
def State.park (s : State) (plate : Nat) (a : Parked) : State :=
  s.modPlate plate fun p =>
    match p.enter a with
    | some q => q
    | none => { p with waiting := p.waiting ++ [a] }

/-- Takes a faulter's parked accesses out of every fault buffer (R95); a group whose accesses have all left stays open. -/
def State.unpark (s : State) (f : Faulter) : State :=
  let drop (p : Plate) : Plate :=
    { p with buffer := p.buffer.filter fun e => e.2.1.by_ ≠ f, waiting := p.waiting.filter fun a => a.by_ ≠ f }
  s.modHub fun h => (h.setPlate 0 (drop (h.plate 0))).setPlate 1 (drop (h.plate 1))

/-! ### Stores beside a command of the ray unit -/

/-- Does a command's hierarchy hold a byte of [pa, pa + n)? -/
def State.traceHolds (s : State) (core : Nat) (q : Trace) (pa n : Nat) : Bool :=
  let first := q.base.toNat / 4096
  let last := (q.base.toNat + q.len - 1) / 4096
  (List.range (last + 1 - first)).any fun i =>
    let page := (first + i) * 4096
    match walk s q.asid page .engineRead (some (corePlate core)) with
    | .ok t _ => match t.answer page with
      | .ok p _ _ =>
        let lo := max page q.base.toNat - page
        let hi := min (page + 4096) (q.base.toNat + q.len) - page
        overlaps (p + lo) (hi - lo) pa n
      | _ => false
    | _ => false

/-- A store to [pa, pa + n) makes the records of commands that read it undefined (R379). -/
def State.spoilTraces (s : State) (pa n : Nat) : State :=
  if s.cores.all (fun c => c.2.traces.isEmpty) then s else
  { s with cores := s.cores.map fun c =>
      (c.1, { c.2 with traces := c.2.traces.map fun t =>
        if s.traceHolds c.1 t.2 pa n then (t.1, { t.2 with spoiled := true }) else t }) }

end Sys2Proof.Machine
end

