-- ==== Sys2Proof/Machine/Tiles.lean ====
section
/-! DEFINITION. Tags (R139) and negotiated tiles at the level of the whole machine (R146–R157): the home directory, grants, folds,
recalls, deliveries and the outcomes of a surrender wave. -/
namespace Sys2Proof.Machine

/-! ### Tags -/

/-- Changes a tag of a block. -/
def Block.modTag (b : Block) (t : Nat) (f : Tag → Tag) : Block :=
  { b with tags := b.tags.zipIdx.map fun p => if p.2 = t then f p.1 else p.1 }

/-- A command issued on a tag clears its ready and error bits and is counted (R139). -/
def Tag.start (t : Tag) : Tag := { ready := false, error := false, cause := 0, pending := t.pending + 1 }

/-- A completion, with the cause of an error if it ended with one (R139, R140); a `TGCLR` of the same cycle comes after it (R141).
DESIGN CHOICE (log 91): of several commands on one tag that end with an error, the first leaves the cause. -/
def Tag.finish (t : Tag) (err : Option Nat) (now : Nat) : Tag :=
  if t.cleared = some now then { t with pending := t.pending - 1 } else
  { ready := t.ready || decide (t.pending ≤ 1)
    error := t.error || err.isSome
    cause := match err with
      | some c => if t.error then t.cause else c
      | none => t.cause
    pending := t.pending - 1
    cleared := t.cleared }

/-- The block's tag ready bits, bit t for block tag t (Table 11.2, `tgb`). -/
def Block.tgb (b : Block) : Dword :=
  BitVec.ofNat 64 (b.tags.zipIdx.foldl (fun acc p => if p.1.ready then acc + 2 ^ p.2 else acc) 0)
/-- The error bits likewise. -/
def Block.tgerr (b : Block) : Dword :=
  BitVec.ofNat 64 (b.tags.zipIdx.foldl (fun acc p => if p.1.error then acc + 2 ^ p.2 else acc) 0)

/-! ### Tile images and folds -/

/-- The identity of a reduction kind (R146), as the bytes of one element. -/
def tileIdentity (kind : BitVec 2) : List Byte := leBytes (if kind = 3 then 0xFF800000 else 0) 4

/-- A tile's worth of identity elements. -/
def identityImage (kind : BitVec 2) (size : Nat) : List Byte :=
  ((List.range (size / 4)).map fun _ => tileIdentity kind).flatten

/-- The fold of one element into home: operation and type of the reduction (R146). -/
def foldOp (kind : BitVec 2) : BitVec 3 × BitVec 3 :=
  if kind = 1 then (0, 4) else if kind = 2 then (0, 0) else (2, 4)

/-- The fold of a block's copy into home: write-back of the whole image for kind none, a reduction of each 32-bit element otherwise; what
cannot reach its home is reported to the block's wave 0 (R146). -/
def State.foldBytes (s : State) (blk core pa : Nat) (kind : BitVec 2) (bytes : List Byte) : State :=
  let s := s.spoilTraces pa bytes.length
  let ent : EntRef := { blk := blk, slot := 0, frag := false }
  let prio := ((tget s.blocks blk).map fun b => (s.launch b.launch).prio).getD 2
  if kind ≠ 0 then (List.range (bytes.length / 4)).foldl (fun s i =>
    s.redNow core ent prio 0 (foldOp kind).1 (foldOp kind).2 (pa + 4 * i) (dwordOf ((bytes.drop (4 * i)).take 4)) {}) s
  else if s.reachable pa then s.writeHome pa bytes
  else (List.range (bytes.length / 8)).foldl (fun s i => s.storeNow core ent prio 0 (pa + 8 * i) ((bytes.drop (8 * i)).take 8) {}) s

/-- Are elements of a fold, or other stores, of wave 0 of a block on their way to a tile's home (R146)? -/
def State.foldDue (s : State) (pa size : Nat) : Bool :=
  s.cores.any fun c => (c.2.stores.any fun p => decide (p.ent.slot = 0) && !p.arrived && !p.lost && overlaps p.pa p.bytes.length pa size) ||
    c.2.atoms.any fun q => decide (q.ent.slot = 0) && q.dst.isNone && overlaps q.pa 4 pa size

/-- The bytes of a block's copy of a tile. -/
def State.tileCopy (s : State) (b : Block) (aoff size : Nat) : List Byte := s.bufRead b.core 3 (b.aslice.base + aoff) size

/-- The entry of a block for a tile address. -/
def Block.tile (b : Block) (pa : Nat) : Option TileEntry := b.tiles.find? fun t => t.pa = pa
/-- The entry through which a block holds a tile. -/
def Block.heldTile (b : Block) (pa : Nat) : Option TileEntry := b.tiles.find? fun t => t.pa = pa && t.view = .held

def State.setTreq (s : State) (r : Nat) (f : TileReq → TileReq) : State :=
  match tget s.treqs r with
  | some q => { s with treqs := tset s.treqs r (f q) }
  | none => s

/-- The image that a request receives (R147): with tenure of a kind other than none the identity, else the home image. -/
def State.tileImage (s : State) (q : TileReq) (tenure : Bool) : List Byte :=
  if tenure && decide (q.kind ≠ 0) then identityImage q.kind q.size else s.readHome q.pa q.size

/-- A decided request: its image is on its way, or waits for a fold that is (R153). -/
def State.sendImage (s : State) (r : Nat) (q : TileReq) (tenure : Bool) : State :=
  s.setTreq r fun x => { x with phase := if s.foldDue q.pa q.size then .folding tenure else .delivering (s.tileImage q tenure) tenure }

/-- Decides a request for a free tile (R147): the grant of tenure or the snapshot is on its way. -/
def State.grantTile (s : State) (r : Nat) (q : TileReq) : State :=
  if q.excl then
    { s with tiles := tset s.tiles q.pa { size := q.size, holder := q.blk, kind := q.kind } }.sendImage r q true
  else s.sendImage r q false

/-- Counts a QUEUED request on its tag (R156). -/
def State.queueTag (s : State) (q : TileReq) : State := s.modBlock q.blk fun b => b.modTag q.tag Tag.start

/-- A request at the home directory (R147): granted, or sent as a recall to the holder's core. -/
def State.decideTile (s : State) (r : Nat) (q : TileReq) : State :=
  match tget s.tiles q.pa with
  | none => s.grantTile r q
  | some d =>
    match tget s.blocks d.holder with
    | some h =>
      -- recalls of one tile reach its holder in the order in which the directory sends them (R149)
      ({ s with nextReq := s.nextReq + 1 }).setTreq r fun q => { q with phase := .recall h.core, sent := s.nextReq }
    | none => { s with tiles := tdel s.tiles q.pa }.grantTile r q

/-- Takes a request out of a core's recall queue. -/
def State.dropRecall (s : State) (core r : Nat) : State :=
  s.modCore core fun c => { c with recalls := c.recalls.filter fun x => x ≠ r }

/-- After a tile is released, the recalls still queued for it are to be re-sent (R149, R155); the one being served stays. -/
def State.resendRecalls (s : State) (pa : Nat) : State :=
  s.treqs.foldl (fun s p =>
    match p.2.phase with
    | .queued c => if p.2.pa = pa then (s.dropRecall c p.1).setTreq p.1 fun q => { q with phase := .resend } else s
    | _ => s) s

/-- The tenure of a block ends by a fold, as a `.dev` release (R157): home holds the copy, the tile is free, the entry is gone. -/
def State.releaseTile (s : State) (blk pa : Nat) : State :=
  match tget s.blocks blk with
  | none => s
  | some b =>
    match b.heldTile pa with
    | none => s
    | some t =>
      let s := s.foldBytes blk b.core pa t.kind (s.tileCopy b t.aoff t.size)
      let s := s.releaseCaches b.core 6
      let s := { s with tiles := tdel s.tiles pa }
      let s := s.modBlock blk fun b => { b with tiles := b.tiles.filter fun u => !(u.pa = pa && u.view = .held) }
      s.resendRecalls pa

/-- Sets cause bits in every wave of a block; none of them halts (R151, R152). -/
def State.causeAll (s : State) (blk : Nat) (bits : Dword) : State :=
  s.modBlock blk fun b => { b with waves := b.waves.map fun p => (p.1, { p.2 with cause := p.2.cause ||| bits }) }

/-- The outcome FIN of a surrender wave (R153). -/
def State.cedeFin (s : State) (blk r pa : Nat) (cancelled : Bool) : State :=
  match tget s.blocks blk with
  | none => s
  | some b =>
    match b.heldTile pa with
    | none => s
    | some t =>
      let s := s.foldBytes blk b.core pa t.kind (s.tileCopy b t.aoff t.size)
      let s := s.releaseCaches b.core 6
      let s := { s with tiles := tdel s.tiles pa }
      let s := s.modBlock blk fun b => { b with tiles := b.tiles.filter fun u => !(u.pa = pa && u.view = .held) }
      let s := s.resendRecalls pa
      match tget s.treqs r with
      | some q => if cancelled then s else s.grantTile r q
      | none => s

/-- The outcome SUM: the copy is folded and reset to the identity, the requester gets the home image, the holder keeps the tile
(R153, R154). -/
def State.cedeSum (s : State) (blk r pa : Nat) (cancelled : Bool) : State :=
  match tget s.blocks blk with
  | none => s
  | some b =>
    match b.heldTile pa with
    | none => s
    | some t =>
      let s := s.foldBytes blk b.core pa t.kind (s.tileCopy b t.aoff t.size)
      let s := s.bufWrite b.core 3 (b.aslice.base + t.aoff) (identityImage t.kind t.size)
      if cancelled then s
      else match tget s.treqs r with
        | some q => s.sendImage r q false
        | none => s

/-- Changes the refusal count of a tenure. -/
def State.countRefusal (s : State) (blk pa : Nat) : State :=
  s.modBlock blk fun b => { b with tiles := b.tiles.map fun u =>
    if u.pa = pa && u.view = .held then { u with refusals := u.refusals + 1 } else u }

/-- Level mode: the fold or grant of an outcome FIN or SUM enters the holder's stage with the copy as it stands (R213); the copy of
SUM is reset at once. -/
def State.stageCede (s : State) (blk r pa : Nat) (cancelled : Bool) (out : BitVec 2) : State :=
  match tget s.blocks blk with
  | none => s
  | some b =>
    match b.heldTile pa, b.level with
    | some t, some lv =>
      let x : StageEntry := .cede out r cancelled pa t.kind (s.tileCopy b t.aoff t.size)
      let lv := { lv with open_ := { lv.open_ with entries := lv.open_.entries ++ [x] } }
      let s := s.setTreq r fun q => { q with phase := .staged }
      if out = 0 then
        s.setBlock blk { b with level := some lv, tiles := b.tiles.filter fun u => !(u.pa = pa && u.view = .held) }
      else
        (s.setBlock blk { b with level := some lv }).bufWrite b.core 3 (b.aslice.base + t.aoff) (identityImage t.kind t.size)
    | _, _ => s

/-- Does an engine still run a command of the block (R137)? -/
def State.enginesBusy (s : State) (core blk : Nat) : Bool :=
  ((s.core core).copies.any fun p => p.2.blk = blk) || ((s.core core).traces.any fun p => p.2.blk = blk)

/-- An ended block gives its slices back when no surrender wave and no command of its own runs (R137, R155), and in Level mode when the
Notch has released its segments. -/
def State.reapBlock (s : State) (blk : Nat) : State :=
  match tget s.blocks blk with
  | none => s
  | some b =>
    if b.ended && b.sur.isNone && !(s.cores.any fun c => s.enginesBusy c.1 blk) && ((b.level.map (·.closed)).getD []).isEmpty then
      { s with blocks := tdel s.blocks blk }
    else s

/-- Ends the surrender wave of a block with an outcome: 0 FIN, 1 SUM, 2 REF (R152, R153); a tile that a block which has ended still holds
is then released (R155). -/
def State.cede (s : State) (blk : Nat) (out : BitVec 2) : State :=
  match tget s.blocks blk with
  | none => s
  | some b =>
    match b.sur with
    | none => s
    | some (_, q) =>
      let s := (s.dropRecall b.core q.req).modBlock blk fun b => { b with sur := none }
      let t := b.heldTile q.tile
      let req := tget s.treqs q.req
      let snap := match req with
        | some r => !r.excl
        | none => false
      let kind := (t.map (·.kind)).getD 0
      let out := if out = 1 ∧ ¬ (snap = true ∧ kind ≠ 0) then 2 else out
      let fin (s : State) : State :=
        if b.isLevel then s.stageCede blk q.req q.tile q.cancelled 0 else s.cedeFin blk q.req q.tile q.cancelled
      let s :=
        if out = 0 then fin s
        else if out = 1 then
          if b.isLevel then s.stageCede blk q.req q.tile q.cancelled 1 else s.cedeSum blk q.req q.tile q.cancelled
        else if (t.map (·.refusals)).getD 0 < b.lim then
          let s := s.countRefusal blk q.tile
          if q.cancelled then s else s.setTreq q.req fun r => { r with phase := .refused }
        else (fin s).causeAll blk (1#64 <<< 22)
      let s := if q.cancelled then { s with treqs := tdel s.treqs q.req } else s
      if b.ended then (s.releaseTile blk q.tile).reapBlock blk else s

/-- The surrender wave of a block makes no further access: all that it has issued is performed (R153), and no result comes back to it. -/
def State.settleSurrender (s : State) (core blk : Nat) : State :=
  let mine (r : EntRef) : Bool := decide (r.blk = blk) && decide (r.slot = 16)
  let s := (s.core core).stores.foldl (fun s p => if mine p.ent then s.arriveStore core p else s) s
  let s := (s.core core).atoms.foldl (fun s q => if mine q.ent then s.arriveReq core q else s) s
  s.modCore core fun c =>
    { c with stores := c.stores.filter fun p => !mine p.ent, atoms := c.atoms.filter fun q => !mine q.ent
             loads := c.loads.filter fun p => !mine p.ent, stip := c.stip.filter fun p => !mine p.ent }

/-- A trap in a surrender wave (R151): it ends as by `CEDE.FIN`, after every access that it has issued has been performed (R153), and
the cause bit and OVERRUN are set in every wave of the holder block. -/
def State.surrenderTrap (s : State) (blk : Nat) (bits : Dword) : State :=
  match tget s.blocks blk with
  | none => s
  | some b => ((s.settleSurrender b.core blk).cede blk 0).causeAll blk (bits ||| 1#64 <<< 21)

end Sys2Proof.Machine
end

