-- ==== Sys2Proof/Machine/Etch.lean ====
section
/-! DEFINITION. Rings that the device's own writers fill (R142–R144, R429), and the Etch trace (R412–R414). -/
namespace Sys2Proof.Machine

/-! ### Ring words -/

/-- The fields of a ring word (Table 6.4). -/
def ringK (w : Dword) : Nat := natBits w.toNat 4 0
def ringSpc (w : Dword) : Bool := natBit w.toNat 5
def ringBase (w : Dword) : Nat := natBits w.toNat 56 6 * 64
def ringZ (w : Dword) : Nat := natBits w.toNat 61 58

/-- The word meets R144: k ≤ 16, z ≤ 10, reserved bits zero. -/
def ringOk (w : Dword) : Bool :=
  decide (ringK w ≤ 16) && decide (ringZ w ≤ 10) && !natBit w.toNat 57 && decide (natBits w.toNat 63 62 = 0)

/-- A ring word of a hub register names an enabled ring (R429): it meets R144, spc is 0, the base is a non-zero physical address in
DRAM or in the host window. -/
def ringEnabled (w : Dword) : Bool :=
  ringOk w && !ringSpc w && decide (ringBase w ≠ 0) && decide (ringBase w < 2 ^ 52) &&
    (inDram (ringBase w) || inHostWindow (ringBase w))

/-- The slot size in bytes, and the address of the slot of an index. -/
def ringSlotSize (w : Dword) : Nat := 64 * 2 ^ ringZ w
def ringSlot (w : Dword) (i : Nat) : Nat := ringBase w + i % 2 ^ ringK w * ringSlotSize w

/-- The phase of an index and its lap flag, given whether the index has passed 0xFFFF_FFFF (R142, R143). -/
def ringPhase (w : Dword) (i : Nat) : Nat := i / 2 ^ ringK w % 2
def ringLap0 (w : Dword) (i : Nat) (wrapped : Bool) : Bool := decide (i < 2 ^ ringK w) && !wrapped

/-- The producer's condition on a header (R143). -/
def ringMayFill (w : Dword) (i : Nat) (wrapped : Bool) (header : Nat) : Bool :=
  if ringLap0 w i wrapped then decide (header = 1) else decide (header = 2 + (1 - ringPhase w i))

/-- The next index and the wrap bit (R142, R143). -/
def ringNext (i : Word) (wrapped : Bool) : Word × Bool := (i + 1, wrapped || decide (i = 0xFFFFFFFF))

/-- A hub writer fills the slot of its index and flips it, when the producer's condition holds. The bytes follow the 8-byte
header; the slot's other bytes are written zero. -/
def State.fillSlot (s : State) (w : Dword) (i : Word) (wrapped : Bool) (bytes : List Byte) : Option State :=
  if ringEnabled w = false then none else
  let a := ringSlot w i.toNat
  let header := leNat (s.readHome a 8)
  if ringMayFill w i.toNat wrapped header then
    let pad := List.replicate (ringSlotSize w - 8 - bytes.length) (0 : Byte)
    some ((s.writeHome (a + 8) ((bytes ++ pad).take (ringSlotSize w - 8))).writeHome a (leBytes (ringPhase w i.toNat) 8))
  else none

/-! ### Identities of waves -/

/-- `wid` of a wave (R189, R204, Table 11.2). -/
def State.wid (s : State) (b : Block) (slot : Nat) : Dword :=
  let w (n : Nat) : Dword :=
    if b.task then b.blk.setWidth 64 else BitVec.ofNat 64 (b.blk.toNat * (s.launch b.launch).kd.wpb + n)
  if slot = 16 then w 0 ||| 1#64 <<< 63 else w slot

/-! ### The Etch trace -/

/-- Does an entity of the block on its core produce packets (R412)? -/
def State.traces (s : State) (b : Block) : Bool :=
  (s.launch b.launch).etch && natBit (s.core b.core).dbg.etctl.toNat 0

/-- The SYNC cadence N; a value below 16 acts as 16 (Table 22.8). -/
def etchCadence (etctl : Dword) : Nat := max 16 (natBits etctl.toNat 15 4)

/-- The SYNC cadence counts packets; a packet is put into the slot being filled. A full slot is written out first, its tail PAD. A
packet that would begin a slot while the ring has no empty one is dropped and counted. -/
def State.etchRaw (s : State) (core : Nat) (pkt : List Byte) : State × Bool :=
  let c := s.core core
  let w := c.dbg.etring
  if ringEnabled w = false then (s, false) else
  let room := ringSlotSize w - 8
  let flushed : Option State :=
    if c.etch.buf.length + pkt.length ≤ room then some s else
    match s.fillSlot w c.etch.prod c.etch.wrap c.etch.buf with
    | none => none
    | some s =>
      let n := ringNext c.etch.prod c.etch.wrap
      some (s.modCore core fun c => { c with etch := { c.etch with prod := n.1, wrap := n.2, buf := [] } })
  match flushed with
  | none => (s.modCore core fun c => { c with etch := { c.etch with lost := c.etch.lost + 1 } }, false)
  | some s =>
    let c := s.core core
    let header := leNat (s.readHome (ringSlot w c.etch.prod.toNat) 8)
    if c.etch.buf.isEmpty && !ringMayFill w c.etch.prod.toNat c.etch.wrap header then
      (s.modCore core fun c => { c with etch := { c.etch with lost := c.etch.lost + 1 } }, false)
    else (s.modCore core fun c => { c with etch := { c.etch with buf := c.etch.buf ++ pkt, total := c.etch.total + 1 } }, true)

/-- A packet, preceded by a LOSS when packets were dropped (R414). -/
def State.etchPut (s : State) (core : Nat) (pkt : List Byte) : State × Bool :=
  let lost := (s.core core).etch.lost
  if lost = 0 then s.etchRaw core pkt else
  let (s, ok) := s.etchRaw core ([0x06, 0] ++ leBytes (min lost 0xFFFFFFFF) 4)
  if ok then
    (s.modCore core fun c => { c with etch := { c.etch with lost := 0, lossAt := c.etch.total } }).etchRaw core pkt
  else (s, false)

/-- The packets of an entity for a word whose entity stands at `pc` (R413): they wait for the end of the cycle. `starts`: the word has
started the wave's fragment. -/
def State.etch (s : State) (r : EntRef) (pc : Dword) (pkts : List (Nat → List Byte)) (starts : Bool := false) : State :=
  match tget s.blocks r.blk with
  | none => s
  | some b =>
    match (b.wave r.slot).bind fun w => (w.entity r.frag).map fun e => (w, e) with
    | none => s
    | some (w, e) =>
      if s.traces b = false || pkts.isEmpty then s else
      let tag := w.cslot + (if r.frag then 128 else 0)
      let sync : List Byte := [0x01, BitVec.ofNat 8 tag, (if w.saved.isSome then 1 else 0), 0] ++ leBytes e.xm.toNat 4 ++
        leBytes pc.toNat 8 ++ leBytes (s.wid b r.slot).toNat 8 ++ leBytes s.now 8
      let item (p : (Nat → List Byte) × Nat) : EtchItem :=
        { quad := b.quad r.slot, tag := tag, fresh := !e.sync && decide (p.2 = 0), sync := sync, pkt := p.1 tag, starts := starts }
      s.modCore b.core fun c => { c with etch := { c.etch with queue := c.etch.queue ++ pkts.zipIdx.map item } }

/-- A packet enters the stream, preceded by a SYNC where one is due (R414): after a start, restore, trap entry or return, after a LOSS,
and after N packets of the stream. -/
def State.etchItem (s : State) (core : Nat) (x : EtchItem) : State :=
  let c := s.core core
  let due := x.fresh || (match tget c.etch.syncs x.tag with
    | none => true
    | some n => decide (n < c.etch.lossAt) || decide (n + etchCadence c.dbg.etctl ≤ c.etch.total) || decide (c.etch.lost ≠ 0))
  let s := if due then
      let (s, ok) := s.etchPut core x.sync
      if ok then s.modCore core fun c =>
        { c with etch := { c.etch with last := s.now, syncs := tset c.etch.syncs x.tag c.etch.total } }
      else s
    else s
  let s := (s.etchPut core x.pkt).1
  -- no SYNC is due for a fragment as it starts (Table 22.6): it counts packets from its parent's last one
  if x.starts then s.modCore core fun c => { c with etch := { c.etch with syncs := match tget c.etch.syncs x.tag with
    | some n => tset c.etch.syncs (x.tag % 128 + 128) n
    | none => tdel c.etch.syncs (x.tag % 128 + 128) } }
  else s

/-- The packets of the cycle enter the stream of their core, in ascending order of quadrants (R414). -/
def State.etchFlush (s : State) (core : Nat) : State :=
  let q := (s.core core).etch.queue
  if q.isEmpty then s else
  let s := s.modCore core fun c => { c with etch := { c.etch with queue := [] } }
  ((List.range 4).flatMap fun n => q.filter fun x => x.quad = n).foldl (fun s x => s.etchItem core x) s

/-- Packet forms of Table 22.5, given the entity tag. -/
def pktBr (taken : Bool) (tag : Nat) : List Byte := [if taken then 0x12 else 0x02, BitVec.ofNat 8 tag]
def pktSplit (c : Mask) (tag : Nat) : List Byte := [0x03, BitVec.ofNat 8 tag] ++ leBytes c.toNat 4
def pktInd (kind : Nat) (target : Dword) (tag : Nat) : List Byte :=
  [BitVec.ofNat 8 (kind * 16 + 4), BitVec.ofNat 8 tag] ++ leBytes target.toNat 8
def pktMark (code : Nat) (val : Dword) (tag : Nat) : List Byte :=
  [0x07, BitVec.ofNat 8 tag] ++ leBytes code 2 ++ leBytes val.toNat 8
def pktEnd (why : Nat) (tag : Nat) : List Byte := [BitVec.ofNat 8 (why * 16 + 8), BitVec.ofNat 8 tag]

end Sys2Proof.Machine
end

