-- ==== Sys2Proof/Machine/Fields.lean ====
section
/-! DEFINITION. The rules of fields and hints that make a well-encoded word an instruction (R27–R42 and each entry's list of what
traps ILLOP): which guard, immediate, extra sources and modes an instruction accepts, and which register names it reads. -/
namespace Sys2Proof.Machine

/-- Whether an instruction takes an extra source of `HSRC` (R40). -/
inductive Need where
  | no | may | must
deriving DecidableEq, Repr

/-- What an instruction accepts in front of it and which names it reads. A name is 0–63 for v, 64–71 for m (R42). -/
structure Shape where
  guard : Option Guard := none
  /-- the width of the immediate that `HIMM` extends; none: an `HIMM` traps ILLOP (R38) -/
  immW  : Option Nat := none
  himmMust : Bool := false
  vc : Need := .no
  /-- the names of the third vector source: both of a 64-bit pair -/
  vcn : Nat := 1
  sc : Need := .no
  /-- `HMOD` fields the instruction uses -/
  rm  : Bool := false
  ftz : Bool := false
  cv  : Bool := false
  cp  : Bool := false
  /-- orderings and scopes accepted, as codes of `HMOD` (R41, R69, R128, R130) -/
  ords : List Nat := []
  scps : List Nat := []
  /-- any hint traps ILLOP; any hint but `HOLD` and `HFREE`; any `HMOD`, even one with every field zero -/
  noHint : Bool := false
  only   : Bool := false
  noMod  : Bool := false
  /-- names read as sources, and names that last-read bits free (R30) -/
  reads : List Nat := []
  frees : List Nat := []
deriving DecidableEq, Repr

/-- The name, or both names of a 64-bit pair, or a group of names. -/
def names (r : Reg6) (n : Nat) : List Nat := (List.range n).map (r.toNat + ·)
/-- The names freed by a last-read bit. -/
def freed (l : Bool) (ns : List Nat) : List Nat := if l then ns else []

/-- Scopes 1–8: all of them (Table 3.6). -/
def scpAll : List Nat := [1, 2, 3, 4, 5, 6, 7, 8]
/-- `.wave` and `.block`. -/
def scpBlock : List Nat := [1, 2]

/-- A two-source vector shape: sources a and b of `n` names each. -/
def shV (a b : Reg6) (la lb : Bool) (gd : Guard) (n : Nat := 1) : Shape :=
  { guard := some gd, reads := names a n ++ names b n, frees := freed la (names a n) ++ freed lb (names b n) }
/-- A one-source vector shape. -/
def shF (a : Reg6) (la : Bool) (gd : Guard) (n : Nat := 1) : Shape :=
  { guard := some gd, reads := names a n, frees := freed la (names a n) }
/-- A one-source shape with an immediate of width w. -/
def shI (a : Reg6) (w : Option Nat) (gd : Guard) : Shape := { guard := some gd, immW := w, reads := names a 1 }
/-- A scalar shape with the immediate flag (R251). -/
def shS (i : Bool) : Shape := { immW := if i then some 0 else none, himmMust := i }
def shOnly : Shape := { only := true }
def shNone : Shape := { noHint := true }

/-- Bytes of a width code of R67. -/
def widthBytes (w : BitVec 3) : Nat :=
  match w.toNat with
  | 0 => 1 | 1 => 2 | 2 => 4 | 3 => 8 | 4 => 16 | 5 => 1 | _ => 2
/-- Registers of a width code of R67. -/
def widthRegs (w : BitVec 3) : Nat :=
  match w.toNat with
  | 3 => 2 | 4 => 4 | _ => 1

/-- The vector names that form an address (R66): a pair for a global address without a scalar base, else one offset register. -/
def addrNames (global : Bool) (p q : Bool) (i : BitVec 4) : List Nat :=
  if q then (if global && !p then [2 * i.toNat, 2 * i.toNat + 1] else [i.toNat]) else []

/-- Shape of a load or store of formats M (R66–R71). -/
def shM (global store : Bool) (d : Reg6) (p q : Bool) (i : BitVec 4) (w : BitVec 3) (gd : Guard) : Shape :=
  { guard := some gd, immW := some 0, cp := global
    ords := if w = 4 then [] else if store then [1, 4] else if global then [1, 2, 3] else [1, 2]
    scps := if global then scpAll else scpBlock
    reads := addrNames global p q i ++ (if store then names d (widthRegs w) else []) }

/-- Shape of a floating instruction of two sources. -/
def shFp (a b : Reg6) (la lb : Bool) (gd : Guard) (n : Nat := 1) : Shape :=
  { shV a b la lb gd n with rm := true, ftz := true }
/-- And of one with an addend. -/
def shFma (a b : Reg6) (la lb : Bool) (gd : Guard) (n : Nat := 1) : Shape :=
  { shV a b la lb gd n with rm := true, ftz := true, vc := .must }

/-- The conversion codes whose mode m applies (Table 10.5). -/
def cvtHasMode (c : BitVec 4) : Bool := decide (c.toNat ≤ 7) || decide (c.toNat = 11) || decide (c.toNat = 12)
/-- The names a conversion reads: a pair for an FP64 source. -/
def cvtSrcNames (c : BitVec 4) : Nat := if c = 11 ∨ c = 12 then 2 else 1

/-- Shape of `ATOM`, `RED` and `ATOMA` (R126, R128). -/
def shAtom (red buffer : Bool) (d a : Reg6) (f t : BitVec 3) (la m : Bool) (gd : Guard) : Shape :=
  let an := names a (if buffer || m then 1 else 2)
  { guard := some gd
    vc := if f = 7 then .must else .no
    vcn := if t = 2 ∨ t = 3 then 2 else 1
    sc := if buffer then .may else if m then .must else .no
    ords := if red then [1, 4] else if buffer then [1, 2, 4, 5] else [1, 2, 3, 4, 5]
    scps := if buffer then scpBlock else scpAll
    reads := an ++ names d (if t = 2 ∨ t = 3 then 2 else 1)
    frees := freed la an }

/-- The names of a matrix register as `HFREE` codes them. -/
def mname (m : Reg3) : Nat := 64 + m.toNat

/-- The shape of each instruction word. -/
def shape (i : Instr) : Shape :=
  match i with
  | .bra .. => { immW := some 17 }
  | .call .. => { immW := some 20, noMod := true }
  | .jmps .. | .calls .. | .ret .. | .exit | .rejoin | .isync | .nap .. => shOnly
  | .bar | .cbar .. => shNone
  | .post d _ gd => { guard := some gd, noMod := true, reads := names d 8 }
  | .sadd _ _ _ i | .ssub _ _ _ i | .smul _ _ _ i | .smulh _ _ _ i _ | .sand _ _ _ i | .sor _ _ _ i | .sxor _ _ _ i
  | .sshl _ _ _ i | .sshr _ _ _ i | .ssar _ _ _ i | .smin _ _ _ i _ | .smax _ _ _ i _ | .scmp _ _ _ i _
  | .slea _ _ _ i _ => shS i
  | .ssel _ _ _ i => { shS i with sc := .must }
  | .smov .. => {}
  | .smovi .. => { immW := some 20, noMod := true }
  | .sld _ _ _ p => { immW := some 0, cp := true, ords := if p = 0 then [1, 2, 3] else [1, 2], scps := if p = 0 then scpAll else scpBlock }
  | .sst _ _ _ p => { immW := some 0, cp := true, ords := [1, 4], scps := if p = 0 then scpAll else scpBlock }
  | .srd .. | .swr .. => shOnly
  | .vadd _ a b la lb gd | .vsub _ a b la lb gd | .vmul _ a b la lb gd | .vmulh _ a b la lb gd | .vand _ a b la lb gd
  | .vor _ a b la lb gd | .vxor _ a b la lb gd | .vshl _ a b la lb gd | .vshr _ a b la lb gd | .vsar _ a b la lb gd
  | .vmin _ a b la lb gd | .vmax _ a b la lb gd | .vminn _ a b la lb gd | .vmaxn _ a b la lb gd => shV a b la lb gd
  | .vaddc _ a b la lb gd | .vsubb _ a b la lb gd => { shV a b la lb gd with vc := .may }
  | .vaddi _ a _ gd | .vandi _ a _ gd => shI a (some 8) gd
  | .vshli _ a _ gd | .vshri _ a _ gd | .vsari _ a _ gd => shI a none gd
  | .vmovi _ _ gd => { guard := some gd, immW := some 14 }
  | .vnot _ a la gd | .vneg _ a la gd | .vabs _ a la gd | .vclz _ a la gd | .vpopc _ a la gd | .vmov _ a la gd =>
    { shF a la gd with only := true }
  | .vbfe _ a la _ gd => { shF a la gd with immW := some 0, himmMust := true, noMod := true }
  | .vbfi d a la gd => { shF a la gd with immW := some 0, himmMust := true, noMod := true, reads := names a 1 ++ names d 1 }
  | .vsel _ a b la lb gd => shV a b la lb gd
  | .vmad _ a b la lb gd => { shV a b la lb gd with vc := .must }
  | .vlea _ a _ _ gd => { guard := some gd, reads := names a 1 }
  | .vcmp _ _ a b gd => { guard := some gd, reads := names a 1 ++ names b 1 }
  | .fcmp _ c a b gd =>
    { guard := some gd, ftz := true, reads := names a (if c.getLsbD 3 then 2 else 1) ++ names b (if c.getLsbD 3 then 2 else 1) }
  | .pand _ _ _ _ gd | .por _ _ _ _ gd | .pxor _ _ _ _ gd | .pnot _ _ gd | .pset _ _ gd => { shNone with guard := some gd }
  | .ktov _ _ gd | .ktos _ _ gd | .stok _ _ gd | .pcnt _ _ gd => { shNone with guard := some gd }
  | .vtok _ r gd => { shNone with guard := some gd, reads := [r.toNat] }
  | .xmget .. | .xmset .. => shNone
  | .vmatch _ _ a gd => { shOnly with guard := some gd, reads := names a 1 }
  | .fadd _ a b la lb gd | .fsub _ a b la lb gd | .fmul _ a b la lb gd | .fdiv _ a b la lb gd
  | .hadd _ a b la lb gd | .hsub _ a b la lb gd | .hmul _ a b la lb gd
  | .badd _ a b la lb gd | .bsub _ a b la lb gd | .bmul _ a b la lb gd => shFp a b la lb gd
  | .ffma _ a b la lb gd | .hfma _ a b la lb gd | .bfma _ a b la lb gd => shFma a b la lb gd
  | .fmin _ a b la lb gd | .fmax _ a b la lb gd | .hmin _ a b la lb gd | .hmax _ a b la lb gd
  | .bmin _ a b la lb gd | .bmax _ a b la lb gd => { shV a b la lb gd with ftz := true }
  | .dadd _ a b la lb gd | .dsub _ a b la lb gd | .dmul _ a b la lb gd => shFp a b la lb gd 2
  | .dfma _ a b la lb gd => { shFma a b la lb gd 2 with vcn := 2 }
  | .fabs _ a la m gd | .fneg _ a la m gd | .frcp _ a la m gd | .frsq _ a la m gd =>
    { shF a la gd (if m then 2 else 1) with ftz := true }
  | .fsqrt _ a la m gd | .frnd _ a la m gd => { shF a la gd (if m then 2 else 1) with ftz := true, rm := true }
  | .fexp2 _ a la gd | .flog2 _ a la gd | .fsin _ a la gd | .fcos _ a la gd => { shF a la gd with ftz := true }
  | .fclass _ a la m gd => { shF a la gd (if m then 2 else 1) with noMod := true }
  | .cvt _ a c _ la _ gd => { shF a la gd (cvtSrcNames c) with rm := true, ftz := true, cv := cvtHasMode c }
  | .cvts _ a b la lb gd => { shV a b la lb gd with ftz := true, sc := .must }
  | .pack _ a b la lb gd => { shV a b la lb gd with only := true }
  | .unpk _ a c _ la gd => { shF a la gd with ftz := true, rm := decide (c = 4) }
  | .rnd _ a _ la m gd =>
    if m then { guard := some gd, immW := some 6, noMod := true } else { shF a la gd with noMod := true }
  | .rslice _ a _ la _ gd => { shF a la gd 4 with sc := .must, noMod := true }
  | .rbern _ c a b gd => { shOnly with guard := some gd, reads := [a.toNat + c.toNat, b.toNat] }
  | .rkey .. => shNone
  | .shfl _ a b la lb gd => shV a b la lb gd
  | .shfx _ a _ gd | .shfu _ a _ gd | .shfd _ a _ gd => shI a none gd
  | .bcst _ a _ _ gd => { shOnly with guard := some gd, reads := names a 1 }
  | .rdfl _ a _ w gd => { shOnly with guard := some gd, reads := names a (if w then 2 else 1) }
  | .vred _ a f la gd => { shF a la gd with ftz := decide (8 ≤ f.toNat), rm := decide (f = 8) }
  | .vscan _ a f la _ gd => { shF a la gd with ftz := decide (8 ≤ f.toNat), rm := decide (f = 8) }
  | .ld d p q i _ w gd => shM true false d p q i w gd
  | .st d p q i _ w gd => shM true true d p q i w gd
  | .lda d p q i _ w gd | .ldw d p q i _ w gd => { shM false false d p q i w gd with sc := .may }
  | .sta d p q i _ w gd | .stw d p q i _ w gd | .stc d p q i _ w gd => shM false true d p q i w gd
  | .ldc d p q i _ w gd => shM false false d p q i w gd
  | .ldt _ _ _ _ gd => { guard := some gd }
  | .stt d _ _ _ gd => { guard := some gd, reads := names d 1 }
  | .pref _ p q i _ gd | .cflush _ p q i _ gd | .cinv _ p q i _ gd =>
    { guard := some gd, immW := some 0, reads := addrNames true p q i }
  | .tidset .. | .tidget .. | .tidinv .. => {}
  | .atom d a f t la m gd => shAtom false false d a f t la m gd
  | .red d a f t la m gd => shAtom true false d a f t la m gd
  | .atoma d a f t la gd => shAtom false true d a f t la false gd
  | .fence .. => { noMod := true }
  | .bsrd .. => { ords := [1, 2], scps := scpBlock }
  | .bswr .. => { ords := [1, 4], scps := scpBlock }
  | .bsxch .. | .bsadd .. => { ords := [1, 2, 4, 5], scps := scpBlock }
  | .cpy .. => {}
  | .cpyt .. => { sc := .must }
  | .tgwait .. | .tgany .. | .tgfind .. | .tgclr .. | .tgtest .. => {}
  | .ridx .. | .rwait .. | .rflip .. => { noMod := true }
  | .tacq _ _ _ _ k => { sc := if k then .no else .must, noMod := true }
  | .trel .. | .cede .. | .tstat .. => { noMod := true }
  | .trap .. | .tret | .cclr .. => shNone
  | .resv .. => { noMod := true }
  | .lvq | .lvqSeg => shOnly
  | .mark .. | .hctr .. | .dbrk .. => shNone
  | .mld _ _ _ _ gd => { guard := some gd, immW := some 0, sc := .may, cp := true }
  | .mldA _ _ _ _ gd => { guard := some gd, immW := some 0, sc := .may, noMod := true }
  | .mst a _ gd => { guard := some gd, immW := some 0, sc := .may, cp := true, reads := [mname a] }
  | .mstA a _ gd => { guard := some gd, immW := some 0, sc := .may, noMod := true, reads := [mname a] }
  | .mmov _ a gd | .mtrn _ a gd | .mchol _ a gd | .mget _ a _ _ gd => { shOnly with guard := some gd, reads := [mname a] }
  | .mset _ _ _ v gd => { shOnly with guard := some gd, reads := [v.toNat] }
  | .mzero _ _ _ gd | .mident _ _ _ gd | .mflg _ _ gd => { shOnly with guard := some gd }
  | .madd _ a b gd | .msub _ a b gd | .mmul _ a b gd | .mmult _ a b gd =>
    { shOnly with guard := some gd, reads := [mname a, mname b] }
  | .mscl _ a v gd => { shOnly with guard := some gd, reads := [mname a, v.toNat] }
  | .mfma _ a b c gd => { shOnly with guard := some gd, reads := [mname a, mname b, mname c] }
  | .mlu _ a _ gd => { shOnly with guard := some gd, reads := [mname a] }
  | .msolve _ a b m gd =>
    if m = 3 then { guard := some gd, vc := .must, noMod := true, reads := [mname a, mname b] }
    else { shOnly with guard := some gd, reads := [mname a, mname b] }
  | .gcmd .. | .grdy | .gfence .. | .gwait .. | .gwin .. | .gctr .. | .gclr .. | .gqry .. => shOnly
  | .vapp _ a la _ gd => shF a la gd 16
  | .vseal _ a la gd | .vget _ a la gd | .vref _ a la gd | .vrel _ a la gd | .vgen _ a la gd => shF a la gd
  | .vconn _ a la gd | .vmerge _ a la gd => shF a la gd 4
  | .vrwt _ a la gd => { shF a la gd 4 with sc := .must }
  | .trace _ a la m gd | .traceAny _ a la m gd => { shF a la gd (if m then 1 else 8) with sc := .must, noMod := true }
  | .hitget _ _ _ gd => { shOnly with guard := some gd }
  | _ => {}

/-- The v and m names that an instruction writes, coded as in `HFREE`, as far as its word fixes them: what a typed-buffer access also reads and writes
turns out with its identifier (R42, R44). -/
def dests (i : Instr) : List Nat :=
  match i with
  | .vaddc d .. | .vsubb d .. | .vlea d .. | .dadd d .. | .dsub d .. | .dmul d .. | .dfma d .. => names d 2
  | .fabs d _ _ m _ | .fneg d _ _ m _ | .frcp d _ _ m _ | .frsq d _ _ m _ | .fsqrt d _ _ m _ | .frnd d _ _ m _ =>
    names d (if m then 2 else 1)
  | .cvt d _ c .. => names d (if c = 10 ∨ c = 13 then 2 else 1)
  | .vred d _ f .. => names d (if 11 ≤ f.toNat then 2 else 1)
  | .rnd d .. => names d 4
  | .ld d _ _ _ _ w _ | .lda d _ _ _ _ w _ | .ldw d _ _ _ _ w _ | .ldc d _ _ _ _ w _ => names d (widthRegs w)
  | .atom d _ _ t .. | .atoma d _ _ t .. => names d (if t = 2 ∨ t = 3 then 2 else 1)
  | .vapp d .. | .vconn d .. | .vrwt d .. => names d 2
  | .vmerge d .. => names d 9
  | .vget d .. => names d 16
  | .hitget d .. => names d 4
  | .ktov _ r _ => [r.toNat]
  | .srd d v _ => if v then [d.toNat] else []
  | .mget _ _ _ v _ => [v.toNat]
  | .mlu d _ v _ => [mname d, v.toNat]
  | .mld d .. | .mldA d .. | .mmov d .. | .mset d .. | .mzero d .. | .mident d .. | .mtrn d .. | .madd d .. | .msub d ..
  | .mscl d .. | .mmul d .. | .mmult d .. | .mfma d .. | .mchol d .. | .msolve d .. => [mname d]
  | .vadd d .. | .vsub d .. | .vmul d .. | .vmulh d .. | .vand d .. | .vor d .. | .vxor d .. | .vshl d .. | .vshr d .. | .vsar d ..
  | .vmin d .. | .vmax d .. | .vminn d .. | .vmaxn d .. | .vaddi d .. | .vshli d .. | .vshri d .. | .vsari d .. | .vandi d ..
  | .vmovi d .. | .vnot d .. | .vneg d .. | .vabs d .. | .vclz d .. | .vpopc d .. | .vmov d .. | .vbfe d .. | .vbfi d .. | .vsel d ..
  | .vmad d .. | .fadd d .. | .fsub d .. | .fmul d .. | .ffma d .. | .fmin d .. | .fmax d .. | .fexp2 d .. | .flog2 d .. | .fsin d ..
  | .fcos d .. | .fclass d .. | .fdiv d .. | .hadd d .. | .hsub d .. | .hmul d .. | .hfma d .. | .hmin d .. | .hmax d .. | .badd d ..
  | .bsub d .. | .bmul d .. | .bfma d .. | .bmin d .. | .bmax d .. | .cvts d .. | .pack d .. | .unpk d .. | .rslice d .. | .shfl d ..
  | .shfx d .. | .shfu d .. | .shfd d .. | .bcst d .. | .vscan d .. | .vseal d .. | .vref d .. | .vrel d .. | .vgen d .. => names d 1
  | _ => []

/-! ### Values of fields -/

def even6 (r : Reg6) : Bool := r.toNat % 2 = 0
def mul4 (r : Reg6) : Bool := r.toNat % 4 = 0
def isK (k : Reg4) : Bool := decide (k.toNat < 12)
/-- The guard field (R29): 12–14, and 15 with n = 1, trap ILLOP. -/
def guardOk (g : Guard) : Bool := decide (g.g.toNat < 12) || (decide (g.g = 15) && !g.n)
/-- The memory operand's fields (R66). -/
def addrOk (p q : Bool) (i : BitVec 4) (s : Reg5) : Bool := (q || decide (i = 0)) && (p || decide (s = 0))
/-- The width code and its register group (R67). -/
def widthOk (store : Bool) (d : Reg6) (w : BitVec 3) : Bool :=
  decide (w ≠ 7) && !(store && decide (4 < w.toNat)) && (decide (w ≠ 3) || even6 d) && (decide (w ≠ 4) || mul4 d)
def immLow5 (i : BitVec 8) : Bool := decide (i.toNat < 32)
/-- The range of p (Table 10.5, R243). -/
def posOk (c : BitVec 4) (p : BitVec 2) : Bool :=
  if c.toNat ≤ 1 then decide (p.toNat ≤ 1) else if c.toNat ≤ 5 then true else decide (p = 0)
def atomOk (red : Bool) (d a : Reg6) (f t : BitVec 3) (pair : Bool) : Bool :=
  decide (t.toNat ≤ 4) && !(red && decide (6 ≤ f.toNat)) && !(decide (t = 4) && decide (3 ≤ f.toNat)) &&
    (decide (t ≠ 2 ∧ t ≠ 3) || even6 d) && (!pair || even6 a)

/-- The field values an instruction word may have, beyond what its decoding fixes. -/
def fieldsOk (i : Instr) : Bool :=
  match i with
  | .bra m k n _ => decide (m.toNat ≤ 4) && isK k && (decide (m ≠ 0) || (decide (k = 0) && !n))
  | .post d _ _ => decide (d.toNat % 8 = 0)
  | .scmp _ _ b i c => decide (c.toNat % 8 ≤ 5) && (!i || decide (b = 0))
  | .sadd _ _ b i | .ssub _ _ b i | .smul _ _ b i | .smulh _ _ b i _ | .sand _ _ b i | .sor _ _ b i | .sxor _ _ b i
  | .sshl _ _ b i | .sshr _ _ b i | .ssar _ _ b i | .smin _ _ b i _ | .smax _ _ b i _ | .slea _ _ b i _
  | .ssel _ _ b i => !i || decide (b = 0)
  | .sld _ _ w _ => decide (w ≠ 7)
  | .sst _ _ w _ => decide (w.toNat ≤ 3)
  | .srd _ v n => decide (n.toNat ≤ 0x1B) && (v || (decide (n ≠ 0x00) && decide (n ≠ 0x16)))
  | .swr _ n => decide (n = 0x12) || decide (n = 0x14) || decide (n = 0x15) || decide (n = 0x1A)
  | .vaddc d .. | .vsubb d .. | .vlea d .. => even6 d
  | .vshli _ _ i _ | .vshri _ _ i _ | .vsari _ _ i _ => immLow5 i
  | .shfx _ _ i _ | .shfu _ _ i _ | .shfd _ _ i _ => immLow5 i
  | .vsel _ _ _ _ _ g => decide (g.g ≠ 15)
  | .vcmp k c _ _ _ => isK k && decide (c.toNat % 8 ≤ 5)
  | .fcmp k c a b _ => isK k && (!c.getLsbD 3 || (even6 a && even6 b))
  | .pand d a b _ _ | .por d a b _ _ | .pxor d a b _ _ => isK d && isK a && isK b
  | .pnot d a _ => isK d && isK a
  | .pset d _ _ => isK d
  | .ktov k r _ | .vtok k r _ => isK k && decide (r.toNat < 64)
  | .ktos k r _ | .stok k r _ | .pcnt k r _ => isK k && decide (r.toNat < 32)
  | .xmget r | .xmset r => decide (r.toNat < 32)
  | .vmatch k c _ _ => isK k && decide (c.toNat ≤ 2)
  | .dadd d a b _ _ _ | .dsub d a b _ _ _ | .dmul d a b _ _ _ | .dfma d a b _ _ _ => even6 d && even6 a && even6 b
  | .fabs d a _ m _ | .fneg d a _ m _ | .frcp d a _ m _ | .frsq d a _ m _ | .fsqrt d a _ m _ | .frnd d a _ m _ =>
    !m || (even6 d && even6 a)
  | .fclass _ a _ m _ => !m || even6 a
  | .cvt d a c p _ m _ =>
    decide (c.toNat ≤ 13) && posOk c p && (!m || cvtHasMode c) && (decide (c ≠ 10 ∧ c ≠ 13) || even6 d) &&
      (decide (c ≠ 11 ∧ c ≠ 12) || even6 a)
  | .unpk _ _ c p _ _ => decide (c.toNat ≤ 5) && posOk c p
  | .rnd d _ _ la m _ => mul4 d && !(la && m)
  | .rslice _ a _ _ _ _ => mul4 a
  | .rbern k c a _ _ => isK k && decide (c.toNat ≤ 3) && mul4 a
  | .rkey a => decide (a.toNat ≤ 28)
  | .bcst _ _ s x _ => decide (x.toNat ≤ 1) && (decide (x = 0) || decide (s = 0))
  | .rdfl k a _ w _ => decide (k.toNat < 12) && (!w || even6 a)
  | .vred d _ f _ _ => decide (f.toNat ≤ 12) && (decide (f.toNat < 11) || even6 d)
  | .vscan _ _ f _ _ _ => decide (f.toNat ≤ 10)
  | .ld d p q i s w _ | .lda d p q i s w _ | .ldw d p q i s w _ | .ldc d p q i s w _ => addrOk p q i s && widthOk false d w
  | .st d p q i s w _ | .sta d p q i s w _ | .stw d p q i s w _ | .stc d p q i s w _ => addrOk p q i s && widthOk true d w
  | .pref d p q i s _ | .cflush d p q i s _ | .cinv d p q i s _ => decide (d.toNat ≤ 1) && addrOk p q i s
  | .atom d a f t _ m _ => atomOk false d a f t (!m)
  | .red d a f t _ m _ => atomOk true d a f t (!m)
  | .atoma d a f t _ _ => atomOk false d a f t false
  | .fence o s => decide (2 ≤ o.toNat) && decide (o.toNat ≤ 5) && decide (s.toNat ≤ 8)
  | .ridx d _ _ => decide (d ≠ 31)
  | .rwait _ _ _ p c | .rflip _ _ _ p c => decide (c.toNat ≤ 8) && (!p || decide (c.toNat ≤ 2))
  | .tacq _ a _ r k => decide (a ≠ 31) && (!k || decide (r = 0))
  | .cede o => decide (o ≠ 3)
  | .mld _ r c _ _ | .mldA _ r c _ _ | .mzero _ r c _ | .mident _ r c _ => decide (r.toNat ≤ 5) && decide (c.toNat ≤ 5)
  | .mflg _ k _ => isK k
  | .gcmd _ a _ => decide (a.toNat ≤ 21)
  | .gctr d _ => decide (d.toNat ≤ 30)
  | .gqry _ b => decide (b.toNat ≤ 2)
  | .vapp d a _ _ _ => even6 d && decide (a.toNat % 16 = 0)
  | .vconn d a _ _ | .vrwt d a _ _ => even6 d && mul4 a
  | .vmerge d a _ _ => decide (d.toNat % 8 = 0) && decide (d.toNat ≤ 48) && mul4 a
  | .vget d _ _ _ => decide (d.toNat % 16 = 0)
  | .trace _ a _ m _ | .traceAny _ a _ m _ => m || decide (a.toNat % 8 = 0)
  | .hitget d _ la _ => mul4 d && !la
  -- DESIGN CHOICE (log 77): the name beside a vv or sv of 0 is not looked at (R40, R27)
  | .hsrc _ w _ t => w || t
  | .hmod r _ c _ o s => decide (r.toNat ≤ 5) && decide (c ≠ 3) && decide (o.toNat ≤ 5) && decide (s.toNat ≤ 8)
  | _ => true

end Sys2Proof.Machine
end

