-- ==== Sys2Proof/Machine/Ops.lean ====
section
/-! DEFINITION. What every instruction is made of: the context of the issuing entity, registers and the register pool (R174–R177),
traps, halts and the handler (R383–R393), retiring, and the one frame `run` around every meaning. -/
namespace Sys2Proof.Machine

/-! ### Hints of a group -/

/-- The hints of a group, folded (R34–R42). -/
structure Mods where
  himm : List (BitVec 21) := []
  vc   : Option Reg6 := none
  sc   : Option Reg5 := none
  hasMod : Bool := false
  rm   : BitVec 3 := 0
  ftz  : Bool := false
  cv   : BitVec 2 := 0
  cp   : BitVec 2 := 0
  ord  : BitVec 3 := 0
  scp  : BitVec 4 := 0
  /-- names listed by `HFREE` -/
  free : List Nat := []
  hold : Option (BitVec 2 × BitVec 2 × BitVec 2) := none
  any  : Bool := false
  /-- a hint other than `HOLD` and `HFREE` -/
  other : Bool := false
deriving DecidableEq, Repr

/-- Adds one hint word, in issue order. -/
def Mods.add (x : Mods) (h : Instr) : Mods :=
  match h with
  | .himm p => { x with himm := x.himm ++ [p], any := true, other := true }
  | .hold a b c => { x with hold := some (a, b, c), any := true }
  | .hsrc v w s t =>
    { x with vc := if w then some v else none, sc := if t then some s else none, any := true, other := true }
  | .hmod r f c p o s =>
    { x with hasMod := true, rm := r, ftz := f, cv := c, cp := p, ord := o, scp := s, any := true, other := true }
  | .hfree a b c => { x with free := [a.toNat, b.toNat, c.toNat], any := true }
  | _ => x

def modsOf (hs : List Instr) : Mods := hs.foldl Mods.add {}

/-- Does an extra source agree with what the instruction takes (R40)? -/
def needOk {α : Type} (n : Need) (x : Option α) : Bool :=
  match n with
  | .no => x.isNone
  | .may => true
  | .must => x.isSome

/-- The immediate value of R38: F is the field of width w. -/
def Mods.imm (x : Mods) (F w : Nat) : Int :=
  match x.himm with
  | [] => if w = 0 then 0 else sextInt F w
  | [p] => sextInt (p.toNat * 2 ^ w + F) (21 + w)
  | p :: q :: _ => sextInt ((p.toNat * 2 ^ 21 + q.toNat) * 2 ^ w + F) (42 + w)

/-- Do the hints of a group suit its instruction (R34–R42 and the entries)? -/
def modsOk (i : Instr) (sh : Shape) (x : Mods) : Bool :=
  !(sh.noHint && x.any) && !(sh.only && x.other) && !(sh.noMod && x.hasMod) &&
  (x.himm.isEmpty || sh.immW.isSome) && (!sh.himmMust || !x.himm.isEmpty) &&
  needOk sh.vc x.vc && needOk sh.sc x.sc &&
  (decide (x.rm = 0) || sh.rm) && (!x.ftz || sh.ftz) && (decide (x.cv = 0) || sh.cv) && (decide (x.cp = 0) || sh.cp) &&
  (decide (x.ord = 0) || sh.ords.contains x.ord.toNat) && (decide (x.scp = 0) || sh.scps.contains x.scp.toNat) &&
  (match i with
   | .dfma .. => (x.vc.map even6).getD true
   | .atom _ _ _ t .. | .atoma _ _ _ t .. => decide (t ≠ 2 ∧ t ≠ 3) || (x.vc.map even6).getD true
   | .vbfe .. | .vbfi .. =>
     -- pos in bits 4:0, len 0–32 in bits 10:5, higher bits zero (R261)
     decide (0 ≤ x.imm 0 0) && decide (x.imm 0 0 < 2048) && decide ((x.imm 0 0).toNat / 32 ≤ 32)
   | .rnd _ _ _ _ m _ => m || x.himm.isEmpty
   | _ => true)

/-! ### The context of a word -/

/-- A cause that an instruction raises: its bits of Table 20.1, the lanes of `cmask` where its rule names some, the reported lane,
the code of `TRAP`, and whether the entity resumes after the instruction. -/
structure Trap where
  bits  : Dword
  cmask : Option Mask := none
  lane  : Option Nat := none
  code  : Dword := 0
deriving DecidableEq, Repr

/-- Why an instruction does not take effect now: a cause, or a wait at its group. -/
inductive Stop where
  | trap (t : Trap)
  | wait (w : Wait)
  /-- a wait and a cause that have changed the rest of the machine: a parked access, translations made -/
  | waitIn (s : State) (w : Wait)
  | trapIn (s : State) (t : Trap)

/-- The issuing entity's word in progress. `w0` is the wave as the instruction reads it, `w` as it leaves it. -/
structure Ctx where
  s    : State
  r    : EntRef
  i    : Instr
  b    : Block
  w0   : Wave
  w    : Wave
  e    : Entity
  x    : Mods
  /-- the active lanes whose guard is true -/
  g    : Mask
  npc  : Dword
  /-- where the entity waits once the instruction has been issued -/
  post : Option Wait := none
  /-- FP exceptions flagged: enabled causes, and the lanes that flagged them -/
  fx   : Option (Dword × Mask) := none
  /-- Etch packets of the word, given the entity tag -/
  pkts : List (Nat → List Byte) := []
  /-- the entity has ended, and the state already says so -/
  gone : Bool := false
  /-- Level mode: the instruction is performed in its block's commit (R212) -/
  commit : Bool := false
  /-- its causes are looked at, its effects are not kept -/
  probe  : Bool := false
  /-- its own frees, beyond those of its shape, gave entries back -/
  freed  : Bool := false
  /-- the modules that its fabric requests go to (R422, R423) -/
  sends  : List Nat := []
  /-- it took a transfer -/
  jumped : Bool := false

/-- The bit of a cause (Table 20.1). -/
def causeBit (n : Nat) : Dword := 1#64 <<< n
def cILLOP : Nat := 0
def cALIGN : Nat := 1
def cBOUNDS : Nat := 2
def cCWIN : Nat := 3
def cXLATE : Nat := 4
def cWPROT : Nat := 5
def cUNIFORM : Nat := 6
def cCONVERGE : Nat := 7
def cMATSING : Nat := 13
def cBRKPT : Nat := 14
def cCONDBRK : Nat := 15
def cSWTRAP : Nat := 16
def cROLE : Nat := 17
def cTAGERR : Nat := 18
def cRINGERR : Nat := 19
def cNCLASS : Nat := 20
def cCAPACITY : Nat := 23
def cREPLAY : Nat := 24
def cECC : Nat := 25
def cGRVFLT : Nat := 26
def cSTPFLT : Nat := 27
def cLEVEL : Nat := 28
def cPRIV : Nat := 29
def cHALTSIB : Nat := 30

/-- Raises a cause. -/
def raises {α : Type} (n : Nat) (cmask : Option Mask := none) : Except Stop α :=
  .error (.trap { bits := causeBit n, cmask := cmask })

/-- Does the cause resume after the raising instruction (Table 20.1)? -/
def causeAfter (bits : Dword) : Bool := bits &&& 0x09013F00#64 != 0

/-- Is the issuing entity a handler, a surrender wave? -/
def Ctx.isHandler (c : Ctx) : Bool := c.w0.saved.isSome
def Ctx.isSurrender (c : Ctx) : Bool := decide (c.r.slot = 16)
/-- Present lanes that have not exited. -/
def Wave.live (w : Wave) : Mask := w.present &&& ~~~ w.exited
/-- Is the wave split (R168)? -/
def Ctx.isSplit (c : Ctx) : Bool := c.w0.frag.isSome || !c.e.stack.isEmpty
def Ctx.launch (c : Ctx) : Launch := c.s.launch c.b.launch
def Ctx.asid (c : Ctx) : BitVec 9 := c.launch.asid
def Ctx.core (c : Ctx) : Nat := c.b.core
def Ctx.quad (c : Ctx) : Nat := c.b.quad c.r.slot

/-- The state with the context's wave, entity and block put back. -/
def Ctx.put (c : Ctx) : State :=
  c.s.setBlock c.r.blk (c.b.setWave c.r.slot (c.w.setEntity c.r.frag c.e))

/-- The context over a state in which the block may have changed: block, wave and entity are read again. -/
def Ctx.reread (c : Ctx) (s : State) : Ctx :=
  match tget s.blocks c.r.blk with
  | none => { c with s := s }
  | some b =>
    match b.wave c.r.slot with
    | none => { c with s := s, b := b }
    | some w =>
      match w.entity c.r.frag with
      | none => { c with s := s, b := b, w := w }
      | some e => { c with s := s, b := b, w := w, e := e }

/-- Changes the whole machine in the midst of an instruction. -/
def Ctx.onState (c : Ctx) (f : State → State) : Ctx := c.reread (f c.put)

/-- A free value (R6). -/
def Ctx.takeFree (c : Ctx) : Dword × Ctx := (Config.freeValue c.s.fresh, { c with s := { c.s with fresh := c.s.fresh + 1 } })

/-! ### Registers -/

/-- What an entity finds: the newest value, or one of those that it may still find, which one left open. -/
def Ctx.finds {α : Type} (c : Ctx) (item : Nat) (new : α) (old : List α) : α :=
  match old with
  | [] => new
  | _ => (new :: old).getD
      (Config.staleChoice c.s.now (c.r.blk * 64 + c.r.slot * 2 + c.r.frag.toNat) item % (old.length + 1)) new

/-- A log of what the entities of a split wave have replaced, after a write of register r: the other entity's writes of it are past. -/
def noteSplit {ρ α : Type} [DecidableEq ρ] (frag : Bool) (r : ρ) (old : α) (log : List (ρ × Bool × α)) : List (ρ × Bool × α) :=
  (r, frag, old) :: log.filter fun x => x.1 ≠ r || x.2.1 = frag

/-- An entity writes a scalar register of its wave. -/
def Wave.setS (w : Wave) (frag : Bool) (r : Reg5) (v : Dword) : Wave :=
  { w with s := w.s.set r.toNat v (by omega)
           slog := if w.frag.isSome then noteSplit frag r w.s[r.toNat] w.slog else w.slog }

/-- An entity puts a matrix register in the place of an old one. -/
def Wave.setM (w : Wave) (frag : Bool) (r : Reg3) (old new : MReg) : Wave :=
  { w with m := w.m.set r.toNat new (by omega), mlog := if w.frag.isSome then noteSplit frag r old w.mlog else w.mlog }

/-- A scalar register's value as the instruction reads it: in a split wave, of one that the other entity writes, the new value or one that it
replaced, which one left open (R171); in Level mode the newest (R210; log 78). -/
def Ctx.rs (c : Ctx) (r : Reg5) : Dword :=
  let new := c.w0.s[r.toNat]
  if c.w0.frag.isNone || c.b.isLevel then new
  else c.finds (2048 + r.toNat) new ((c.w0.slog.filter fun x => x.1 = r && x.2.1 ≠ c.r.frag).map (·.2.2))
def Ctx.ws (c : Ctx) (r : Reg5) (v : Dword) : Ctx := { c with w := c.w.setS c.r.frag r v }

/-- Zero in every lane: what an unmapped name reads (R175). -/
def zeroLanes : Lanes Word := Vector.replicate 32 0

def readV (w : Wave) (n : Nat) : Lanes Word :=
  if h : n < 64 then (w.v[n]).getD zeroLanes else zeroLanes

/-- Writes lanes of a vector register of a wave, whose name is mapped. -/
def Wave.setLanes (w : Wave) (n : Nat) (lanes : Mask) (f : Fin 32 → Word) : Wave :=
  if h : n < 64 then { w with v := w.v.set n (some (lanesMerge lanes f (readV w n))) } else w

/-- A vector register as the instruction reads it. -/
def Ctx.rv (c : Ctx) (r : Reg6) : Lanes Word := readV c.w0 r.toNat
def Ctx.rvn (c : Ctx) (n : Nat) : Lanes Word := readV c.w0 n
/-- A lane of a 64-bit pair, low word in the named register (R227). -/
def Ctx.rd (c : Ctx) (n : Nat) (l : Fin 32) : Dword := (c.rvn (n + 1))[l] ++ (c.rvn n)[l]
/-- A predicate register. -/
def Ctx.rk (c : Ctx) (k : Reg4) : Mask := if h : k.toNat < 12 then c.w0.k[k.toNat] else 0
def Ctx.wk (c : Ctx) (k : Reg4) (lanes : Mask) (v : Mask) : Ctx :=
  if h : k.toNat < 12 then
    { c with w := { c.w with k := c.w.k.set k.toNat ((c.w.k[k.toNat] &&& ~~~ lanes) ||| (v &&& lanes)) } }
  else c

/-- The pool entries a wave has mapped (R176). -/
def MReg.entries (m : MReg) : Nat := if m.data.isSome then m.rows * m.cols else 0
def mapFootprint (v : Vector (Option (Lanes Word)) 64) (m : Vector MReg 8) : Nat :=
  v.toList.countP (·.isSome) + (m.toList.map MReg.entries).sum
def Wave.footprint (w : Wave) : Nat := mapFootprint w.v w.m
/-- Entries above the floor, with those granted to a waiting entity (R177). -/
def Wave.excess (w : Wave) : Nat := w.footprint + w.parent.grant + ((w.frag.map (·.grant)).getD 0) - w.floor

/-- The entries of a quadrant that are left above the floors for a wave other than those counted (R174, R176). -/
def State.remainder (s : State) (core quad blk slot : Nat) : Nat :=
  let used := s.blocks.foldl (fun acc p =>
    if p.2.core = core ∧ p.2.res = .resident then
      p.2.waves.foldl (fun acc q =>
        if p.2.quad q.1 = quad then
          acc + q.2.floor + (if p.1 = blk ∧ q.1 = slot then 0 else q.2.excess)
        else acc) acc
    else acc) 0
  let sur := s.blocks.foldl (fun acc p =>
    match p.2.sur with
    | some (w, _) => if p.2.core = core ∧ p.2.quad 16 = quad ∧ ¬ (p.1 = blk ∧ slot = 16) then acc + (w.footprint + w.parent.grant + ((w.frag.map (·.grant)).getD 0) - 64) else acc
    | none => acc) 0
  ((s.core core).pool[quad]?.getD 2048) - 64 - used - sur

/-- The entries that an entity in register wait wants (R177). -/
def Entity.wants (e : Entity) : Nat :=
  match e.wait with
  | some (.regs n _) => n
  | _ => 0

/-- The entries that the entities in register wait in a quadrant are owed, but those of one entity (R177, R180): freed entries go to
them first. -/
def State.owed (s : State) (core quad : Nat) (r : EntRef) : Nat :=
  let of (blk slot : Nat) (w : Wave) : Nat :=
    (if r = { blk := blk, slot := slot, frag := false } then 0 else w.parent.wants) +
      (if r = { blk := blk, slot := slot, frag := true } then 0 else (w.frag.map Entity.wants).getD 0)
  s.blocks.foldl (fun acc p =>
    if p.2.core ≠ core then acc else
    let acc := match p.2.sur with
      | some (w, _) => if p.2.quad 16 = quad then acc + of p.1 16 w else acc
      | none => acc
    if p.2.res ≠ .resident then acc else
    p.2.waves.foldl (fun acc q => if p.2.quad q.1 = quad then acc + of p.1 q.1 q.2 else acc) acc) 0

/-- May the wave map `n` more entries at all (R176)? Beyond the cap CAPACITY is raised; a handler stays within the floor (R389). -/
def Ctx.room (c : Ctx) (n : Nat) : Except Stop Unit :=
  let fp := c.w.footprint + n
  if c.w0.cap < fp then raises cCAPACITY (some c.e.xm)
  else if c.isHandler && decide (c.w0.floor < fp) then raises cCAPACITY (some c.e.xm)
  else .ok ()

/-- The entries granted to the wave's other entity, and those owed to waiting entities that go before this one (R177). -/
def Ctx.otherGrant (c : Ctx) : Nat := if c.r.frag then c.w0.parent.grant else (c.w0.frag.map (·.grant)).getD 0
def Ctx.owed (c : Ctx) : Nat := if c.isSurrender then 0 else c.s.owed c.core c.quad c.r

/-- The requests of an instruction's effect leave the core, or are held at their source and the entity with them: those for a module whose old
route still carries traffic (R423), and those of C0 above the rate (R422). -/
def Ctx.leave (c c' : Ctx) : Except Stop Ctx :=
  match c'.sends.find? fun m => c.s.draining m with
  | some m => .error (.waitIn (c.s.drainRoute m) (.route m))
  | none => if c.launch.prio = 0 ∧ c'.sends ≠ [] ∧ c.s.admits c.core = false then .error (.wait .c0) else .ok c'

/-- The entries that an instruction's effect takes (R177): those up to the floor and those granted to its entity are its own; others
come from the shared remainder that no waiting entity is owed, and the surrender wave goes before every waiting wave. An
allocation that finds too few puts the entity into register wait for all of it before the instruction issues. -/
def Ctx.allot (c c' : Ctx) : Except Stop Ctx :=
  let fp := c'.w.footprint
  if c'.gone || decide (fp ≤ c.w0.footprint + c.e.grant) || decide (fp + c.otherGrant ≤ c.w0.floor) ||
      decide (fp + c.otherGrant - c.w0.floor + c.owed ≤ c.s.remainder c.core c.quad c.r.blk c.r.slot) then c.leave c'
  else .error (.wait (.regs (fp - c.w0.footprint) c.s.now))

/-- Writes a vector register in the lanes of a mask; an unmapped name is mapped first, even when no lane writes (R175). -/
def Ctx.wv (c : Ctx) (n : Nat) (lanes : Mask) (f : Fin 32 → Word) : Except Stop Ctx :=
  if h : n < 64 then
    match c.w.v[n] with
    | some old => .ok { c with w := { c.w with v := c.w.v.set n (some (lanesMerge lanes f old)) } }
    | none =>
      match c.room 1 with
      | .error e => .error e
      | .ok () => .ok { c with w := { c.w with v := c.w.v.set n (some (lanesMerge lanes f zeroLanes)) } }
  else raises cILLOP

/-- Writes a 64-bit pair. -/
def Ctx.wd (c : Ctx) (n : Nat) (lanes : Mask) (f : Fin 32 → Dword) : Except Stop Ctx := do
  let c ← c.wv n lanes fun l => (f l).setWidth 32
  c.wv (n + 1) lanes fun l => (f l).extractLsb' 32 32

/-- Releases the entries of names (R30, R42). -/
def Wave.release (w : Wave) (ns : List Nat) : Wave :=
  ns.foldl (fun w n =>
    if h : n < 64 then { w with v := w.v.set n none }
    else if h : n - 64 < 8 then { w with m := w.m.set (n - 64) { w.m[n - 64] with data := none } }
    else w) w

/-- The names a group frees: those of its last-read bits and of its `HFREE` that the instruction reads; none while the wave is split
(R30, R42). -/
def Ctx.freeNames (c : Ctx) (sh : Shape) : List Nat :=
  if c.isSplit then [] else
  let reads := sh.reads ++ (c.x.vc.map fun r => names r sh.vcn).getD []
  sh.frees ++ c.x.free.filter fun n => reads.contains n

/-- The names of a list that the group's `HFREE` lists are freed: names that the instruction turns out to read (R42). -/
def Ctx.freeAlso (c : Ctx) (ns : List Nat) : Ctx :=
  if c.isSplit then c else
  let w := c.w.release (c.x.free.filter fun n => ns.contains n)
  { c with w := w, freed := c.freed || decide (w.footprint < c.w.footprint) }

/-! ### Where an entity stands -/

/-- The loop buffer of an entity that goes on at an address: it leaves it when that lies outside the loop (R301). -/
def Entity.loopAt (e : Entity) (npc : Dword) : Option LoopBuf :=
  e.loop.bind fun b => if b.first.toNat ≤ npc.toNat ∧ npc.toNat ≤ b.last.toNat then some b else none

/-- Does an address lie within the loop of a backward branch? -/
def inLoop (p : Dword × Dword) (a : Dword) : Bool := decide (p.2.toNat ≤ a.toNat) && decide (a.toNat ≤ p.1.toNat)

/-- The backward branches that the entity took on the last pass of their loops, as it goes on at an address: a pass that leaves a loop, but
to a callee, did not take its branch (R301). -/
def Entity.backAt (e : Entity) (npc : Dword) : List (Dword × Dword) := e.lastBack.filter fun p => !inLoop p e.pc || inLoop p npc

def isCall (i : Instr) : Bool :=
  match i with
  | .call .. | .calls .. => true
  | _ => false

/-- Waits that end a quantum in Level mode (R214). -/
def Wait.ends (w : Wait) : Bool :=
  match w with
  | .bar | .cbar _ | .ring .. | .tags .. | .hit _ | .idle _ | .batch _ => true
  | _ => false

/-- Logical waits, whose condition is looked at only at boundaries (R214). -/
def Wait.logical (w : Wait) : Bool :=
  match w with
  | .bar | .cbar _ | .ring false .. => true
  | _ => false

/-- Waits that begin with the issue of their instruction (R293, R294). -/
def Wait.arrives (w : Wait) : Bool :=
  match w with
  | .bar | .cbar _ => true
  | _ => false

/-- Waits of a word that has been issued all the same: an arrival, and an access that is parked (R90, R403). -/
def Wait.issues (w : Wait) : Bool :=
  match w with
  | .parked _ => true
  | w => w.arrives

/-! ### Stopping a block -/

/-- Where an entity resumes: the first word of its group (R36). -/
def Entity.resumeAt (e : Entity) : Dword := if e.hints.isEmpty then e.pc else e.gpc

/-- Closes the collection window of a wave (R390): its causes are raised and the wave is pending. -/
def Wave.closeWindow (w : Wave) : Wave :=
  match w.window with
  | none => w
  | some f =>
    let stop (e : Entity) : Entity := { e with halted := true }
    { w with window := none, cause := w.cause ||| f.report.causes, cmask := f.cmask
             parent := stop w.parent, frag := w.frag.map stop
             pending := some (match w.pending with
               | some p => { f.report with causes := f.report.causes ||| p.causes }
               | none => f.report) }

/-- A wait that ended a quantum is withdrawn: its instruction has not been issued (R214, R399). -/
def Entity.withdraw (e : Entity) : Entity :=
  match e.wait with
  | some w => if w.ends && e.qended && (!e.qwaited || w.logical) then { e with qended := false, qcount := e.qcount - 1 } else e
  | none => e

/-- An entity as a halt leaves it (R386, R387): waits and naps end, its group will be issued again. -/
def Entity.stopHere (e : Entity) : Entity :=
  { e.withdraw with pc := e.resumeAt, hints := [], wait := none, grant := 0, napEnd := 0, halted := true, loop := none, fetched := [] }

/-- A halt of the block begins (R385): entities that wait or nap stop at once (R387, log 84), windows of its waves close (R390), and each
entity counts its skid from here. -/
def Block.startHalt (b : Block) (now : Nat) : Block :=
  match b.halt with
  | some _ => b
  | none =>
    { b with halt := some now
             waves := b.waves.map fun p =>
               let w := p.2
               let go (e : Entity) : Entity :=
                 let e := if w.window.isSome then e else { e with skid := 0 }
                 if e.wait.isSome || decide (e.napEnd ≠ 0) then e.stopHere else e
               (p.1, ({ w with parent := go w.parent, frag := w.frag.map go }).closeWindow) }

/-- A report to the Executive about a block (R391). -/
def State.report (s : State) (blk cause : Nat) : State := s.modHub fun h => { h with reports := h.reports ++ [(blk, cause)] }

/-- TAKING AN EXCEPTION, first part: a halting cause raised by an issue entity (R383–R386). The wave's `cause` and `cmask` are
written, the wave is pending with what its handler will be told, the entity issues nothing more, and its block halts. `gpc` is
the first word of the raising group and `npc` the next word. In a surrender wave R151 applies, in a handler R391. -/
def State.raise (s : State) (r : EntRef) (t : Trap) (gpc npc : Dword) : State :=
  match tget s.blocks r.blk with
  | none => s
  | some b =>
    if r.slot = 16 then (s.etch r npc [pktEnd 0]).surrenderTrap r.blk t.bits else
    match b.wave r.slot with
    | none => s
    | some w =>
      match w.entity r.frag with
      | none => s
      | some e =>
        let after := causeAfter t.bits
        -- a group that raises `TRAP`'s cause has taken its effect: it counts (R386, R211); a report is of no group issued now
        let one := if t.bits &&& causeBit cSWTRAP ≠ 0 then 1 else 0
        let e' : Entity :=
          { e.withdraw with pc := if after then npc else gpc, hints := [], wait := none, grant := 0, napEnd := 0, halted := true, loop := none
                            qwaited := e.qwaited && !after, fetched := [], skid := if b.halt.isSome then e.skid + one else 0
                            qcount := e.withdraw.qcount + (if b.isLevel then one else 0) }
        let cm := t.cmask.getD e.xm
        if w.saved.isSome then
          -- a handler fault: the handler ends, the block stays halted, the Executive is told (R391, R413)
          let w' := ({ w with cause := w.cause ||| t.bits, cmask := cm, epc := e'.pc }).setEntity r.frag e'
          ((s.etch r e'.pc [pktEnd 2]).setBlock r.blk { b.setWave r.slot w' with reported := true }).report r.blk t.bits.toNat
        else
          let rep : Report :=
            { pc := gpc, causes := t.bits, code := t.code, byFrag := r.frag
              lane := match t.lane with
                | some l => some l
                | none => (t.cmask.bind lowestLane).map (·.val) }
          let rep := match w.pending with
            | some p => { p with causes := p.causes ||| t.bits }
            | none => rep
          let w' := ({ w with cause := w.cause ||| t.bits, cmask := cm, pending := some rep }).setEntity r.frag e'
          s.setBlock r.blk ((b.setWave r.slot w').startHalt s.now)

/-- A wave as the halt leaves it: `epc`, `skid` and HALTSIB (R386). A wave whose handler runs keeps what it has. -/
def Wave.stopHere (w : Wave) : Wave :=
  if w.saved.isSome then { w with parent := w.parent.stopHere } else
  let sk (e : Entity) : Nat := min e.skid 7
  { w with
    epc := w.parent.resumeAt
    skid := BitVec.ofNat 64 (sk w.parent + ((w.frag.map sk).getD 0) * 256 + (if w.frag.isSome then 65536 else 0))
    cause := if w.pending.isSome then w.cause else w.cause ||| causeBit cHALTSIB
    parent := w.parent.stopHere
    frag := w.frag.map Entity.stopHere }

/-- Has the run of a wave's entities not ended yet (R413)? It ends at an exit, as a halted block has stopped, with a handler's fault, and as
the block leaves its core. -/
def Block.runs (b : Block) (w : Wave) : Bool :=
  decide (b.res = .resident) && decide (w.live ≠ 0) && (if w.saved.isSome then !w.parent.halted else !b.frozen)

/-- The END packets of a wave's entities as their runs end (R413). -/
def State.etchEnds (s : State) (blk : Nat) (b : Block) (slot : Nat) (w : Wave) (why : Nat) : State :=
  if b.runs w = false then s else
  let s := s.etch { blk := blk, slot := slot, frag := false } w.parent.resumeAt [pktEnd why]
  match w.frag with
  | some e => s.etch { blk := blk, slot := slot, frag := true } e.resumeAt [pktEnd why]
  | none => s

/-- Every entity of the block stops where it is (R385–R387): parked accesses leave the fault buffer (R95), and each traced entity
ends its run (R413). -/
def State.freeze (s : State) (blk : Nat) : State :=
  match tget s.blocks blk with
  | none => s
  | some b =>
    if b.frozen then s else
    let s := b.waves.foldl (fun s p =>
      let s := (s.unpark (.wave { blk := blk, slot := p.1, frag := false })).unpark (.wave { blk := blk, slot := p.1, frag := true })
      s.etchEnds blk b p.1 p.2 2) s
    s.modBlock blk fun b => { b with frozen := true, waves := b.waves.map fun p => (p.1, p.2.stopHere) }

/-- The pending wave of lowest `wslot` (R388). -/
def Block.firstPending (b : Block) : Option Nat := (b.waves.find? fun p => p.2.pending.isSome).map (·.1)

/-- The entries and waves that contexts saved on a core take in its shadow bank: evicted blocks and handled waves (R394). -/
def State.shadowUse (s : State) (core : Nat) : Nat × Nat :=
  s.blocks.foldl (fun acc p =>
    if p.2.core ≠ core then acc else
    p.2.waves.foldl (fun acc q =>
      let kept := match q.2.saved with
        | some c => some (mapFootprint c.v c.m)
        | none => none
      let here := if p.2.res = .resident then none else some q.2.footprint
      let add (acc : Nat × Nat) (o : Option Nat) : Nat × Nat := match o with
        | some n => (acc.1 + n, acc.2 + 1)
        | none => acc
      add (add acc kept) here) acc) (0, 0)

/-- Room for a context in the shadow bank — 8,192 entries, 128 waves — or a spill area (R394). -/
def State.shadowRoom (s : State) (core part entries waves : Nat) : Bool :=
  natBit (s.part part).ctxbase.toNat 0 ||
    (decide ((s.shadowUse core).1 + entries ≤ 8192) && decide ((s.shadowUse core).2 + waves ≤ 128))

/-- TAKING AN EXCEPTION, second part: the handler is entered for a pending wave (R389, Table 20.3). The wave's registers and
entities are saved, and the handler entity starts at `TRHVEC` with every present, non-exited lane. DESIGN CHOICE (log 103): the handler's
unmapped matrix registers have the shape 1×1. -/
def State.enterHandler (s : State) (blk slot : Nat) : State :=
  match tget s.blocks blk with
  | none => s
  | some b =>
    match tget b.waves slot with
    | none => s
    | some w =>
      match w.pending with
      | none => s
      | some rep =>
        let part := s.part (s.launch b.launch).part
        let set (v : Vector Dword 32) (n : Fin 32) (x : Dword) : Vector Dword 32 := v.set n x
        let regs := set (set (set (set (set (set (set (set (set (Vector.replicate 32 0)
          0 part.trhdata) 1 (s.wid b slot)) 2 rep.pc) 3 rep.causes) 4 (w.cmask.setWidth 64))
          5 (match rep.lane with
            | some l => BitVec.ofNat 64 l
            | none => 0xFF)) 6 (match w.frag with
            | some f => f.pc
            | none => BitVec.allOnes 64)) 7 rep.code) 8 (if rep.byFrag then 1 else 0)
        let h : Entity := { pc := part.trhvec, xm := w.live, arm := w.live, lastIssue := s.now, held := w.parent.held }
        let w' : Wave :=
          { w with saved := some { parent := w.parent, frag := w.frag, s := w.s, v := w.v, m := w.m, k := w.k }
                   parent := h, frag := none, s := regs, v := Vector.replicate 64 none, m := Vector.replicate 8 {}
                   k := Vector.replicate 12 0 }
        -- a `.block` acquire of every access of the block: its writes of block-shared registers show
        s.setBlock blk { b.setWave slot w' with bregLog := [] }

/-- A halted block resumes (R393): each parent at its `epc`, each fragment at its kept address, with nothing fetched; the first group
of each is matched by no comparator (R410). -/
def Block.resume (b : Block) : Block :=
  let go (e : Entity) : Entity := { e with halted := false, skid := 0, stepOver := true, sync := false }
  { b with halt := none, frozen := false, swap := false
           waves := b.waves.map fun p =>
             -- a handler that has moved `epc` has passed the instruction that the entity waited at (R214)
             (p.1, { p.2 with
               parent := { go p.2.parent with pc := p.2.epc, qwaited := p.2.parent.qwaited && decide (p.2.parent.pc = p.2.epc) }
               frag := p.2.frag.map go }) }

/-- Has a quadrant entries for a wave's context (R197, R393)? -/
def State.restoreRoom (s : State) (core quad blk slot fp floor : Nat) : Bool :=
  decide (fp - floor ≤ s.remainder core quad blk slot)

/-! ### Issuing -/

/-- The issuing entity of a state, with the hints in front of the word folded and its guard evaluated. -/
def State.issuer (s : State) (i : Instr) : Option Ctx :=
  match tget s.blocks s.cur.blk with
  | none => none
  | some b =>
    match b.wave s.cur.slot with
    | none => none
    | some w =>
      match w.entity s.cur.frag with
      | none => none
      | some e =>
        let g := match (shape i).guard with
          | none => e.xm
          | some gd =>
            if h : gd.g.toNat < 12 then
              (if gd.n then e.xm &&& ~~~ w.k[gd.g.toNat] else e.xm &&& w.k[gd.g.toNat])
            else e.xm
        some { s := s, r := s.cur, i := i, b := b, w0 := w, w := w, e := e, x := modsOf e.hints, g := g, npc := e.pc + 4 }

/-- The address of the first word of the group that is issuing (R36). -/
def Ctx.gpc (c : Ctx) : Dword := c.e.resumeAt

/-- Instructions that only a MATRIX wave may issue (R188). -/
def isGraver (i : Instr) : Bool :=
  match i with
  | .gcmd .. | .grdy .. | .gfence .. | .gwait .. | .gwin .. | .gctr .. | .gclr .. | .gqry .. => true
  | _ => false

/-- Collective instructions (R173). -/
def isCollective (i : Instr) : Bool :=
  match i with
  | .gcmd .. | .grdy .. | .gfence .. | .gwait .. | .bar | .cbar .. | .vgen .. | .tidset .. | .tidget .. | .tidinv ..
  | .tacq .. | .trel .. => true
  | _ => false

/-- Handler faults (R391). -/
def isHandlerFault (i : Instr) : Bool :=
  match i with
  | .bar | .cbar .. | .tacq .. | .trel .. | .cede .. | .post .. | .trap .. => true
  | _ => isGraver i

/-- What traps NCLASS in a surrender wave (R151); `EXIT` does too (R290). -/
def isSurrenderBarred (i : Instr) : Bool :=
  match i with
  | .tacq .. | .trel .. | .bar | .cbar .. | .rwait .. | .tgwait .. | .tgany .. | .exit => true
  | _ => false

/-- Has the wave's other entity a load, an atomic or a Stipple result outstanding whose result goes into one of these names (R44)? -/
def Ctx.armOwes (c : Ctx) (used : List Nat) : Bool :=
  if c.w0.frag.isNone || c.isHandler then false else
  let other : EntRef := { c.r with frag := !c.r.frag }
  let k := c.s.core c.core
  (k.loads.any fun p => p.ent = other &&
      ((p.vregs.any fun v => used.contains v.1.toNat) || (p.mreg.any fun m => used.contains (64 + m.1.toNat)))) ||
    (k.atoms.any fun q => q.ent = other && q.dst.any fun d => (names d (if q.ty = 2 ∨ q.ty = 3 then 2 else 1)).any used.contains) ||
    k.stip.any fun p => p.ent = other && (dests p.i).any used.contains

/-- Does the group read or write a name that the wave's other entity has yet to write (R44)? -/
def Ctx.armBusy (c : Ctx) : Bool :=
  let sh := shape c.i
  c.armOwes (sh.reads ++ (c.x.vc.map fun r => names r sh.vcn).getD [] ++ dests c.i)

/-- The checks that come before an instruction's own: the other arm's results (R44); ILLOP for fields, guard and hints (R27–R42); the handler's and the surrender
wave's restrictions; the role (R188); the whole wave for a collective instruction (R173). -/
def Ctx.check (c : Ctx) : Except Stop Unit :=
  let sh := shape c.i
  if c.armBusy then .error (.wait .arm)
  else if !fieldsOk c.i || !((sh.guard.map guardOk).getD true) || !modsOk c.i sh c.x then raises cILLOP
  else if c.isHandler && isHandlerFault c.i then raises cPRIV
  else if c.isSurrender && isGraver c.i then raises cROLE
  else if c.isSurrender && isSurrenderBarred c.i then raises cNCLASS
  else if isGraver c.i && decide (c.w0.role ≠ 2) then raises cROLE
  else if isCollective c.i && (c.isSplit || decide (c.w0.live &&& ~~~ c.e.xm ≠ 0)) then
    raises cCONVERGE (some (c.w0.live &&& ~~~ c.e.xm))
  else .ok ()

/-- FP exceptions that a retiring word flagged (R390): the first opens an 8-cycle window, later ones join it. In a handler, a surrender
wave or the skid of a halt the cause is raised at once (R391, R151, R386). -/
def Wave.collect (w : Wave) (now : Nat) (rep : Report) (lanes : Mask) : Wave :=
  match w.window with
  | some f => { w with window := some { f with report := { f.report with causes := f.report.causes ||| rep.causes } } }
  | none =>
    { w with window := some { opened := now, report := rep, cmask := lanes }
             parent := { w.parent with skid := 0 }, frag := w.frag.map fun e => { e with skid := 0 } }

/-- An instruction that took its effect retires: its hints are used up, the entity goes on at the next word, and what counts groups
counts it (R36, R152, R211, R386). -/
def Ctx.retire (c : Ctx) : State :=
  if c.gone then c.s else
  let counting := c.b.halt.isSome || c.w.window.isSome
  let s := c.s.etch c.r c.e.pc c.pkts (c.w0.frag.isNone && c.w.frag.isSome)
  let e : Entity :=
    { c.e with pc := c.npc, hints := [], wait := c.post, grant := 0, stepOver := false, qwaited := false
               sync := c.e.sync || (!c.pkts.isEmpty && c.s.traces c.b)
               loop := c.e.loopAt c.npc
               lastBack := if isCall c.i then c.e.lastBack else c.e.backAt c.npc
               fetched := if !c.jumped && decide (c.npc = c.e.pc + 4) then c.e.fetched.filter (fun p => p.1 ≠ c.e.pc) else []
               skid := if counting then c.e.skid + 1 else c.e.skid
               qcount := if c.b.isLevel && !c.e.qwaited then c.e.qcount + 1 else c.e.qcount }
  let b := match c.b.sur with
    | some (w, q) => if c.r.slot = 16 then { c.b with sur := some (w, { q with issued := q.issued + 1 }) } else c.b
    | none => c.b
  let w := c.w.setEntity c.r.frag e
  let s := { c with s := s, e := e, w := w, b := b }.put
  match c.fx with
  | none => s
  | some (bits, lanes) =>
    if c.isHandler || c.isSurrender || c.b.halt.isSome then s.raise c.r { bits := bits, cmask := some lanes } c.gpc c.npc
    else
      s.modBlock c.r.blk fun b =>
        match b.wave c.r.slot with
        | none => b
        | some w =>
          b.setWave c.r.slot (w.collect s.now
            { pc := c.gpc, causes := bits, lane := (lowestLane lanes).map (·.val), byFrag := c.r.frag } lanes)

/-- An entity whose wait at a word has ended goes on at the next word: the word has been issued. -/
def Entity.passWord (e : Entity) : Entity :=
  let npc := e.pc + 4
  { e with pc := npc, hints := [], wait := none, stepOver := false, qwaited := false, loop := e.loopAt npc, lastBack := e.backAt npc
           fetched := e.fetched.filter fun p => p.1 ≠ e.pc }

/-- The word has not been issued: the quadrant's slot is free again, and the entity's last issue is what it was (R177, R193, R403). A
`BAR` or `CBAR` has, since its wave arrives with it (R293), and a word whose access is parked (R90). -/
def Ctx.notIssued (c : Ctx) (w : Wait) : Ctx :=
  if w.issues then c else
  match c.s.used.find? fun u => (u.word.map (·.ent)) = some c.r with
  | none => c
  | some u =>
    let e := match u.word with
      | some x => { c.e with lastIssue := x.last, issued := x.issued }
      | none => c.e
    { c with s := { c.s with used := c.s.used.erase u }, e := e }

/-- An instruction that must wait: its entity stands at its group, which will be issued again (R387). In Level mode a logical wait,
and the first wait of a tag or batch, ends the quantum. -/
def Ctx.waitHere (c : Ctx) (w : Wait) : State :=
  let c := c.notIssued w
  let ends := c.b.isLevel && decide (c.r.slot ≠ 16) && w.ends && (!c.e.qwaited || w.logical)
  { c with e := { c.e with pc := c.gpc, hints := [], wait := some w, grant := 0, qended := c.e.qended || ends
                           qcount := if ends then c.e.qcount + 1 else c.e.qcount } }.put

/-- The context with the group's frees done (R30, R42). -/
def Ctx.freeReads (c : Ctx) (sh : Shape) : Ctx := { c with w := c.w.release (c.freeNames sh) }

/-- Once the instruction has had its effect, the cycle of the quadrant's last free is noted if its group freed entries (R180). -/
def Ctx.noteFrees (c : Ctx) (sh : Shape) (c' : Ctx) : Ctx :=
  if c'.freed ∨ (c.w.release (c.freeNames sh)).footprint < c.w.footprint then
    { c' with s := c'.s.modCore c.core fun k => { k with freedAt := k.freedAt.setIfInBounds c.quad c.s.now } }
  else c'

/-- The instruction does not take effect: its cause is raised, or it waits at its group. -/
def Ctx.stop (c : Ctx) (x : Stop) : State :=
  match x with
  | .trap t => c.put.raise c.r t c.gpc c.npc
  | .wait w => c.waitHere w
  | .trapIn s t => { c with s := s }.put.raise c.r t c.gpc c.npc
  | .waitIn s w => { c with s := s }.waitHere w

/-- The frame of every instruction word: the issuing entity, the checks, the frees (which come before any write, R30), the
instruction's own effect, and then its retirement, its trap or its wait. -/
def run (i : Instr) (body : Ctx → Except Stop Ctx) (s : State) : Host.Outcome State Fault Refusal :=
  match s.issuer i with
  | none => .refused .noIssuer
  | some c =>
    match c.check with
    | .error e => .next (c.stop e)
    | .ok () =>
      match (body (c.freeReads (shape i))).bind c.allot with
      | .error e => .next (c.stop e)
      | .ok c' => .next (c.noteFrees (shape i) c').retire

/-- An event that the spec lets happen only in some states. -/
def event (name : String) (r : Option State) : Host.Outcome State Fault Refusal :=
  match r with
  | some s => .next s
  | none => .refused (.notEnabled name)

end Sys2Proof.Machine
end

