-- ==== Sys2Proof/Machine/Flags.lean ====
section
/-! DEFINITION. The flags an instruction leaves: `fpf` and the causes its enabled flags raise (R236, R255, R270, R390), the
saturation count (R235), comparison relations (Table 11.4). -/
namespace Sys2Proof.Machine

/-- FP flags of lanes: `fpf` gathers them all; those that `fpx` enables are flagged for collection as causes 8–12, with the lanes
that flagged an enabled one (R255, R390). -/
def Ctx.flags (c : Ctx) (lanes : Mask) (f : Fin 32 → FFlags) : Ctx :=
  let all : FFlags := (lanesIn lanes).foldl (fun acc l => acc ||| f l) 0
  let en : FFlags := c.w0.fpx.setWidth 5
  let hit : Mask := maskOf fun l => inMask lanes l && decide (f l &&& en ≠ 0)
  let causes : Dword := ((all &&& en).setWidth 64) <<< 8
  let c := { c with w := { c.w with fpf := c.w.fpf ||| all.setWidth 64 } }
  if causes = 0 then c else
  { c with fx := match c.fx with
      | none => some (causes, hit)
      | some (b, m) => some (b ||| causes, m ||| hit) }

/-- Adds lanes to `satc`, which saturates at 0xFFFF_FFFF (R235). -/
def Ctx.countSat (c : Ctx) (n : Nat) : Ctx :=
  { c with w := { c.w with satc := BitVec.ofNat 32 (min (c.w.satc.toNat + n) 0xFFFFFFFF) } }

/-- The relation of a condition code on numbers of `n` bits; bit 3 selects unsigned comparison (Table 11.4). -/
def relation (cc : BitVec 4) {n : Nat} (a b : BitVec n) : Bool :=
  let lt : Bool := if cc.getLsbD 3 then decide (a.toNat < b.toNat) else decide (a.toInt < b.toInt)
  match cc.toNat % 8 with
  | 0 => decide (a = b)
  | 1 => decide (a ≠ b)
  | 2 => lt
  | 3 => lt || decide (a = b)
  | 4 => !(lt || decide (a = b))
  | _ => !lt

/-- Shifts by an amount that may reach or pass the width (Tables 11.1 and 11.4). -/
def shl {n : Nat} (x : BitVec n) (k : Nat) : BitVec n := if k < n then x <<< k else 0
def shr {n : Nat} (x : BitVec n) (k : Nat) : BitVec n := if k < n then x >>> k else 0
def sar {n : Nat} (x : BitVec n) (k : Nat) : BitVec n := x.sshiftRight (min k (n - 1))

/-- The smaller (or larger) of two numbers, unsigned or signed. -/
def pick {n : Nat} (u max : Bool) (x y : BitVec n) : BitVec n :=
  let less : Bool := if u then decide (x.toNat < y.toNat) else decide (x.toInt < y.toInt)
  if less = max then y else x

end Sys2Proof.Machine
end

