-- ==== Sys2Proof/Machine/Operands.lean ====
section
/-! DEFINITION. Operand forms: immediates (R38), the scalar B operand (R251), lane addresses (R66, R126), register groups, special
registers (Table 11.2), and the general shapes of vector, predicate and scalar meanings. -/
namespace Sys2Proof.Machine

/-- The extra sources of a group (R40). -/
def Ctx.vcReg (c : Ctx) : Reg6 := c.x.vc.getD 0
def Ctx.scReg (c : Ctx) : Reg5 := c.x.sc.getD 0
def Ctx.rsc (c : Ctx) : Dword := c.rs c.scReg

/-- The B operand of a scalar instruction: S[b], or the immediate when i = 1 (R251). -/
def Ctx.scalarB (c : Ctx) (b : Reg5) (i : Bool) : Dword := if i then BitVec.ofInt 64 (c.x.imm 0 0) else c.rs b

/-- The rounding mode of a group (R232). -/
def Ctx.rmode (c : Ctx) : RMode := rmodeOf c.x.rm

/-- A scalar instruction: one result into S[d] (R250). -/
def scalarOp (d : Reg5) (f : Ctx → Dword) (c : Ctx) : Except Stop Ctx := .ok (c.ws d (f c))

/-- A vector instruction of one result register: the lanes that take part receive f (R22). -/
def vecOp (d : Reg6) (f : Ctx → Fin 32 → Word) (c : Ctx) : Except Stop Ctx := c.wv d.toNat c.g (f c)

/-- A vector instruction whose result is a 64-bit pair. -/
def vecOp2 (d : Reg6) (f : Ctx → Fin 32 → Dword) (c : Ctx) : Except Stop Ctx := c.wd d.toNat c.g (f c)

/-- A predicate instruction: bits into K[d] in the lanes that take part; other lanes keep theirs. -/
def predOp (k : Reg4) (f : Ctx → Fin 32 → Bool) (c : Ctx) : Except Stop Ctx := .ok (c.wk k c.g (maskOf (f c)))

/-- A floating vector instruction: results and flags lane by lane (R270). -/
def fpOp (d : Reg6) (f : Ctx → Fin 32 → Nat × FFlags) (c : Ctx) : Except Stop Ctx := do
  let r := lanesOf (f c)
  let c ← c.wv d.toNat c.g fun l => BitVec.ofNat 32 (r[l]).1
  .ok (c.flags c.g fun l => (r[l]).2)

/-- The same with a 64-bit pair as the destination. -/
def fpOp2 (d : Reg6) (f : Ctx → Fin 32 → Nat × FFlags) (c : Ctx) : Except Stop Ctx := do
  let r := lanesOf (f c)
  let c ← c.wd d.toNat c.g fun l => BitVec.ofNat 64 (r[l]).1
  .ok (c.flags c.g fun l => (r[l]).2)

/-- The address of a lane (R66): displacement, scalar base, and the lane's 64-bit address or its signed offset. -/
def Ctx.laneAddr (c : Ctx) (global : Bool) (p q : Bool) (vi : BitVec 4) (s : Reg5) (l : Fin 32) : Dword :=
  let e : Dword := BitVec.ofInt 64 (c.x.imm 0 0)
  let e := if p then e + c.rs s else e
  if q then
    if global && !p then e + c.rd (2 * vi.toNat) l
    else e + ((c.rvn vi.toNat)[l]).signExtend 64
  else e

/-- The address of an atomic's lane (R126). -/
def Ctx.atomAddr (c : Ctx) (buffer m : Bool) (a : Reg6) (l : Fin 32) : Dword :=
  if buffer then ((c.rv a)[l]).signExtend 64 + (c.x.sc.map c.rs).getD 0
  else if m then c.rsc + ((c.rv a)[l]).signExtend 64
  else c.rd a.toNat l

/-! ### Special registers (Table 11.2) -/

/-- The value of a uniform special register. DESIGN CHOICE (log 101): `nblk` reads the launch's in a task block too. -/
def Ctx.special (c : Ctx) (n : Nat) : Dword :=
  let w := c.w0
  match n with
  | 0x01 => BitVec.ofNat 64 c.r.slot
  | 0x02 => c.s.wid c.b c.r.slot
  | 0x03 => c.b.blk.setWidth 64
  | 0x04 => BitVec.ofNat 64 c.launch.kd.nblk
  | 0x05 => BitVec.ofNat 64 c.b.core
  | 0x06 => BitVec.ofNat 64 (c.b.core % 12)
  | 0x07 => BitVec.ofNat 64 (corePlate c.b.core)
  | 0x08 => ((c.b.coh[0]?).getD 0xFF).setWidth 64
  | 0x09 => ((c.b.coh[1]?).getD 0xFF).setWidth 64
  | 0x0A => ((c.b.coh[2]?).getD 0xFF).setWidth 64
  | 0x0B => ((c.b.coh[3]?).getD 0xFF).setWidth 64
  | 0x0C => w.role.setWidth 64
  | 0x0D => BitVec.ofNat 64 c.s.now
  | 0x0E => w.qnt
  | 0x0F => w.grav.gbat.setWidth 64
  | 0x10 => w.cause
  | 0x11 => w.cmask.setWidth 64
  | 0x12 => w.epc
  | 0x13 => w.skid
  | 0x14 => w.fpx
  | 0x15 => w.fpf
  | 0x17 => BitVec.ofNat 64 w.cwb
  | 0x18 => BitVec.ofNat 64 w.cwl
  | 0x19 => c.b.tgb
  | 0x1A => w.satc.setWidth 64
  | 0x1B => w.dbhit
  | _ => 0

/-- The value of a special register in a lane: `lane` and `mf` are per lane, a uniform register supplies its bits 31:0 (R253). -/
def Ctx.specialLane (c : Ctx) (n : Nat) (l : Fin 32) : Word :=
  if n = 0x00 then BitVec.ofNat 32 l.val
  else if n = 0x16 then c.w0.mf[l]
  else (c.special n).setWidth 32

/-- A write of a special register; reserved bits read as zero (R8, Table 11.3). -/
def Ctx.setSpecial (c : Ctx) (n : Nat) (v : Dword) : Ctx :=
  match n with
  | 0x12 => { c with w := { c.w with epc := v } }
  | 0x14 => { c with w := { c.w with fpx := v &&& 0x3F } }
  | 0x15 => { c with w := { c.w with fpf := v &&& 0x1F } }
  | 0x1A => { c with w := { c.w with satc := v.setWidth 32 } }
  | _ => c

end Sys2Proof.Machine
end

