-- ==== Sys2Proof/Machine/Hold.lean ====
section
/-! DEFINITION. Block state as a wave reads and writes it: at once outside Level mode, and through the wave's held effects in it
(R213, Table 9.1). -/
namespace Sys2Proof.Machine

/-- Are the entity's effects held until a commit? Those of a surrender wave and of the commit itself apply to the block at once
(R213). -/
def Ctx.level (c : Ctx) : Bool := c.b.isLevel && !c.isSurrender && !c.commit

/-- The held effects that the entity sees: those of its wave, a fragment that has ended included, its own last (R213). -/
def Ctx.heldSeen (c : Ctx) : List Held :=
  let kept := match c.w.saved with
    | some k => (k.frag.map (·.held)).getD []
    | none => []
  (kept ++ (if c.r.frag then c.w.parent.held else []) ++ c.w.fragHeld ++
    (if c.r.frag then [] else (c.w.frag.map (·.held)).getD []) ++ c.e.held).map (·.2)

/-- Holds an effect until the block commits. -/
def Ctx.hold (c : Ctx) (h : Held) : Ctx := { c with e := { c.e with held := c.e.held ++ [((c.gpc, c.e.qcount), h)] } }

/-- Bytes of a typed buffer of the core, from an absolute offset, as the entity sees them. -/
def Ctx.absLoad (c : Ctx) (space off len : Nat) : List Byte :=
  let bs := c.s.waveRead c.r c.core space off len
  if c.level then
    c.heldSeen.foldl (fun bs h => match h with
      | .buf sp o new => if sp = space then patchBytes bs off new ((c.b.slice space).base + o) else bs
      | _ => bs) bs
  else bs

/-- Bytes of the block's slice of a typed buffer, from a block-relative offset. -/
def Ctx.bufLoad (c : Ctx) (space off len : Nat) : List Byte := c.absLoad space ((c.b.slice space).base + off) len

/-- Bytes written to the block's slice. DESIGN CHOICE (log 80): a typed-buffer store is performed at its issue, so it follows no later
access of its wave in the memory order, where Table 5.3 would let it (R111, R112). -/
def Ctx.bufStore (c : Ctx) (space off : Nat) (bytes : List Byte) : Ctx :=
  if c.level then c.hold (.buf space off bytes)
  else if c.s.matrixNear c.core || c.s.anyGraver fun _ _ => true then c.onState fun s => s.waveWrite c.r c.core space ((c.b.slice space).base + off) bytes
  else { c with s := c.s.bufWrite c.core space ((c.b.slice space).base + off) bytes }

/-- What recent writes, the newest first, replaced and a reader of a wave may still find: none older than its own newest write. -/
def staleFor {α : Type} (slot : Nat) : List (Nat × α) → List α
  | [] => []
  | (w, old) :: rest => if w = slot then [] else old :: staleFor slot rest

/-- The value of a register after a write. -/
def BregWrite.after (x : BregWrite) : Dword := if x.add then x.before + x.val else x.val

/-- A read notes that it found the n-th newest of the logged writes of a register. -/
def noteFound (r : BitVec 4) (x : BregRead) : Nat → List BregWrite → List BregWrite
  | _, [] => []
  | n, y :: rest =>
    if y.reg ≠ r then y :: noteFound r x n rest else
    match n with
    | 0 => { y with found := x :: y.found } :: rest
    | n + 1 => y :: noteFound r x n rest

/-- `BSRD` of a block-shared register (R56, R130): the newest value, or, while a write that another wave issued less than 4 cycles ago may
not show yet, the one before it, which one left open (R117). -/
def Ctx.bregRead (c : Ctx) (r : BitVec 4) (d : Reg5) : Ctx :=
  let v := c.b.breg[r.toNat]
  if c.level then
    c.ws d (c.heldSeen.foldl (fun v h => match h with
      | .breg q x => if q = r then x else v
      | _ => v) v)
  else
    let recent := c.b.bregLog.filter fun x => x.reg = r && decide (c.s.now < x.at_ + 4)
    let old := staleFor c.r.slot (recent.map fun x => (x.slot, x.before))
    let (v, n) := c.finds r.toNat (v, 0) (old.zipIdx 1)
    { c with b := { c.b with bregLog := noteFound r { slot := c.r.slot, at_ := c.s.now, dst := d } n c.b.bregLog } }.ws d v

/-- The writes that some agent may still miss once those of a property show to every agent: of each register the newest of these, and
what comes before it, have shown. -/
def showWrites (p : BregWrite → Bool) : List BregWrite → List (BitVec 4) → List BregWrite
  | [], _ => []
  | x :: rest, shown =>
    if shown.contains x.reg then showWrites p rest shown
    else if p x then showWrites p rest (x.reg :: shown)
    else x :: showWrites p rest shown

/-- Instructions that make an access of their entity, or synchronise (R102, R107): what they follow in the memory order is performed
before them. -/
def makesAccess (i : Instr) : Bool :=
  match i with
  | .ld .. | .st .. | .lda .. | .sta .. | .ldw .. | .stw .. | .ldc .. | .stc .. | .ldt .. | .stt .. | .sld .. | .sst ..
  | .mld .. | .mldA .. | .mst .. | .mstA .. | .tidset .. | .tidget .. | .tidinv .. | .rkey ..
  | .atom .. | .red .. | .atoma .. | .fence .. | .bsrd .. | .bswr .. | .bsxch .. | .bsadd ..
  | .bar | .cbar .. | .post .. | .exit | .cpy .. | .cpyt .. | .tgwait .. | .tgany .. | .tgfind .. | .tgtest ..
  | .rwait .. | .rflip .. | .tacq .. | .trel .. | .cede .. | .gcmd .. | .grdy .. | .gwait .. | .gqry .. | .gctr ..
  | .vapp .. | .vseal .. | .vconn .. | .vmerge .. | .vrwt .. | .vget .. | .vref .. | .vrel .. | .trace .. | .traceAny ..
  | .hitget .. | .tret .. => true
  | _ => false

/-- Instructions that act as a release (R104, R107); with the ordering code of their group. -/
def isRelease (i : Instr) (ord : Nat) : Bool :=
  match i with
  | .fence o _ => decide (o = 4) || decide (o = 5)
  | .bar | .cbar .. | .post .. | .cpy .. | .cpyt .. | .rflip .. | .tacq .. | .trel .. | .cede .. | .gcmd .. | .vapp .. | .vseal ..
  | .vconn .. | .vmerge .. | .vrwt .. | .vrel .. | .trace .. | .traceAny .. | .tret .. => true
  | _ => decide (ord = 4) || decide (ord = 5)

/-- The same for a wave of a block: its `EXIT` is a release too, where it is the exit of the wave (R290). -/
def Block.releases (b : Block) (slot : Nat) (i : Instr) (ord : Nat) : Bool :=
  match i with
  | .exit => ((b.wave slot).map fun w => w.frag.isNone && w.parent.stack.isEmpty).getD false
  | _ => isRelease i ord

/-- What a wave's next access finds done of the block-shared registers. The writes that a `BSRD` of it found, and its own `BSXCH` and
`BSADD`, come before it in the memory order, so they show to every agent (R111, R112); at a release its own `BSWR` too (R104, R110). A
wave and its fragment count as one. -/
def Block.bregShow (b : Block) (slot : Nat) (i : Instr) (ord : Nat) : Block :=
  if makesAccess i then
    { b with bregLog := showWrites (fun x => (x.found.any fun f => f.slot = slot) ||
        (decide (x.slot = slot) && (x.dst.isSome || b.releases slot i ord))) b.bregLog [] }
  else b

/-- A wave with a scalar register set. -/
def Block.setScalar (b : Block) (slot : Nat) (d : Reg5) (v : Dword) : Block :=
  match b.wave slot with
  | some w => b.setWave slot { w with s := w.s.set d.toNat v (by omega) }
  | none => b

/-- A write takes its place in a register's order: after those of earlier cycles and those of this cycle of waves of no higher index
(R116). The writes of this cycle that come after it are made anew on its value, and with them what they, and the reads of this cycle that
found them, returned. -/
def Block.bregWrite (b : Block) (x : BregWrite) : Dword × Block :=
  let recent := b.bregLog.filter fun y => decide (x.at_ < y.at_ + 4)
  let (later, rest) := recent.partition fun y => y.reg = x.reg && decide (y.at_ = x.at_) && decide (x.slot < y.slot)
  let before := (later.getLast?.map (·.before)).getD (b.breg[x.reg.toNat])
  let x := { x with before := before }
  let log := later.foldr (fun y (done : List BregWrite) => { y with before := ((done.head?.map BregWrite.after).getD x.after) } :: done) []
  let b := { b with bregLog := log ++ x :: rest, breg := b.breg.set x.reg.toNat ((log.head?.getD x).after) (by omega) }
  (before, log.foldl (fun b y =>
    let b := (y.dst.map fun d => b.setScalar y.slot d y.before).getD b
    y.found.foldl (fun b f => if f.at_ = x.at_ then b.setScalar f.slot f.dst y.after else b) b) b)

/-- Writes a block-shared register, or adds to it; what it held just before goes into a scalar register where one is named (R116,
R130). In Level mode the writes of a quantum are held, and those of the commit and of the surrender wave show at once. -/
def Ctx.setBreg (c : Ctx) (r : BitVec 4) (add : Bool) (v : Dword) (dst : Option Reg5) : Ctx :=
  if c.level then c.hold (.breg r v)
  else if c.b.isLevel then
    let old := c.b.breg[r.toNat]
    let c := { c with b := { c.b with breg := c.b.breg.set r.toNat (if add then old + v else v) (by omega) } }
    (dst.map fun d => c.ws d old).getD c
  else
    let x : BregWrite := { at_ := c.s.now, slot := c.r.slot, reg := r, add := add, val := v, before := 0, dst := dst }
    let (old, b) := c.b.bregWrite x
    let c := { c with b := b }
    (dst.map fun d => c.ws d old).getD c

/-- A TID entry of the block's slice: its image, none when invalid or outside the slice (R57); what another wave has replaced since the
last barrier may still be found (R76). -/
def Ctx.tidImage (c : Ctx) (t : Nat) : Option (List Byte) :=
  let v := (c.b.tids[t]?).getD none
  if c.level then
    c.heldSeen.foldl (fun v h => match h with
      | .tid q x => if q = t then x else v
      | _ => v) v
  else c.finds (16 + t) v (staleFor c.r.slot ((c.b.tidLog.filter fun x => x.1 = t).map (·.2)))

def Ctx.setTid (c : Ctx) (t : Nat) (image : Option (List Byte)) : Ctx :=
  if c.level then c.hold (.tid t image)
  else if c.b.isLevel then { c with b := { c.b with tids := c.b.tids.set t image } }
  else { c with b := { c.b with tids := c.b.tids.set t image, tidLog := (t, c.r.slot, (c.b.tids[t]?).getD none) :: c.b.tidLog } }

/-- The block key; what another wave has replaced since the last barrier may still be found (R241). -/
def Ctx.keyWords (c : Ctx) : List Word :=
  if c.level then
    c.heldSeen.foldl (fun v h => match h with
      | .key x => x
      | _ => v) c.b.key
  else c.finds 1024 c.b.key (staleFor c.r.slot c.b.keyLog)

def Ctx.setKey (c : Ctx) (k : List Word) : Ctx :=
  if c.level then c.hold (.key k)
  else if c.b.isLevel then { c with b := { c.b with key := k } }
  else { c with b := { c.b with key := k, keyLog := (c.r.slot, c.b.key) :: c.b.keyLog } }

/-! ### The stage (R215) -/

/-- Are global effects of this context entered into the block's stage at once: those of the commit, and those of the surrender wave
of a Level block (R213)? -/
def Ctx.stages (c : Ctx) : Bool := c.b.isLevel && (c.commit || c.isSurrender)

/-- The entries that an item takes (R215). DESIGN CHOICE (log 94): the fold or grant of a `CEDE`, which the rule does not list, takes
none. -/
def StageEntry.size : StageEntry → Nat
  | .record .. => 4
  | .cede .. => 0
  | _ => 1
def Segment.size (g : Segment) : Nat := (g.entries.map StageEntry.size).sum

/-- Enters an item into the open segment; LEVEL when it would pass 65,536 entries (R216). -/
def Ctx.stage (c : Ctx) (x : StageEntry) : Except Stop Ctx :=
  match c.b.level with
  | none => .ok c
  | some lv =>
    if 65536 < lv.open_.size + x.size then raises cLEVEL
    else .ok { c with b := { c.b with level := some { lv with open_ := { lv.open_ with entries := lv.open_.entries ++ [x] } } } }

/-! ### Instructions performed in the commit -/

/-- The names that another wave state has mapped are mapped, their entries as zero (R175). -/
def Wave.mapLike (w x : Wave) : Wave :=
  { w with v := Vector.ofFn fun (i : Fin 64) => match w.v[i], x.v[i] with
      | none, some _ => some zeroLanes
      | y, _ => y }

/-- An instruction of the ending or engine class (Table 9.1): outside Level mode it has its effect now. In Level mode its causes
but LEVEL and its register waits come at its issue, its destinations are mapped, and what it read is kept for the commit, with the
locations that it has translated. -/
def deferred (ends : Bool) (body : Ctx → Except Stop Ctx) (c : Ctx) (places : List (Nat × Nat × Via) := []) : Except Stop Ctx :=
  if c.level && !c.probe then
    let keep (c : Ctx) : Ctx :=
      let c := c.hold (.instr c.i c.e.hints c.e.pc c.e.xm (Vector.ofFn fun r => c.rs (BitVec.ofFin r)) c.w0.v c.w0.k places)
      { c with e := { c.e with qended := c.e.qended || ends } }
    match body { c with probe := true } with
    | .ok x => .ok (keep { c with w := c.w.mapLike x.w })
    | .error (.wait _) => .ok (keep c)
    | .error (.trap t) => if t.bits = causeBit cLEVEL then .ok (keep c) else .error (.trap t)
    | .error e => .error e
  else body c

end Sys2Proof.Machine
end

