-- ==== Sys2Proof/Machine/Access.lean ====
section
/-! DEFINITION. What every memory instruction is made of: the causes of its lanes in their order (R68), translation and parking (R90,
R91), loads and stores by the paths of R62–R65 and R103, orderings (R101–R104, R113–R115) and results that arrive later (R178). -/
namespace Sys2Proof.Machine

/-! ### Causes of lanes -/

/-- Raises the first cause that any lane has, with the lanes that have it; an access made once for the wave names no lanes
(R68, R384; log 40). -/
def firstCause (whole : Bool) : List (Nat × Mask) → Except Stop Unit
  | [] => .ok ()
  | (n, m) :: rest => if m = 0 then firstCause whole rest else raises n (if whole then none else some m)

/-- The lanes, of a list of addresses, with a property of their address. -/
def lanesWhere (as_ : List (Fin 32 × Dword)) (p : Dword → Bool) : Mask :=
  as_.foldl (fun m a => if p a.2 then m ||| (1#32 <<< a.1.val) else m) 0

/-- Lanes whose address is not a multiple of their access size (R68). -/
def misaligned (n : Nat) (as_ : List (Fin 32 × Dword)) : Mask := lanesWhere as_ fun e => decide (e.toNat % n ≠ 0)

/-! ### Translating the lanes -/

/-- A lane's translated address and its leaf's state. -/
structure Place where
  lane : Fin 32
  pa   : Nat
  st   : LeafState
  via  : Via := {}

/-- Every lane's translation, made before the outcome is decided (R90). -/
structure Reached where
  s     : State
  ok    : List Place := []
  xlate : Mask := 0
  /-- the replayable faults in ascending lane order: lane, address, kind, level, entry -/
  flt   : List (Fin 32 × Dword × Nat × Nat × Dword) := []

def Ctx.translateAll (c : Ctx) (acc : AccKind) (as_ : List (Fin 32 × Dword)) : Reached :=
  as_.foldl (fun r a =>
    match r.s.translate c.core c.asid a.2 acc with
    | (.ok pa st _, s) => { r with s := s, ok := r.ok ++ [{ lane := a.1, pa := pa, st := st, via := s.viaOf c.core c.asid a.2.toNat }] }
    | (.xlate, s) => { r with s := s, xlate := r.xlate ||| (1#32 <<< a.1.val) }
    | (.fault k l p, s) => { r with s := s, flt := r.flt ++ [(a.1, a.2, k, l, p)] }) { s := c.s }

/-- The access as it enters the fault buffer (R91): its key is that of its lowest faulting lane, and it names the lanes that share
the key (R94). -/
def Ctx.parkedOf (c : Ctx) (acc : AccKind) (whole : Bool) (flt : List (Fin 32 × Dword × Nat × Nat × Dword)) : Option Parked :=
  let lowest := flt.foldl (fun (acc : Option (Fin 32 × Dword × Nat × Nat × Dword)) f => match acc with
    | none => some f
    | some g => if f.1 < g.1 then some f else some g) none
  match lowest with
  | none => none
  | some (_, va, k, l, p) =>
    let page (x : Dword) : Nat := natBits x.toNat 56 12
    let lanes : Mask := flt.foldl (fun m f =>
      if page f.2.1 = page va ∧ f.2.2.1 = k then m ||| (1#32 <<< f.1.val) else m) 0
    some { by_ := .wave c.r, lanes := if whole then c.e.xm else lanes, asid := c.asid, va := va, kind := k, acc := acc, level := l
           pte := p, core := c.core, who := c.s.wid c.b c.r.slot, lid := c.launch.lid }

/-- The lanes translated, an immediate XLATE raised, or the entity parked at the plate of its core (R89–R91). -/
def Ctx.reach (c : Ctx) (acc : AccKind) (whole : Bool) (as_ : List (Fin 32 × Dword)) : Except Stop (Ctx × List Place) :=
  let r := c.translateAll acc as_
  if r.xlate ≠ 0 then
    .error (.trapIn r.s { bits := causeBit cXLATE, cmask := if whole then none else some r.xlate })
  else
    match c.parkedOf acc whole r.flt with
    | some p => .error (.waitIn (r.s.park (corePlate c.core) p) (.parked (corePlate c.core)))
    | none => .ok ({ c with s := r.s }, r.ok)

/-- The lanes of a global access of n bytes: ALIGN, then translation. -/
def Ctx.globalLanes (c : Ctx) (acc : AccKind) (whole : Bool) (n : Nat) (as_ : List (Fin 32 × Dword)) :
    Except Stop (Ctx × List Place) := do
  firstCause whole [(cALIGN, misaligned n as_)]
  c.reach acc whole as_

/-! ### Orderings -/

/-- The ordering code of a group (R41), 0 for a plain access, and its scope: the default is `.dev` for global memory and `.block`
for block state (R69, R102). -/
def Ctx.ord (c : Ctx) : Nat := c.x.ord.toNat
def Ctx.scope (c : Ctx) (global : Bool) : Nat := if c.x.scp = 0 then (if global then 6 else 2) else c.x.scp.toNat
def isAcq (ord : Nat) : Bool := decide (ord = 2) || decide (ord = 3) || decide (ord = 5)
def isRel (ord : Nat) : Bool := decide (ord = 4) || decide (ord = 5)

/-- A release waits for the wave's earlier accesses, then acts on the caches (R104, R121, Table 5.1). Its earlier writes of block-shared
registers show from the issue of its instruction on (`Block.bregShow`). -/
def Ctx.release (c : Ctx) (scope : Nat) : Except Stop Ctx :=
  if c.s.outstanding c.core c.r.blk c.r.slot then .error (.wait .drain)
  else .ok { c with s := c.s.releaseCaches c.core scope }

/-- The cores other than its own, of its own module, that release tags of words name (R114). -/
def Ctx.taggers (c : Ctx) (ps : List Nat) : List Nat :=
  ps.foldl (fun acc pa =>
    match c.s.releaseTag pa with
    | some t => if t.mod_ = c.s.ownModule ∧ t.core ≠ c.core ∧ acc.contains t.core = false then acc ++ [t.core] else acc
    | none => acc) []

/-- Remembers the cores that the tags of a strong load named, at most 4 (R115). -/
def Wave.noteTags (w : Wave) (cores : List Nat) : Wave :=
  cores.foldl (fun w k =>
    if w.racq.contains k then w
    else if w.racq.length < 4 then { w with racq := w.racq ++ [k] } else { w with racqFull := true }) w

/-- Asks for the promotion of cores and waits for it (R114). -/
def Ctx.promote (c : Ctx) (cores : List Nat) (scope : Nat) : Ctx :=
  { c with s := { c.s with promos := c.s.promos ++ cores.map fun k => (k, max scope 6, c.r, scope) }
           post := match c.post with
             | some w => some w
             | none => some .promote }

/-- What follows the loads of an acquire (R104, R114): the promotions that tags ask for, or its own cache action. -/
def Ctx.acquire (c : Ctx) (ord scope : Nat) (ps : List Nat) : Ctx :=
  let cores := c.taggers ps
  let c := if ord = 0 then c else { c with w := c.w.noteTags cores }
  if ord = 3 ∧ cores.isEmpty = false then c.promote cores scope
  else if isAcq ord then { c with s := c.s.acquireCaches c.core scope } else c

/-! ### Loads from global memory -/

/-- The path of a load (R65, R103, and `HMOD` cp 2, R41). -/
def Ctx.loadPath (c : Ctx) (st : LeafState) : Path :=
  if st = .uncached then .home
  else if c.ord ≠ 0 then (if c.scope true ≤ 3 then .l1 else .past)
  else if c.x.cp = 2 then .past else .l1

/-- Level mode: bytes of memory under the stores of the block's stage (R213). DESIGN CHOICE (log 93): the addends of reductions and of
`ATOM` that the stage holds are not seen; only its stores are. -/
def Block.staged (b : Block) (pa : Nat) (bs : List Byte) : List Byte :=
  match b.level with
  | some lv => ((lv.closed ++ [lv.open_]).flatMap (·.entries)).foldl (fun bs e => match e with
      | .store a new .. => patchBytes bs pa new a
      | _ => bs) bs
  | none => bs

/-- Bytes of memory under the stores of the block's stage and of the wave's own held effects (R213). -/
def Ctx.overlay (c : Ctx) (pa : Nat) (bs : List Byte) : List Byte :=
  if c.b.isLevel then
    c.heldSeen.foldl (fun bs h => match h with
      | .store a new .. => patchBytes bs pa new a
      | _ => bs) (c.b.staged pa bs)
  else bs

/-- What one access reads: its bytes, whether they come from a remote home, and whether it is lost for want of a usable port (R423). -/
structure ReadAt where
  bytes : List Byte
  far   : Bool
  lost  : Bool

/-- The bytes that one access reads by a path, after the entity's own earlier accesses to them (R77, R112). What it asks of the fabric counts
against its core's rate (R422); the transmissions of one without a usable port count at its route, and it fills no cache (R423). -/
def Ctx.readAt (c : Ctx) (path : Path) (strong : Bool) (pa n : Nat) : ReadAt × Ctx :=
  let s := c.s.performOwn c.core c.r pa n strong
  let cost := s.loadCost path c.core pa n
  let c := { c with sends := if cost = 0 then c.sends else c.sends ++ [moduleOf pa] }
  if s.loadLost path c.core pa n then
    ({ bytes := List.replicate n 0, far := true, lost := true }, { c with s := s.countDrop (moduleOf pa) 4 })
  else
    let (bs, far, s) := (s.charge c.core c.launch.prio cost).loadBytes path c.core pa n
    ({ bytes := bs, far := far, lost := false }, { c with s := s })

/-- The bytes that one lane loads. -/
def Ctx.loadAt (c : Ctx) (path : Path) (pa n : Nat) : ReadAt × Ctx :=
  let (x, c) := c.readAt path (decide (c.ord ≠ 0)) pa n
  ({ x with bytes := c.overlay pa x.bytes }, c)

/-- What a load's lanes receive: bytes by lane, and whether any came from afar or was lost on its way. -/
structure Loaded where
  vals : List (Fin 32 × List Byte) := []
  far  : Bool := false
  lost : Bool := false

/-- The loads of all lanes, in ascending lane order. -/
def Ctx.loadAll (c : Ctx) (n : Nat) (ps : List Place) : Loaded × Ctx :=
  ps.foldl (fun (r : Loaded × Ctx) p =>
    let (x, c) := r.2.loadAt (r.2.loadPath p.st) p.pa n
    ({ vals := r.1.vals ++ [(p.lane, x.bytes)], far := r.1.far || x.far, lost := r.1.lost || x.lost }, c)) ({}, c)

/-- The bytes of a lane, none for one that made no access. -/
def Loaded.at (x : Loaded) (l : Fin 32) : List Byte := ((x.vals.find? fun v => v.1 = l).map (·.2)).getD []

/-- Writes a load's result registers now, or maps them and leaves the values to the return of the data (R44, R178). -/
def Ctx.deliver (c : Ctx) (d k : Nat) (lanes : Mask) (far lost : Bool) (f : Fin 32 → List Word) : Except Stop Ctx := do
  let r := lanesOf f
  let val (j : Nat) (l : Fin 32) : Word := (r[l]).getD j 0
  let c ← (List.range k).foldlM (fun c j => c.wv (d + j) (if far then 0 else lanes) (val j)) c
  if far then
    let p : PendLoad :=
      { ent := c.r, vregs := (List.range k).map fun j => (BitVec.ofNat 6 (d + j), lanes, lanesOf (val j)), cls := c.launch.cls, lost := lost }
    .ok { c with s := c.s.modCore c.core fun q => { q with loads := q.loads ++ [p] }, post := some .data }
  else .ok c

/-- The same for a scalar register. -/
def Ctx.deliverS (c : Ctx) (d : Reg5) (far lost : Bool) (v : Dword) : Ctx :=
  if far then
    let p : PendLoad := { ent := c.r, vregs := [], sreg := some (d, v), cls := c.launch.cls, lost := lost }
    { c with s := c.s.modCore c.core fun q => { q with loads := q.loads ++ [p] }, post := some .data }
  else c.ws d v

/-- The entity waits for data that change no register. -/
def Ctx.awaitData (c : Ctx) (far lost : Bool) : Ctx :=
  if far then
    let p : PendLoad := { ent := c.r, vregs := [], cls := c.launch.cls, lost := lost }
    { c with s := c.s.modCore c.core fun q => { q with loads := q.loads ++ [p] }, post := some .data }
  else c

/-! ### Stores to global memory -/

/-- Pieces of at most 8 bytes, each naturally aligned (R70). -/
def pieces (pa : Nat) (bs : List Byte) : List (Nat × List Byte) :=
  if bs.length = 16 then [(pa, bs.take 8), (pa + 8, bs.drop 8)] else [(pa, bs)]

/-- One lane's store: held or staged in Level mode (R213), sent to its home when it is strong or its page is UNCACHED (R65, R103), else
put into the L1, and through it with `HMOD` cp 2 (R62, R41). -/
def Ctx.storeAt (c : Ctx) (ord scope : Nat) (p : Place) (bs : List Byte) : Except Stop Ctx :=
  if c.level then .ok ((pieces p.pa bs).foldl (fun c x => c.hold (.store x.1 x.2 p.via p.lane.val)) c)
  else if c.stages then (pieces p.pa bs).foldlM (fun c x => c.stage (.store x.1 x.2 p.via c.r p.lane.val)) c
  else
    let s := (c.s.spoilTraces p.pa bs.length).performOwn c.core c.r p.pa bs.length (decide (ord ≠ 0))
    if ord ≠ 0 ∨ p.st = .uncached then
      let tag := decide (ord = 4) && decide (scope ≤ 4)
      .ok { c with s := (pieces p.pa bs).foldl (fun s x => s.sendStore c.core c.r c.launch.prio p.lane.val x.1 x.2 tag p.via) s
                   sends := c.sends ++ [moduleOf p.pa] }
    else
      let present := (tget (s.core c.core).l1d (lineOf p.pa)).isSome
      let s := s.l1Store c.core p.pa bs
      if c.x.cp = 2 then
        let s := s.l1Clean c.core (lineOf p.pa)
        .ok { c with s := if present then s else s.l1Drop c.core (lineOf p.pa), sends := c.sends ++ [moduleOf p.pa] }
      else .ok { c with s := s }

/-- The stores of all lanes, in ascending lane order: of two to one byte the higher lane's stands (R70). -/
def Ctx.storeAll (c : Ctx) (ord scope : Nat) (ps : List Place) (f : Fin 32 → List Byte) : Except Stop Ctx :=
  ps.foldlM (fun c p => c.storeAt ord scope p (f p.lane)) c

/-! ### Typed buffers -/

/-- The wave's window (R54); while a window that `GWIN` has set waits for the next barrier, the old or the new one (R340). -/
def Ctx.window (c : Ctx) : (Nat × Nat) × Ctx :=
  match c.w0.grav.win with
  | some win =>
    let (v, c) := c.takeFree
    (if v.getLsbD 0 then win else (c.w0.cwb, c.w0.cwl), c)
  | none => ((c.w0.cwb, c.w0.cwl), c)

/-- Does an access of n bytes at an offset leave the slice (R52)? -/
def Ctx.outside (c : Ctx) (space n : Nat) (e : Dword) : Bool := decide ((c.b.slice space).len < e.toNat + n)

/-- A cause raised with what the machine has done so far kept. -/
def Ctx.inState {α : Type} (c : Ctx) : Except Stop α → Except Stop α
  | .error (.trap t) => .error (.trapIn c.s t)
  | x => x

/-- The entity's earlier atomic requests reach their homes before a later strong or typed-buffer access is performed (R112). -/
def Ctx.settle (c : Ctx) : Ctx := { c with s := c.s.performOwn c.core c.r 0 0 true }

/-- The checks of buffer accesses: ALIGN, BOUNDS, and CWIN for the C-buffer (R52, R54, R68); `more` are lanes that raise BOUNDS besides. -/
def Ctx.bufLanes (c : Ctx) (space : Nat) (whole : Bool) (n : Nat) (as_ : List (Fin 32 × Dword)) (more : Mask := 0) :
    Except Stop Ctx := do
  let (win, c) := if space = 4 then c.window else ((0, 0), c)
  let cwin := if space = 4 then lanesWhere as_ fun e => decide (e.toNat / 512 < win.1) || decide (win.2 ≤ e.toNat / 512) else 0
  c.inState (firstCause whole [(cALIGN, misaligned n as_), (cBOUNDS, more ||| lanesWhere as_ fun e => c.outside space n e), (cCWIN, cwin)])
  .ok c.settle

/-- Bytes of a cluster-remote buffer (R55): of the own core as the entity sees them, else of the core of that index in the cluster,
from afar; in Level mode those of other blocks, on the own core too, as they stood at the block's last quantum boundary (R213). -/
def Ctx.remoteLoad (c : Ctx) (space rc off n : Nat) : List Byte × Bool :=
  let core := c.core / 12 * 12 + rc
  match c.b.level with
  | some lv =>
    let bufs := tgetD lv.remote rc ([], [])
    let t := if space = 2 then bufs.1 else bufs.2
    let now := if core = c.core then c.absLoad space off n else []
    let mine (a : Nat) : Bool :=
      decide (core = c.core) && decide ((c.b.slice space).base ≤ a) && decide (a < (c.b.slice space).base + (c.b.slice space).len)
    ((List.range n).map fun i =>
      if mine (off + i) then now.getD i 0 else (tget t (off + i)).getD (c.s.unwritten core space (off + i)), decide (core ≠ c.core))
  | none => if core = c.core then (c.absLoad space off n, false) else (c.s.waveRead c.r core space off n, true)

/-- The checks of a cluster-remote load (R55); `more` are lanes that raise BOUNDS besides. -/
def remoteLanes (whole : Bool) (rc n : Nat) (as_ : List (Fin 32 × Dword)) (more : Mask := 0) : Except Stop Unit :=
  firstCause whole [(cALIGN, misaligned n as_),
    (cBOUNDS, more ||| lanesWhere as_ fun e => decide (12 ≤ rc) || decide (0x200000 < e.toNat + n))]

/-! ### Register contents -/

/-- The words a load of a width code writes (R67). -/
def loadWords (w : BitVec 3) (bs : List Byte) : List Word :=
  let n := leNat bs
  match w.toNat with
  | 5 => [BitVec.ofInt 32 (sextInt n 8)]
  | 6 => [BitVec.ofInt 32 (sextInt n 16)]
  | 3 => [BitVec.ofNat 32 n, BitVec.ofNat 32 (n / 2 ^ 32)]
  | 4 => [BitVec.ofNat 32 n, BitVec.ofNat 32 (n / 2 ^ 32), BitVec.ofNat 32 (n / 2 ^ 64), BitVec.ofNat 32 (n / 2 ^ 96)]
  | _ => [BitVec.ofNat 32 n]

/-- The bytes a store of a width code writes: the low bytes of its source registers (R67). -/
def Ctx.storeBytes (c : Ctx) (d : Nat) (w : BitVec 3) (l : Fin 32) : List Byte :=
  ((List.range (widthRegs w)).flatMap fun j => leBytes ((c.rvn (d + j))[l]).toNat 4).take (widthBytes w)

end Sys2Proof.Machine
end

