-- ==== Sys2Proof/Machine/Tid.lean ====
section
/-! DEFINITION. Tensor identifiers as an instruction names them, and element loads and stores (R57, R72). -/
namespace Sys2Proof.Machine

/-- The image that an operand names, BOUNDS where the index lies outside the slice or the entry is invalid (R57). -/
def Ctx.tidNamed (c : Ctx) (n : Nat) : Except Stop Tid :=
  match c.tidImage n with
  | none => raises cBOUNDS
  | some im => .ok (tidOf im)

/-! ### Element access -/

/-- The coordinates of a lane. -/
def Ctx.coords (c : Ctx) (t : Tid) (a : Reg6) (l : Fin 32) : List Nat :=
  (List.range t.rank).map fun i => ((c.rvn (a.toNat + i))[l]).toNat

/-- The lanes that name an element outside the extents (R72). -/
def Ctx.beyondExtents (c : Ctx) (t : Tid) (a : Reg6) : Mask :=
  maskOf fun l => inMask c.g l && (c.coords t a l).zipIdx.any fun p => decide (t.ext.getD p.2 0 ≤ p.1)

/-- The data register and the coordinate group of `LDT` and `STT` (R72). -/
def elementRegsOk (t : Tid) (d a : Reg6) (raw : Bool) : Bool :=
  decide (a.toNat + t.rank ≤ 64) && (!(raw && decide (t.esize = 8)) || even6 d)

/-- The value of a scaled element as FP32 (R72, R237): the exact product, rounded once. -/
def Tid.scaled (t : Tid) (code : Nat) (scale : Option Nat) : Conv :=
  let v := t.elem.value code
  let x := match scale with
    | none => v
    | some s => v.mul (fmt32.value s)
  fmt32.convert t.mode false t.conv x

/-- The addresses that the lanes of an element access use: the elements, and the scales where they are asked for. -/
def Ctx.elementAddrs (c : Ctx) (t : Tid) (a : Reg6) : List (Fin 32 × Dword) :=
  (lanesIn c.g).map fun l => (l, t.addr (c.coords t a l))
def Ctx.scaleAddrs (c : Ctx) (t : Tid) (a : Reg6) : List (Fin 32 × Dword) :=
  (lanesIn c.g).filterMap fun l => (t.scaleAddr (c.coords t a l)).map fun x => (l, x)

/-- Adds flags of element conversions to `fpf`; they raise no cause (R72's exceptions; log 41). -/
def Ctx.quietFlags (c : Ctx) (r : Lanes Conv) : Ctx :=
  let all : FFlags := (lanesIn c.g).foldl (fun acc l => acc ||| (r[l]).flags) 0
  ({ c with w := { c.w with fpf := c.w.fpf ||| all.setWidth 64 } }).countSat ((lanesIn c.g).countP fun (l : Fin 32) => (r[l] : Conv).counted)

/-- The element bytes of the lanes, after the checks of the TID's space (R52–R55, R68); for `.f32` with the scales. -/
def Ctx.loadElements (c : Ctx) (t : Tid) (a : Reg6) (scales : Bool) : Except Stop (Loaded × Loaded × Ctx) := do
  let es := c.elementAddrs t a
  let ss := if scales then c.scaleAddrs t a else []
  let n := t.esize
  let beyond := c.beyondExtents t a
  if t.space = 1 then
    firstCause false [(cALIGN, misaligned n es), (cBOUNDS, beyond)]
    let (c, ps) ← c.reach .load false (es ++ ss)
    let (x, c) := c.loadAll n (ps.take es.length)
    let (y, c) := c.loadAll 4 (ps.drop es.length)
    .ok (x, y, c)
  else
    let c ← if t.isRemote then (remoteLanes false t.rcore n es beyond).map fun _ => c.settle
      else c.bufLanes t.space false n es beyond
    let (c, ps) ← c.reach .load false ss
    let x : Loaded := es.foldl (fun x e =>
      let (bs, far) := if t.isRemote then c.remoteLoad t.buffer t.rcore e.2.toNat n else (c.bufLoad t.space e.2.toNat n, false)
      { x with vals := x.vals ++ [(e.1, bs)], far := x.far || far }) {}
    let (y, c) := c.loadAll 4 ps
    .ok (x, y, c)

/-- The vector registers that an element takes (R72). -/
def Tid.regs (t : Tid) (f32 : Bool) : Nat := if !f32 && decide (t.esize = 8) then 2 else 1

/-- `LDT` (R72): the coordinates, and the second register of an 8-byte element, are known with the identifier, and are awaited then (R44). -/
def Ctx.loadElement (c : Ctx) (d a : Reg6) (t : Tid) (f32 : Bool) : Except Stop Ctx := do
  if !elementRegsOk t d a (!f32) then raises cILLOP
  if c.armOwes (names a t.rank ++ names d (t.regs f32)) then .error (.wait .arm)
  let c := c.freeAlso (names a t.rank)
  let (x, y, c) ← c.loadElements t a (f32 && decide (t.smode ≠ 0))
  if f32 then
    let r := lanesOf fun l => t.scaled (leNat (x.at l)) (if t.smode = 0 then none else some (leNat (y.at l)))
    let c ← c.deliver d.toNat 1 c.g (x.far || y.far) (x.lost || y.lost) fun l => [BitVec.ofNat 32 (r[l]).code]
    .ok (c.quietFlags r)
  else
    c.deliver d.toNat (t.regs f32) c.g x.far x.lost fun l =>
      let n := leNat (x.at l)
      [BitVec.ofNat 32 n, BitVec.ofNat 32 (n / 2 ^ 32)]

/-- `STT` (R72). -/
def Ctx.storeElement (c : Ctx) (d a : Reg6) (t : Tid) (f32 : Bool) : Except Stop Ctx := do
  if !elementRegsOk t d a (!f32) then raises cILLOP
  if t.isRemote then raises cBOUNDS
  let read := names a t.rank ++ names d (t.regs f32)
  if c.armOwes read then .error (.wait .arm)
  let c := c.freeAlso read
  let es := c.elementAddrs t a
  let n := t.esize
  let r := lanesOf fun l => t.elem.convert t.mode false t.conv (fmt32.value ((c.rv d)[l]).toNat)
  let code (l : Fin 32) : Nat :=
    if f32 then (r[l]).code else ((c.rv d)[l]).toNat + (if n = 8 then ((c.rvn (d.toNat + 1))[l]).toNat * 2 ^ 32 else 0)
  let bytes (l : Fin 32) : List Byte := leBytes (code l) n
  let beyond := c.beyondExtents t a
  let c ← if t.space = 1 then do
      firstCause false [(cALIGN, misaligned n es), (cBOUNDS, beyond)]
      let (c, ps) ← c.reach .store false es
      c.storeAll 0 6 ps bytes
    else do
      let c ← c.bufLanes t.space false n es beyond
      pure (es.foldl (fun c e => c.bufStore t.space e.2.toNat (bytes e.1)) c)
  .ok (if f32 then c.quietFlags r else c)

end Sys2Proof.Machine
end

