-- ==== Sys2Proof/Machine/Atomic.lean ====
section
/-! DEFINITION. TID instructions (R75, R76), atomics and reductions (R118–R121, R126–R128), fences (R129) and block-shared registers
(R116, R117, R130). -/
namespace Sys2Proof.Machine

/-! ### Images at a global address -/

/-- The addresses of the 16 pieces of an image, and their checks: ALIGN, the index, then translation (R75). -/
def imageAddrs (e : Dword) : List (Fin 32 × Dword) := (List.range 16).map fun i => (0, e + BitVec.ofNat 64 (8 * i))

def Ctx.imagePlaces (c : Ctx) (acc : AccKind) (e : Dword) (t : Nat) : Except Stop (Ctx × List Place) := do
  if e.toNat % 8 ≠ 0 then raises cALIGN
  if c.b.tids.length ≤ t then raises cBOUNDS
  c.reach acc true (imageAddrs e)

/-- Free bytes (R6). -/
def Ctx.freeBytes (c : Ctx) : Nat → List Byte × Ctx
  | 0 => ([], c)
  | n + 1 =>
    let (v, c) := c.takeFree
    let (bs, c) := c.freeBytes n
    (leBytes v.toNat 8 ++ bs, c)

/-- The image at an address (R75); one that is lost on its way is undefined (R423). -/
def Ctx.loadImage (c : Ctx) (ps : List Place) : List Byte × Bool × Bool × Ctx :=
  let (x, c) := c.loadAll 8 ps
  let bs := x.vals.flatMap (·.2)
  if x.lost then
    let (fs, c) := c.freeBytes 16
    (fs, x.far, true, c)
  else (bs, x.far, false, c)

/-- `TIDSET` (R75). -/
def execTidset (a : BitVec 5) (t : BitVec 8) (s : State) : Host.Outcome State Fault Refusal :=
  run (.tidset a t) (fun c => do
      let (c, ps) ← c.imagePlaces .load (c.rs a) t.toNat
      let (im, far, lost, c) := c.loadImage ps
      let x := tidOf im
      if x.space = 0 then .ok ((c.setTid t.toNat none).awaitData far lost)
      else if x.malformed then c.inState (raises cBOUNDS)
      else .ok ((c.setTid t.toNat (some (tidKept im))).awaitData far lost)) s

/-- `TIDGET` (R75). -/
def execTidget (a : BitVec 5) (t : BitVec 8) (s : State) : Host.Outcome State Fault Refusal :=
  run (.tidget a t) (fun c => do
      let (c, ps) ← c.imagePlaces .store (c.rs a) t.toNat
      let im := (c.tidImage t.toNat).getD (List.replicate 128 0)
      (ps.zipIdx).foldlM (fun c p => c.storeAt 0 6 p.1 ((im.drop (8 * p.2)).take 8)) c) s

/-- `TIDINV` (R75). -/
def execTidinv (t : BitVec 8) (s : State) : Host.Outcome State Fault Refusal :=
  run (.tidinv t) (fun c => if c.b.tids.length ≤ t.toNat then raises cBOUNDS else .ok (c.setTid t.toNat none)) s

/-! ### Requests -/

/-- The operand of an atomic in a lane: a register, or a pair for a 64-bit type (R126). -/
def Ctx.atomVal (c : Ctx) (r : Nat) (ty : BitVec 3) (l : Fin 32) : Dword :=
  if atomSize ty = 8 then c.rd r l else (c.rvn r)[l].setWidth 64

/-- Sends the requests of one instruction in ascending lane order (R118, R119), after the entity's own earlier requests and its earlier
stores to the locations, those that lie dirty in its caches included (R112, R43). -/
def Ctx.sendAtoms (c : Ctx) (fop ty : BitVec 3) (d : Reg6) (returns : Bool) (ps : List Place) : Ctx :=
  let ord := c.ord
  let scope := c.scope true
  let grp := (c.s.core c.core).seq
  let c := c.settle
  let send (s : State) (p : Place) : State :=
    let s := ((s.spoilTraces p.pa (atomSize ty)).performOwn c.core c.r p.pa (atomSize ty) false).cleanLine c.core p.pa
    (s.charge c.core c.launch.prio (atomSize ty)).modCore c.core fun k =>
      { k with seq := k.seq + 1
               atoms := k.atoms ++ [{ seq := k.seq, ent := c.r, lane := p.lane.val, pa := p.pa, fop := fop, ty := ty
                                      val := c.atomVal d.toNat ty p.lane, cmp := c.atomVal c.vcReg.toNat ty p.lane
                                      dst := if returns then some d else none, via := p.via
                                      tagged := isRel ord && decide (scope ≤ 4), acq := if isAcq ord then scope else 0
                                      racq := decide (ord = 3), grp := grp, sent := s.now, cls := c.launch.cls }] }
  { c with s := ps.foldl send c.s, sends := c.sends ++ ps.map fun p => moduleOf p.pa, post := if returns && !ps.isEmpty then some .data else c.post }

/-- The addend of a lane as an exact integer (R220). -/
def addendOf (ty : BitVec 3) (v : Dword) : Int :=
  let n := 8 * atomSize ty
  if ty = 0 ∨ ty = 2 then sextInt v.toNat n else (v.toNat % 2 ^ n : Nat)

/-- The reservation slot of a location: its count, or the next free slot of 8 (R220). -/
def BlockLevel.slotCount (lv : BlockLevel) (pa : Nat) : Option Int :=
  match lv.slots.find? fun x => x.1 = pa with
  | some x => some x.2
  | none => if lv.slots.length < 8 then some 0 else none

def BlockLevel.setSlot (lv : BlockLevel) (pa : Nat) (t : Int) : BlockLevel :=
  if lv.slots.any fun x => x.1 = pa then { lv with slots := lv.slots.map fun x => if x.1 = pa then (pa, t) else x }
  else { lv with slots := lv.slots ++ [(pa, t)] }

/-- One lane of a Level-mode `ATOM.add` (R220): the value returned, and the context with its slot and stage entry. -/
def Ctx.reserve (c : Ctx) (ty : BitVec 3) (pa : Nat) (v : Dword) (via : Via) (lane : Nat) : Except Stop (Dword × Ctx) :=
  match c.b.level with
  | none => .ok (0, c)
  | some lv =>
    let resv := c.launch.kd.resv
    match lv.slotCount pa with
    | none => raises cLEVEL
    | some n =>
      let t := n + addendOf ty v
      if t < 0 ∨ (resv : Int) < t then raises cLEVEL
      else
        let c := { c with b := { c.b with level := some (lv.setSlot pa t) } }
        (c.stage (.red 0 ty pa v via c.r lane)).map fun c => (BitVec.ofInt 64 ((c.b.blk.toNat * resv : Nat) + n), c)

/-- `ATOM` of a Level block (R220), performed in the commit: every lane in turn, or none. -/
def Ctx.levelAtom (c : Ctx) (d : Reg6) (fop ty : BitVec 3) (ps : List Place) : Except Stop Ctx := do
  if fop ≠ 0 ∨ ty = 4 ∨ c.b.task = true ∨ c.launch.kd.resv = 0 then raises cLEVEL
  let k := atomSize ty / 4
  if c.probe then (List.range k).foldlM (fun c j => c.wv (d.toNat + j) 0 fun _ => 0) c
  else
    let (vals, c) ← ps.foldlM (fun (r : List (Fin 32 × Dword) × Ctx) p => do
      let (v, c) ← r.2.reserve ty p.pa (r.2.atomVal d.toNat ty p.lane) p.via p.lane.val
      pure (r.1 ++ [(p.lane, v)], c)) ([], c)
    let val (l : Fin 32) : Dword := ((vals.find? fun x => x.1 = l).map (·.2)).getD 0
    if k = 2 then c.wd d.toNat c.g val else c.wv d.toNat c.g fun l => (val l).setWidth 32

/-- The lanes of `ATOM` and `RED`: ALIGN, translation, and the release of an ordered one (R104, R127). -/
def Ctx.atomLanes (c : Ctx) (a : Reg6) (ty : BitVec 3) (m : Bool) : Except Stop (Ctx × List Place) := do
  let es := (lanesIn c.g).map fun l => (l, c.atomAddr false m a l)
  let (c, ps) ← c.globalLanes .atomic false (atomSize ty) es
  let c ← if isRel c.ord then c.release (c.scope true) else pure c
  .ok (c, ps)

/-- `ATOM`'s effect. -/
def atomBody (d a : Reg6) (f t : BitVec 3) (m : Bool) (c : Ctx) : Except Stop Ctx := do
  let (c, ps) ← c.atomLanes a t m
  if c.b.isLevel then c.levelAtom d f t ps
  else
    let c ← (List.range (atomSize t / 4)).foldlM (fun c j => c.wv (d.toNat + j) 0 fun _ => 0) c
    .ok (c.sendAtoms f t d true ps)

/-- `ATOM` as it issues: in Level mode its lanes are translated now, so that no fault comes in the commit (R213, R214). -/
def atomIssue (d a : Reg6) (f t : BitVec 3) (m : Bool) (c : Ctx) : Except Stop Ctx :=
  if c.level then do
    let (c, ps) ← c.atomLanes a t m
    deferred true (Ctx.levelAtom · d f t ps) c (ps.map fun p => (p.lane.val, p.pa, p.via))
  else atomBody d a f t m c

/-- `RED`'s effect: sent to the home unit, or held or staged in Level mode (R213). -/
def redBody (d a : Reg6) (f t : BitVec 3) (m : Bool) (c : Ctx) : Except Stop Ctx := do
  let (c, ps) ← c.atomLanes a t m
  if c.level then .ok (ps.foldl (fun c p => c.hold (.red f t p.pa (c.atomVal d.toNat t p.lane) p.via p.lane.val)) c)
  else if c.stages then ps.foldlM (fun c p => c.stage (.red f t p.pa (c.atomVal d.toNat t p.lane) p.via c.r p.lane.val)) c
  else .ok (c.sendAtoms f t d false ps)

/-- `ATOMA`'s effect on the block's A slice, lanes in ascending order (R127). -/
def atomaBody (d a : Reg6) (f t : BitVec 3) (c : Ctx) : Except Stop Ctx := do
  let n := atomSize t
  let es := (lanesIn c.g).map fun l => (l, c.atomAddr true false a l)
  let c ← c.bufLanes 3 false n es
  let c ← if isRel c.ord then c.release 2 else pure c
  let (olds, c) := es.foldl (fun (r : List (Fin 32 × Dword) × Ctx) e =>
    let old := dwordOf (r.2.bufLoad 3 e.2.toNat n)
    let new := atomOp f t old (c.atomVal d.toNat t e.1) (c.atomVal c.vcReg.toNat t e.1)
    (r.1 ++ [(e.1, old)], r.2.bufStore 3 e.2.toNat (leBytes new.toNat n))) ([], c)
  let val (l : Fin 32) : Dword := ((olds.find? fun x => x.1 = l).map (·.2)).getD 0
  if n = 8 then c.wd d.toNat c.g val else c.wv d.toNat c.g fun l => (val l).setWidth 32

/-- `ATOM` (R127). -/
def execAtom (d a : BitVec 6) (f t : BitVec 3) (la m : Bool) (gd : Guard) (s : State) : Host.Outcome State Fault Refusal :=
  run (.atom d a f t la m gd) (atomIssue d a f t m) s

/-- `RED` (R127). -/
def execRed (d a : BitVec 6) (f t : BitVec 3) (la m : Bool) (gd : Guard) (s : State) : Host.Outcome State Fault Refusal :=
  run (.red d a f t la m gd) (redBody d a f t m) s

/-- `ATOMA` (R127). -/
def execAtoma (d a : BitVec 6) (f t : BitVec 3) (la : Bool) (gd : Guard) (s : State) : Host.Outcome State Fault Refusal :=
  run (.atoma d a f t la gd) (deferred true (atomaBody d a f t)) s

/-! ### Fences -/

/-- The cores, other than its own, in the instance of a scope that the entity belongs to (Table 5.1). -/
def Ctx.coresIn (c : Ctx) (scope : Nat) : List Nat :=
  (List.range 288).filter fun k => decide (k ≠ c.core) &&
    (if scope ≤ 3 then false else if scope = 4 then decide (coreCluster k = coreCluster c.core) else true)

/-- `FENCE` (R129): its release, then its acquire; `.racq` promotes the cores that tags have named (R115). The block-shared register writes
that it orders show from its issue on (`Block.bregShow`). -/
def fenceBody (ord scope : Nat) (c : Ctx) : Except Stop Ctx := do
  let c ← if isRel ord then c.release scope else pure c
  let c := c.settle
  if ord = 3 then
    let cores := if c.w0.racqFull then c.coresIn scope else c.w0.racq
    let c := { c with w := { c.w with racq := [], racqFull := false } }
    if cores.isEmpty then .ok { c with s := c.s.acquireCaches c.core scope } else .ok (c.promote cores scope)
  else if isAcq ord then .ok { c with s := c.s.acquireCaches c.core scope } else .ok c

/-- `FENCE` (R129). -/
def execFence (o : BitVec 3) (s : BitVec 4) (st : State) : Host.Outcome State Fault Refusal :=
  run (.fence o s) (fenceBody o.toNat (if s = 0 then 6 else s.toNat)) st

/-! ### Block-shared registers -/

/-- A read-modify-write of a block-shared register (R130). -/
def bregBody (d a : Reg5) (r : BitVec 4) (add : Bool) (c : Ctx) : Except Stop Ctx := do
  let c ← if isRel c.ord then c.release 2 else pure c.settle
  .ok (c.setBreg r add (c.rs a) (some d))

/-- `BSRD` (R130). -/
def execBsrd (d : BitVec 5) (r : BitVec 4) (s : State) : Host.Outcome State Fault Refusal :=
  run (.bsrd d r) (fun c => .ok (c.settle.bregRead r d)) s

/-- `BSWR` (R130). -/
def execBswr (a : BitVec 5) (r : BitVec 4) (s : State) : Host.Outcome State Fault Refusal :=
  run (.bswr a r) (fun c => do
      let c ← if isRel c.ord then c.release 2 else pure c.settle
      .ok (c.setBreg r false (c.rs a) none)) s

/-- `BSXCH` (R130). -/
def execBsxch (d a : BitVec 5) (r : BitVec 4) (s : State) : Host.Outcome State Fault Refusal :=
  run (.bsxch d a r) (deferred true (bregBody d a r false)) s

/-- `BSADD` (R130). -/
def execBsadd (d a : BitVec 5) (r : BitVec 4) (s : State) : Host.Outcome State Fault Refusal :=
  run (.bsadd d a r) (deferred true (bregBody d a r true)) s

end Sys2Proof.Machine
end

