-- ==== Sys2Proof/Machine/Engine.lean ====
section
/-! DEFINITION. Engines that act under tags: their global accesses (R89, R94, R122), and the runs of a copy command (R131–R137). -/
namespace Sys2Proof.Machine

/-! ### Global accesses of engines -/

/-- Why an engine's access stops: an immediate XLATE, or a replayable fault (R89). -/
inductive EngStop where
  | xlate
  | fault (va : Dword) (acc : AccKind) (kind lvl : Nat) (pte : Dword)
deriving DecidableEq, Repr

/-- A physical piece of a range, within a line; of an UNCACHED page or not. -/
structure Piece where
  pa   : Nat
  len  : Nat
  home : Bool := false

/-- The pieces of [va, va + n). -/
def State.pieces (s : State) (core : Nat) (asid : BitVec 9) (acc : AccKind) : Nat → Dword → Nat →
    Except EngStop (List Piece) × State
  | 0, _, _ => (.ok [], s)
  | fuel + 1, va, n =>
    if n = 0 then (.ok [], s) else
    let m := min n (128 - va.toNat % 128)
    match s.translate core asid va acc with
    | (.xlate, s) => (.error .xlate, s)
    | (.fault k l p, s) => (.error (.fault va acc k l p), s)
    | (.ok pa st _, s) =>
      match s.pieces core asid acc fuel (va + BitVec.ofNat 64 m) (n - m) with
      | (.ok ps, s) => (.ok ({ pa := pa, len := m, home := decide (st = .uncached) } :: ps), s)
      | (.error e, s) => (.error e, s)

/-- The pieces of a range of any length. -/
def State.range (s : State) (core : Nat) (asid : BitVec 9) (acc : AccKind) (va : Dword) (n : Nat) :
    Except EngStop (List Piece) × State := s.pieces core asid acc (n / 128 + 2) va n

/-- A read through the core's L1 data cache without allocating (R122, R336). -/
def State.l1Peek (s : State) (core pa len : Nat) : List Byte :=
  let line := lineOf pa
  let bs := match tget (s.core core).l1d line with
    | some l => lineMix l.valid l.bytes (s.below core line)
    | none => s.below core line
  (bs.drop (pa % 128)).take len

/-- What an engine reads for a block: pieces of UNCACHED pages at their homes (R65, R83), the others through the L1, in Level mode under
the stores of the block's stage (R213, R222). -/
def State.readPieces (s : State) (core blk : Nat) (ps : List Piece) : List Byte :=
  ps.flatMap fun p =>
    let bs := if p.home then s.readHome p.pa p.len else s.l1Peek core p.pa p.len
    ((tget s.blocks blk).map fun b => b.staged p.pa bs).getD bs

/-- A write performed at the home units, updating lines present in the core's L1 (R122). -/
def State.writePieces (s : State) (core : Nat) : List Piece → List Byte → State
  | [], _ => s
  | p :: ps, bs => ((s.spoilTraces p.pa p.len).strongStore core p.pa (bs.take p.len) false).writePieces core ps (bs.drop p.len)

/-! ### Runs of a copy -/

/-- The offset that an iteration vector adds, exactly. -/
def dotInt (iv : List Nat) (st : List Dword) : Int :=
  (iv.zip st).foldl (fun a p => a + (p.1 : Int) * p.2.toInt) 0

/-- The smallest and the largest offset that strides reach over the box lo … hi of vectors. -/
def boxSpan : List (Nat × Nat) → List Dword → Int × Int
  | (lo, hi) :: bs, st :: sts =>
    let r := boxSpan bs sts
    let x := (lo : Int) * st.toInt
    let y := (hi : Int) * st.toInt
    (r.1 + min x y, r.2 + max x y)
  | _, _ => (0, 0)

/-- The vectors from a start vector onward, as boxes: the start itself, and for each level those that pass it there. -/
def boxesFrom (start n : List Nat) : List (List (Nat × Nat)) :=
  (start.map fun i => (i, i)) ::
    (List.range start.length).filterMap fun j =>
      if start.getD j 0 + 1 < n.getD j 1 then
        some ((List.range start.length).map fun k =>
          if k < j then (0, n.getD k 1 - 1) else if k = j then (start.getD j 0 + 1, n.getD j 1 - 1)
          else (start.getD k 0, start.getD k 0))
      else none

/-- Does a run of some box reach a byte outside [0, limit), offsets counted from `base`? -/
def leaves (boxes : List (List (Nat × Nat))) (base : Int) (st : List Dword) (run limit : Nat) : Bool :=
  boxes.any fun b =>
    let r := boxSpan b st
    decide (base + r.1 < 0) || decide ((limit : Int) < base + r.2 + run)

/-- The first byte of a run, at its source and at its destination. -/
def Copy.srcAt (q : Copy) (iv : List Nat) : Dword := q.src + BitVec.ofInt 64 (dotInt iv q.ss)
def Copy.dstAt (q : Copy) (iv : List Nat) : Dword := q.dst + BitVec.ofInt 64 (dotInt iv q.ds)

/-- `CPYT`: does the position lie within the extents (R138)? -/
def Copy.within (q : Copy) (iv : List Nat) : Bool :=
  match q.ext with
  | none => true
  | some m => (iv.zip m).all fun p => decide (p.1 < p.2)

/-- Does the destination byte at an address overlap the command's own source bytes, from its start vector on (R136)? Spaces are compared with a remote space of
the own core taken as the buffer it names. -/
def Copy.overlapsSrc (q : Copy) (core : Nat) (a : Nat) : Bool :=
  let space := if q.sspc = 5 ∨ q.sspc = 6 then (if q.srcore = core then q.sspc - 3 else 0)
    else if 2 ≤ q.sspc ∧ q.moved.getD core ≠ core then 0 else q.sspc
  if space ≠ q.dspc then false else
  let total := q.n.foldl (· * ·) 1
  let start := ivIndex q.first q.n
  let span := boxSpan (q.n.map fun n => (0, n - 1)) q.ss
  let base := (q.src.toNat : Int)
  if (a : Int) < base + span.1 ∨ base + span.2 + q.run ≤ (a : Int) then false
  else (List.range (total - start)).any fun k =>
    let iv := ivAt (start + k) q.n
    q.within iv && decide ((q.srcAt iv).toNat ≤ a) && decide (a < (q.srcAt iv).toNat + q.run)

/-- Bytes as a run writes them: overlapping ones are undefined (R136). -/
def State.blurOverlap (s : State) (core : Nat) (q : Copy) (a : Nat) : List Byte → List Byte × State
  | [] => ([], s)
  | b :: bs =>
    let (b, s) := if q.overlapsSrc core a then
        let (v, s) := s.takeFree
        (v.setWidth 8, s)
      else (b, s)
    let (bs, s) := s.blurOverlap core q (a + 1) bs
    (b :: bs, s)

/-- Is an engine's command held at its core by the rate of C0 (R422)? -/
def State.heldAt (s : State) (core : Nat) (cls : BitVec 2) : Bool := decide (cls = 0) && !s.admits core

/-- One run of a copy on a core (R133, R138). -/
def State.copyRun (s : State) (core : Nat) (q : Copy) : Except EngStop Unit × State :=
  let so := q.srcAt q.iv
  let dn := q.dstAt q.iv
  let within := q.within q.iv
  if q.put && !within then (.ok (), s) else
  let zero := decide (q.sspc = 0) || !within
  let source : Except EngStop (List Byte) × State :=
    if zero then (.ok (List.replicate q.run 0), s)
    else if q.sspc = 1 then
      match s.range core q.asid .engineRead so q.run with
      | (.ok ps, s) => (.ok (s.readPieces core q.blk ps), s.charge core q.cls.toNat q.run)
      | (.error e, s) => (.error e, s)
    else if q.sspc = 5 ∨ q.sspc = 6 then (.ok (s.engineLoad q.srcore (q.sspc - 3) so.toNat q.run), s)
    else (.ok (s.engineLoad (q.moved.getD core) q.sspc so.toNat q.run), s)
  match source with
  | (.error e, s) => (.error e, s)
  | (.ok bs, s) =>
    let blur (s : State) : List Byte × State := s.blurOverlap core q dn.toNat bs
    if q.dspc = 1 then
      match s.range core q.asid .engineWrite dn q.run with
      | (.error e, s) => (.error e, s)
      | (.ok ps, s) => let (bs, s) := blur s; (.ok (), (s.charge core q.cls.toNat q.run).writePieces core ps bs)
    else let (bs, s) := blur s; (.ok (), s.engineWrite core q.dspc dn.toNat bs)

/-- The runs that a command still has to perform. -/
def Copy.left (q : Copy) : Nat := q.n.foldl (· * ·) 1 - ivIndex q.iv q.n

/-- Performs runs in order, at most `k` of them, until one stops; the command stands at its first run not performed. DESIGN CHOICE (log
90): runs are whole, in order, and all of one command that nothing stops are performed in one event, where R133 lets them come out of
order and in pieces. DESIGN CHOICE (log 86): of the later runs, which a fatal end may leave complete, partly written or untouched, none has been performed (R135). -/
def State.copyRuns (s : State) (core : Nat) (q : Copy) : Nat → Except EngStop Unit × Copy × State
  | 0 => (.ok (), q, s)
  | k + 1 =>
    match s.copyRun core q with
    | (.ok (), s) => s.copyRuns core { q with iv := nextIv q.iv q.n } k
    | (.error e, s) => (.error e, q, s)

/-- The tag of a command is told of its end (R139, R140). -/
def State.endTag (s : State) (blk tag : Nat) (err : Option Nat) : State := s.modBlock blk fun b => b.modTag tag fun t => t.finish err s.now

/-- A copy ends: its tag is told, and its block's slices go back if it was the last of an exited block (R137). -/
def State.endCopy (s : State) (core cmd : Nat) (q : Copy) (err : Option Nat) : State :=
  let s := s.modCore core fun c => { c with copies := tdel c.copies cmd }
  -- status and the first incomplete vector go into the descriptor (R135)
  let s := match err, q.desc, tget s.blocks q.blk with
    | some e, some off, some b =>
      let at_ := b.aslice.base + off
      let s := s.bufWrite b.core 3 (at_ + 18) (leBytes e 2)
      s.bufWrite b.core 3 (at_ + 44) (q.iv.flatMap fun i => leBytes i 4)
    | _, _, _ => s
  s.endTag q.blk q.tag err

/-- Stores a command's progress. -/
def State.setCopy (s : State) (core cmd : Nat) (q : Copy) : State := s.modCore core fun c => { c with copies := tset c.copies cmd q }

/-- The identity field of an engine's fault record: engine kind and index (R432). -/
def engineWho (kind index : Nat) : Dword := BitVec.ofNat 64 (kind + index % 65536 * 256)

/-- An engine's parked access (R91, R94). -/
def engineParked (by_ : Faulter) (asid : BitVec 9) (core : Nat) (who : Dword) (lid : Word) (va : Dword) (acc : AccKind)
    (kind lvl : Nat) (pte : Dword) : Parked :=
  { by_ := by_, lanes := 0, asid := asid, va := va, kind := kind, acc := acc, level := lvl, pte := pte, core := core, who := who
    lid := lid }

end Sys2Proof.Machine
end

