-- ==== Sys2Proof/Machine/GravRun.lean ====
section
/-! DEFINITION. What the Graver does with a command: operand and scale reads, the sums of R238 and R239, the kinds of R332 and R333, the
counters of R342, iterations, faults and the completion of batches (R329–R345). -/
namespace Sys2Proof.Machine

/-! ### Reading -/

/-- The code of an operand element at an offset of a block's TID, as a command's Graver reads it. -/
def State.gElem (s : State) (b : Block) (q : GravCmd) (t : Tid) (off : Int) : Nat :=
  let p := t.place b
  leNat (s.gBuf q p.1 p.2.1 ((p.2.2 : Int) + off).toNat t.esize)

/-- The C element of a block-relative row and column. -/
def State.gAcc (s : State) (b : Block) (q : GravCmd) (row col : Nat) : Nat :=
  leNat (s.gBuf q b.core 4 (b.cslice.base + 512 * row + 4 * col) 4)

/-- FP32 scales in global memory, read without allocating (R336). -/
def State.gScales (s : State) (core blk : Nat) (asid : BitVec 9) : List (Option Dword) → Except EngStop (List (Option Nat)) × State
  | [] => (.ok [], s)
  | none :: as_ =>
    match s.gScales core blk asid as_ with
    | (.ok vs, s) => (.ok (none :: vs), s)
    | e => e
  | some a :: as_ =>
    match s.range core asid .engineRead a 4 with
    | (.error e, s) => (.error e, s)
    | (.ok ps, s) =>
      let v := leNat (s.readPieces core blk ps)
      match s.gScales core blk asid as_ with
      | (.ok vs, s) => (.ok (some v :: vs), s)
      | e => e

/-! ### The sums of a chunk -/

/-- The value of an optional scale: 1.0 where there is none (R61). -/
def scaleFV (x : Option Nat) : FV :=
  match x with
  | some v => fmt32.value v
  | none => fmt32.value 0x3F800000

/-- The exact sum of products of a chunk (R238). -/
def chunkSum (ps : List (FV × FV)) : FV :=
  match ps with
  | [] => fmt32.value 0
  | (x, y) :: ps => ps.foldl (fun acc p => FV.add false acc (p.1.mul p.2)) (x.mul y)

/-- One step of the accumulation of a floating chunk (R238). -/
def chunkStep (sa sb : FV) (C : Nat) (ps : List (FV × FV)) : Nat :=
  let t := rne32 (chunkSum ps)
  let u : Nat := if sa.isNan || sb.isNan then fmt32.nanCode
    else (rne32 ((fv32 (rne32 (sa.mul sb))).mul (fv32 t))).toNat
  (rne32 (FV.add false (fmt32.value C) (fmt32.value u))).toNat

/-- The chunks of a K-group: 32 consecutive positions each, those within the extent (R238). -/
def groupChunks (t : Tid) (extent g : Nat) : List (List Nat) :=
  (List.range (groupSize t / 32)).map fun c =>
    ((List.range 32).map fun k => g * groupSize t + 32 * c + k).filter fun k => decide (k < extent)

/-- One step of an INT8 accumulation and whether the chunk overflows (R239). -/
def intStep (C : Nat) (ps : List (Nat × Nat)) : Nat × Bool :=
  let x : Int := sextInt C 32 + (ps.map fun p => sextInt p.1 8 * sextInt p.2 8).sum
  ((BitVec.ofInt 32 x).toNat, decide (x < -(2 ^ 31)) || decide ((2 ^ 31 : Int) ≤ x))

/-! ### What an iteration writes -/

/-- An element update: its row and byte in the row, its bytes, and what it counts (R342). -/
structure GUpdate where
  row  : Nat
  at_  : Nat
  bytes : List Byte
  nan  : Bool := false
  ovf  : Bool := false
  snan : Bool := false
  sat  : Bool := false

/-- The counts of an FP32 update (R342). -/
def fpCounts (old new : Nat) : Bool × Bool :=
  let o := fmt32.value old
  let n := fmt32.value new
  (n.isNan && !o.isNan, match n, o with
    | .inf _, .nan _ => false
    | .inf _, .inf _ => false
    | .inf _, _ => true
    | _, _ => false)

/-- The updates of a GEMM iteration (R332). -/
def State.gemmUpdates (s : State) (b : Block) (q : GravCmd) (ta tb : Tid) (sa sb : List (Option Nat)) : List GUpdate :=
  let n := q.cmd
  let iv := q.iv
  let g := (gG n iv).toNat
  let chunks := groupChunks ta (ta.ext.getD 0 0) g
  let r0 := (gR n iv).toNat
  let c0 := (gC n iv).toNat
  let w0 := (gW n iv).toNat
  let isInt := decide (ta.format = 1) && decide (tb.format = 1)
  (gRows n ta iv).zipIdx.flatMap fun r => (gCols n tb iv).zipIdx.map fun c =>
    let row := w0 + (r.1 - r0)
    let old := s.gAcc b q row (c.1 - c0)
    let at_ := 4 * (c.1 - c0)
    let elems (ks : List Nat) : List (Nat × Nat) :=
      ks.map fun k => (s.gElem b q ta (ta.offset2 k r.1), s.gElem b q tb (tb.offset2 c.1 k))
    if isInt then
      let (new, ov) := chunks.foldl (fun (x : Nat × Bool) ks => let y := intStep x.1 (elems ks); (y.1, x.2 || y.2)) (old, false)
      { row := row, at_ := at_, bytes := leBytes new 4, ovf := ov }
    else
      let x := scaleFV (sa.getD r.2 none)
      let y := scaleFV (sb.getD c.2 none)
      let new := chunks.foldl (fun C ks =>
        chunkStep x y C ((elems ks).map fun p => (ta.elem.value p.1, tb.elem.value p.2))) old
      let k := fpCounts old new
      { row := row, at_ := at_, bytes := leBytes new 4, nan := k.1, ovf := k.2, snan := x.isNan || y.isNan }

/-- The updates of a FILL iteration. -/
def State.fillUpdates (s : State) (b : Block) (q : GravCmd) : List GUpdate :=
  let n := q.cmd
  (gRowsC n q.iv).flatMap fun row => (List.range (gN n)).map fun j =>
    let k := fpCounts (s.gAcc b q row j) (gFval n)
    { row := row, at_ := 4 * j, bytes := leBytes (gFval n) 4, nan := k.1, ovf := k.2 }

/-- The updates of a SCALE iteration (R332, R333); a row that is converted has its remaining bytes zeroed. -/
def State.scaleUpdates (s : State) (b : Block) (q : GravCmd) (t : Tid) : List GUpdate :=
  let n := q.cmd
  let iv := q.iv
  let cvt := gCvt n
  let el := (elemOf cvt).getD .fp32
  let idx0 := (if gCol n then gC n iv else gR n iv).toNat
  (gRowsC n iv).zipIdx.flatMap fun r =>
    let ups := (List.range (gN n)).filterMap fun j =>
      let i := idx0 + (if gCol n then j else r.2)
      if t.ext.getD 0 0 ≤ i then none else
      let old := s.gAcc b q r.1 j
      let x := (rne32 ((fmt32.value old).mul (fmt32.value (s.gElem b q t (t.offset2 i 0))))).toNat
      let k := fpCounts old x
      if cvt = 0 then some { row := r.1, at_ := 4 * j, bytes := leBytes x 4, nan := k.1, ovf := k.2 : GUpdate }
      else
        let v := el.convert t.mode false t.conv (fmt32.value x)
        some { row := r.1, at_ := el.size * j, bytes := leBytes v.code el.size, nan := k.1
               ovf := k.2 || decide (v.flags &&& flOvf ≠ 0), sat := v.counted }
    let tail := gN n * el.size
    if cvt ≠ 0 ∧ ups.isEmpty = false then ups ++ [{ row := r.1, at_ := tail, bytes := List.replicate (512 - tail) 0 }] else ups

/-- The first remote operand whose core has left service (R344, kind 5). -/
def State.gGone (s : State) (b : Block) (n : Nat) (ta tb : Tid) : Option Nat :=
  ((if gKind n = 0 then [ta, tb] else if gKind n = 2 then [ta] else []).find? fun t =>
    t.isRemote && !(s.core (b.core / 12 * 12 + t.rcore)).inService).map (·.rcore)

/-- The scales of A's rows and of B's columns that the iteration at a vector uses: those it has read, or read now (R336). -/
def State.gScalesOf (s : State) (b : Block) (asid : BitVec 9) (q : GravCmd) :
    Except EngStop (List (Option Nat) × List (Option Nat)) × State :=
  let ta := tidOf q.tida
  let tb := tidOf q.tidb
  let rows := gRows q.cmd ta q.iv
  let cols := gCols q.cmd tb q.iv
  let g := (gG q.cmd q.iv).toNat
  match q.scales with
  | some x => (.ok x, s)
  | none =>
    if gKind q.cmd ≠ 0 ∨ rows.isEmpty ∨ cols.isEmpty then (.ok ([], []), s) else
    match s.gScales b.core q.wave.1 asid (rows.map fun r => ta.scaleAddr [g * groupSize ta, r]) with
    | (.error e, s) => (.error e, s)
    | (.ok sa, s) =>
      match s.gScales b.core q.wave.1 asid (cols.map fun c => tb.scaleAddr [c, g * groupSize tb]) with
      | (.error e, s) => (.error e, s)
      | (.ok sb, s) => (.ok (sa, sb), s.charge b.core q.cls.toNat (4 * ((sa ++ sb).countP (·.isSome))))

/-- Everything that the iteration at a vector writes, or why it fails (R331). -/
def State.gIteration (s : State) (b : Block) (asid : BitVec 9) (q : GravCmd) : Except EngStop (List GUpdate) × State :=
  let ta := tidOf q.tida
  match s.gScalesOf b asid q with
  | (.error e, s) => (.error e, s)
  | (.ok x, s) => (.ok (match gKind q.cmd with
      | 0 => s.gemmUpdates b q ta (tidOf q.tidb) x.1 x.2
      | 1 => s.fillUpdates b q
      | _ => s.scaleUpdates b q ta), s)

/-! ### Applying an iteration -/

/-- Adds to the three counters of a tile, saturating (R342). -/
def addTile (t : Table (Word × Word × Word)) (tile nan ovf snan : Nat) : Table (Word × Word × Word) :=
  let sat (w : Word) (n : Nat) : Word := BitVec.ofNat 32 (min (w.toNat + n) 0xFFFFFFFF)
  let old := tgetD t tile (0, 0, 0)
  tset t tile (sat old.1 nan, sat old.2.1 ovf, sat old.2.2 snan)

/-- The counts of updates by tile of the core's C-buffer. -/
def tileCounts (b : Block) (us : List GUpdate) : Table (Nat × Nat × Nat) :=
  us.foldl (fun t u =>
    let k := (b.cslice.base / 512 + u.row) / 128
    let o := tgetD t k (0, 0, 0)
    let one (x : Bool) : Nat := if x then 1 else 0
    tset t k (o.1 + one u.nan, o.2.1 + one u.ovf, o.2.2 + one u.snan)) []

/-- The bytes of an update: free values when the command's results are undefined. -/
def State.gBytes (s : State) (q : GravCmd) (bs : List Byte) : List Byte × State :=
  if q.spoiled then
    bs.foldl (fun (r : List Byte × State) _ => let (v, s) := r.2.takeFree; (r.1 ++ [v.setWidth 8], s)) ([], s)
  else (bs, s)

/-- Updates of an iteration take effect. -/
def State.gApply (s : State) (b : Block) (blk slot : Nat) (q : GravCmd) (us : List GUpdate) : State × GravCmd :=
  let s := us.foldl (fun s u =>
    let (bs, s) := s.gBytes q u.bytes
    s.bufWrite b.core 4 (b.cslice.base + 512 * u.row + u.at_) bs) s
  let ks := tileCounts b us
  -- of an update beside a `GCLR` of its tile, the count stands or is lost (R343)
  let (ks, s) := ks.foldl (fun (r : Table (Nat × Nat × Nat) × State) k =>
    if q.cleared.contains k.1 then
      let (v, s) := r.2.takeFree
      let some_ (n lo : Nat) : Nat := (natBits v.toNat (lo + 15) lo) % (n + 1)
      (r.1 ++ [(k.1, some_ k.2.1 0, some_ k.2.2.1 16, some_ k.2.2.2 32)], s)
    else (r.1 ++ [k], r.2)) ([], s)
  let s := s.modCore b.core fun c => { c with ctiles := ks.foldl (fun t k => addTile t k.1 k.2.1 k.2.2.1 k.2.2.2) c.ctiles }
  let n := us.countP (·.sat)
  let s := s.modBlock blk fun b => match b.wave slot with
    | some w => b.setWave slot { w with satc := BitVec.ofNat 32 (min (w.satc.toNat + n) 0xFFFFFFFF) }
    | none => b
  let adds := ks.foldl (fun t k =>
    let o := tgetD t k.1 (0, 0, 0)
    tset t k.1 (o.1 + k.2.1, o.2.1 + k.2.2.1, o.2.2 + k.2.2.2)) q.adds
  (s, { q with adds := adds })

/-- Why a command stops before its end: a stopped scale read, or a remote core that has left service. -/
inductive GStop where
  | eng (e : EngStop)
  | gone (rcore : Nat)

/-- The next iteration, of which the first element updates may have been performed: at most `m` more, and its scales are kept; all of
them when that is none (R331). -/
def State.gIterate (s : State) (blk slot : Nat) (asid : BitVec 9) (q : GravCmd) (m : Option Nat) : Except GStop Unit × State × GravCmd :=
  match tget s.blocks blk with
  | none => (.ok (), s, q)
  | some b =>
    match if q.el = 0 then s.gGone b q.cmd (tidOf q.tida) (tidOf q.tidb) else none with
    | some r => (.error (.gone r), s, q)
    | none =>
      match s.gScalesOf b asid q with
      | (.error e, s) => (.error (.eng e), s, q)
      | (.ok x, s) =>
        let q := { q with scales := some x }
        let us := match s.gIteration b asid q with
          | (.ok us, _) => us.drop q.el
          | (.error _, _) => []
        match m with
        | none =>
          let (s, q) := s.gApply b blk slot q us
          (.ok (), s, { q with iv := nextIv q.iv (gCounts q.cmd), el := 0, scales := none })
        | some m =>
          let us := us.take m
          let (s, q) := s.gApply b blk slot q us
          (.ok (), s, { q with el := q.el + us.length })

/-- Performs at most `k` iterations of a command in order, until one fails. -/
def State.gRun (s : State) (blk slot : Nat) (asid : BitVec 9) (q : GravCmd) : Nat → Except GStop Unit × State × GravCmd
  | 0 => (.ok (), s, q)
  | k + 1 =>
    match s.gIterate blk slot asid q none with
    | (.ok (), s, q) => s.gRun blk slot asid q k
    | x => x

/-- The iterations that a command still has to perform. -/
def GravCmd.left (q : GravCmd) : Nat := gTotal q.cmd - ivIndex q.iv (gCounts q.cmd)

/-! ### The queue and the batches -/

/-- The wave's first command that has not completed. -/
def WaveGraver.head (g : WaveGraver) : Option GravCmd := g.queue.find? fun q => !q.done
/-- Replaces the command of a ring index that has not completed. -/
def WaveGraver.setCmd (g : WaveGraver) (q : GravCmd) : WaveGraver :=
  { g with queue := g.queue.map fun x => if x.idx = q.idx ∧ x.done = false then q else x }

/-- Closed batches all of whose commands have completed complete, in number order (R337). -/
def WaveGraver.settle (g : WaveGraver) : Nat → WaveGraver
  | 0 => g
  | k + 1 =>
    match g.out with
    | [] => g
    | b :: rest =>
      if g.queue.any fun q => !q.done && decide (q.batch = some b.num) then g
      else { g with out := rest, last := b.num, failed := if b.err then g.failed ++ [b.num] else g.failed }.settle k

/-- Marks the batch of a command as one with error. -/
def WaveGraver.markErr (g : WaveGraver) (batch : Option (BitVec 16)) : WaveGraver :=
  match batch with
  | none => { g with openErr := true }
  | some n => { g with out := g.out.map fun b => if b.num = n then { b with err := true } else b }

/-- A command ends: its slot is freed with 2 + p(i) (R329), and its batch may complete. -/
def State.gEnd (s : State) (blk slot : Nat) (q : GravCmd) (err : Bool) : State :=
  match tget s.blocks blk with
  | none => s
  | some b =>
    match b.wave slot with
    | none => s
    | some w =>
      let word := (w.grav.ring.map (·.word)).getD 0
      let s := s.bufWrite b.core 3 q.slot (leBytes (2 + ringPhase word q.idx.toNat) 8)
      let g := w.grav.setCmd { q with done := true }
      let g := if err then g.markErr q.batch else g
      let g := g.settle (g.out.length + 1)
      s.setBlock blk (b.setWave slot { w with grav := g })

/-- A command fails in its present iteration (R344): the wave is faulted, with its fault record. -/
def State.gFail (s : State) (blk slot : Nat) (q : GravCmd) (kind : BitVec 3) (rem : Option Nat) : State :=
  let s := s.modBlock blk fun b => match b.wave slot with
    | some w => b.setWave slot
        { w with grav := { w.grav with faulted := true, fault := some { kind := kind, iv := q.iv, idx := q.idx, rem := rem } } }
    | none => b
  s.gEnd blk slot q true

/-- Stores a command's progress. -/
def State.setGrav (s : State) (blk slot : Nat) (q : GravCmd) : State :=
  s.modBlock blk fun b => match b.wave slot with
    | some w => b.setWave slot { w with grav := w.grav.setCmd q }
    | none => b

/-- The command that the Graver works on for a wave, with its launch's address space. -/
def State.gHead (s : State) (blk slot : Nat) : Option (Block × Wave × GravCmd) :=
  (tget s.blocks blk).bind fun b => (b.wave slot).bind fun w => w.grav.head.map fun q => (b, w, q)

/-- Is another command of the core at work (R331)? -/
def State.gBeside (s : State) (b : Block) (blk slot : Nat) : Bool :=
  s.blocks.any fun x => decide (x.2.core = b.core) && x.2.waves.any fun w =>
    !(decide (x.1 = blk) && decide (w.1 = slot)) && ((w.2.grav.head.map (·.started)).getD false)

/-- The outcome of a run of a command: parked on a replayable fault (R336), or failed. -/
def State.gStopped (s : State) (b : Block) (blk slot : Nat) (q : GravCmd) (e : GStop) : State :=
  let l := s.launch b.launch
  match e with
  | .eng (.fault va acc k lvl pte) =>
    (s.park (corePlate b.core) (engineParked (.graver blk slot) l.asid b.core (engineWho 2 q.idx.toNat) l.lid va acc k lvl pte)).setGrav blk slot
      { q with parked := true }
  | .eng .xlate => s.gFail blk slot q 1 none
  | .gone r => s.gFail blk slot q 5 (some r)

end Sys2Proof.Machine
end

