-- ==== Sys2Proof/Machine/CopyTag.lean ====
section
/-! DEFINITION. Copies (R131–R138), tag instructions (R139–R141) and rings (R142–R145). -/
namespace Sys2Proof.Machine

/-! ### Issue of a copy -/

/-- A copy starts on a tag (R131, R139): it waits for a free place among 128, and for a count below 255. -/
def Ctx.startCopy (c : Ctx) (tag : Nat) (q : Copy) : Except Stop Ctx := do
  let c ← c.release 1
  let k := c.s.core c.core
  if 128 ≤ k.copies.length ∨ 255 ≤ (c.b.tags.getD tag {}).pending then .error (.wait (.copySlot tag true))
  else
    let s := c.s.setCore c.core { k with copies := tset k.copies k.nextCmd q, nextCmd := k.nextCmd + 1 }
    .ok { c with s := s, b := c.b.modTag tag Tag.start }

/-- The tag operand of a command: TAGERR outside the slice (R139). -/
def Ctx.tagIn (c : Ctx) (t : Nat) : Except Stop Unit := if c.b.tags.length ≤ t then raises cTAGERR else .ok ()

/-- The absolute first offset of a block-relative one, and the limit of a space's offsets for the block: the slice, or the whole
buffer of a remote space (R52, R55). -/
def Ctx.spaceBase (c : Ctx) (space : Nat) (off : Dword) : Dword :=
  if 2 ≤ space ∧ space ≤ 4 then off + BitVec.ofNat 64 (c.b.slice space).base else off
def Ctx.spaceLimit (c : Ctx) (space : Nat) : Nat := if space ≤ 4 then (c.b.slice space).len else 0x200000

/-- A descriptor (Table 6.1), none when it is malformed or a count, the start or the run is out of range (R134). -/
def copyOf (c : Ctx) (tag off : Nat) (bs : List Byte) : Option Copy :=
  let n := leNat bs
  let f (i lo w : Nat) : Nat := natBits n (lo + w * i + w - 1) (lo + w * i)
  let sspc := natBits n 131 128
  let dspc := natBits n 139 136
  let rc := natBits n 135 132
  let run := natBits n 191 160
  let cnt := (List.range 5).map fun i => f i 192 32
  let iv := (List.range 5).map fun i => f i 352 32
  if 7 ≤ sspc ∨ dspc = 0 ∨ 5 ≤ dspc ∨ run = 0 ∨ 1048576 < run ∨ (sspc = 5 ∨ sspc = 6) ∧ 12 ≤ rc ∨
      (cnt.zip iv).any (fun p => decide (p.1 ≤ p.2)) = true then none
  else some { blk := c.r.blk, tag := tag, asid := c.asid, wid := c.s.wid c.b c.r.slot, lid := c.launch.lid, cls := c.launch.cls, desc := some off
              src := BitVec.ofNat 64 (natBits n 63 0), dst := BitVec.ofNat 64 (natBits n 127 64), sspc := sspc
              srcore := c.core / 12 * 12 + rc, dspc := dspc, run := run, n := cnt, iv := iv, first := iv
              ss := (List.range 5).map fun i => BitVec.ofNat 64 (f i 512 64)
              ds := (List.range 5).map fun i => BitVec.ofNat 64 (f i 832 64) }

/-- Does some run reach a buffer byte outside its slice or limit (R134)? `src` and `dst` are still block-relative. -/
def Ctx.copyLeaves (c : Ctx) (q : Copy) : Bool :=
  let boxes := boxesFrom q.iv q.n
  (decide (2 ≤ q.sspc) && leaves boxes q.src.toNat q.ss q.run (c.spaceLimit q.sspc)) ||
    (decide (2 ≤ q.dspc) && leaves boxes q.dst.toNat q.ds q.run (c.spaceLimit q.dspc))

def Ctx.absolute (c : Ctx) (q : Copy) : Copy := { q with src := c.spaceBase q.sspc q.src, dst := c.spaceBase q.dspc q.dst }

/-- `CPY`'s effect (R132–R134, R138). -/
def cpyBody (s : Reg5) (tag : Nat) (c : Ctx) : Except Stop Ctx := do
  c.tagIn tag
  let off := (c.rs s).toNat
  if off % 64 ≠ 0 then raises cALIGN
  if c.b.aslice.len < off + 192 then raises cBOUNDS
  match copyOf c tag off (c.bufLoad 3 off 192) with
  | none => raises cBOUNDS
  | some q => if c.copyLeaves q then raises cBOUNDS else c.startCopy tag (c.absolute q)

/-- `CPYT`'s effect (R138). -/
def cpytBody (s : Reg5) (tid tag spc : Nat) (put : Bool) (c : Ctx) : Except Stop Ctx := do
  c.tagIn tag
  let t ← c.tidNamed tid
  if put && t.isRemote then raises cBOUNDS
  let r := t.rank
  let tile := (List.range 5).map fun i => if i < r then t.tile.getD i 1 else 1
  let grid := (List.range 5).map fun i => if i < r then (t.ext.getD i 1 + t.tile.getD i 1 - 1) / t.tile.getD i 1 else 1
  let index := c.rsc.toNat
  if grid.foldl (· * ·) 1 ≤ index then raises cBOUNDS
  let at_ := ivAt index grid
  let size := t.esize
  let loc := c.rs s
  if loc.toNat % size ≠ 0 then raises cALIGN
  let origin := (at_.zip tile).map fun p => p.1 * p.2
  let ext := (List.range 5).map fun i => if i < r then min (tile.getD i 1) (t.ext.getD i 1 - origin.getD i 0) else 1
  let ts := (List.range 5).map fun i => if i < r then t.stride.getD i 0 else 0
  let dense := (List.range 5).map fun i => BitVec.ofNat 64 (size * (tile.take i).foldl (· * ·) 1)
  let elem := t.addr origin
  let box (m : List Nat) : List (List (Nat × Nat)) := [m.map fun k => (0, k - 1)]
  let space := spc + 1
  -- exact offset of the tile's first element in a buffer
  let first : Int := (t.base.toNat : Int) + dotInt (origin.take r) t.stride
  if (decide (2 ≤ t.space) && (leaves (box ext) first ts size (c.spaceLimit t.space) || (t.isRemote && decide (12 ≤ t.rcore)))) ||
      (decide (2 ≤ space) && leaves (box (if put then ext else tile)) loc.toNat dense size (c.spaceLimit space)) then
    raises cBOUNDS
  let q : Copy :=
    { blk := c.r.blk, tag := tag, asid := c.asid, wid := c.s.wid c.b c.r.slot, lid := c.launch.lid, cls := c.launch.cls, desc := none
      src := if put then loc else elem, dst := if put then elem else loc
      sspc := if put then space else t.space, dspc := if put then t.space else space, srcore := c.core / 12 * 12 + t.rcore
      run := size, n := tile, iv := [0, 0, 0, 0, 0], first := [0, 0, 0, 0, 0], ss := if put then dense else ts, ds := if put then ts else dense
      ext := some ext, put := put }
  c.startCopy tag (c.absolute q)

/-- `CPY` (R138). -/
def execCpy (s : BitVec 5) (g : BitVec 6) (st : State) : Host.Outcome State Fault Refusal :=
  run (.cpy s g) (deferred false (cpyBody s g.toNat)) st

/-- `CPYT` (R138). -/
def execCpyt (s : BitVec 5) (t : BitVec 8) (g : BitVec 6) (p : BitVec 2) (r : Bool) (st : State) : Host.Outcome State Fault Refusal :=
  run (.cpyt s t g p r) (deferred false (cpytBody s t.toNat g.toNat p.toNat r)) st

/-! ### Tag instructions -/

/-- The tags of a mask; TAGERR for a bit outside the slice (R140). -/
def Ctx.tagMask (c : Ctx) (m : Dword) : Except Stop Unit :=
  if m.toNat / 2 ^ c.b.tags.length ≠ 0 then raises cTAGERR else .ok ()

/-- The cause that the lowest ready tag of a mask with an error recorded, if one has (R140). -/
def Block.tagFault (b : Block) (m : Dword) : Option Nat :=
  ((b.tags.zipIdx.find? fun t => m.getLsbD t.2 && t.1.ready && t.1.error).map (·.1.cause))

/-- Completes a tag wait: a recorded error replaces the instruction's effect. -/
def Ctx.tagDone (c : Ctx) (m : Dword) : Except Stop Ctx :=
  match c.b.tagFault m with
  | some cause => raises cause
  | none => .ok c

/-- Is no command of the tags pending (R214)? -/
def Block.tagsIdle (b : Block) (m : Dword) : Bool := b.tags.zipIdx.all fun t => !m.getLsbD t.2 || decide (t.1.pending = 0)

/-- In Level mode a tag instruction first ends the quantum, so that the commands of the quantum issue (R214). -/
def Ctx.quantumFirst (c : Ctx) (w : Wait) (body : Except Stop Ctx) : Except Stop Ctx :=
  if c.level && !c.e.qwaited then .error (.wait w) else body

/-- The index of the lowest set bit, 64 when none is. -/
def lowestBit (v : Dword) : Nat := ((List.range 64).find? fun i => v.getLsbD i).getD 64

/-- `TGWAIT` (R141). -/
def execTgwait (a : BitVec 5) (s : State) : Host.Outcome State Fault Refusal :=
  run (.tgwait a) (fun c => do
      let m := c.rs a
      c.tagMask m
      c.quantumFirst (.tags m false) (if c.b.tgb &&& m = m then c.tagDone m else .error (.wait (.tags m false)))) s

/-- `TGANY` (R141). -/
def execTgany (a : BitVec 5) (s : State) : Host.Outcome State Fault Refusal :=
  run (.tgany a) (fun c => do
      let m := c.rs a
      c.tagMask m
      if m = 0 then raises cTAGERR
      -- in Level mode it waits for every tag of its mask (R214)
      let met := if c.level then decide (c.b.tgb &&& m = m) else decide (c.b.tgb &&& m ≠ 0)
      c.quantumFirst (.tags m (!c.level)) (if met then c.tagDone m else .error (.wait (.tags m (!c.level))))) s

/-- `TGFIND` (R141). -/
def execTgfind (d a : BitVec 5) (s : State) : Host.Outcome State Fault Refusal :=
  run (.tgfind d a) (fun c => do
      let m := c.rs a
      c.tagMask m
      let find : Except Stop Ctx :=
        let n := lowestBit (c.b.tgb &&& m)
        match c.b.tags[n]? with
        | some t => if t.error then raises t.cause else .ok (c.ws d (BitVec.ofNat 64 n))
        | none => .ok (c.ws d 64)
      if c.level then c.quantumFirst (.idle m) (if c.b.tagsIdle m then find else .error (.wait (.idle m))) else find) s

/-- `TGCLR` (R141): a completion of the cycle comes before it. -/
def execTgclr (a : BitVec 5) (s : State) : Host.Outcome State Fault Refusal :=
  run (.tgclr a) (fun c => do
      let m := c.rs a
      c.tagMask m
      let clear (t : Tag × Nat) : Tag := if m.getLsbD t.2 then { t.1 with ready := false, error := false, cause := 0, cleared := some c.s.now } else t.1
      .ok { c with b := { c.b with tags := c.b.tags.zipIdx.map clear } }) s

/-- `TGTEST` (R141). -/
def execTgtest (d a : BitVec 5) (e : Bool) (s : State) : Host.Outcome State Fault Refusal :=
  run (.tgtest d a e) (fun c => do
      let m := c.rs a
      c.tagMask m
      let test : Except Stop Ctx := .ok (c.ws d ((if e then c.b.tgerr else c.b.tgb) &&& m))
      if c.level then c.quantumFirst (.idle m) (if c.b.tagsIdle m then test else .error (.wait (.idle m))) else test) s

/-! ### Rings -/

/-- The scope of a ring instruction: 0 is `.dev` for a global ring and `.block` for an A ring (R145). -/
def ringScope (c : BitVec 4) (A : Bool) : Nat := if c = 0 then (if A then 2 else 6) else c.toNat

/-- The header that a ring instruction waits for (R143, R145): the producer's with `.free`, the consumer's without. -/
def headerWant (free : Bool) (p f : Bool) : Dword :=
  if free then (if f then 1 else if p then 2 else 3) else if p then 1 else 0

/-- `RWAIT` on a global ring: a strong read of the header, at the scope (R145). -/
def rwaitGlobal (loc want : Dword) (scope : Nat) (c : Ctx) : Except Stop Ctx := do
  if c.b.isLevel then raises cLEVEL
  let (c, ps) ← c.reach .load true [(0, loc)]
  match ps with
  | [] => .ok c
  | p :: _ =>
    let path : Path := if p.st = .uncached then .home else if scope ≤ 3 then .l1 else .past
    let (x, c) := c.readAt path true p.pa 8
    let v := dwordOf x.bytes
    -- a strong load: its release tag counts for a later `FENCE.racq` (R115)
    if x.lost then .ok (c.awaitData x.far true)
    else if v = want then .ok (({ c with s := c.s.acquireCaches c.core scope, w := c.w.noteTags (c.taggers [p.pa]) }).awaitData x.far false)
    else .error (.waitIn c.s (.ring true p.pa v want p.via))

/-- `RWAIT` on an A ring (R145); in Level mode a logical wait (R214). -/
def rwaitA (loc want : Dword) (c : Ctx) : Except Stop Ctx := do
  let c ← c.bufLanes 3 true 8 [(0, loc)]
  let v := dwordOf (c.bufLoad 3 loc.toNat 8)
  let w : Wait := .ring false loc.toNat v want {}
  c.quantumFirst w (if v = want then .ok c else .error (.wait w))

/-- `RIDX` (R145). -/
def execRidx (d a b : BitVec 5) (s : State) : Host.Outcome State Fault Refusal :=
  run (.ridx d a b) (fun c =>
      let w := c.rs a
      let i := (c.rs b).toNat % 2 ^ 32
      if ringOk w = false then raises cRINGERR
      else
        let f := if i < 2 ^ ringK w then 2 else 0
        .ok ((c.ws d (BitVec.ofNat 64 (ringSlot w i))).ws (d + 1) (BitVec.ofNat 64 (ringPhase w i + f)))) s

/-- `RWAIT` (R145). -/
def execRwait (a b : BitVec 5) (f p : Bool) (c : BitVec 4) (s : State) : Host.Outcome State Fault Refusal :=
  run (.rwait a b f p c) (fun x => do
      let loc := x.rs a
      let v := x.rs b
      if loc.toNat % 64 ≠ 0 then raises cRINGERR
      let want := headerWant f (v.getLsbD 0) (v.getLsbD 1)
      if p then rwaitA loc want x else rwaitGlobal loc want (ringScope c false) x) s

/-- `RFLIP` (R145). -/
def execRflip (a b : BitVec 5) (f p : Bool) (c : BitVec 4) (s : State) : Host.Outcome State Fault Refusal :=
  run (.rflip a b f p c) (fun x => do
      let loc := x.rs a
      let ph := if (x.rs b).getLsbD 0 then 1 else 0
      if loc.toNat % 64 ≠ 0 then raises cRINGERR
      let bs := leBytes (if f then 2 + ph else ph) 8
      if p then
        let x ← x.bufLanes 3 true 8 [(0, loc)]
        let x ← x.release (ringScope c true)
        .ok (x.bufStore 3 loc.toNat bs)
      else
        let (x, ps) ← x.reach .store true [(0, loc)]
        let x ← x.release (ringScope c false)
        ps.foldlM (fun x q => x.storeAt 4 (ringScope c false) q bs) x) s

end Sys2Proof.Machine
end

