-- ==== Sys2Proof/Machine/Lifecycle.lean ====
section
/-! DEFINITION. The ends of entities, waves and blocks: what an exit leaves behind (R137, R155, R289, R290, R407). -/
namespace Sys2Proof.Machine

/-! ### Entities that change their name -/

/-- Renames an entity wherever a request in flight or a parked access names it. -/
def State.mapEnt (s : State) (core : Nat) (f : EntRef → EntRef) : State :=
  let s := s.modCore core fun c =>
    { c with stores := c.stores.map fun p => { p with ent := f p.ent }
             atoms := c.atoms.map fun p => { p with ent := f p.ent }
             loads := c.loads.map fun p => { p with ent := f p.ent }
             stip := c.stip.map fun p => { p with ent := f p.ent } }
  let by_ (g : Faulter) : Faulter := match g with
    | .wave e => .wave (f e)
    | g => g
  let plate (p : Plate) : Plate :=
    { p with buffer := p.buffer.map fun e => (e.1, ({ e.2.1 with by_ := by_ e.2.1.by_ }, e.2.2))
             waiting := p.waiting.map fun a => { a with by_ := by_ a.by_ } }
  let s := s.modHub fun h => { h with plates := h.plates.map plate }
  { s with promos := s.promos.map fun p => (p.1, p.2.1, f p.2.2.1, p.2.2.2)
           records := s.records.map fun r => { r with ent := r.ent.map f }
           treqs := s.treqs.map fun q => (q.1, { q.2 with direct := q.2.direct.map fun d => (f d.1, d.2) }) }

/-- The fragment of a wave becomes its only entity (R170, R289). -/
def State.retag (s : State) (core blk slot : Nat) : State :=
  s.mapEnt core fun e => if e.blk = blk ∧ e.slot = slot then { e with frag := false } else e

/-! ### The retire record -/

/-- The retire record of a wave (Table 22.2). DEDUCED (log 96): the exit is over as the cycle of its `EXIT` ends, so that end − start counts that
cycle too, as the table's invariant asks. -/
def State.retireRecord (s : State) (b : Block) (slot : Nat) (w : Wave) : List Byte :=
  let n := (s.wid b slot).toNat % 2 ^ 64 + b.blk.toNat * 2 ^ 64 + slot * 2 ^ 96 + w.role.toNat * 2 ^ 104 +
    (if b.task then 2 ^ 112 else 0) + (if w.evicted then 2 ^ 113 else 0) + (if w.stallSat then 2 ^ 114 else 0) +
    w.start % 2 ^ 64 * 2 ^ 128 + (s.now + 1) % 2 ^ 64 * 2 ^ 192
  leBytes n 32 ++ w.stall.toList.flatMap fun c => leBytes c.toNat 4

/-- Where the device reaches a word of the profile buffer for an exiting wave: none for an immediate XLATE, the entity parked for a
replayable fault (R89, R90). -/
def Ctx.recordAt (c : Ctx) (va : Dword) (acc : AccKind) : Except Stop (Ctx × Option Nat) :=
  match c.s.translate c.core c.asid va acc with
  | (.ok pa _ _, s) => .ok ({ c with s := s }, some pa)
  | (.xlate, s) => .ok ({ c with s := s }, none)
  | (.fault k l p, s) =>
    match c.parkedOf acc true [(0, va, k, l, p)] with
    | some q => .error (.waitIn (s.park (corePlate c.core) q) (.parked (corePlate c.core)))
    | none => .ok ({ c with s := s }, none)

/-- The record of an exiting wave is written into its launch's profile buffer, or counted as dropped (R407). DEDUCED (log 30): the
wave's `EXIT` waits at a replayable fault of either access before it has claimed an index; a record that an immediate XLATE keeps from
its place is counted as dropped, and a header out of reach counts nothing. -/
def Ctx.putRetire (c : Ctx) : Except Stop Ctx :=
  let l := c.launch
  if l.prof = 0 then .ok c else do
  let (c, h) ← c.recordAt (l.prof + 16) .atomic
  match h with
  | none => .ok c
  | some pa =>
    let base := dwordOf (c.s.readHome (pa - 16) 8)
    let cap := leNat (c.s.readHome (pa - 8) 4)
    let next := leNat (c.s.readHome pa 4)
    let (c, at_) ← if next < cap then c.recordAt (base + BitVec.ofNat 64 (64 * next)) .store else .ok (c, none)
    let s := c.s.writeHome pa (leBytes (next + 1) 4)
    match at_ with
    | some ra => .ok { c with s := s.writeHome ra (s.retireRecord c.b c.r.slot c.w) }
    | none =>
      let dropped := leNat (s.readHome (pa + 4) 4)
      .ok { c with s := s.writeHome (pa + 4) (leBytes (min (dropped + 1) 0xFFFFFFFF) 4) }

/-! ### The end of a block -/

/-- The tiles of an ended block are released, but for the one that its surrender wave serves (R155). -/
def State.releaseTiles (s : State) (blk : Nat) : State :=
  match tget s.blocks blk with
  | none => s
  | some b =>
    let serving := b.sur.map (·.2.tile)
    b.tiles.foldl (fun s t => if t.view = .held ∧ serving ≠ some t.pa then s.releaseTile blk t.pa else s) s

/-- The pending requests of a block are cancelled; one that a surrender wave serves is only marked (R155). -/
def State.cancelRequests (s : State) (blk : Nat) : State :=
  s.treqs.foldl (fun s p =>
    if p.2.blk ≠ blk then s else
    match p.2.phase with
    | .serving h =>
      (s.setTreq p.1 fun q => { q with cancelled := true }).modBlock h fun b =>
        { b with sur := b.sur.map fun x => (x.1, { x.2 with cancelled := true }) }
    | .queued c => { s.dropRecall c p.1 with treqs := tdel s.treqs p.1 }
    | .delivering _ true => { s with tiles := tdel s.tiles p.2.pa, treqs := tdel s.treqs p.1 }.resendRecalls p.2.pa
    | _ => { s with treqs := tdel s.treqs p.1 }) s

/-- The partition that holds a core's cluster, and the number of slots of the core's task shard, 2^`PTSCHED`.shk (R203). -/
def State.partOf (s : State) (core : Nat) : Option Nat := (List.range 8).find? fun n => (s.part n).ptcl.getLsbD (core / 12)
def State.shardSize (s : State) (core : Nat) : Nat := 2 ^ ((s.partOf core).map fun n => (s.part n).shk).getD 12

/-- The header of a slot of a core's shard (R142): full, or empty again. -/
def State.shardHeader (s : State) (core idx : Nat) (full : Bool) : State :=
  let ph := idx / s.shardSize core % 2
  s.writeHome (Config.shardPa core (idx % s.shardSize core)) (leBytes (if full then ph else 2 + ph) 8)

/-- The comparators armed for a block are disarmed (R410). -/
def State.disarm (s : State) (core blk : Nat) : State :=
  let off (x : Option Comparator) : Option Comparator := if (x.map (·.blk)) = some blk then none else x
  s.modCore core fun c => { c with comps := c.comps.map off, compsOld := c.compsOld.map fun x => (x.1, off x.2) }

/-- The last wave of a block has exited (R137, R155, R204, R410): comparators disarmed, tiles released, requests cancelled, the task
record's slot freed, and the launch told. -/
def State.endBlock (s : State) (blk : Nat) : State :=
  match tget s.blocks blk with
  | none => s
  | some b =>
    let s := s.modBlock blk fun b => { b with ended := true }
    let s := (s.disarm b.core blk).modCore b.core fun c =>
      { c with shard := match b.record with
                 | some i => c.shard.filter fun r => r.idx ≠ i
                 | none => c.shard }
    let s := match b.record with
      | some i => s.shardHeader b.core i false
      | none => s
    let s := (s.releaseTiles blk).cancelRequests blk
    let s := s.modLaunch b.launch fun l =>
      let l := { l with ends := l.ends ++ [blk] }
      if b.task then { l with tasks := l.tasks - 1 }
      else { l with exited := l.exited + 1, gone := tset l.gone b.blk.toNat ((b.level.map (·.open_.n)).getD 0) }
    s.reapBlock blk

/-- Lanes that are present and have not exited, over a block. -/
def Block.liveWaves (b : Block) : List (Nat × Wave) := b.waves.filter fun p => p.2.live ≠ 0

/-- A wave exits (R290): its registers and slot are free. In Level mode the wave stays listed until its held
effects are committed. -/
def State.endWave (s : State) (blk slot : Nat) : State :=
  match tget s.blocks blk with
  | none => s
  | some b =>
    match tget b.waves slot with
    | none => s
    | some w =>
      let s := s.modCore b.core fun k => { k with freedAt := k.freedAt.setIfInBounds (b.quad slot) s.now
                                                  smpExits := (k.smpExits.filter fun x => x.cslot ≠ w.cslot) ++ [{ cslot := w.cslot, pc := w.parent.pc, wid := s.wid b slot, lid := (s.launch b.launch).lid }] }
      if b.isLevel then
        -- the exit of the last wave disarms the block's comparators at once (R410)
        (if (b.liveWaves.filter fun p => p.1 ≠ slot).isEmpty then s.disarm b.core blk else s).modBlock blk fun b => b.setWave slot
          { w with v := Vector.replicate 64 none, m := Vector.replicate 8 {}, frag := none
                   parent := { w.parent with qended := true, wait := none } }
      else
        let s := s.modBlock blk fun b => { b with waves := tdel b.waves slot }
        if (b.waves.filter fun p => p.1 ≠ slot).isEmpty then s.endBlock blk else s

/-! ### `EXIT` of an entity -/

/-- What follows an `EXIT` on a mask stack (R289): the arm that goes on, or the end of the entity. A split both of whose arms have
exited is popped and the table is applied again (log 31). -/
def exitStack (e : Entity) : List SplitEntry → Option (Entity × Dword)
  | [] => none
  | t :: rest =>
    if t.stopped then some ({ e with arm := t.arm, xm := t.xm, stack := rest }, t.pc + 4)
    else if t.partner then exitStack e rest
    else some ({ e with arm := t.arm, xm := t.xm, stack := { t with partner := true } :: rest }, t.pc)

/-- The entity that goes on after its partner has ended: it leaves a `REJOIN` at which it stopped (R289). -/
def Entity.goOn (e : Entity) : Entity := if e.stopped then { e with stopped := false, pc := e.pc + 4 } else e

/-- An entity of a split wave ends; the other becomes the wave's only one (R289). What it leaves on its way comes before what the other does
after its `REJOIN` (R105); the model has it come before whatever the other does next. -/
def Ctx.endEntity (c : Ctx) (w : Wave) (f : Entity) : Ctx :=
  let s := c.s.etch c.r c.e.pc [pktEnd 0]
  let w' :=
    let w := { w with slog := [], mlog := [] }
    if c.r.frag then { w with frag := none, parent := w.parent.goOn, fragHeld := w.fragHeld ++ c.e.held }
    else { w with frag := none, parent := { f.goOn with held := c.e.held ++ f.held } }
  let s := s.setBlock c.r.blk (c.b.setWave c.r.slot w')
  { c with s := s.retag c.core c.r.blk c.r.slot, gone := true }

/-- What the exit of the wave must wait for (R121, R290, R337). -/
def Ctx.exitWaits (c : Ctx) : Option Wait :=
  if c.s.outstanding c.core c.r.blk c.r.slot then some .drain
  else if c.w.grav.queue.any (!·.done) then some .graver else none

/-- `EXIT` (R289, R290). -/
def exitBody (c : Ctx) : Except Stop Ctx := do
  let w := { c.w with exited := c.w.exited ||| c.e.arm }
  match exitStack c.e c.e.stack with
  | some (e, pc) => .ok { c with w := w, e := { e with loop := none, qended := c.level || e.qended }, npc := pc, jumped := true }
  | none =>
    match c.w.frag with
    | some f => .ok (c.endEntity w f)
    | none =>
      match c.exitWaits with
      | some w => .error (.wait w)
      | none =>
      let c ← c.putRetire
      let s := c.s.releaseCaches c.core 2
      let s := s.etch c.r c.e.pc [pktEnd 0]
      let s := s.setBlock c.r.blk (c.b.setWave c.r.slot { w with parent := c.e })
      .ok { c with s := s.endWave c.r.blk c.r.slot, gone := true }

end Sys2Proof.Machine
end

