-- ==== Sys2Proof/Machine/RayRun.lean ====
section
/-! DEFINITION. The ray unit (R375–R379): the hierarchy's image, the box and triangle tests, and the traversal of one ray. -/
namespace Sys2Proof.Machine

/-! ### Reading the hierarchy -/

/-- Why a command of the ray unit ends early (R379): an engine's stop, or a malformed image. -/
inductive RayStop where
  | eng (e : EngStop)
  | bounds

/-- Bytes of the hierarchy from an offset; BOUNDS at or beyond its end. -/
def State.rayRead (s : State) (core : Nat) (q : Trace) (off n : Nat) : Except RayStop (List Byte) × State :=
  if q.len < off + n then (.error .bounds, s) else
  match s.range core q.asid .engineRead (q.base + BitVec.ofNat 64 off) n with
  | (.ok ps, s) => (.ok (s.readPieces core q.blk ps), s.charge core q.cls.toNat n)
  | (.error e, s) => (.error (.eng e), s)

def wordAt (bs : List Byte) (i : Nat) : Nat := leNat ((bs.drop i).take 4)

/-- The header (Table 18.9): node count, triangle count, triangle array offset, root. -/
structure RayHeader where
  nodes : Nat
  tris  : Nat
  toff  : Nat
  root  : Nat

def rayHeader (bs : List Byte) : RayHeader :=
  { nodes := wordAt bs 0, tris := wordAt bs 4, toff := leNat ((bs.drop 8).take 8), root := wordAt bs 16 }

/-! ### Arithmetic in FP64 (R376) -/

def to64 (w : Nat) : Nat := (fmt64.ofFV .rne false (fmt32.value w)).1
def dAdd (x y : Nat) : Nat := (fmt64.add .rne false x y).1
def dSub (x y : Nat) : Nat := (fmt64.sub .rne false x y).1
def dMul (x y : Nat) : Nat := (fmt64.mul .rne false x y).1
def dDiv (x y : Nat) : Nat := (fmt64.div .rne false x y).1
def dLe (x y : Nat) : Bool := (fmt64.cmp 3 false x y).1
def dLt (x y : Nat) : Bool := (fmt64.cmp 2 false x y).1
def dEq (x y : Nat) : Bool := (fmt64.cmp 0 false x y).1
/-- FP64 1.0. -/
def dOne : Nat := 0x3FF0000000000000

/-- A vector of three FP64 values. -/
abbrev V3 := Nat × Nat × Nat
def vSub (a b : V3) : V3 := (dSub a.1 b.1, dSub a.2.1 b.2.1, dSub a.2.2 b.2.2)
def vDot (a b : V3) : Nat := dAdd (dAdd (dMul a.1 b.1) (dMul a.2.1 b.2.1)) (dMul a.2.2 b.2.2)
def vCross (a b : V3) : V3 :=
  (dSub (dMul a.2.1 b.2.2) (dMul a.2.2 b.2.1), dSub (dMul a.2.2 b.1) (dMul a.1 b.2.2), dSub (dMul a.1 b.2.1) (dMul a.2.1 b.1))

/-- A ray's eight words. -/
def rayWord (r : List Word) (i : Nat) : Nat := (r.getD i 0).toNat
def rayO (r : List Word) : V3 := (to64 (rayWord r 0), to64 (rayWord r 1), to64 (rayWord r 2))
def rayD (r : List Word) : V3 := (to64 (rayWord r 4), to64 (rayWord r 5), to64 (rayWord r 6))
def rayMin (r : List Word) : Nat := to64 (rayWord r 3)
def rayMax (r : List Word) : Nat := to64 (rayWord r 7)

/-- A ray that misses whatever it meets: a NaN component, a zero direction, or tmin > tmax. -/
def rayMisses (r : List Word) : Bool :=
  ((List.range 8).any fun i => (fmt32.value (rayWord r i)).isNan) ||
    ((List.range 3).all fun i => decide (rayWord r (4 + i) % 2 ^ 31 = 0)) || dLt (rayMax r) (rayMin r)

/-- A hit: t, u and v in FP64, the prim id and the triangle index. -/
structure RayHit where
  t : Nat
  u : Nat
  v : Nat
  prim : Nat
  tri : Nat
deriving DecidableEq, Repr

/-- The triangle test, both faces. -/
def triangleTest (r : List Word) (v0 v1 v2 : V3) : Option (Nat × Nat × Nat) :=
  let e1 := vSub v1 v0
  let e2 := vSub v2 v0
  let pv := vCross (rayD r) e2
  let det := vDot e1 pv
  if dEq det 0 then none else
  let sv := vSub (rayO r) v0
  let u := dDiv (vDot sv pv) det
  let qv := vCross sv e1
  let v := dDiv (vDot (rayD r) qv) det
  let t := dDiv (vDot e2 qv) det
  if dLe 0 u && dLe 0 v && dLe (dAdd u v) dOne && dLe (rayMin r) t && dLe t (rayMax r) then some (t, u, v) else none

/-- Does one hit come before another (R376)? -/
def RayHit.before (a b : RayHit) : Bool :=
  dLt a.t b.t || (dEq a.t b.t && (decide (a.prim < b.prim) || (decide (a.prim = b.prim) && decide (a.tri < b.tri))))

/-! ### The box test -/

/-- A finite FP value as an exact rational. -/
def FV.rat? : FV → Option Rat
  | .fin n a b => some (if n then -((a : Rat) / b) else (a : Rat) / b)
  | _ => none

/-- An interval of rationals; none is no bound on that side. -/
abbrev Span := Option Rat × Option Rat
def Span.empty (x : Span) : Bool :=
  match x with
  | (some a, some b) => decide (b < a)
  | _ => false
def Span.meet (x y : Span) : Span :=
  let hi (a b : Option Rat) : Option Rat := match a, b with
    | some a, some b => some (max a b)
    | some a, none => some a
    | none, b => b
  let lo (a b : Option Rat) : Option Rat := match a, b with
    | some a, some b => some (min a b)
    | some a, none => some a
    | none, b => b
  (hi x.1 y.1, lo x.2 y.2)

/-- A bound: none when it is NaN or excludes everything; some none when it bounds nothing. -/
def lowBound (x : FV) : Option (Option Rat) :=
  match x with
  | .inf true => some none
  | .fin .. => some x.rat?
  | _ => none
def highBound (x : FV) : Option (Option Rat) :=
  match x with
  | .inf false => some none
  | .fin .. => some x.rat?
  | _ => none

/-- The parameters at which a ray lies between two bounds on an axis; none when it never does. -/
def axisSpan (o d mn mx : FV) : Option Span :=
  match o.rat?, d.rat?, lowBound mn, highBound mx with
  | some o, some d, some lo, some hi =>
    if d = 0 then
      let inside := (lo.map fun x => decide (x ≤ o)).getD true && (hi.map fun x => decide (o ≤ x)).getD true
      if inside then some (none, none) else none
    else
      let at_ (x : Rat) : Rat := (x - o) / d
      if 0 < d then some (lo.map at_, hi.map at_) else some (hi.map at_, lo.map at_)
  | _, _, _, _ => none

/-- The ray's interval, up to the nearest hit so far. -/
def raySpan (r : List Word) (best : Option RayHit) : Option Span :=
  match lowBound (fmt64.value (rayMin r)), highBound (fmt64.value (rayMax r)) with
  | some lo, some hi =>
    match best with
    | none => some (lo, hi)
    | some b => some (Span.meet (lo, hi) (none, (fmt64.value b.t).rat?))
  | _, _ => none

/-- Does a box contain a point of the ray within its current interval? -/
def boxHolds (r : List Word) (box : List Nat) (best : Option RayHit) : Bool :=
  let f (i : Nat) : FV := fmt32.value (box.getD i 0)
  let w (i : Nat) : FV := fmt32.value (rayWord r i)
  let axes := (List.range 3).map fun i => axisSpan (w i) (w (4 + i)) (f i) (f (3 + i))
  axes.foldl (fun acc a => match acc, a with
    | some x, some y => some (Span.meet x y)
    | _, _ => none) (raySpan r best) |>.map (fun x => !x.empty) |>.getD false

/-! ### Traversal -/

/-- Something still to be looked at: a node or a leaf, with the box it stands in (none for the root). -/
structure RayItem where
  leaf  : Bool
  index : Nat
  count : Nat := 0
  box   : Option (List Nat) := none

/-- The children of a node; BOUNDS for a kind of 3, an index at or above N, or a range beyond T. -/
def rayChildren (h : RayHeader) (bs : List Byte) : Except RayStop (List RayItem) :=
  (List.range 4).foldlM (fun acc c =>
    let w := wordAt bs (96 + 4 * c)
    let kind := natBits w 31 30
    let idx := natBits w 29 0
    let n := leNat ((bs.drop (112 + c)).take 1)
    let box := (List.range 6).map fun i => wordAt bs (24 * c + 4 * i)
    match kind with
    | 0 => .ok acc
    | 1 => if h.nodes ≤ idx then .error .bounds else .ok (acc ++ [{ leaf := false, index := idx, box := some box }])
    | 2 => if h.tris < idx + n then .error .bounds else .ok (acc ++ [{ leaf := true, index := idx, count := n, box := some box }])
    | _ => .error .bounds) []

/-- Does a triangle leave the box of its leaf? -/
def outsideBox (box : List Nat) (vs : List Nat) : Bool :=
  vs.zipIdx.any fun p =>
    !((fmt32.cmp 3 false (box.getD (p.2 % 3) 0) p.1).1 && (fmt32.cmp 3 false p.1 (box.getD (3 + p.2 % 3) 0)).1)

/-- The nearer of the hits so far. -/
def closer (a : Option RayHit) (b : RayHit) : Option RayHit :=
  match a with
  | none => some b
  | some a => if b.before a then some b else some a

/-- One triangle of a leaf: a triangle outside its leaf's box may be found or not (R376). -/
def State.rayTriangle (s : State) (core : Nat) (q : Trace) (h : RayHeader) (r : List Word) (box : List Nat) (k : Nat)
    (best : Option RayHit) : Except RayStop (Option RayHit) × State :=
  match s.rayRead core q (h.toff + 64 * k) 64 with
  | (.error e, s) => (.error e, s)
  | (.ok bs, s) =>
    let v (i : Nat) : V3 := (to64 (wordAt bs (12 * i)), to64 (wordAt bs (12 * i + 4)), to64 (wordAt bs (12 * i + 8)))
    match triangleTest r (v 0) (v 1) (v 2) with
    | none => (.ok best, s)
    | some (t, u, w) =>
      let hit : RayHit := { t := t, u := u, v := w, prim := wordAt bs 36, tri := k }
      if outsideBox box ((List.range 9).map fun i => wordAt bs (4 * i)) then
        let (x, s) := s.takeFree
        (.ok (if x.getLsbD 0 then closer best hit else best), s)
      else (.ok (closer best hit), s)

/-- The triangles of a leaf; the any-hit form ends at the first hit. -/
def State.rayLeaf (s : State) (core : Nat) (q : Trace) (h : RayHeader) (r : List Word) (box : List Nat) (k : Nat) :
    Nat → Option RayHit → Except RayStop (Option RayHit) × State
  | 0, best => (.ok best, s)
  | n + 1, best =>
    if q.any && best.isSome then (.ok best, s) else
    match s.rayTriangle core q h r box k best with
    | (.ok best, s) => s.rayLeaf core q h r box (k + 1) n best
    | e => e

/-- The traversal: what is still to be looked at is taken in an unspecified order; a box that holds no point of the ray in its current
interval is looked into or not. More than 65,536 nodes end it. -/
def State.rayWalk (s : State) (core : Nat) (q : Trace) (h : RayHeader) (r : List Word) :
    Nat → Nat → List RayItem → Option RayHit → Except RayStop (Option RayHit) × State
  | 0, _, _, best => (.ok best, s)
  | fuel + 1, nodes, items, best =>
    if items.isEmpty || (q.any && best.isSome) then (.ok best, s) else
    let (v, s) := s.takeFree
    let i := (v.toNat / 2) % items.length
    match items[i]? with
    | none => (.ok best, s)
    | some x =>
      let rest := items.eraseIdx i
      let holds := (x.box.map fun b => boxHolds r b best).getD true
      if holds = false ∧ v.getLsbD 0 = false then s.rayWalk core q h r fuel nodes rest best
      else if x.leaf then
        match s.rayLeaf core q h r (x.box.getD []) x.index x.count best with
        | (.ok best, s) => s.rayWalk core q h r fuel nodes rest best
        | e => e
      else if 65536 ≤ nodes then (.error .bounds, s)
      else
        match s.rayRead core q (64 + 128 * x.index) 128 with
        | (.error e, s) => (.error e, s)
        | (.ok bs, s) =>
          match rayChildren h bs with
          | .error e => (.error e, s)
          | .ok cs => s.rayWalk core q h r fuel (nodes + 1) (rest ++ cs) best

/-- A hit record (R376). -/
def hitRecord (h : Option RayHit) : List Word :=
  match h with
  | none => [0x7F800000, 0xFFFFFFFF, 0, 0]
  | some x => [rne32 (fmt64.value x.t), BitVec.ofNat 32 x.prim, rne32 (fmt64.value x.u), rne32 (fmt64.value x.v)]

/-- One ray of a command. -/
def State.traceRay (s : State) (core : Nat) (q : Trace) (h : RayHeader) (r : List Word) : Except RayStop (List Word) × State :=
  if rayMisses r then (.ok (hitRecord none), s) else
  match s.rayWalk core q h r 400000 0 [{ leaf := false, index := h.root }] none with
  | (.ok x, s) => (.ok (hitRecord x), s)
  | (.error e, s) => (.error e, s)

/-- All the rays of a command, by lane. -/
def State.traceLanes (s : State) (core : Nat) (q : Trace) (h : RayHeader) :
    List (Fin 32) → Except RayStop (List (Fin 32 × List Word)) × State
  | [] => (.ok [], s)
  | l :: ls =>
    match s.traceRay core q h q.rays[l] with
    | (.error e, s) => (.error e, s)
    | (.ok r, s) =>
      match s.traceLanes core q h ls with
      | (.ok rs, s) => (.ok ((l, r) :: rs), s)
      | e => e

/-- The whole command. -/
def State.traceRun (s : State) (core : Nat) (q : Trace) : Except RayStop (Lanes (List Word)) × State :=
  let ls := lanesIn q.lanes
  if ls.isEmpty then (.ok (lanesOf fun _ => hitRecord none), s) else
  match s.rayRead core q 0 64 with
  | (.error e, s) => (.error e, s)
  | (.ok bs, s) =>
    match s.traceLanes core q (rayHeader bs) ls with
    | (.error e, s) => (.error e, s)
    | (.ok rs, s) => (.ok (lanesOf fun l => ((rs.find? fun x => x.1 = l).map (·.2)).getD (hitRecord none)), s)

/-- Hit records that are undefined: free words for every lane. -/
def State.freeHits (s : State) : Lanes (List Word) × State :=
  let (rs, s) := laneList.foldl (fun (r : List (List Word) × State) _ =>
    let (a, s) := r.2.takeFree
    let (b, s) := s.takeFree
    (r.1 ++ [[a.setWidth 32, a.extractLsb' 32 32, b.setWidth 32, b.extractLsb' 32 32]], s)) ([], s)
  (lanesOf fun l => rs.getD l.val [], s)

end Sys2Proof.Machine
end

