-- ==== Sys2Proof/Machine/Ray.lean ====
section
/-! DEFINITION. The ray unit's instructions (R377, R378), the completion of its commands, and errors of engines' accesses (R135, R140,
R379). -/
namespace Sys2Proof.Machine

/-- Is a TID one of a hierarchy (R375)? -/
def Tid.isHierarchy (t : Tid) : Bool :=
  decide (t.space = 1) && decide (t.format = 7) && decide (t.rank = 1) && decide (t.stride.getD 0 0 = 4) &&
    decide (t.base.toNat % 64 = 0)

/-- The rays of an instruction: from its register group, or from records in the A slice (R377). -/
def Ctx.rays (c : Ctx) (a : Reg6) (m : Bool) : Except Stop (Ctx × Lanes (List Word)) := do
  if m = false then .ok (c, lanesOf fun l => (List.range 8).map fun j => (c.rvn (a.toNat + j))[l])
  else
    let es := (lanesIn c.g).map fun l => (l, ((c.rv a)[l]).setWidth 64)
    firstCause false [(cALIGN, misaligned 16 es), (cBOUNDS, lanesWhere es fun e => c.outside 3 32 e)]
    let c := c.settle
    let at_ (l : Fin 32) (j : Nat) : Word := wordOf (c.bufLoad 3 (((c.rv a)[l]).toNat + 4 * j) 4)
    .ok (c, lanesOf fun l => if inMask c.g l then (List.range 8).map (at_ l) else [])

/-- `TRACE`'s effect (R377). -/
def traceBody (any : Bool) (tag : Nat) (a : Reg6) (m : Bool) (c : Ctx) : Except Stop Ctx := do
  if c.b.tags.length ≤ tag ∨ (c.b.tags.getD tag {}).pending ≠ 0 then raises cTAGERR
  let t ← c.tidNamed (c.rsc.toNat % 256)
  if t.isHierarchy = false then raises cBOUNDS
  let (c, rays) ← c.rays a m
  let c ← c.release 1
  let q : Trace :=
    { blk := c.r.blk, tag := tag, asid := c.asid, lid := c.launch.lid, cls := c.launch.cls, any := any, base := t.base, len := 4 * t.ext.getD 0 0
      lanes := c.g, rays := rays }
  let k := c.s.core c.core
  let s := c.s.setCore c.core { k with traces := tset k.traces k.nextCmd q, nextCmd := k.nextCmd + 1 }
  .ok { c with s := s, b := c.b.modTag tag Tag.start }

/-- `TRACE` (R377). -/
def execTrace (d a : BitVec 6) (la m : Bool) (gd : Guard) (s : State) : Host.Outcome State Fault Refusal :=
  run (.trace d a la m gd) (deferred false (traceBody false d.toNat a m)) s

/-- `TRACE.any` (R377). -/
def execTraceAny (d a : BitVec 6) (la m : Bool) (gd : Guard) (s : State) : Host.Outcome State Fault Refusal :=
  run (.traceAny d a la m gd) (deferred false (traceBody true d.toNat a m)) s

/-- A lane's hit record for a tag; a miss where it took no part (R378). -/
def Block.hitOf (b : Block) (tag : Nat) (l : Fin 32) : List Word :=
  match tget b.hits tag with
  | some h => if inMask h.lanes l then h.recs[l] else hitRecord none
  | none => hitRecord none

/-- `HITGET` (R378). -/
def execHitget (d a : BitVec 6) (la : Bool) (gd : Guard) (s : State) : Host.Outcome State Fault Refusal :=
  run (.hitget d a la gd) (fun c => do
      let t := a.toNat
      if c.b.tags.length ≤ t then raises cTAGERR
      let m : Dword := 1#64 <<< t
      let read : Except Stop Ctx := do
        let c ← c.tagDone m
        (List.range 4).foldlM (fun c j => c.wv (d.toNat + j) c.g fun l => (c.b.hitOf t l).getD j 0) c
      c.quantumFirst (.hit t) (if (c.b.tags.getD t {}).ready then read else .error (.wait (.hit t)))) s

/-! ### Completions -/

/-- A trace ends: its records are stored, undefined after an error or a store to its hierarchy, and its tag is told (R378, R379). -/
def State.endTrace (s : State) (core cmd : Nat) (q : Trace) (recs : Lanes (List Word)) (err : Option Nat) : State :=
  let s := s.modCore core fun c => { c with traces := tdel c.traces cmd }
  let (recs, s) := if err.isSome || q.spoiled then s.freeHits else (recs, s)
  let s := s.modBlock q.blk fun b => { b with hits := tset b.hits q.tag { lanes := q.lanes, recs := recs } }
  s.endTag q.blk q.tag err

/-- The end of a command, or its parking (R94, R379). -/
def State.finishTrace (s : State) (core cmd : Nat) (q : Trace) : State :=
  let none_ : Lanes (List Word) := lanesOf fun _ => []
  match s.traceRun core q with
  | (.ok rs, s) => s.endTrace core cmd q rs none
  | (.error .bounds, s) => s.endTrace core cmd q none_ (some cBOUNDS)
  | (.error (.eng .xlate), s) => s.endTrace core cmd q none_ (some cXLATE)
  | (.error (.eng (.fault va acc k l p)), s) =>
    let s := s.park (corePlate core) (engineParked (.trace core cmd) q.asid core (engineWho 3 q.tag) q.lid va acc k l p)
    s.modCore core fun c => { c with traces := tset c.traces cmd { q with parked := true } }

/-- `TRACE_COMPLETION` (R377): the rays of a command of the ray unit are traced. -/
def execTraceCompletion (core cmd : Nat) (s : State) : Host.Outcome State Fault Refusal :=
  event "TRACE_COMPLETION" ((tget (s.core core).traces cmd).bind fun q => if q.parked || s.heldAt core q.cls then none else some ((s.finishTrace core cmd q).reapBlock q.blk))

/-- The end of a copy, or its parking at the run that faults (R94, R135). -/
def State.finishCopy (s : State) (core cmd : Nat) (q : Copy) : State :=
  match s.copyRuns core q q.left with
  | (.ok (), q, s) => s.endCopy core cmd q none
  | (.error .xlate, q, s) => s.endCopy core cmd q (some cXLATE)
  | (.error (.fault va acc k l p), q, s) =>
    let s := s.park (corePlate core) (engineParked (.copy core cmd) q.asid core (engineWho 1 q.tag) q.lid va acc k l p)
    s.setCopy core cmd { q with parked := true }

/-- `TAG_COMPLETION` (R139): a copy performs its remaining runs, and its tag is told. -/
def execTagCompletion (core cmd : Nat) (s : State) : Host.Outcome State Fault Refusal :=
  event "TAG_COMPLETION" ((tget (s.core core).copies cmd).bind fun q => if q.parked || s.heldAt core q.cls then none else some ((s.finishCopy core cmd q).reapBlock q.blk))

/-- `ENGINE_ACCESS_ERROR` (R135): a copy whose run meets an error has performed the runs before it; a trace has no results. -/
def execEngineAccessError (core cmd : Nat) (ecc : Bool) (run : Nat) (s : State) : Host.Outcome State Fault Refusal :=
  event "ENGINE_ACCESS_ERROR" (match tget (s.core core).copies cmd, tget (s.core core).traces cmd with
    | some q, _ =>
      if q.parked || s.heldAt core q.cls || decide (q.left ≤ run) then none else
      match s.copyRuns core q run with
      | (.ok (), q, s) =>
        if ecc then some ((s.endCopy core cmd q (some cECC)).reapBlock q.blk)
        else match s.copyRun core q with
          | (.error .xlate, s) => some ((s.endCopy core cmd q (some cXLATE)).reapBlock q.blk)
          | _ => none
      | _ => none
    | none, some q =>
      if q.parked || s.heldAt core q.cls then none
      else if ecc then some ((s.endTrace core cmd q (lanesOf fun _ => []) (some cECC)).reapBlock q.blk)
      else match s.traceRun core q with
        | (.error (.eng .xlate), s) => some ((s.endTrace core cmd q (lanesOf fun _ => []) (some cXLATE)).reapBlock q.blk)
        | _ => none
    | none, none => none)

end Sys2Proof.Machine
end

