-- ==== Sys2Proof/Machine/Barrier.lean ====
section
/-! DEFINITION. When the barriers of blocks and cohorts complete, and what a completion does (R293–R296, R340). -/
namespace Sys2Proof.Machine

/-! ### Barriers -/

/-- A window that `GWIN` has set for the wave and its next barrier puts in force (R340). -/
def Wave.newWindow (w : Wave) : Wave :=
  match w.grav.win with
  | some (b, l) => { w with cwb := b, cwl := l, grav := { w.grav with win := none } }
  | none => w

/-- Every wave that waits at the barrier goes on; windows apply when wave 0 is among them, and writes of TIDs and of the key
show to every wave (R293, R340, R76, R241). -/
def Block.passBarrier (b : Block) : Block :=
  let zero := b.waves.any fun p => p.1 = 0 && decide (p.2.live ≠ 0)
  { b with waves := b.waves.map fun p =>
      if p.2.live = 0 then p else
      let w := { p.2 with parent := p.2.parent.passWord }
      (p.1, if zero then w.newWindow else w)
           tidLog := [], keyLog := [] }

/-- Has the block arrived at its `BAR`: every wave that has not exited waits there? In a block that halts no arrival counts (R296). -/
def Block.atBar (b : Block) : Bool :=
  b.halt.isNone && !b.liveWaves.isEmpty && b.liveWaves.all fun p => decide (p.2.parent.wait = some .bar)
/-- At a `CBAR` on a cohort? -/
def Block.atCbar (b : Block) (id : BitVec 8) : Bool :=
  b.halt.isNone && !b.liveWaves.isEmpty && b.liveWaves.all fun p => decide (p.2.parent.wait = some (.cbar id))

/-- The cohort that a wave waits at. -/
def Wave.atCbar (w : Wave) : Option (BitVec 8) :=
  match w.parent.wait with
  | some (.cbar id) => some id
  | _ => none

/-- The cohort at whose barrier every wave of the block waits. -/
def Block.barrier (b : Block) : Option (BitVec 8) :=
  match b.waves with
  | [] => none
  | (_, w) :: _ => w.atCbar.bind fun id => if b.atCbar id then some id else none

/-- Is a block index a member of a cohort of a launch (R163)? -/
def Launch.memberOf (l : Launch) (id : BitVec 8) (blk : Nat) : Bool :=
  id = 255 || l.cohorts.any fun c => decide (c.id = id.toNat) && decide (c.first ≤ blk) && decide (blk ≤ c.last)

/-- Have all members of a cohort been placed? -/
def Launch.allPlaced (l : Launch) (id : BitVec 8) : Bool :=
  if id = 255 then decide (l.kd.nblk ≤ l.nextBlk) else l.cohorts.all fun c => decide (c.id ≠ id.toNat) || decide (c.last < l.nextBlk)

/-- The member blocks of a cohort that have not exited. -/
def State.members (s : State) (l : Nat) (id : BitVec 8) : List (Nat × Block) :=
  s.blocks.filter fun p => decide (p.2.launch = l) && !p.2.task && !p.2.ended && (s.launch l).memberOf id p.2.blk.toNat

/-- A cohort barrier completes outside Level mode (R294). -/
def State.cohortBarrier (s : State) (l : Nat) (id : BitVec 8) : Option State :=
  let ms := s.members l id
  if (s.launch l).kd.level || ms.isEmpty || !(s.launch l).allPlaced id || !(ms.all fun p => p.2.atCbar id) then none else
  -- a release and an acquire among all waves of the members (Table 5.2)
  let s := ms.foldl (fun s p => s.releaseCaches p.2.core 6) s
  let s := ms.foldl (fun s p => s.acquireCaches p.2.core 6) s
  some (ms.foldl (fun s p => s.modBlock p.1 Block.passBarrier) s)

/-- A block's `BAR` completes outside Level mode (R293). -/
def State.blockBarrier (s : State) (blk : Nat) (b : Block) : Option State :=
  if !b.isLevel && b.atBar then some ((s.releaseCaches b.core 2).modBlock blk Block.passBarrier) else none

end Sys2Proof.Machine
end

