-- ==== Sys2Proof/Machine/Handler.lean ====
section
/-! DEFINITION. The halted block: when its handler starts (R385–R389), what `TRET` restores, and how the block resumes (R393). -/
namespace Sys2Proof.Machine

/-- Does an entity of the block still wait for a result of an instruction that it has issued: data, a promotion, a Stipple result or
the delivery of a tile? -/
def State.resultsDue (s : State) (b : Block) (blk : Nat) : Bool :=
  let k := s.core b.core
  (k.loads.any fun p => p.ent.blk = blk) || (k.atoms.any fun q => q.ent.blk = blk && q.dst.isSome) ||
    (k.stip.any fun p => p.ent.blk = blk) || (s.promos.any fun p => p.2.2.1.blk = blk) ||
    (s.treqs.any fun q => (q.2.direct.map fun d => decide (d.1.blk = blk)).getD false)

/-- Is a handler running in the block? -/
def Block.handling (b : Block) : Bool := b.waves.any fun p => p.2.saved.isSome

/-- The handler starts for the pending wave of lowest `wslot` (R388, R389): every entity of the block has stopped, nothing that it
issued is still due, and the shadow bank or the spill area has room. Until then the block stands stopped. -/
def State.enterNext (s : State) (blk : Nat) : Option State :=
  match tget s.blocks blk with
  | none => none
  | some b =>
    match b.firstPending with
    | none => none
    | some slot =>
      if b.halt.isNone || b.handling || b.reported || b.swap || (b.level.map (·.committing)).getD false || ¬ (b.res = .resident) then none else
      let t := s.freeze blk
      let fits (w : Wave) : Bool := !s.resultsDue b blk && t.shadowRoom b.core (t.launch b.launch).part w.footprint 1
      if (((tget t.blocks blk).bind fun b => tget b.waves slot).map fits).getD false then some (t.enterHandler blk slot)
      else if b.frozen then none else some t

/-- Has a quadrant entries for the context of one wave that returns, those that waiting entities are owed aside (R393, R197, R180)? -/
def State.contextFits (s : State) (core quad : Nat) (r : EntRef) (floor fp : Nat) : Bool :=
  decide (fp ≤ floor) || decide (fp - floor + s.owed core quad r ≤ s.remainder core quad r.blk r.slot)

/-- Is there room in the pool for the context that a handler's wave left (R393)? -/
def Ctx.restoreFits (c : Ctx) (k : SavedCtx) : Bool :=
  let fp := mapFootprint k.v k.m
  c.s.contextFits c.core c.quad c.r c.w0.floor fp

/-- The wave with the context that its handler's entry saved; it is pending no longer. -/
def Wave.unsave (w : Wave) (k : SavedCtx) (held : List ((Dword × Nat) × Held)) : Wave :=
  { w with saved := none, pending := none, parent := { k.parent with held := held }, frag := k.frag, s := k.s, v := k.v, m := k.m
           k := k.k }

/-- `TRET`'s effect (R393): the handled wave's context comes back; then the next pending wave's handler starts, or the block
resumes, unless its partition is being swapped out (R397). -/
def tretBody (c : Ctx) : Except Stop Ctx :=
  match c.w0.saved with
  | none => raises cPRIV
  | some k => do
    if c.w0.epc.toNat % 4 ≠ 0 then raises cALIGN
    let c ← c.release 2
    if c.restoreFits k = false then .error (.wait .restore)
    else
      let s := c.s.etch c.r c.e.pc [pktEnd 0]
      let b := c.b.setWave c.r.slot (c.w.unsave k c.e.held)
      let s := s.setBlock c.r.blk (if b.firstPending.isSome || b.swap then b else b.resume)
      .ok { c with s := (s.enterNext c.r.blk).getD s, gone := true }

end Sys2Proof.Machine
end

