-- ==== Sys2Proof/Machine/Place.lean ====
section
/-! DEFINITION. What the launch distributor reads (R182–R187), when a block fits a core (R190, R197), and how a block starts there (R19,
R51, R161, R189, R204). -/
namespace Sys2Proof.Machine

/-! ### Reads through a launch's address space -/

/-- The physical pieces of [va, va + n) for an agent of the hub. -/
def State.hubPieces (s : State) (asid : BitVec 9) (acc : AccKind) : Nat → Dword → Nat →
    Except EngStop (List (Nat × Nat)) × State
  | 0, _, _ => (.ok [], s)
  | fuel + 1, va, n =>
    if n = 0 then (.ok [], s) else
    let m := min n (128 - va.toNat % 128)
    match s.translateHub asid va acc with
    | (.xlate, s) => (.error .xlate, s)
    | (.fault k l p, s) => (.error (.fault va acc k l p), s)
    | (.ok pa _ _, s) =>
      match s.hubPieces asid acc fuel (va + BitVec.ofNat 64 m) (n - m) with
      | (.ok ps, s) => (.ok ((pa, m) :: ps), s)
      | (.error e, s) => (.error e, s)

/-- Bytes that the launch distributor reads (R182). -/
def State.hubRead (s : State) (asid : BitVec 9) (va : Dword) (n : Nat) : Except EngStop (List Byte) × State :=
  match s.hubPieces asid .engineRead (n / 128 + 2) va n with
  | (.ok ps, s) => (.ok (ps.flatMap fun p => s.readHome p.1 p.2), s)
  | (.error e, s) => (.error e, s)

/-! ### Kernel descriptors -/

/-- The fields of a kernel descriptor (Table 8.2). -/
def kdOf (bytes : List Byte) : Kd :=
  let n := leNat bytes
  let f (at_ len : Nat) : Nat := natBits n (8 * at_ + 8 * len - 1) (8 * at_)
  let d (at_ : Nat) : Dword := BitVec.ofNat 64 (f at_ 8)
  { entry := d 0, vtab := d 8, cbase := d 16, ttab := d 24, nblk := f 32 4, wpb := f 36 1, lastl := f 37 1, prio := f 38 1
    level := natBit (f 39 1) 0, rolemap := BitVec.ofNat 32 (f 40 4)
    budget := (List.range 4).map fun r => (f (44 + 4 * r) 2, f (46 + 4 * r) 2)
    tids := f 60 2, tags := f 62 1, lim := f 63 1, wfp := f 64 4, afp := f 68 4, cfp := f 72 4, bnd := f 76 2, ntask := f 78 2
    qnt := f 80 4, resv := f 84 4, sig := d 88, cohl := d 96, ncoh := f 104 2 }

/-- The role code of a wave (R188). -/
def Kd.role (k : Kd) (w : Nat) : Nat := natBits k.rolemap.toNat (2 * w + 1) (2 * w)
/-- Floor and cap of a wave. -/
def Kd.budgetOf (k : Kd) (w : Nat) : Nat × Nat := k.budget.getD (k.role w) (0, 0)

/-- The number of waves of a block (R204: one for a task). -/
def Kd.waves (k : Kd) (task : Bool) : Nat := if task then 1 else k.wpb

/-- A descriptor is malformed (R185), apart from its cohort list; of a task's descriptor the ignored fields do not count (R204). -/
def Kd.malformed (k : Kd) (task : Bool) : Bool :=
  let roleBad (w : Nat) : Bool :=
    let b := k.budgetOf w
    decide (b.1 < 16) || decide (512 < b.1) || decide (b.2 < b.1) || decide (512 < b.2)
  decide (k.entry.toNat % 4 ≠ 0) ||
  (!task && (decide (k.nblk = 0) || decide (0x7FFFFFFF < k.nblk) || decide (k.wpb = 0) || decide (16 < k.wpb) ||
    decide (k.lastl = 0) || decide (32 < k.lastl) || decide (k.cohl.toNat % 16 ≠ 0) || decide (4096 < k.ncoh))) ||
  decide (3 < k.prio) || decide (k.tids = 0) || decide (256 < k.tids) || decide (k.tags = 0) || decide (64 < k.tags) ||
  decide (7 < k.lim) || decide (k.wfp % 64 ≠ 0) || decide (0x200000 < k.wfp) || decide (k.afp % 64 ≠ 0) ||
  decide (0x200000 < k.afp) || decide (k.cfp % 512 ≠ 0) || decide (0x100000 < k.cfp) || decide (k.bnd < 64) ||
  decide (4096 < k.bnd) || (k.level && (decide (k.qnt < 256) || decide (65536 < k.qnt))) ||
  (List.range (k.waves task)).any roleBad

/-- An entry of the cohort list (R187). -/
def cohortOf (bytes : List Byte) : CohortEntry :=
  let n := leNat bytes
  { id := natBits n 7 0, cpin := natBits n 15 8, kpin := natBits n 23 16, first := natBits n 63 32, last := natBits n 95 64 }

def CohortEntry.malformed (c : CohortEntry) (nblk : Nat) : Bool :=
  decide (c.id = 255) || decide (c.last < c.first) || decide (nblk ≤ c.last) || (decide (24 ≤ c.cpin) && decide (c.cpin ≠ 255)) ||
    (decide (12 ≤ c.kpin) && decide (c.kpin ≠ 255))

/-- The entries of a list whose range holds a block. -/
def entriesAt (cs : List CohortEntry) (blk : Nat) : List CohortEntry := cs.filter fun c => decide (c.first ≤ blk) && decide (blk ≤ c.last)

/-- The cohorts of a block in ascending order (R164). -/
def cohortsAt (cs : List CohortEntry) (blk : Nat) : List (BitVec 8) :=
  ((List.range 255).filter fun i => (entriesAt cs blk).any fun c => c.id = i).map (BitVec.ofNat 8)

/-- Do the pins of a block's entries conflict in a partition of clusters (R187)? -/
def pinsConflict (cs : List CohortEntry) (clusters : BitVec 24) (blk : Nat) : Bool :=
  let es := entriesAt cs blk
  let cp := (es.map (·.cpin)).filter fun (x : Nat) => decide (x ≠ 255)
  let kp := (es.map (·.kpin)).filter fun (x : Nat) => decide (x ≠ 255)
  cp.any (fun (x : Nat) => decide (x ≠ cp.headD 0) || !clusters.getLsbD x) || kp.any fun (x : Nat) => decide (x ≠ kp.headD 0)

/-- Does a core meet the pins of a block's entries? -/
def pinsMet (cs : List CohortEntry) (core blk : Nat) : Bool :=
  (entriesAt cs blk).all fun c =>
    (decide (c.cpin = 255) || decide (c.cpin = core / 12)) && (decide (c.kpin = 255) || decide (c.kpin = core % 12))

/-- The lowest block with a property that the entries holding it decide: it is the first of one of them. -/
def lowestWhere (cs : List CohortEntry) (p : Nat → Bool) : Option Nat :=
  cs.foldl (fun acc c => if p c.first then some (min (acc.getD c.first) c.first) else acc) none

/-! ### Fitting -/

/-- What a block asks of a core: footprints, TIDs, tags, and for each wave its slot, its floor and the entries that it needs. -/
structure BlockShape where
  wfp : Nat
  afp : Nat
  cfp : Nat
  tids : Nat
  tags : Nat
  waves : List (Nat × Nat × Nat)

def Kd.shape (k : Kd) (task : Bool) : BlockShape :=
  { wfp := k.wfp, afp := k.afp, cfp := k.cfp, tids := k.tids, tags := k.tags
    waves := (List.range (k.waves task)).map fun w => (w, (k.budgetOf w).1, (k.budgetOf w).1) }

/-- The length of a slice, and what its base is a multiple of (Table 3.2, R51, R341). -/
def sliceGranule (space : Nat) : Nat := if space = 4 then 2048 else 4096
def sliceLen (space foot : Nat) : Nat := (foot + sliceGranule space - 1) / sliceGranule space * sliceGranule space
def sliceAlign (space foot : Nat) : Nat := if space = 4 ∧ foot % 65536 = 0 then 65536 else sliceGranule space

/-- The multiples of `align` at which a range of length `len` below `size` keeps clear of the ranges in use. -/
def freeBases (used : List (Nat × Nat)) (size align len : Nat) : List Nat :=
  if len = 0 then [0] else
  ((List.range (size / align)).map (· * align)).filter fun a =>
    decide (a + len ≤ size) && used.all fun u => decide (u.2 = 0) || !overlaps a len u.1 u.2

/-- The blocks whose slices lie on a core. -/
def State.blocksOn (s : State) (core : Nat) : List (Nat × Block) := s.blocks.filter fun p => p.2.core = core

/-- The bases that a slice of a footprint may have on a core. -/
def State.sliceBases (s : State) (core space foot : Nat) : List Nat :=
  freeBases ((s.blocksOn core).map fun p => ((p.2.slice space).base, (p.2.slice space).len)) (bufSize space) (sliceAlign space foot)
    (sliceLen space foot)
def State.tidBases (s : State) (core n : Nat) : List Nat :=
  freeBases ((s.blocksOn core).map fun p => (p.2.tidBase, p.2.tids.length)) 256 1 n
/-- Tags stay reserved while a forwarding entry lives (R200). -/
def State.tagBases (s : State) (core n : Nat) : List Nat :=
  freeBases (((s.blocksOn core).map fun p => (p.2.tagBase, p.2.tags.length)) ++ (s.core core).forwards.map fun f => (f.tagBase, f.tags))
    64 1 n

/-- The free wave slots of a quadrant, numbered over the core. -/
def State.freeSlots (s : State) (core quad : Nat) : List Nat :=
  let used := (s.blocksOn core).flatMap fun p => if p.2.res = .resident then p.2.waves.map fun w => w.2.cslot else []
  ((List.range 16).map (16 * quad + ·)).filter fun n => !used.contains n

/-- The entries of a core's quadrants that entities in register wait are owed: no block that comes takes them (R177, R180). -/
def State.owedTo (s : State) (core quad : Nat) : Nat := s.owed core quad { blk := s.nextBlock, slot := 17, frag := false }

/-- Does a block fit a core (R190), apart from its slices? `spare` entries of each quadrant stay free. -/
def State.wavesFit (s : State) (core q0 : Nat) (waves : List (Nat × Nat × Nat)) (spare : Nat → Nat) : Bool :=
  (List.range 4).all fun q =>
    let mine := waves.filter fun w => (q0 + w.1) % 4 = q
    mine.isEmpty || (decide (mine.length ≤ (s.freeSlots core q).length) &&
      decide ((mine.map (·.2.2)).sum + spare q ≤ s.remainder core q s.nextBlock 0))

/-- Does a block fit a core with its first wave in quadrant q0 (R190)? -/
def State.fits (s : State) (core q0 : Nat) (x : BlockShape) : Bool :=
  decide (core < 288) && decide (q0 < 4) && (s.core core).inService && s.wavesFit core q0 x.waves (s.owedTo core) &&
    !(s.sliceBases core 2 x.wfp).isEmpty && !(s.sliceBases core 3 x.afp).isEmpty && !(s.sliceBases core 4 x.cfp).isEmpty &&
    !(s.tidBases core x.tids).isEmpty && !(s.tagBases core x.tags).isEmpty

/-- Would it fit the core if that were empty? -/
def State.fitsEmpty (s : State) (core : Nat) (x : BlockShape) : Bool :=
  let e := { s with blocks := s.blocks.filter fun p => p.2.core ≠ core }
  (List.range 4).any fun q0 => (e.modCore core fun c => { c with forwards := [] }).fits core q0 x

/-- The cores of a partition (R419). -/
def State.partCores (s : State) (part : Nat) : List Nat := (List.range 288).filter fun c => (s.part part).ptcl.getLsbD (c / 12)

/-! ### Placement -/

/-- A wave as it starts (R19, R162, R189, R254). -/
def startWave (kd : Kd) (args : Dword) (task : Bool) (slot cslot now : Nat) : Wave :=
  let lanes : Mask := if !task ∧ slot + 1 = kd.wpb then BitVec.ofNat 32 (2 ^ kd.lastl - 1) else BitVec.allOnes 32
  let b := kd.budgetOf slot
  { present := lanes, role := BitVec.ofNat 2 (kd.role slot), cslot := cslot, floor := b.1, cap := b.2, start := now
    s := ((Vector.replicate 32 (0 : Dword)).set 0 args).set 1 kd.cbase
    parent := { pc := kd.entry, xm := lanes, arm := lanes, lastIssue := now } }

/-- The waves of a block with their slots in the quadrants (R161). -/
def State.startWaves (s : State) (core q0 : Nat) (kd : Kd) (args : Dword) (task : Bool) : Table Wave × State :=
  let r := (List.range (kd.waves task)).foldl (fun (r : Table Wave × State) w =>
    let free := (r.2.freeSlots core ((q0 + w) % 4)).filter fun n => !(r.1.any fun p => p.2.cslot = n)
    let (n, s) := r.2.pick free
    (r.1 ++ [(w, startWave kd args task w n s.now)], s)) ([], s)
  r

/-- The 128-row tiles of the C-buffer that a slice covers wholly (R342). -/
def Slice.wholeTiles (x : Slice) : List Nat :=
  (List.range 16).filter fun t => decide (x.base ≤ 65536 * t) && decide (65536 * (t + 1) ≤ x.base + x.len)

/-- A block starts on a core that it fits (R189–R191): slices, TIDs and tags that are free are granted, which ones left open (log 11), with
the counters of the C tiles that the slice covers wholly cleared (R342), and all its waves start. -/
def State.placeBlock (s : State) (core q0 : Nat) (kd : Kd) (args : Dword) (b : Block) : State :=
  let (wb, s) := s.pick (s.sliceBases core 2 kd.wfp)
  let (ab, s) := s.pick (s.sliceBases core 3 kd.afp)
  let (cb, s) := s.pick (s.sliceBases core 4 kd.cfp)
  let (tb, s) := s.pick (s.tidBases core kd.tids)
  let (gb, s) := s.pick (s.tagBases core kd.tags)
  let (waves, s) := s.startWaves core q0 kd args b.task
  let slice (space foot base : Nat) : Slice := { base := base, len := sliceLen space foot, foot := foot }
  let b := { b with
    core := core, q0 := q0, placed := s.nextPlace, restored := s.nextPlace, waves := waves
    lim := kd.lim, bnd := kd.bnd, qnt := kd.qnt
    wslice := slice 2 kd.wfp wb, aslice := slice 3 kd.afp ab, cslice := slice 4 kd.cfp cb
    tidBase := tb, tids := List.replicate kd.tids none, tagBase := gb, tags := List.replicate kd.tags {} }
  let clean (space : Nat) (c : Core) : Core := c.setBuf space (tclear (c.buf space) (b.slice space).base (b.slice space).len)
  let s := s.modCore core fun c =>
    let c := clean 2 (clean 3 (clean 4 c))
    { c with ctiles := b.cslice.wholeTiles.foldl tdel c.ctiles }
  { s with blocks := tset s.blocks s.nextBlock b, nextBlock := s.nextBlock + 1, nextPlace := s.nextPlace + 1 }

/-! ### Launches -/

/-- A report to the Executive about a launch (R192, R207). -/
def State.reportLaunch (s : State) (launch code : Nat) : State :=
  s.modHub fun h => { h with reports := h.reports ++ [(launch, 2 ^ 64 + code)] }

/-- The index of a launch's ring in the distributor's identity (R432), and its parked access. -/
def distributorParked (by_ : Faulter) (part ring : Nat) (asid : BitVec 9) (lid : Word) (e : EngStop) : Option Parked :=
  match e with
  | .xlate => none
  | .fault va acc k l p => some (engineParked by_ asid 0x1FF (engineWho 4 (part * 64 + ring)) lid va acc k l p)

/-- Is the faulter parked anywhere? -/
def State.isParked (s : State) (f : Faulter) : Bool :=
  (List.range 2).any fun p =>
    let q := s.hub.plate p
    (q.buffer.any fun e => e.2.1.by_ = f) || q.waiting.any fun a => a.by_ = f

/-- The launch is complete without, or with, its record (R192): a `.sys` release of everything, then the record. -/
def State.finishLaunch (s : State) (l : Nat) : State :=
  let x := s.launch l
  let s := s.cores.foldl (fun s c => s.releaseCaches c.1 8) s
  let done (s : State) : State := s.modLaunch l fun x => { x with completed := true }
  if x.done = 0 then done s else
  match s.hubPieces x.asid .engineWrite 2 x.done 16 with
  | (.ok ps, s) =>
    let record := leBytes x.dval.toNat 8 ++ leBytes x.status 4 ++ leBytes x.failing.toNat 4
    let r := ps.foldl (fun (r : State × List Byte) p => (r.1.writeHome p.1 (r.2.take p.2), r.2.drop p.2)) (s, record)
    done r.1
  | (.error e, s) =>
    match distributorParked (.completion l) x.part x.ring x.asid x.lid e with
    | some p => s.park 0 p
    | none => (done s).reportLaunch l x.status

/-- A launch is refused with a status (R185). -/
def State.refuseLaunch (s : State) (l status : Nat) (failing : Word) : State :=
  (s.modLaunch l fun x => { x with stopped := true, status := status, failing := failing }).finishLaunch l

end Sys2Proof.Machine
end

