-- ==== Sys2Proof/Decode.lean ====
section
/-! DEFINITION. Decoding: the instruction that a 32-bit word encodes (R24, R27, R32, Tables 2.1 and 2.2 and the encodings of
every instruction entry), or the name of the reason it encodes none (R33); and the encoder, written from the same encodings. -/
namespace Sys2Proof

/-- Why a word encodes no instruction (R33). -/
inductive DecodeError where
  /-- the major opcode is reserved, the all-zero word among them -/
  | reservedMajor
  /-- a selector value that is not assigned, or a non-zero reserved field (R8, R27) -/
  | unassigned
  /-- a hint kind from 5 to 15 (R37) -/
  | hintKind
deriving DecidableEq, Repr

/-- Bits hi down to lo of a word (R4). -/
def bits {n : Nat} (w : BitVec n) (hi lo : Nat) : BitVec (hi - lo + 1) := w.extractLsb' lo (hi - lo + 1)

/-- Bit i of a word. -/
def bit {n : Nat} (w : BitVec n) (i : Nat) : Bool := w.getLsbD i

/-- The guard field of a word: n in bit 4, g in bits 3:0 (R27, R29). -/
def guardOf (w : Word) : Guard := { n := bit w 4, g := bits w 3 0 }

/-- Major 0x01: `BRA`. -/
def decode01 (w : Word) : Except DecodeError Instr :=
  .ok (.bra (bits w 24 22) (bits w 21 18) (bit w 17) (bits w 16 0))

/-- Major 0x02: `CALL`. -/
def decode02 (w : Word) : Except DecodeError Instr :=
  .ok (.call (bits w 24 20) (bits w 19 0))

/-- Major 0x03: `JMPS`, `CALLS`, `RET`, `EXIT`, `REJOIN`, `ISYNC`, `NAP`. -/
def decode03 (w : Word) : Except DecodeError Instr :=
  if bits w 24 20 = 0 ∧ bits w 14 0 = 0 then .ok (.jmps (bits w 19 15)) else
  if bits w 14 0 = 1 then .ok (.calls (bits w 24 20) (bits w 19 15)) else
  if bits w 24 20 = 0 ∧ bits w 14 0 = 2 then .ok (.ret (bits w 19 15)) else
  if bits w 24 0 = 3 then .ok .exit else
  if bits w 24 0 = 4 then .ok .rejoin else
  if bits w 24 0 = 5 then .ok .isync else
  if bits w 24 20 = 0 ∧ bits w 14 0 = 6 then .ok (.nap (bits w 19 15)) else
  .error .unassigned

/-- Major 0x04: `BAR`, `CBAR`. -/
def decode04 (w : Word) : Except DecodeError Instr :=
  if bits w 24 0 = 0 then .ok .bar else
  if bits w 24 20 = 0 ∧ bits w 14 0 = 1 then .ok (.cbar (bits w 19 15)) else
  .error .unassigned

/-- Major 0x05: `POST`. -/
def decode05 (w : Word) : Except DecodeError Instr :=
  if bits w 18 6 = 0 then .ok (.post (bits w 24 19) (bit w 5) (guardOf w)) else
  .error .unassigned

/-- Major 0x08: `SADD`, `SSUB`, `SMUL`, `SMULH`, `SAND`, `SOR`, `SXOR`, `SSHL`, `SSHR`, `SSAR`, `SMIN`, `SMAX`, `SCMP`, `SSEL`, `SMOV`, `SLEA`. -/
def decode08 (w : Word) : Except DecodeError Instr :=
  if bits w 9 9 = 0 ∧ bits w 7 0 = 0 then .ok (.sadd (bits w 24 20) (bits w 19 15) (bits w 14 10) (bit w 8)) else
  if bits w 9 9 = 0 ∧ bits w 7 0 = 1 then .ok (.ssub (bits w 24 20) (bits w 19 15) (bits w 14 10) (bit w 8)) else
  if bits w 9 9 = 0 ∧ bits w 7 0 = 2 then .ok (.smul (bits w 24 20) (bits w 19 15) (bits w 14 10) (bit w 8)) else
  if bits w 9 9 = 0 ∧ bits w 6 0 = 3 then .ok (.smulh (bits w 24 20) (bits w 19 15) (bits w 14 10) (bit w 8) (bit w 7)) else
  if bits w 9 9 = 0 ∧ bits w 7 0 = 4 then .ok (.sand (bits w 24 20) (bits w 19 15) (bits w 14 10) (bit w 8)) else
  if bits w 9 9 = 0 ∧ bits w 7 0 = 5 then .ok (.sor (bits w 24 20) (bits w 19 15) (bits w 14 10) (bit w 8)) else
  if bits w 9 9 = 0 ∧ bits w 7 0 = 6 then .ok (.sxor (bits w 24 20) (bits w 19 15) (bits w 14 10) (bit w 8)) else
  if bits w 9 9 = 0 ∧ bits w 7 0 = 7 then .ok (.sshl (bits w 24 20) (bits w 19 15) (bits w 14 10) (bit w 8)) else
  if bits w 9 9 = 0 ∧ bits w 7 0 = 8 then .ok (.sshr (bits w 24 20) (bits w 19 15) (bits w 14 10) (bit w 8)) else
  if bits w 9 9 = 0 ∧ bits w 7 0 = 9 then .ok (.ssar (bits w 24 20) (bits w 19 15) (bits w 14 10) (bit w 8)) else
  if bits w 9 9 = 0 ∧ bits w 6 0 = 10 then .ok (.smin (bits w 24 20) (bits w 19 15) (bits w 14 10) (bit w 8) (bit w 7)) else
  if bits w 9 9 = 0 ∧ bits w 6 0 = 11 then .ok (.smax (bits w 24 20) (bits w 19 15) (bits w 14 10) (bit w 8) (bit w 7)) else
  if bits w 9 9 = 0 ∧ bits w 3 0 = 12 then .ok (.scmp (bits w 24 20) (bits w 19 15) (bits w 14 10) (bit w 8) (bits w 7 4)) else
  if bits w 9 9 = 0 ∧ bits w 7 0 = 13 then .ok (.ssel (bits w 24 20) (bits w 19 15) (bits w 14 10) (bit w 8)) else
  if bits w 14 0 = 14 then .ok (.smov (bits w 24 20) (bits w 19 15)) else
  if bits w 9 9 = 0 ∧ bits w 3 0 = 15 then .ok (.slea (bits w 24 20) (bits w 19 15) (bits w 14 10) (bit w 8) (bits w 7 4)) else
  .error .unassigned

/-- Major 0x09: `SMOVI`. -/
def decode09 (w : Word) : Except DecodeError Instr :=
  .ok (.smovi (bits w 24 20) (bits w 19 0))

/-- Major 0x0A: `SLD`, `SST`. -/
def decode0A (w : Word) : Except DecodeError Instr :=
  if bits w 14 8 = 0 ∧ bits w 2 0 = 0 then .ok (.sld (bits w 24 20) (bits w 19 15) (bits w 7 5) (bits w 4 3)) else
  if bits w 24 20 = 0 ∧ bits w 9 8 = 1 ∧ bits w 2 0 = 0 then .ok (.sst (bits w 19 15) (bits w 14 10) (bits w 7 5) (bits w 4 3)) else
  .error .unassigned

/-- Major 0x0B: `SRD`, `SWR`. -/
def decode0B (w : Word) : Except DecodeError Instr :=
  if bits w 19 10 = 0 ∧ bits w 8 8 = 0 then .ok (.srd (bits w 24 20) (bit w 9) (bits w 7 0)) else
  if bits w 24 20 = 0 ∧ bits w 14 8 = 1 then .ok (.swr (bits w 19 15) (bits w 7 0)) else
  .error .unassigned

/-- Major 0x10: `VADD`. -/
def decode10 (w : Word) : Except DecodeError Instr :=
  .ok (.vadd (bits w 24 19) (bits w 18 13) (bits w 12 7) (bit w 6) (bit w 5) (guardOf w))

/-- Major 0x11: `VSUB`. -/
def decode11 (w : Word) : Except DecodeError Instr :=
  .ok (.vsub (bits w 24 19) (bits w 18 13) (bits w 12 7) (bit w 6) (bit w 5) (guardOf w))

/-- Major 0x12: `VMUL`. -/
def decode12 (w : Word) : Except DecodeError Instr :=
  .ok (.vmul (bits w 24 19) (bits w 18 13) (bits w 12 7) (bit w 6) (bit w 5) (guardOf w))

/-- Major 0x13: `VMULH`. -/
def decode13 (w : Word) : Except DecodeError Instr :=
  .ok (.vmulh (bits w 24 19) (bits w 18 13) (bits w 12 7) (bit w 6) (bit w 5) (guardOf w))

/-- Major 0x14: `VAND`. -/
def decode14 (w : Word) : Except DecodeError Instr :=
  .ok (.vand (bits w 24 19) (bits w 18 13) (bits w 12 7) (bit w 6) (bit w 5) (guardOf w))

/-- Major 0x15: `VOR`. -/
def decode15 (w : Word) : Except DecodeError Instr :=
  .ok (.vor (bits w 24 19) (bits w 18 13) (bits w 12 7) (bit w 6) (bit w 5) (guardOf w))

/-- Major 0x16: `VXOR`. -/
def decode16 (w : Word) : Except DecodeError Instr :=
  .ok (.vxor (bits w 24 19) (bits w 18 13) (bits w 12 7) (bit w 6) (bit w 5) (guardOf w))

/-- Major 0x17: `VSHL`. -/
def decode17 (w : Word) : Except DecodeError Instr :=
  .ok (.vshl (bits w 24 19) (bits w 18 13) (bits w 12 7) (bit w 6) (bit w 5) (guardOf w))

/-- Major 0x18: `VSHR`. -/
def decode18 (w : Word) : Except DecodeError Instr :=
  .ok (.vshr (bits w 24 19) (bits w 18 13) (bits w 12 7) (bit w 6) (bit w 5) (guardOf w))

/-- Major 0x19: `VSAR`. -/
def decode19 (w : Word) : Except DecodeError Instr :=
  .ok (.vsar (bits w 24 19) (bits w 18 13) (bits w 12 7) (bit w 6) (bit w 5) (guardOf w))

/-- Major 0x1A: `VMIN`. -/
def decode1A (w : Word) : Except DecodeError Instr :=
  .ok (.vmin (bits w 24 19) (bits w 18 13) (bits w 12 7) (bit w 6) (bit w 5) (guardOf w))

/-- Major 0x1B: `VMAX`. -/
def decode1B (w : Word) : Except DecodeError Instr :=
  .ok (.vmax (bits w 24 19) (bits w 18 13) (bits w 12 7) (bit w 6) (bit w 5) (guardOf w))

/-- Major 0x1C: `VMINN`. -/
def decode1C (w : Word) : Except DecodeError Instr :=
  .ok (.vminn (bits w 24 19) (bits w 18 13) (bits w 12 7) (bit w 6) (bit w 5) (guardOf w))

/-- Major 0x1D: `VMAXN`. -/
def decode1D (w : Word) : Except DecodeError Instr :=
  .ok (.vmaxn (bits w 24 19) (bits w 18 13) (bits w 12 7) (bit w 6) (bit w 5) (guardOf w))

/-- Major 0x1E: `VADDC`. -/
def decode1E (w : Word) : Except DecodeError Instr :=
  .ok (.vaddc (bits w 24 19) (bits w 18 13) (bits w 12 7) (bit w 6) (bit w 5) (guardOf w))

/-- Major 0x1F: `VSUBB`. -/
def decode1F (w : Word) : Except DecodeError Instr :=
  .ok (.vsubb (bits w 24 19) (bits w 18 13) (bits w 12 7) (bit w 6) (bit w 5) (guardOf w))

/-- Major 0x20: `VADDI`. -/
def decode20 (w : Word) : Except DecodeError Instr :=
  .ok (.vaddi (bits w 24 19) (bits w 18 13) (bits w 12 5) (guardOf w))

/-- Major 0x21: `VSHLI`. -/
def decode21 (w : Word) : Except DecodeError Instr :=
  .ok (.vshli (bits w 24 19) (bits w 18 13) (bits w 12 5) (guardOf w))

/-- Major 0x22: `VSHRI`. -/
def decode22 (w : Word) : Except DecodeError Instr :=
  .ok (.vshri (bits w 24 19) (bits w 18 13) (bits w 12 5) (guardOf w))

/-- Major 0x23: `VSARI`. -/
def decode23 (w : Word) : Except DecodeError Instr :=
  .ok (.vsari (bits w 24 19) (bits w 18 13) (bits w 12 5) (guardOf w))

/-- Major 0x24: `VANDI`. -/
def decode24 (w : Word) : Except DecodeError Instr :=
  .ok (.vandi (bits w 24 19) (bits w 18 13) (bits w 12 5) (guardOf w))

/-- Major 0x25: `VMOVI`. -/
def decode25 (w : Word) : Except DecodeError Instr :=
  .ok (.vmovi (bits w 24 19) (bits w 18 5) (guardOf w))

/-- Major 0x26: `VNOT`, `VNEG`, `VABS`, `VCLZ`, `VPOPC`, `VMOV`. -/
def decode26 (w : Word) : Except DecodeError Instr :=
  if bits w 12 7 = 0 ∧ bits w 5 5 = 0 then .ok (.vnot (bits w 24 19) (bits w 18 13) (bit w 6) (guardOf w)) else
  if bits w 12 7 = 1 ∧ bits w 5 5 = 0 then .ok (.vneg (bits w 24 19) (bits w 18 13) (bit w 6) (guardOf w)) else
  if bits w 12 7 = 2 ∧ bits w 5 5 = 0 then .ok (.vabs (bits w 24 19) (bits w 18 13) (bit w 6) (guardOf w)) else
  if bits w 12 7 = 3 ∧ bits w 5 5 = 0 then .ok (.vclz (bits w 24 19) (bits w 18 13) (bit w 6) (guardOf w)) else
  if bits w 12 7 = 4 ∧ bits w 5 5 = 0 then .ok (.vpopc (bits w 24 19) (bits w 18 13) (bit w 6) (guardOf w)) else
  if bits w 12 7 = 5 ∧ bits w 5 5 = 0 then .ok (.vmov (bits w 24 19) (bits w 18 13) (bit w 6) (guardOf w)) else
  .error .unassigned

/-- Major 0x27: `VBFE`, `VBFI`. -/
def decode27 (w : Word) : Except DecodeError Instr :=
  if bits w 12 7 = 0 then .ok (.vbfe (bits w 24 19) (bits w 18 13) (bit w 6) (bit w 5) (guardOf w)) else
  if bits w 12 7 = 1 ∧ bits w 5 5 = 0 then .ok (.vbfi (bits w 24 19) (bits w 18 13) (bit w 6) (guardOf w)) else
  .error .unassigned

/-- Major 0x28: `VSEL`. -/
def decode28 (w : Word) : Except DecodeError Instr :=
  .ok (.vsel (bits w 24 19) (bits w 18 13) (bits w 12 7) (bit w 6) (bit w 5) (guardOf w))

/-- Major 0x29: `VMAD`. -/
def decode29 (w : Word) : Except DecodeError Instr :=
  .ok (.vmad (bits w 24 19) (bits w 18 13) (bits w 12 7) (bit w 6) (bit w 5) (guardOf w))

/-- Major 0x2A: `VLEA`. -/
def decode2A (w : Word) : Except DecodeError Instr :=
  .ok (.vlea (bits w 24 19) (bits w 18 13) (bits w 12 8) (bits w 7 5) (guardOf w))

/-- Major 0x30: `VCMP`. -/
def decode30 (w : Word) : Except DecodeError Instr :=
  .ok (.vcmp (bits w 24 21) (bits w 20 17) (bits w 16 11) (bits w 10 5) (guardOf w))

/-- Major 0x31: `FCMP`. -/
def decode31 (w : Word) : Except DecodeError Instr :=
  .ok (.fcmp (bits w 24 21) (bits w 20 17) (bits w 16 11) (bits w 10 5) (guardOf w))

/-- Major 0x32: `PAND`, `POR`, `PXOR`, `PNOT`, `PSET`. -/
def decode32 (w : Word) : Except DecodeError Instr :=
  if bits w 12 7 = 0 then .ok (.pand (bits w 24 21) (bits w 20 17) (bits w 16 13) (bits w 6 5) (guardOf w)) else
  if bits w 12 7 = 2 then .ok (.por (bits w 24 21) (bits w 20 17) (bits w 16 13) (bits w 6 5) (guardOf w)) else
  if bits w 12 7 = 4 then .ok (.pxor (bits w 24 21) (bits w 20 17) (bits w 16 13) (bits w 6 5) (guardOf w)) else
  if bits w 16 5 = 24 then .ok (.pnot (bits w 24 21) (bits w 20 17) (guardOf w)) else
  if bits w 20 6 = 16 then .ok (.pset (bits w 24 21) (bit w 5) (guardOf w)) else
  .error .unassigned

/-- Major 0x33: `KTOV`, `VTOK`, `KTOS`, `STOK`, `PCNT`, `XMGET`, `XMSET`. -/
def decode33 (w : Word) : Except DecodeError Instr :=
  if bits w 12 5 = 0 then .ok (.ktov (bits w 24 21) (bits w 20 13) (guardOf w)) else
  if bits w 12 5 = 8 then .ok (.vtok (bits w 24 21) (bits w 20 13) (guardOf w)) else
  if bits w 12 5 = 16 then .ok (.ktos (bits w 24 21) (bits w 20 13) (guardOf w)) else
  if bits w 12 5 = 24 then .ok (.stok (bits w 24 21) (bits w 20 13) (guardOf w)) else
  if bits w 12 5 = 32 then .ok (.pcnt (bits w 24 21) (bits w 20 13) (guardOf w)) else
  if bits w 24 21 = 0 ∧ bits w 12 0 = 1295 then .ok (.xmget (bits w 20 13)) else
  if bits w 24 21 = 0 ∧ bits w 12 0 = 1551 then .ok (.xmset (bits w 20 13)) else
  .error .unassigned

/-- Major 0x34: `VMATCH`. -/
def decode34 (w : Word) : Except DecodeError Instr :=
  if bits w 10 5 = 0 then .ok (.vmatch (bits w 24 21) (bits w 20 17) (bits w 16 11) (guardOf w)) else
  .error .unassigned

/-- Major 0x38: `FADD`. -/
def decode38 (w : Word) : Except DecodeError Instr :=
  .ok (.fadd (bits w 24 19) (bits w 18 13) (bits w 12 7) (bit w 6) (bit w 5) (guardOf w))

/-- Major 0x39: `FSUB`. -/
def decode39 (w : Word) : Except DecodeError Instr :=
  .ok (.fsub (bits w 24 19) (bits w 18 13) (bits w 12 7) (bit w 6) (bit w 5) (guardOf w))

/-- Major 0x3A: `FMUL`. -/
def decode3A (w : Word) : Except DecodeError Instr :=
  .ok (.fmul (bits w 24 19) (bits w 18 13) (bits w 12 7) (bit w 6) (bit w 5) (guardOf w))

/-- Major 0x3B: `FFMA`. -/
def decode3B (w : Word) : Except DecodeError Instr :=
  .ok (.ffma (bits w 24 19) (bits w 18 13) (bits w 12 7) (bit w 6) (bit w 5) (guardOf w))

/-- Major 0x3C: `FMIN`. -/
def decode3C (w : Word) : Except DecodeError Instr :=
  .ok (.fmin (bits w 24 19) (bits w 18 13) (bits w 12 7) (bit w 6) (bit w 5) (guardOf w))

/-- Major 0x3D: `FMAX`. -/
def decode3D (w : Word) : Except DecodeError Instr :=
  .ok (.fmax (bits w 24 19) (bits w 18 13) (bits w 12 7) (bit w 6) (bit w 5) (guardOf w))

/-- Major 0x3E: `FABS`, `FNEG`, `FRCP`, `FRSQ`, `FSQRT`, `FEXP2`, `FLOG2`, `FSIN`, `FCOS`, `FRND`, `FCLASS`. -/
def decode3E (w : Word) : Except DecodeError Instr :=
  if bits w 12 7 = 0 then .ok (.fabs (bits w 24 19) (bits w 18 13) (bit w 6) (bit w 5) (guardOf w)) else
  if bits w 12 7 = 1 then .ok (.fneg (bits w 24 19) (bits w 18 13) (bit w 6) (bit w 5) (guardOf w)) else
  if bits w 12 7 = 2 then .ok (.frcp (bits w 24 19) (bits w 18 13) (bit w 6) (bit w 5) (guardOf w)) else
  if bits w 12 7 = 3 then .ok (.frsq (bits w 24 19) (bits w 18 13) (bit w 6) (bit w 5) (guardOf w)) else
  if bits w 12 7 = 4 then .ok (.fsqrt (bits w 24 19) (bits w 18 13) (bit w 6) (bit w 5) (guardOf w)) else
  if bits w 12 7 = 5 ∧ bits w 5 5 = 0 then .ok (.fexp2 (bits w 24 19) (bits w 18 13) (bit w 6) (guardOf w)) else
  if bits w 12 7 = 6 ∧ bits w 5 5 = 0 then .ok (.flog2 (bits w 24 19) (bits w 18 13) (bit w 6) (guardOf w)) else
  if bits w 12 7 = 7 ∧ bits w 5 5 = 0 then .ok (.fsin (bits w 24 19) (bits w 18 13) (bit w 6) (guardOf w)) else
  if bits w 12 7 = 8 ∧ bits w 5 5 = 0 then .ok (.fcos (bits w 24 19) (bits w 18 13) (bit w 6) (guardOf w)) else
  if bits w 12 7 = 9 then .ok (.frnd (bits w 24 19) (bits w 18 13) (bit w 6) (bit w 5) (guardOf w)) else
  if bits w 12 7 = 10 then .ok (.fclass (bits w 24 19) (bits w 18 13) (bit w 6) (bit w 5) (guardOf w)) else
  .error .unassigned

/-- Major 0x3F: `FDIV`. -/
def decode3F (w : Word) : Except DecodeError Instr :=
  .ok (.fdiv (bits w 24 19) (bits w 18 13) (bits w 12 7) (bit w 6) (bit w 5) (guardOf w))

/-- Major 0x40: `HADD`. -/
def decode40 (w : Word) : Except DecodeError Instr :=
  .ok (.hadd (bits w 24 19) (bits w 18 13) (bits w 12 7) (bit w 6) (bit w 5) (guardOf w))

/-- Major 0x41: `HSUB`. -/
def decode41 (w : Word) : Except DecodeError Instr :=
  .ok (.hsub (bits w 24 19) (bits w 18 13) (bits w 12 7) (bit w 6) (bit w 5) (guardOf w))

/-- Major 0x42: `HMUL`. -/
def decode42 (w : Word) : Except DecodeError Instr :=
  .ok (.hmul (bits w 24 19) (bits w 18 13) (bits w 12 7) (bit w 6) (bit w 5) (guardOf w))

/-- Major 0x43: `HFMA`. -/
def decode43 (w : Word) : Except DecodeError Instr :=
  .ok (.hfma (bits w 24 19) (bits w 18 13) (bits w 12 7) (bit w 6) (bit w 5) (guardOf w))

/-- Major 0x44: `HMIN`. -/
def decode44 (w : Word) : Except DecodeError Instr :=
  .ok (.hmin (bits w 24 19) (bits w 18 13) (bits w 12 7) (bit w 6) (bit w 5) (guardOf w))

/-- Major 0x45: `HMAX`. -/
def decode45 (w : Word) : Except DecodeError Instr :=
  .ok (.hmax (bits w 24 19) (bits w 18 13) (bits w 12 7) (bit w 6) (bit w 5) (guardOf w))

/-- Major 0x46: `BADD`. -/
def decode46 (w : Word) : Except DecodeError Instr :=
  .ok (.badd (bits w 24 19) (bits w 18 13) (bits w 12 7) (bit w 6) (bit w 5) (guardOf w))

/-- Major 0x47: `BSUB`. -/
def decode47 (w : Word) : Except DecodeError Instr :=
  .ok (.bsub (bits w 24 19) (bits w 18 13) (bits w 12 7) (bit w 6) (bit w 5) (guardOf w))

/-- Major 0x48: `BMUL`. -/
def decode48 (w : Word) : Except DecodeError Instr :=
  .ok (.bmul (bits w 24 19) (bits w 18 13) (bits w 12 7) (bit w 6) (bit w 5) (guardOf w))

/-- Major 0x49: `BFMA`. -/
def decode49 (w : Word) : Except DecodeError Instr :=
  .ok (.bfma (bits w 24 19) (bits w 18 13) (bits w 12 7) (bit w 6) (bit w 5) (guardOf w))

/-- Major 0x4A: `BMIN`. -/
def decode4A (w : Word) : Except DecodeError Instr :=
  .ok (.bmin (bits w 24 19) (bits w 18 13) (bits w 12 7) (bit w 6) (bit w 5) (guardOf w))

/-- Major 0x4B: `BMAX`. -/
def decode4B (w : Word) : Except DecodeError Instr :=
  .ok (.bmax (bits w 24 19) (bits w 18 13) (bits w 12 7) (bit w 6) (bit w 5) (guardOf w))

/-- Major 0x4C: `DADD`. -/
def decode4C (w : Word) : Except DecodeError Instr :=
  .ok (.dadd (bits w 24 19) (bits w 18 13) (bits w 12 7) (bit w 6) (bit w 5) (guardOf w))

/-- Major 0x4D: `DSUB`. -/
def decode4D (w : Word) : Except DecodeError Instr :=
  .ok (.dsub (bits w 24 19) (bits w 18 13) (bits w 12 7) (bit w 6) (bit w 5) (guardOf w))

/-- Major 0x4E: `DMUL`. -/
def decode4E (w : Word) : Except DecodeError Instr :=
  .ok (.dmul (bits w 24 19) (bits w 18 13) (bits w 12 7) (bit w 6) (bit w 5) (guardOf w))

/-- Major 0x4F: `DFMA`. -/
def decode4F (w : Word) : Except DecodeError Instr :=
  .ok (.dfma (bits w 24 19) (bits w 18 13) (bits w 12 7) (bit w 6) (bit w 5) (guardOf w))

/-- Major 0x50: `CVT`. -/
def decode50 (w : Word) : Except DecodeError Instr :=
  .ok (.cvt (bits w 24 19) (bits w 18 13) (bits w 12 9) (bits w 8 7) (bit w 6) (bit w 5) (guardOf w))

/-- Major 0x51: `CVTS`. -/
def decode51 (w : Word) : Except DecodeError Instr :=
  .ok (.cvts (bits w 24 19) (bits w 18 13) (bits w 12 7) (bit w 6) (bit w 5) (guardOf w))

/-- Major 0x52: `PACK`. -/
def decode52 (w : Word) : Except DecodeError Instr :=
  .ok (.pack (bits w 24 19) (bits w 18 13) (bits w 12 7) (bit w 6) (bit w 5) (guardOf w))

/-- Major 0x53: `UNPK`. -/
def decode53 (w : Word) : Except DecodeError Instr :=
  if bits w 5 5 = 0 then .ok (.unpk (bits w 24 19) (bits w 18 13) (bits w 12 9) (bits w 8 7) (bit w 6) (guardOf w)) else
  .error .unassigned

/-- Major 0x54: `RND`. -/
def decode54 (w : Word) : Except DecodeError Instr :=
  if bits w 12 12 = 0 then .ok (.rnd (bits w 24 19) (bits w 18 13) (bits w 11 7) (bit w 6) (bit w 5) (guardOf w)) else
  .error .unassigned

/-- Major 0x55: `RSLICE`. -/
def decode55 (w : Word) : Except DecodeError Instr :=
  if bits w 9 7 = 0 then .ok (.rslice (bits w 24 19) (bits w 18 13) (bits w 12 10) (bit w 6) (bit w 5) (guardOf w)) else
  .error .unassigned

/-- Major 0x56: `RBERN`. -/
def decode56 (w : Word) : Except DecodeError Instr :=
  .ok (.rbern (bits w 24 21) (bits w 20 17) (bits w 16 11) (bits w 10 5) (guardOf w))

/-- Major 0x57: `RKEY`. -/
def decode57 (w : Word) : Except DecodeError Instr :=
  if bits w 24 20 = 0 ∧ bits w 14 0 = 0 then .ok (.rkey (bits w 19 15)) else
  .error .unassigned

/-- Major 0x58: `SHFL`. -/
def decode58 (w : Word) : Except DecodeError Instr :=
  .ok (.shfl (bits w 24 19) (bits w 18 13) (bits w 12 7) (bit w 6) (bit w 5) (guardOf w))

/-- Major 0x59: `SHFX`. -/
def decode59 (w : Word) : Except DecodeError Instr :=
  .ok (.shfx (bits w 24 19) (bits w 18 13) (bits w 12 5) (guardOf w))

/-- Major 0x5A: `SHFU`. -/
def decode5A (w : Word) : Except DecodeError Instr :=
  .ok (.shfu (bits w 24 19) (bits w 18 13) (bits w 12 5) (guardOf w))

/-- Major 0x5B: `SHFD`. -/
def decode5B (w : Word) : Except DecodeError Instr :=
  .ok (.shfd (bits w 24 19) (bits w 18 13) (bits w 12 5) (guardOf w))

/-- Major 0x5C: `BCST`. -/
def decode5C (w : Word) : Except DecodeError Instr :=
  .ok (.bcst (bits w 24 19) (bits w 18 13) (bits w 12 8) (bits w 7 5) (guardOf w))

/-- Major 0x5D: `RDFL`. -/
def decode5D (w : Word) : Except DecodeError Instr :=
  if bits w 7 6 = 0 then .ok (.rdfl (bits w 24 19) (bits w 18 13) (bits w 12 8) (bit w 5) (guardOf w)) else
  .error .unassigned

/-- Major 0x5E: `VRED`. -/
def decode5E (w : Word) : Except DecodeError Instr :=
  if bits w 5 5 = 0 then .ok (.vred (bits w 24 19) (bits w 18 13) (bits w 12 7) (bit w 6) (guardOf w)) else
  .error .unassigned

/-- Major 0x5F: `VSCAN`. -/
def decode5F (w : Word) : Except DecodeError Instr :=
  .ok (.vscan (bits w 24 19) (bits w 18 13) (bits w 12 7) (bit w 6) (bit w 5) (guardOf w))

/-- Major 0x60: `LD`. -/
def decode60 (w : Word) : Except DecodeError Instr :=
  .ok (.ld (bits w 24 19) (bit w 18) (bit w 17) (bits w 16 13) (bits w 12 8) (bits w 7 5) (guardOf w))

/-- Major 0x61: `ST`. -/
def decode61 (w : Word) : Except DecodeError Instr :=
  .ok (.st (bits w 24 19) (bit w 18) (bit w 17) (bits w 16 13) (bits w 12 8) (bits w 7 5) (guardOf w))

/-- Major 0x62: `LDA`. -/
def decode62 (w : Word) : Except DecodeError Instr :=
  .ok (.lda (bits w 24 19) (bit w 18) (bit w 17) (bits w 16 13) (bits w 12 8) (bits w 7 5) (guardOf w))

/-- Major 0x63: `STA`. -/
def decode63 (w : Word) : Except DecodeError Instr :=
  .ok (.sta (bits w 24 19) (bit w 18) (bit w 17) (bits w 16 13) (bits w 12 8) (bits w 7 5) (guardOf w))

/-- Major 0x64: `LDW`. -/
def decode64 (w : Word) : Except DecodeError Instr :=
  .ok (.ldw (bits w 24 19) (bit w 18) (bit w 17) (bits w 16 13) (bits w 12 8) (bits w 7 5) (guardOf w))

/-- Major 0x65: `STW`. -/
def decode65 (w : Word) : Except DecodeError Instr :=
  .ok (.stw (bits w 24 19) (bit w 18) (bit w 17) (bits w 16 13) (bits w 12 8) (bits w 7 5) (guardOf w))

/-- Major 0x66: `LDC`. -/
def decode66 (w : Word) : Except DecodeError Instr :=
  .ok (.ldc (bits w 24 19) (bit w 18) (bit w 17) (bits w 16 13) (bits w 12 8) (bits w 7 5) (guardOf w))

/-- Major 0x67: `STC`. -/
def decode67 (w : Word) : Except DecodeError Instr :=
  .ok (.stc (bits w 24 19) (bit w 18) (bit w 17) (bits w 16 13) (bits w 12 8) (bits w 7 5) (guardOf w))

/-- Major 0x68: `LDT`. -/
def decode68 (w : Word) : Except DecodeError Instr :=
  if bits w 7 6 = 0 then .ok (.ldt (bits w 24 19) (bits w 18 13) (bits w 12 8) (bit w 5) (guardOf w)) else
  .error .unassigned

/-- Major 0x69: `STT`. -/
def decode69 (w : Word) : Except DecodeError Instr :=
  if bits w 7 6 = 0 then .ok (.stt (bits w 24 19) (bits w 18 13) (bits w 12 8) (bit w 5) (guardOf w)) else
  .error .unassigned

/-- Major 0x6A: `PREF`, `CFLUSH`, `CINV`. -/
def decode6A (w : Word) : Except DecodeError Instr :=
  if bits w 7 5 = 0 then .ok (.pref (bits w 24 19) (bit w 18) (bit w 17) (bits w 16 13) (bits w 12 8) (guardOf w)) else
  if bits w 7 5 = 1 then .ok (.cflush (bits w 24 19) (bit w 18) (bit w 17) (bits w 16 13) (bits w 12 8) (guardOf w)) else
  if bits w 7 5 = 2 then .ok (.cinv (bits w 24 19) (bit w 18) (bit w 17) (bits w 16 13) (bits w 12 8) (guardOf w)) else
  .error .unassigned

/-- Major 0x6B: `TIDSET`, `TIDGET`, `TIDINV`. -/
def decode6B (w : Word) : Except DecodeError Instr :=
  if bits w 24 20 = 0 ∧ bits w 14 8 = 0 then .ok (.tidset (bits w 19 15) (bits w 7 0)) else
  if bits w 24 20 = 0 ∧ bits w 14 8 = 1 then .ok (.tidget (bits w 19 15) (bits w 7 0)) else
  if bits w 24 8 = 2 then .ok (.tidinv (bits w 7 0)) else
  .error .unassigned

/-- Major 0x6C: `ATOM`. -/
def decode6C (w : Word) : Except DecodeError Instr :=
  .ok (.atom (bits w 24 19) (bits w 18 13) (bits w 12 10) (bits w 9 7) (bit w 6) (bit w 5) (guardOf w))

/-- Major 0x6D: `RED`. -/
def decode6D (w : Word) : Except DecodeError Instr :=
  .ok (.red (bits w 24 19) (bits w 18 13) (bits w 12 10) (bits w 9 7) (bit w 6) (bit w 5) (guardOf w))

/-- Major 0x6E: `ATOMA`. -/
def decode6E (w : Word) : Except DecodeError Instr :=
  if bits w 5 5 = 0 then .ok (.atoma (bits w 24 19) (bits w 18 13) (bits w 12 10) (bits w 9 7) (bit w 6) (guardOf w)) else
  .error .unassigned

/-- Major 0x6F: `FENCE`. -/
def decode6F (w : Word) : Except DecodeError Instr :=
  if bits w 24 10 = 0 ∧ bits w 2 0 = 0 then .ok (.fence (bits w 9 7) (bits w 6 3)) else
  .error .unassigned

/-- Major 0x70: `BSRD`, `BSWR`, `BSXCH`, `BSADD`. -/
def decode70 (w : Word) : Except DecodeError Instr :=
  if bits w 19 8 = 0 ∧ bits w 3 0 = 0 then .ok (.bsrd (bits w 24 20) (bits w 7 4)) else
  if bits w 24 20 = 0 ∧ bits w 14 8 = 1 ∧ bits w 3 0 = 0 then .ok (.bswr (bits w 19 15) (bits w 7 4)) else
  if bits w 14 8 = 2 ∧ bits w 3 0 = 0 then .ok (.bsxch (bits w 24 20) (bits w 19 15) (bits w 7 4)) else
  if bits w 14 8 = 3 ∧ bits w 3 0 = 0 then .ok (.bsadd (bits w 24 20) (bits w 19 15) (bits w 7 4)) else
  .error .unassigned

/-- Major 0x71: `CPY`, `CPYT`. -/
def decode71 (w : Word) : Except DecodeError Instr :=
  if bits w 19 12 = 0 ∧ bits w 5 0 = 0 then .ok (.cpy (bits w 24 20) (bits w 11 6)) else
  if bits w 2 0 = 1 then .ok (.cpyt (bits w 24 20) (bits w 19 12) (bits w 11 6) (bits w 5 4) (bit w 3)) else
  .error .unassigned

/-- Major 0x72: `TGWAIT`, `TGANY`, `TGFIND`, `TGCLR`, `TGTEST`. -/
def decode72 (w : Word) : Except DecodeError Instr :=
  if bits w 24 20 = 0 ∧ bits w 14 0 = 0 then .ok (.tgwait (bits w 19 15)) else
  if bits w 24 20 = 0 ∧ bits w 14 0 = 128 then .ok (.tgany (bits w 19 15)) else
  if bits w 14 0 = 256 then .ok (.tgfind (bits w 24 20) (bits w 19 15)) else
  if bits w 24 20 = 0 ∧ bits w 14 0 = 384 then .ok (.tgclr (bits w 19 15)) else
  if bits w 14 7 = 4 ∧ bits w 5 0 = 0 then .ok (.tgtest (bits w 24 20) (bits w 19 15) (bit w 6)) else
  .error .unassigned

/-- Major 0x73: `RIDX`, `RWAIT`, `RFLIP`. -/
def decode73 (w : Word) : Except DecodeError Instr :=
  if bits w 9 0 = 0 then .ok (.ridx (bits w 24 20) (bits w 19 15) (bits w 14 10)) else
  if bits w 24 20 = 0 ∧ bits w 9 8 = 1 ∧ bits w 1 0 = 0 then .ok (.rwait (bits w 19 15) (bits w 14 10) (bit w 7) (bit w 6) (bits w 5 2)) else
  if bits w 24 20 = 0 ∧ bits w 9 8 = 2 ∧ bits w 1 0 = 0 then .ok (.rflip (bits w 19 15) (bits w 14 10) (bit w 7) (bit w 6) (bits w 5 2)) else
  .error .unassigned

/-- Major 0x74: `TACQ`, `TREL`, `CEDE`, `TSTAT`. -/
def decode74 (w : Word) : Except DecodeError Instr :=
  if bits w 5 0 = 0 then .ok (.tacq (bits w 24 20) (bits w 19 15) (bits w 14 9) (bits w 8 7) (bit w 6)) else
  if bits w 14 0 = 1 then .ok (.trel (bits w 24 20) (bits w 19 15)) else
  if bits w 24 6 = 0 ∧ bits w 3 0 = 2 then .ok (.cede (bits w 5 4)) else
  if bits w 14 0 = 3 then .ok (.tstat (bits w 24 20) (bits w 19 15)) else
  .error .unassigned

/-- Major 0x75: `MLD`, `MLD.a`, `MST`, `MST.a`, `MMOV`, `MGET`, `MSET`, `MZERO`, `MIDENT`, `MTRN`. -/
def decode75 (w : Word) : Except DecodeError Instr :=
  if bits w 15 10 = 0 then .ok (.mld (bits w 24 22) (bits w 21 19) (bits w 18 16) (bits w 9 5) (guardOf w)) else
  if bits w 15 10 = 1 then .ok (.mldA (bits w 24 22) (bits w 21 19) (bits w 18 16) (bits w 9 5) (guardOf w)) else
  if bits w 24 22 = 0 ∧ bits w 18 10 = 2 then .ok (.mst (bits w 21 19) (bits w 9 5) (guardOf w)) else
  if bits w 24 22 = 0 ∧ bits w 18 10 = 3 then .ok (.mstA (bits w 21 19) (bits w 9 5) (guardOf w)) else
  if bits w 18 5 = 128 then .ok (.mmov (bits w 24 22) (bits w 21 19) (guardOf w)) else
  if bits w 15 10 = 5 then .ok (.mget (bits w 24 22) (bits w 21 19) (bits w 18 16) (bits w 9 5) (guardOf w)) else
  if bits w 15 10 = 6 then .ok (.mset (bits w 24 22) (bits w 21 19) (bits w 18 16) (bits w 9 5) (guardOf w)) else
  if bits w 15 5 = 224 then .ok (.mzero (bits w 24 22) (bits w 21 19) (bits w 18 16) (guardOf w)) else
  if bits w 15 5 = 256 then .ok (.mident (bits w 24 22) (bits w 21 19) (bits w 18 16) (guardOf w)) else
  if bits w 18 5 = 288 then .ok (.mtrn (bits w 24 22) (bits w 21 19) (guardOf w)) else
  .error .unassigned

/-- Major 0x76: `MADD`, `MSUB`, `MSCL`, `MMUL`, `MMULT`, `MFMA`. -/
def decode76 (w : Word) : Except DecodeError Instr :=
  if bits w 15 5 = 0 then .ok (.madd (bits w 24 22) (bits w 21 19) (bits w 18 16) (guardOf w)) else
  if bits w 15 5 = 32 then .ok (.msub (bits w 24 22) (bits w 21 19) (bits w 18 16) (guardOf w)) else
  if bits w 18 10 = 2 then .ok (.mscl (bits w 24 22) (bits w 21 19) (bits w 9 5) (guardOf w)) else
  if bits w 15 5 = 96 then .ok (.mmul (bits w 24 22) (bits w 21 19) (bits w 18 16) (guardOf w)) else
  if bits w 15 5 = 128 then .ok (.mmult (bits w 24 22) (bits w 21 19) (bits w 18 16) (guardOf w)) else
  if bits w 15 8 = 20 then .ok (.mfma (bits w 24 22) (bits w 21 19) (bits w 18 16) (bits w 7 5) (guardOf w)) else
  .error .unassigned

/-- Major 0x77: `MCHOL`, `MLU`, `MSOLVE`, `MFLG`. -/
def decode77 (w : Word) : Except DecodeError Instr :=
  if bits w 18 5 = 0 then .ok (.mchol (bits w 24 22) (bits w 21 19) (guardOf w)) else
  if bits w 18 10 = 1 then .ok (.mlu (bits w 24 22) (bits w 21 19) (bits w 9 5) (guardOf w)) else
  if bits w 15 7 = 16 then .ok (.msolve (bits w 24 22) (bits w 21 19) (bits w 18 16) (bits w 6 5) (guardOf w)) else
  if bits w 24 20 = 0 ∧ bits w 15 9 = 6 then .ok (.mflg (bits w 19 16) (bits w 8 5) (guardOf w)) else
  .error .unassigned

/-- Major 0x78: `GCMD`, `GRDY`, `GFENCE`, `GWAIT`, `GWIN`, `GCTR`, `GCLR`, `GQRY`. -/
def decode78 (w : Word) : Except DecodeError Instr :=
  if bits w 9 0 = 0 then .ok (.gcmd (bits w 24 20) (bits w 19 15) (bits w 14 10)) else
  if bits w 24 0 = 1 then .ok .grdy else
  if bits w 19 0 = 2 then .ok (.gfence (bits w 24 20)) else
  if bits w 24 20 = 0 ∧ bits w 14 0 = 3 then .ok (.gwait (bits w 19 15)) else
  if bits w 24 20 = 0 ∧ bits w 9 0 = 4 then .ok (.gwin (bits w 19 15) (bits w 14 10)) else
  if bits w 14 0 = 5 then .ok (.gctr (bits w 24 20) (bits w 19 15)) else
  if bits w 24 20 = 0 ∧ bits w 14 0 = 6 then .ok (.gclr (bits w 19 15)) else
  if bits w 19 15 = 0 ∧ bits w 9 0 = 7 then .ok (.gqry (bits w 24 20) (bits w 14 10)) else
  .error .unassigned

/-- Major 0x79: `VAPP`, `VSEAL`, `VCONN`, `VMERGE`, `VRWT`, `VGET`, `VREF`, `VREL`, `VGEN`. -/
def decode79 (w : Word) : Except DecodeError Instr :=
  if bits w 12 7 = 0 then .ok (.vapp (bits w 24 19) (bits w 18 13) (bit w 6) (bit w 5) (guardOf w)) else
  if bits w 12 7 = 1 ∧ bits w 5 5 = 0 then .ok (.vseal (bits w 24 19) (bits w 18 13) (bit w 6) (guardOf w)) else
  if bits w 12 7 = 2 ∧ bits w 5 5 = 0 then .ok (.vconn (bits w 24 19) (bits w 18 13) (bit w 6) (guardOf w)) else
  if bits w 12 7 = 3 ∧ bits w 5 5 = 0 then .ok (.vmerge (bits w 24 19) (bits w 18 13) (bit w 6) (guardOf w)) else
  if bits w 12 7 = 4 ∧ bits w 5 5 = 0 then .ok (.vrwt (bits w 24 19) (bits w 18 13) (bit w 6) (guardOf w)) else
  if bits w 12 7 = 5 ∧ bits w 5 5 = 0 then .ok (.vget (bits w 24 19) (bits w 18 13) (bit w 6) (guardOf w)) else
  if bits w 12 7 = 6 ∧ bits w 5 5 = 0 then .ok (.vref (bits w 24 19) (bits w 18 13) (bit w 6) (guardOf w)) else
  if bits w 12 7 = 7 ∧ bits w 5 5 = 0 then .ok (.vrel (bits w 24 19) (bits w 18 13) (bit w 6) (guardOf w)) else
  if bits w 12 7 = 8 ∧ bits w 5 5 = 0 then .ok (.vgen (bits w 24 19) (bits w 18 13) (bit w 6) (guardOf w)) else
  .error .unassigned

/-- Major 0x7A: `TRACE`, `TRACE.any`, `HITGET`. -/
def decode7A (w : Word) : Except DecodeError Instr :=
  if bits w 12 7 = 0 then .ok (.trace (bits w 24 19) (bits w 18 13) (bit w 6) (bit w 5) (guardOf w)) else
  if bits w 12 7 = 2 then .ok (.traceAny (bits w 24 19) (bits w 18 13) (bit w 6) (bit w 5) (guardOf w)) else
  if bits w 12 7 = 1 ∧ bits w 5 5 = 0 then .ok (.hitget (bits w 24 19) (bits w 18 13) (bit w 6) (guardOf w)) else
  .error .unassigned

/-- Major 0x7B: `TRAP`, `TRET`, `CCLR`, `RESV`, `LVQ`, `LVQ.seg`, `MARK`, `HCTR`, `DBRK`. -/
def decode7B (w : Word) : Except DecodeError Instr :=
  if bits w 9 0 = 0 then .ok (.trap (bits w 24 10)) else
  if bits w 24 0 = 1 then .ok .tret else
  if bits w 24 20 = 0 ∧ bits w 14 0 = 2 then .ok (.cclr (bits w 19 15)) else
  if bits w 19 0 = 3 then .ok (.resv (bits w 24 20)) else
  if bits w 24 0 = 4 then .ok .lvq else
  if bits w 24 0 = 5 then .ok .lvqSeg else
  if bits w 9 0 = 6 then .ok (.mark (bits w 24 20) (bits w 19 15) (bits w 14 10)) else
  if bits w 14 0 = 7 then .ok (.hctr (bits w 24 20) (bits w 19 15)) else
  if bits w 14 0 = 8 then .ok (.dbrk (bits w 24 20) (bits w 19 15)) else
  .error .unassigned

/-- Major 0x7F: `HIMM`, `HOLD`, `HSRC`, `HMOD`, `HFREE`. -/
def decode7F (w : Word) : Except DecodeError Instr :=
  if bits w 24 21 = 0 then .ok (.himm (bits w 20 0)) else
  if bits w 24 21 = 1 ∧ bits w 14 0 = 0 then .ok (.hold (bits w 20 19) (bits w 18 17) (bits w 16 15)) else
  if bits w 24 21 = 2 ∧ bits w 7 0 = 0 then .ok (.hsrc (bits w 20 15) (bit w 14) (bits w 13 9) (bit w 8)) else
  if bits w 24 21 = 3 ∧ bits w 14 14 = 0 ∧ bits w 4 0 = 0 then .ok (.hmod (bits w 20 18) (bit w 17) (bits w 16 15) (bits w 13 12) (bits w 11 9) (bits w 8 5)) else
  if bits w 24 21 = 4 then .ok (.hfree (bits w 20 14) (bits w 13 7) (bits w 6 0)) else
  if 5 ≤ (bits w 24 21).toNat then .error .hintKind else .error .unassigned

/-- The instruction that a word encodes, or why it encodes none. -/
def decode (w : Word) : Except DecodeError Instr :=
  match (bits w 31 25).toNat with
  | 1 => decode01 w
  | 2 => decode02 w
  | 3 => decode03 w
  | 4 => decode04 w
  | 5 => decode05 w
  | 8 => decode08 w
  | 9 => decode09 w
  | 10 => decode0A w
  | 11 => decode0B w
  | 16 => decode10 w
  | 17 => decode11 w
  | 18 => decode12 w
  | 19 => decode13 w
  | 20 => decode14 w
  | 21 => decode15 w
  | 22 => decode16 w
  | 23 => decode17 w
  | 24 => decode18 w
  | 25 => decode19 w
  | 26 => decode1A w
  | 27 => decode1B w
  | 28 => decode1C w
  | 29 => decode1D w
  | 30 => decode1E w
  | 31 => decode1F w
  | 32 => decode20 w
  | 33 => decode21 w
  | 34 => decode22 w
  | 35 => decode23 w
  | 36 => decode24 w
  | 37 => decode25 w
  | 38 => decode26 w
  | 39 => decode27 w
  | 40 => decode28 w
  | 41 => decode29 w
  | 42 => decode2A w
  | 48 => decode30 w
  | 49 => decode31 w
  | 50 => decode32 w
  | 51 => decode33 w
  | 52 => decode34 w
  | 56 => decode38 w
  | 57 => decode39 w
  | 58 => decode3A w
  | 59 => decode3B w
  | 60 => decode3C w
  | 61 => decode3D w
  | 62 => decode3E w
  | 63 => decode3F w
  | 64 => decode40 w
  | 65 => decode41 w
  | 66 => decode42 w
  | 67 => decode43 w
  | 68 => decode44 w
  | 69 => decode45 w
  | 70 => decode46 w
  | 71 => decode47 w
  | 72 => decode48 w
  | 73 => decode49 w
  | 74 => decode4A w
  | 75 => decode4B w
  | 76 => decode4C w
  | 77 => decode4D w
  | 78 => decode4E w
  | 79 => decode4F w
  | 80 => decode50 w
  | 81 => decode51 w
  | 82 => decode52 w
  | 83 => decode53 w
  | 84 => decode54 w
  | 85 => decode55 w
  | 86 => decode56 w
  | 87 => decode57 w
  | 88 => decode58 w
  | 89 => decode59 w
  | 90 => decode5A w
  | 91 => decode5B w
  | 92 => decode5C w
  | 93 => decode5D w
  | 94 => decode5E w
  | 95 => decode5F w
  | 96 => decode60 w
  | 97 => decode61 w
  | 98 => decode62 w
  | 99 => decode63 w
  | 100 => decode64 w
  | 101 => decode65 w
  | 102 => decode66 w
  | 103 => decode67 w
  | 104 => decode68 w
  | 105 => decode69 w
  | 106 => decode6A w
  | 107 => decode6B w
  | 108 => decode6C w
  | 109 => decode6D w
  | 110 => decode6E w
  | 111 => decode6F w
  | 112 => decode70 w
  | 113 => decode71 w
  | 114 => decode72 w
  | 115 => decode73 w
  | 116 => decode74 w
  | 117 => decode75 w
  | 118 => decode76 w
  | 119 => decode77 w
  | 120 => decode78 w
  | 121 => decode79 w
  | 122 => decode7A w
  | 123 => decode7B w
  | 127 => decode7F w
  | _ => .error .reservedMajor

/-- A word from its fields, given from bit 31 downward as (value, width). -/
def packFields (fs : List (Nat × Nat)) : Word := BitVec.ofNat 32 (fs.foldl (fun acc f => acc * 2 ^ f.2 + f.1 % 2 ^ f.2) 0)

/-- The word of an instruction, field by field from bit 31 downward as its entry's encoding gives them; none for an event. -/
def encode? (i : Instr) : Option Word :=
  match i with
  | .bra m k n o => some (packFields [(0x1, 7), (m.toNat, 3), (k.toNat, 4), (n.toNat, 1), (o.toNat, 17)])
  | .call d i => some (packFields [(0x2, 7), (d.toNat, 5), (i.toNat, 20)])
  | .jmps a => some (packFields [(0x60, 12), (a.toNat, 5), (0x0, 15)])
  | .calls d a => some (packFields [(0x3, 7), (d.toNat, 5), (a.toNat, 5), (0x1, 15)])
  | .ret a => some (packFields [(0x60, 12), (a.toNat, 5), (0x2, 15)])
  | .exit => some (packFields [(0x6000003, 32)])
  | .rejoin => some (packFields [(0x6000004, 32)])
  | .isync => some (packFields [(0x6000005, 32)])
  | .nap a => some (packFields [(0x60, 12), (a.toNat, 5), (0x6, 15)])
  | .bar => some (packFields [(0x8000000, 32)])
  | .cbar a => some (packFields [(0x80, 12), (a.toNat, 5), (0x1, 15)])
  | .post d m gd => some (packFields [(0x5, 7), (d.toNat, 6), (0x0, 13), (m.toNat, 1), (gd.n.toNat, 1), (gd.g.toNat, 4)])
  | .sadd d a b i => some (packFields [(0x8, 7), (d.toNat, 5), (a.toNat, 5), (b.toNat, 5), (0x0, 1), (i.toNat, 1), (0x0, 8)])
  | .ssub d a b i => some (packFields [(0x8, 7), (d.toNat, 5), (a.toNat, 5), (b.toNat, 5), (0x0, 1), (i.toNat, 1), (0x1, 8)])
  | .smul d a b i => some (packFields [(0x8, 7), (d.toNat, 5), (a.toNat, 5), (b.toNat, 5), (0x0, 1), (i.toNat, 1), (0x2, 8)])
  | .smulh d a b i u => some (packFields [(0x8, 7), (d.toNat, 5), (a.toNat, 5), (b.toNat, 5), (0x0, 1), (i.toNat, 1), (u.toNat, 1), (0x3, 7)])
  | .sand d a b i => some (packFields [(0x8, 7), (d.toNat, 5), (a.toNat, 5), (b.toNat, 5), (0x0, 1), (i.toNat, 1), (0x4, 8)])
  | .sor d a b i => some (packFields [(0x8, 7), (d.toNat, 5), (a.toNat, 5), (b.toNat, 5), (0x0, 1), (i.toNat, 1), (0x5, 8)])
  | .sxor d a b i => some (packFields [(0x8, 7), (d.toNat, 5), (a.toNat, 5), (b.toNat, 5), (0x0, 1), (i.toNat, 1), (0x6, 8)])
  | .sshl d a b i => some (packFields [(0x8, 7), (d.toNat, 5), (a.toNat, 5), (b.toNat, 5), (0x0, 1), (i.toNat, 1), (0x7, 8)])
  | .sshr d a b i => some (packFields [(0x8, 7), (d.toNat, 5), (a.toNat, 5), (b.toNat, 5), (0x0, 1), (i.toNat, 1), (0x8, 8)])
  | .ssar d a b i => some (packFields [(0x8, 7), (d.toNat, 5), (a.toNat, 5), (b.toNat, 5), (0x0, 1), (i.toNat, 1), (0x9, 8)])
  | .smin d a b i u => some (packFields [(0x8, 7), (d.toNat, 5), (a.toNat, 5), (b.toNat, 5), (0x0, 1), (i.toNat, 1), (u.toNat, 1), (0xA, 7)])
  | .smax d a b i u => some (packFields [(0x8, 7), (d.toNat, 5), (a.toNat, 5), (b.toNat, 5), (0x0, 1), (i.toNat, 1), (u.toNat, 1), (0xB, 7)])
  | .scmp d a b i c => some (packFields [(0x8, 7), (d.toNat, 5), (a.toNat, 5), (b.toNat, 5), (0x0, 1), (i.toNat, 1), (c.toNat, 4), (0xC, 4)])
  | .ssel d a b i => some (packFields [(0x8, 7), (d.toNat, 5), (a.toNat, 5), (b.toNat, 5), (0x0, 1), (i.toNat, 1), (0xD, 8)])
  | .smov d a => some (packFields [(0x8, 7), (d.toNat, 5), (a.toNat, 5), (0xE, 15)])
  | .slea d a b i c => some (packFields [(0x8, 7), (d.toNat, 5), (a.toNat, 5), (b.toNat, 5), (0x0, 1), (i.toNat, 1), (c.toNat, 4), (0xF, 4)])
  | .smovi d i => some (packFields [(0x9, 7), (d.toNat, 5), (i.toNat, 20)])
  | .sld d a w p => some (packFields [(0xA, 7), (d.toNat, 5), (a.toNat, 5), (0x0, 7), (w.toNat, 3), (p.toNat, 2), (0x0, 3)])
  | .sst a b w p => some (packFields [(0x140, 12), (a.toNat, 5), (b.toNat, 5), (0x1, 2), (w.toNat, 3), (p.toNat, 2), (0x0, 3)])
  | .srd d v n => some (packFields [(0xB, 7), (d.toNat, 5), (0x0, 10), (v.toNat, 1), (0x0, 1), (n.toNat, 8)])
  | .swr a n => some (packFields [(0x160, 12), (a.toNat, 5), (0x1, 7), (n.toNat, 8)])
  | .vadd d a b la lb gd => some (packFields [(0x10, 7), (d.toNat, 6), (a.toNat, 6), (b.toNat, 6), (la.toNat, 1), (lb.toNat, 1), (gd.n.toNat, 1), (gd.g.toNat, 4)])
  | .vsub d a b la lb gd => some (packFields [(0x11, 7), (d.toNat, 6), (a.toNat, 6), (b.toNat, 6), (la.toNat, 1), (lb.toNat, 1), (gd.n.toNat, 1), (gd.g.toNat, 4)])
  | .vmul d a b la lb gd => some (packFields [(0x12, 7), (d.toNat, 6), (a.toNat, 6), (b.toNat, 6), (la.toNat, 1), (lb.toNat, 1), (gd.n.toNat, 1), (gd.g.toNat, 4)])
  | .vmulh d a b la lb gd => some (packFields [(0x13, 7), (d.toNat, 6), (a.toNat, 6), (b.toNat, 6), (la.toNat, 1), (lb.toNat, 1), (gd.n.toNat, 1), (gd.g.toNat, 4)])
  | .vand d a b la lb gd => some (packFields [(0x14, 7), (d.toNat, 6), (a.toNat, 6), (b.toNat, 6), (la.toNat, 1), (lb.toNat, 1), (gd.n.toNat, 1), (gd.g.toNat, 4)])
  | .vor d a b la lb gd => some (packFields [(0x15, 7), (d.toNat, 6), (a.toNat, 6), (b.toNat, 6), (la.toNat, 1), (lb.toNat, 1), (gd.n.toNat, 1), (gd.g.toNat, 4)])
  | .vxor d a b la lb gd => some (packFields [(0x16, 7), (d.toNat, 6), (a.toNat, 6), (b.toNat, 6), (la.toNat, 1), (lb.toNat, 1), (gd.n.toNat, 1), (gd.g.toNat, 4)])
  | .vshl d a b la lb gd => some (packFields [(0x17, 7), (d.toNat, 6), (a.toNat, 6), (b.toNat, 6), (la.toNat, 1), (lb.toNat, 1), (gd.n.toNat, 1), (gd.g.toNat, 4)])
  | .vshr d a b la lb gd => some (packFields [(0x18, 7), (d.toNat, 6), (a.toNat, 6), (b.toNat, 6), (la.toNat, 1), (lb.toNat, 1), (gd.n.toNat, 1), (gd.g.toNat, 4)])
  | .vsar d a b la lb gd => some (packFields [(0x19, 7), (d.toNat, 6), (a.toNat, 6), (b.toNat, 6), (la.toNat, 1), (lb.toNat, 1), (gd.n.toNat, 1), (gd.g.toNat, 4)])
  | .vmin d a b la lb gd => some (packFields [(0x1A, 7), (d.toNat, 6), (a.toNat, 6), (b.toNat, 6), (la.toNat, 1), (lb.toNat, 1), (gd.n.toNat, 1), (gd.g.toNat, 4)])
  | .vmax d a b la lb gd => some (packFields [(0x1B, 7), (d.toNat, 6), (a.toNat, 6), (b.toNat, 6), (la.toNat, 1), (lb.toNat, 1), (gd.n.toNat, 1), (gd.g.toNat, 4)])
  | .vminn d a b la lb gd => some (packFields [(0x1C, 7), (d.toNat, 6), (a.toNat, 6), (b.toNat, 6), (la.toNat, 1), (lb.toNat, 1), (gd.n.toNat, 1), (gd.g.toNat, 4)])
  | .vmaxn d a b la lb gd => some (packFields [(0x1D, 7), (d.toNat, 6), (a.toNat, 6), (b.toNat, 6), (la.toNat, 1), (lb.toNat, 1), (gd.n.toNat, 1), (gd.g.toNat, 4)])
  | .vaddc d a b la lb gd => some (packFields [(0x1E, 7), (d.toNat, 6), (a.toNat, 6), (b.toNat, 6), (la.toNat, 1), (lb.toNat, 1), (gd.n.toNat, 1), (gd.g.toNat, 4)])
  | .vsubb d a b la lb gd => some (packFields [(0x1F, 7), (d.toNat, 6), (a.toNat, 6), (b.toNat, 6), (la.toNat, 1), (lb.toNat, 1), (gd.n.toNat, 1), (gd.g.toNat, 4)])
  | .vaddi d a i gd => some (packFields [(0x20, 7), (d.toNat, 6), (a.toNat, 6), (i.toNat, 8), (gd.n.toNat, 1), (gd.g.toNat, 4)])
  | .vshli d a i gd => some (packFields [(0x21, 7), (d.toNat, 6), (a.toNat, 6), (i.toNat, 8), (gd.n.toNat, 1), (gd.g.toNat, 4)])
  | .vshri d a i gd => some (packFields [(0x22, 7), (d.toNat, 6), (a.toNat, 6), (i.toNat, 8), (gd.n.toNat, 1), (gd.g.toNat, 4)])
  | .vsari d a i gd => some (packFields [(0x23, 7), (d.toNat, 6), (a.toNat, 6), (i.toNat, 8), (gd.n.toNat, 1), (gd.g.toNat, 4)])
  | .vandi d a i gd => some (packFields [(0x24, 7), (d.toNat, 6), (a.toNat, 6), (i.toNat, 8), (gd.n.toNat, 1), (gd.g.toNat, 4)])
  | .vmovi d i gd => some (packFields [(0x25, 7), (d.toNat, 6), (i.toNat, 14), (gd.n.toNat, 1), (gd.g.toNat, 4)])
  | .vnot d a la gd => some (packFields [(0x26, 7), (d.toNat, 6), (a.toNat, 6), (0x0, 6), (la.toNat, 1), (0x0, 1), (gd.n.toNat, 1), (gd.g.toNat, 4)])
  | .vneg d a la gd => some (packFields [(0x26, 7), (d.toNat, 6), (a.toNat, 6), (0x1, 6), (la.toNat, 1), (0x0, 1), (gd.n.toNat, 1), (gd.g.toNat, 4)])
  | .vabs d a la gd => some (packFields [(0x26, 7), (d.toNat, 6), (a.toNat, 6), (0x2, 6), (la.toNat, 1), (0x0, 1), (gd.n.toNat, 1), (gd.g.toNat, 4)])
  | .vclz d a la gd => some (packFields [(0x26, 7), (d.toNat, 6), (a.toNat, 6), (0x3, 6), (la.toNat, 1), (0x0, 1), (gd.n.toNat, 1), (gd.g.toNat, 4)])
  | .vpopc d a la gd => some (packFields [(0x26, 7), (d.toNat, 6), (a.toNat, 6), (0x4, 6), (la.toNat, 1), (0x0, 1), (gd.n.toNat, 1), (gd.g.toNat, 4)])
  | .vmov d a la gd => some (packFields [(0x26, 7), (d.toNat, 6), (a.toNat, 6), (0x5, 6), (la.toNat, 1), (0x0, 1), (gd.n.toNat, 1), (gd.g.toNat, 4)])
  | .vbfe d a la m gd => some (packFields [(0x27, 7), (d.toNat, 6), (a.toNat, 6), (0x0, 6), (la.toNat, 1), (m.toNat, 1), (gd.n.toNat, 1), (gd.g.toNat, 4)])
  | .vbfi d a la gd => some (packFields [(0x27, 7), (d.toNat, 6), (a.toNat, 6), (0x1, 6), (la.toNat, 1), (0x0, 1), (gd.n.toNat, 1), (gd.g.toNat, 4)])
  | .vsel d a b la lb gd => some (packFields [(0x28, 7), (d.toNat, 6), (a.toNat, 6), (b.toNat, 6), (la.toNat, 1), (lb.toNat, 1), (gd.n.toNat, 1), (gd.g.toNat, 4)])
  | .vmad d a b la lb gd => some (packFields [(0x29, 7), (d.toNat, 6), (a.toNat, 6), (b.toNat, 6), (la.toNat, 1), (lb.toNat, 1), (gd.n.toNat, 1), (gd.g.toNat, 4)])
  | .vlea d a s h gd => some (packFields [(0x2A, 7), (d.toNat, 6), (a.toNat, 6), (s.toNat, 5), (h.toNat, 3), (gd.n.toNat, 1), (gd.g.toNat, 4)])
  | .vcmp k c a b gd => some (packFields [(0x30, 7), (k.toNat, 4), (c.toNat, 4), (a.toNat, 6), (b.toNat, 6), (gd.n.toNat, 1), (gd.g.toNat, 4)])
  | .fcmp k c a b gd => some (packFields [(0x31, 7), (k.toNat, 4), (c.toNat, 4), (a.toNat, 6), (b.toNat, 6), (gd.n.toNat, 1), (gd.g.toNat, 4)])
  | .pand d a b x gd => some (packFields [(0x32, 7), (d.toNat, 4), (a.toNat, 4), (b.toNat, 4), (0x0, 6), (x.toNat, 2), (gd.n.toNat, 1), (gd.g.toNat, 4)])
  | .por d a b x gd => some (packFields [(0x32, 7), (d.toNat, 4), (a.toNat, 4), (b.toNat, 4), (0x2, 6), (x.toNat, 2), (gd.n.toNat, 1), (gd.g.toNat, 4)])
  | .pxor d a b x gd => some (packFields [(0x32, 7), (d.toNat, 4), (a.toNat, 4), (b.toNat, 4), (0x4, 6), (x.toNat, 2), (gd.n.toNat, 1), (gd.g.toNat, 4)])
  | .pnot d a gd => some (packFields [(0x32, 7), (d.toNat, 4), (a.toNat, 4), (0x18, 12), (gd.n.toNat, 1), (gd.g.toNat, 4)])
  | .pset d x gd => some (packFields [(0x32, 7), (d.toNat, 4), (0x10, 15), (x.toNat, 1), (gd.n.toNat, 1), (gd.g.toNat, 4)])
  | .ktov k r gd => some (packFields [(0x33, 7), (k.toNat, 4), (r.toNat, 8), (0x0, 8), (gd.n.toNat, 1), (gd.g.toNat, 4)])
  | .vtok k r gd => some (packFields [(0x33, 7), (k.toNat, 4), (r.toNat, 8), (0x8, 8), (gd.n.toNat, 1), (gd.g.toNat, 4)])
  | .ktos k r gd => some (packFields [(0x33, 7), (k.toNat, 4), (r.toNat, 8), (0x10, 8), (gd.n.toNat, 1), (gd.g.toNat, 4)])
  | .stok k r gd => some (packFields [(0x33, 7), (k.toNat, 4), (r.toNat, 8), (0x18, 8), (gd.n.toNat, 1), (gd.g.toNat, 4)])
  | .pcnt k r gd => some (packFields [(0x33, 7), (k.toNat, 4), (r.toNat, 8), (0x20, 8), (gd.n.toNat, 1), (gd.g.toNat, 4)])
  | .xmget r => some (packFields [(0x330, 11), (r.toNat, 8), (0x50F, 13)])
  | .xmset r => some (packFields [(0x330, 11), (r.toNat, 8), (0x60F, 13)])
  | .vmatch k c a gd => some (packFields [(0x34, 7), (k.toNat, 4), (c.toNat, 4), (a.toNat, 6), (0x0, 6), (gd.n.toNat, 1), (gd.g.toNat, 4)])
  | .fadd d a b la lb gd => some (packFields [(0x38, 7), (d.toNat, 6), (a.toNat, 6), (b.toNat, 6), (la.toNat, 1), (lb.toNat, 1), (gd.n.toNat, 1), (gd.g.toNat, 4)])
  | .fsub d a b la lb gd => some (packFields [(0x39, 7), (d.toNat, 6), (a.toNat, 6), (b.toNat, 6), (la.toNat, 1), (lb.toNat, 1), (gd.n.toNat, 1), (gd.g.toNat, 4)])
  | .fmul d a b la lb gd => some (packFields [(0x3A, 7), (d.toNat, 6), (a.toNat, 6), (b.toNat, 6), (la.toNat, 1), (lb.toNat, 1), (gd.n.toNat, 1), (gd.g.toNat, 4)])
  | .ffma d a b la lb gd => some (packFields [(0x3B, 7), (d.toNat, 6), (a.toNat, 6), (b.toNat, 6), (la.toNat, 1), (lb.toNat, 1), (gd.n.toNat, 1), (gd.g.toNat, 4)])
  | .fmin d a b la lb gd => some (packFields [(0x3C, 7), (d.toNat, 6), (a.toNat, 6), (b.toNat, 6), (la.toNat, 1), (lb.toNat, 1), (gd.n.toNat, 1), (gd.g.toNat, 4)])
  | .fmax d a b la lb gd => some (packFields [(0x3D, 7), (d.toNat, 6), (a.toNat, 6), (b.toNat, 6), (la.toNat, 1), (lb.toNat, 1), (gd.n.toNat, 1), (gd.g.toNat, 4)])
  | .fabs d a la m gd => some (packFields [(0x3E, 7), (d.toNat, 6), (a.toNat, 6), (0x0, 6), (la.toNat, 1), (m.toNat, 1), (gd.n.toNat, 1), (gd.g.toNat, 4)])
  | .fneg d a la m gd => some (packFields [(0x3E, 7), (d.toNat, 6), (a.toNat, 6), (0x1, 6), (la.toNat, 1), (m.toNat, 1), (gd.n.toNat, 1), (gd.g.toNat, 4)])
  | .frcp d a la m gd => some (packFields [(0x3E, 7), (d.toNat, 6), (a.toNat, 6), (0x2, 6), (la.toNat, 1), (m.toNat, 1), (gd.n.toNat, 1), (gd.g.toNat, 4)])
  | .frsq d a la m gd => some (packFields [(0x3E, 7), (d.toNat, 6), (a.toNat, 6), (0x3, 6), (la.toNat, 1), (m.toNat, 1), (gd.n.toNat, 1), (gd.g.toNat, 4)])
  | .fsqrt d a la m gd => some (packFields [(0x3E, 7), (d.toNat, 6), (a.toNat, 6), (0x4, 6), (la.toNat, 1), (m.toNat, 1), (gd.n.toNat, 1), (gd.g.toNat, 4)])
  | .fexp2 d a la gd => some (packFields [(0x3E, 7), (d.toNat, 6), (a.toNat, 6), (0x5, 6), (la.toNat, 1), (0x0, 1), (gd.n.toNat, 1), (gd.g.toNat, 4)])
  | .flog2 d a la gd => some (packFields [(0x3E, 7), (d.toNat, 6), (a.toNat, 6), (0x6, 6), (la.toNat, 1), (0x0, 1), (gd.n.toNat, 1), (gd.g.toNat, 4)])
  | .fsin d a la gd => some (packFields [(0x3E, 7), (d.toNat, 6), (a.toNat, 6), (0x7, 6), (la.toNat, 1), (0x0, 1), (gd.n.toNat, 1), (gd.g.toNat, 4)])
  | .fcos d a la gd => some (packFields [(0x3E, 7), (d.toNat, 6), (a.toNat, 6), (0x8, 6), (la.toNat, 1), (0x0, 1), (gd.n.toNat, 1), (gd.g.toNat, 4)])
  | .frnd d a la m gd => some (packFields [(0x3E, 7), (d.toNat, 6), (a.toNat, 6), (0x9, 6), (la.toNat, 1), (m.toNat, 1), (gd.n.toNat, 1), (gd.g.toNat, 4)])
  | .fclass d a la m gd => some (packFields [(0x3E, 7), (d.toNat, 6), (a.toNat, 6), (0xA, 6), (la.toNat, 1), (m.toNat, 1), (gd.n.toNat, 1), (gd.g.toNat, 4)])
  | .fdiv d a b la lb gd => some (packFields [(0x3F, 7), (d.toNat, 6), (a.toNat, 6), (b.toNat, 6), (la.toNat, 1), (lb.toNat, 1), (gd.n.toNat, 1), (gd.g.toNat, 4)])
  | .hadd d a b la lb gd => some (packFields [(0x40, 7), (d.toNat, 6), (a.toNat, 6), (b.toNat, 6), (la.toNat, 1), (lb.toNat, 1), (gd.n.toNat, 1), (gd.g.toNat, 4)])
  | .hsub d a b la lb gd => some (packFields [(0x41, 7), (d.toNat, 6), (a.toNat, 6), (b.toNat, 6), (la.toNat, 1), (lb.toNat, 1), (gd.n.toNat, 1), (gd.g.toNat, 4)])
  | .hmul d a b la lb gd => some (packFields [(0x42, 7), (d.toNat, 6), (a.toNat, 6), (b.toNat, 6), (la.toNat, 1), (lb.toNat, 1), (gd.n.toNat, 1), (gd.g.toNat, 4)])
  | .hfma d a b la lb gd => some (packFields [(0x43, 7), (d.toNat, 6), (a.toNat, 6), (b.toNat, 6), (la.toNat, 1), (lb.toNat, 1), (gd.n.toNat, 1), (gd.g.toNat, 4)])
  | .hmin d a b la lb gd => some (packFields [(0x44, 7), (d.toNat, 6), (a.toNat, 6), (b.toNat, 6), (la.toNat, 1), (lb.toNat, 1), (gd.n.toNat, 1), (gd.g.toNat, 4)])
  | .hmax d a b la lb gd => some (packFields [(0x45, 7), (d.toNat, 6), (a.toNat, 6), (b.toNat, 6), (la.toNat, 1), (lb.toNat, 1), (gd.n.toNat, 1), (gd.g.toNat, 4)])
  | .badd d a b la lb gd => some (packFields [(0x46, 7), (d.toNat, 6), (a.toNat, 6), (b.toNat, 6), (la.toNat, 1), (lb.toNat, 1), (gd.n.toNat, 1), (gd.g.toNat, 4)])
  | .bsub d a b la lb gd => some (packFields [(0x47, 7), (d.toNat, 6), (a.toNat, 6), (b.toNat, 6), (la.toNat, 1), (lb.toNat, 1), (gd.n.toNat, 1), (gd.g.toNat, 4)])
  | .bmul d a b la lb gd => some (packFields [(0x48, 7), (d.toNat, 6), (a.toNat, 6), (b.toNat, 6), (la.toNat, 1), (lb.toNat, 1), (gd.n.toNat, 1), (gd.g.toNat, 4)])
  | .bfma d a b la lb gd => some (packFields [(0x49, 7), (d.toNat, 6), (a.toNat, 6), (b.toNat, 6), (la.toNat, 1), (lb.toNat, 1), (gd.n.toNat, 1), (gd.g.toNat, 4)])
  | .bmin d a b la lb gd => some (packFields [(0x4A, 7), (d.toNat, 6), (a.toNat, 6), (b.toNat, 6), (la.toNat, 1), (lb.toNat, 1), (gd.n.toNat, 1), (gd.g.toNat, 4)])
  | .bmax d a b la lb gd => some (packFields [(0x4B, 7), (d.toNat, 6), (a.toNat, 6), (b.toNat, 6), (la.toNat, 1), (lb.toNat, 1), (gd.n.toNat, 1), (gd.g.toNat, 4)])
  | .dadd d a b la lb gd => some (packFields [(0x4C, 7), (d.toNat, 6), (a.toNat, 6), (b.toNat, 6), (la.toNat, 1), (lb.toNat, 1), (gd.n.toNat, 1), (gd.g.toNat, 4)])
  | .dsub d a b la lb gd => some (packFields [(0x4D, 7), (d.toNat, 6), (a.toNat, 6), (b.toNat, 6), (la.toNat, 1), (lb.toNat, 1), (gd.n.toNat, 1), (gd.g.toNat, 4)])
  | .dmul d a b la lb gd => some (packFields [(0x4E, 7), (d.toNat, 6), (a.toNat, 6), (b.toNat, 6), (la.toNat, 1), (lb.toNat, 1), (gd.n.toNat, 1), (gd.g.toNat, 4)])
  | .dfma d a b la lb gd => some (packFields [(0x4F, 7), (d.toNat, 6), (a.toNat, 6), (b.toNat, 6), (la.toNat, 1), (lb.toNat, 1), (gd.n.toNat, 1), (gd.g.toNat, 4)])
  | .cvt d a c p la m gd => some (packFields [(0x50, 7), (d.toNat, 6), (a.toNat, 6), (c.toNat, 4), (p.toNat, 2), (la.toNat, 1), (m.toNat, 1), (gd.n.toNat, 1), (gd.g.toNat, 4)])
  | .cvts d a b la lb gd => some (packFields [(0x51, 7), (d.toNat, 6), (a.toNat, 6), (b.toNat, 6), (la.toNat, 1), (lb.toNat, 1), (gd.n.toNat, 1), (gd.g.toNat, 4)])
  | .pack d a b la lb gd => some (packFields [(0x52, 7), (d.toNat, 6), (a.toNat, 6), (b.toNat, 6), (la.toNat, 1), (lb.toNat, 1), (gd.n.toNat, 1), (gd.g.toNat, 4)])
  | .unpk d a c p la gd => some (packFields [(0x53, 7), (d.toNat, 6), (a.toNat, 6), (c.toNat, 4), (p.toNat, 2), (la.toNat, 1), (0x0, 1), (gd.n.toNat, 1), (gd.g.toNat, 4)])
  | .rnd d a s la m gd => some (packFields [(0x54, 7), (d.toNat, 6), (a.toNat, 6), (0x0, 1), (s.toNat, 5), (la.toNat, 1), (m.toNat, 1), (gd.n.toNat, 1), (gd.g.toNat, 4)])
  | .rslice d a w la m gd => some (packFields [(0x55, 7), (d.toNat, 6), (a.toNat, 6), (w.toNat, 3), (0x0, 3), (la.toNat, 1), (m.toNat, 1), (gd.n.toNat, 1), (gd.g.toNat, 4)])
  | .rbern k c a b gd => some (packFields [(0x56, 7), (k.toNat, 4), (c.toNat, 4), (a.toNat, 6), (b.toNat, 6), (gd.n.toNat, 1), (gd.g.toNat, 4)])
  | .rkey a => some (packFields [(0xAE0, 12), (a.toNat, 5), (0x0, 15)])
  | .shfl d a b la lb gd => some (packFields [(0x58, 7), (d.toNat, 6), (a.toNat, 6), (b.toNat, 6), (la.toNat, 1), (lb.toNat, 1), (gd.n.toNat, 1), (gd.g.toNat, 4)])
  | .shfx d a i gd => some (packFields [(0x59, 7), (d.toNat, 6), (a.toNat, 6), (i.toNat, 8), (gd.n.toNat, 1), (gd.g.toNat, 4)])
  | .shfu d a i gd => some (packFields [(0x5A, 7), (d.toNat, 6), (a.toNat, 6), (i.toNat, 8), (gd.n.toNat, 1), (gd.g.toNat, 4)])
  | .shfd d a i gd => some (packFields [(0x5B, 7), (d.toNat, 6), (a.toNat, 6), (i.toNat, 8), (gd.n.toNat, 1), (gd.g.toNat, 4)])
  | .bcst d a s x gd => some (packFields [(0x5C, 7), (d.toNat, 6), (a.toNat, 6), (s.toNat, 5), (x.toNat, 3), (gd.n.toNat, 1), (gd.g.toNat, 4)])
  | .rdfl k a s w gd => some (packFields [(0x5D, 7), (k.toNat, 6), (a.toNat, 6), (s.toNat, 5), (0x0, 2), (w.toNat, 1), (gd.n.toNat, 1), (gd.g.toNat, 4)])
  | .vred d a f la gd => some (packFields [(0x5E, 7), (d.toNat, 6), (a.toNat, 6), (f.toNat, 6), (la.toNat, 1), (0x0, 1), (gd.n.toNat, 1), (gd.g.toNat, 4)])
  | .vscan d a f la e gd => some (packFields [(0x5F, 7), (d.toNat, 6), (a.toNat, 6), (f.toNat, 6), (la.toNat, 1), (e.toNat, 1), (gd.n.toNat, 1), (gd.g.toNat, 4)])
  | .ld d p q i s w gd => some (packFields [(0x60, 7), (d.toNat, 6), (p.toNat, 1), (q.toNat, 1), (i.toNat, 4), (s.toNat, 5), (w.toNat, 3), (gd.n.toNat, 1), (gd.g.toNat, 4)])
  | .st d p q i s w gd => some (packFields [(0x61, 7), (d.toNat, 6), (p.toNat, 1), (q.toNat, 1), (i.toNat, 4), (s.toNat, 5), (w.toNat, 3), (gd.n.toNat, 1), (gd.g.toNat, 4)])
  | .lda d p q i s w gd => some (packFields [(0x62, 7), (d.toNat, 6), (p.toNat, 1), (q.toNat, 1), (i.toNat, 4), (s.toNat, 5), (w.toNat, 3), (gd.n.toNat, 1), (gd.g.toNat, 4)])
  | .sta d p q i s w gd => some (packFields [(0x63, 7), (d.toNat, 6), (p.toNat, 1), (q.toNat, 1), (i.toNat, 4), (s.toNat, 5), (w.toNat, 3), (gd.n.toNat, 1), (gd.g.toNat, 4)])
  | .ldw d p q i s w gd => some (packFields [(0x64, 7), (d.toNat, 6), (p.toNat, 1), (q.toNat, 1), (i.toNat, 4), (s.toNat, 5), (w.toNat, 3), (gd.n.toNat, 1), (gd.g.toNat, 4)])
  | .stw d p q i s w gd => some (packFields [(0x65, 7), (d.toNat, 6), (p.toNat, 1), (q.toNat, 1), (i.toNat, 4), (s.toNat, 5), (w.toNat, 3), (gd.n.toNat, 1), (gd.g.toNat, 4)])
  | .ldc d p q i s w gd => some (packFields [(0x66, 7), (d.toNat, 6), (p.toNat, 1), (q.toNat, 1), (i.toNat, 4), (s.toNat, 5), (w.toNat, 3), (gd.n.toNat, 1), (gd.g.toNat, 4)])
  | .stc d p q i s w gd => some (packFields [(0x67, 7), (d.toNat, 6), (p.toNat, 1), (q.toNat, 1), (i.toNat, 4), (s.toNat, 5), (w.toNat, 3), (gd.n.toNat, 1), (gd.g.toNat, 4)])
  | .ldt d a s w gd => some (packFields [(0x68, 7), (d.toNat, 6), (a.toNat, 6), (s.toNat, 5), (0x0, 2), (w.toNat, 1), (gd.n.toNat, 1), (gd.g.toNat, 4)])
  | .stt d a s w gd => some (packFields [(0x69, 7), (d.toNat, 6), (a.toNat, 6), (s.toNat, 5), (0x0, 2), (w.toNat, 1), (gd.n.toNat, 1), (gd.g.toNat, 4)])
  | .pref d p q i s gd => some (packFields [(0x6A, 7), (d.toNat, 6), (p.toNat, 1), (q.toNat, 1), (i.toNat, 4), (s.toNat, 5), (0x0, 3), (gd.n.toNat, 1), (gd.g.toNat, 4)])
  | .cflush d p q i s gd => some (packFields [(0x6A, 7), (d.toNat, 6), (p.toNat, 1), (q.toNat, 1), (i.toNat, 4), (s.toNat, 5), (0x1, 3), (gd.n.toNat, 1), (gd.g.toNat, 4)])
  | .cinv d p q i s gd => some (packFields [(0x6A, 7), (d.toNat, 6), (p.toNat, 1), (q.toNat, 1), (i.toNat, 4), (s.toNat, 5), (0x2, 3), (gd.n.toNat, 1), (gd.g.toNat, 4)])
  | .tidset a t => some (packFields [(0xD60, 12), (a.toNat, 5), (0x0, 7), (t.toNat, 8)])
  | .tidget a t => some (packFields [(0xD60, 12), (a.toNat, 5), (0x1, 7), (t.toNat, 8)])
  | .tidinv t => some (packFields [(0xD60002, 24), (t.toNat, 8)])
  | .atom d a f t la m gd => some (packFields [(0x6C, 7), (d.toNat, 6), (a.toNat, 6), (f.toNat, 3), (t.toNat, 3), (la.toNat, 1), (m.toNat, 1), (gd.n.toNat, 1), (gd.g.toNat, 4)])
  | .red d a f t la m gd => some (packFields [(0x6D, 7), (d.toNat, 6), (a.toNat, 6), (f.toNat, 3), (t.toNat, 3), (la.toNat, 1), (m.toNat, 1), (gd.n.toNat, 1), (gd.g.toNat, 4)])
  | .atoma d a f t la gd => some (packFields [(0x6E, 7), (d.toNat, 6), (a.toNat, 6), (f.toNat, 3), (t.toNat, 3), (la.toNat, 1), (0x0, 1), (gd.n.toNat, 1), (gd.g.toNat, 4)])
  | .fence o s => some (packFields [(0x378000, 22), (o.toNat, 3), (s.toNat, 4), (0x0, 3)])
  | .bsrd d r => some (packFields [(0x70, 7), (d.toNat, 5), (0x0, 12), (r.toNat, 4), (0x0, 4)])
  | .bswr a r => some (packFields [(0xE00, 12), (a.toNat, 5), (0x1, 7), (r.toNat, 4), (0x0, 4)])
  | .bsxch d a r => some (packFields [(0x70, 7), (d.toNat, 5), (a.toNat, 5), (0x2, 7), (r.toNat, 4), (0x0, 4)])
  | .bsadd d a r => some (packFields [(0x70, 7), (d.toNat, 5), (a.toNat, 5), (0x3, 7), (r.toNat, 4), (0x0, 4)])
  | .cpy s g => some (packFields [(0x71, 7), (s.toNat, 5), (0x0, 8), (g.toNat, 6), (0x0, 6)])
  | .cpyt s t g p r => some (packFields [(0x71, 7), (s.toNat, 5), (t.toNat, 8), (g.toNat, 6), (p.toNat, 2), (r.toNat, 1), (0x1, 3)])
  | .tgwait a => some (packFields [(0xE40, 12), (a.toNat, 5), (0x0, 15)])
  | .tgany a => some (packFields [(0xE40, 12), (a.toNat, 5), (0x80, 15)])
  | .tgfind d a => some (packFields [(0x72, 7), (d.toNat, 5), (a.toNat, 5), (0x100, 15)])
  | .tgclr a => some (packFields [(0xE40, 12), (a.toNat, 5), (0x180, 15)])
  | .tgtest d a e => some (packFields [(0x72, 7), (d.toNat, 5), (a.toNat, 5), (0x4, 8), (e.toNat, 1), (0x0, 6)])
  | .ridx d a b => some (packFields [(0x73, 7), (d.toNat, 5), (a.toNat, 5), (b.toNat, 5), (0x0, 10)])
  | .rwait a b f p c => some (packFields [(0xE60, 12), (a.toNat, 5), (b.toNat, 5), (0x1, 2), (f.toNat, 1), (p.toNat, 1), (c.toNat, 4), (0x0, 2)])
  | .rflip a b f p c => some (packFields [(0xE60, 12), (a.toNat, 5), (b.toNat, 5), (0x2, 2), (f.toNat, 1), (p.toNat, 1), (c.toNat, 4), (0x0, 2)])
  | .tacq d a t r k => some (packFields [(0x74, 7), (d.toNat, 5), (a.toNat, 5), (t.toNat, 6), (r.toNat, 2), (k.toNat, 1), (0x0, 6)])
  | .trel d a => some (packFields [(0x74, 7), (d.toNat, 5), (a.toNat, 5), (0x1, 15)])
  | .cede o => some (packFields [(0x3A00000, 26), (o.toNat, 2), (0x2, 4)])
  | .tstat d a => some (packFields [(0x74, 7), (d.toNat, 5), (a.toNat, 5), (0x3, 15)])
  | .mld d r c s gd => some (packFields [(0x75, 7), (d.toNat, 3), (r.toNat, 3), (c.toNat, 3), (0x0, 6), (s.toNat, 5), (gd.n.toNat, 1), (gd.g.toNat, 4)])
  | .mldA d r c s gd => some (packFields [(0x75, 7), (d.toNat, 3), (r.toNat, 3), (c.toNat, 3), (0x1, 6), (s.toNat, 5), (gd.n.toNat, 1), (gd.g.toNat, 4)])
  | .mst a s gd => some (packFields [(0x3A8, 10), (a.toNat, 3), (0x2, 9), (s.toNat, 5), (gd.n.toNat, 1), (gd.g.toNat, 4)])
  | .mstA a s gd => some (packFields [(0x3A8, 10), (a.toNat, 3), (0x3, 9), (s.toNat, 5), (gd.n.toNat, 1), (gd.g.toNat, 4)])
  | .mmov d a gd => some (packFields [(0x75, 7), (d.toNat, 3), (a.toNat, 3), (0x80, 14), (gd.n.toNat, 1), (gd.g.toNat, 4)])
  | .mget i a j v gd => some (packFields [(0x75, 7), (i.toNat, 3), (a.toNat, 3), (j.toNat, 3), (0x5, 6), (v.toNat, 5), (gd.n.toNat, 1), (gd.g.toNat, 4)])
  | .mset d i j v gd => some (packFields [(0x75, 7), (d.toNat, 3), (i.toNat, 3), (j.toNat, 3), (0x6, 6), (v.toNat, 5), (gd.n.toNat, 1), (gd.g.toNat, 4)])
  | .mzero d r c gd => some (packFields [(0x75, 7), (d.toNat, 3), (r.toNat, 3), (c.toNat, 3), (0xE0, 11), (gd.n.toNat, 1), (gd.g.toNat, 4)])
  | .mident d r c gd => some (packFields [(0x75, 7), (d.toNat, 3), (r.toNat, 3), (c.toNat, 3), (0x100, 11), (gd.n.toNat, 1), (gd.g.toNat, 4)])
  | .mtrn d a gd => some (packFields [(0x75, 7), (d.toNat, 3), (a.toNat, 3), (0x120, 14), (gd.n.toNat, 1), (gd.g.toNat, 4)])
  | .madd d a b gd => some (packFields [(0x76, 7), (d.toNat, 3), (a.toNat, 3), (b.toNat, 3), (0x0, 11), (gd.n.toNat, 1), (gd.g.toNat, 4)])
  | .msub d a b gd => some (packFields [(0x76, 7), (d.toNat, 3), (a.toNat, 3), (b.toNat, 3), (0x20, 11), (gd.n.toNat, 1), (gd.g.toNat, 4)])
  | .mscl d a v gd => some (packFields [(0x76, 7), (d.toNat, 3), (a.toNat, 3), (0x2, 9), (v.toNat, 5), (gd.n.toNat, 1), (gd.g.toNat, 4)])
  | .mmul d a b gd => some (packFields [(0x76, 7), (d.toNat, 3), (a.toNat, 3), (b.toNat, 3), (0x60, 11), (gd.n.toNat, 1), (gd.g.toNat, 4)])
  | .mmult d a b gd => some (packFields [(0x76, 7), (d.toNat, 3), (a.toNat, 3), (b.toNat, 3), (0x80, 11), (gd.n.toNat, 1), (gd.g.toNat, 4)])
  | .mfma d a b c gd => some (packFields [(0x76, 7), (d.toNat, 3), (a.toNat, 3), (b.toNat, 3), (0x14, 8), (c.toNat, 3), (gd.n.toNat, 1), (gd.g.toNat, 4)])
  | .mchol d a gd => some (packFields [(0x77, 7), (d.toNat, 3), (a.toNat, 3), (0x0, 14), (gd.n.toNat, 1), (gd.g.toNat, 4)])
  | .mlu d a v gd => some (packFields [(0x77, 7), (d.toNat, 3), (a.toNat, 3), (0x1, 9), (v.toNat, 5), (gd.n.toNat, 1), (gd.g.toNat, 4)])
  | .msolve d a b m gd => some (packFields [(0x77, 7), (d.toNat, 3), (a.toNat, 3), (b.toNat, 3), (0x10, 9), (m.toNat, 2), (gd.n.toNat, 1), (gd.g.toNat, 4)])
  | .mflg m k gd => some (packFields [(0xEE0, 12), (m.toNat, 4), (0x6, 7), (k.toNat, 4), (gd.n.toNat, 1), (gd.g.toNat, 4)])
  | .gcmd d a b => some (packFields [(0x78, 7), (d.toNat, 5), (a.toNat, 5), (b.toNat, 5), (0x0, 10)])
  | .grdy => some (packFields [(0xF0000001, 32)])
  | .gfence d => some (packFields [(0x78, 7), (d.toNat, 5), (0x2, 20)])
  | .gwait a => some (packFields [(0xF00, 12), (a.toNat, 5), (0x3, 15)])
  | .gwin a b => some (packFields [(0xF00, 12), (a.toNat, 5), (b.toNat, 5), (0x4, 10)])
  | .gctr d a => some (packFields [(0x78, 7), (d.toNat, 5), (a.toNat, 5), (0x5, 15)])
  | .gclr a => some (packFields [(0xF00, 12), (a.toNat, 5), (0x6, 15)])
  | .gqry d b => some (packFields [(0x78, 7), (d.toNat, 5), (0x0, 5), (b.toNat, 5), (0x7, 10)])
  | .vapp d a la m gd => some (packFields [(0x79, 7), (d.toNat, 6), (a.toNat, 6), (0x0, 6), (la.toNat, 1), (m.toNat, 1), (gd.n.toNat, 1), (gd.g.toNat, 4)])
  | .vseal d a la gd => some (packFields [(0x79, 7), (d.toNat, 6), (a.toNat, 6), (0x1, 6), (la.toNat, 1), (0x0, 1), (gd.n.toNat, 1), (gd.g.toNat, 4)])
  | .vconn d a la gd => some (packFields [(0x79, 7), (d.toNat, 6), (a.toNat, 6), (0x2, 6), (la.toNat, 1), (0x0, 1), (gd.n.toNat, 1), (gd.g.toNat, 4)])
  | .vmerge d a la gd => some (packFields [(0x79, 7), (d.toNat, 6), (a.toNat, 6), (0x3, 6), (la.toNat, 1), (0x0, 1), (gd.n.toNat, 1), (gd.g.toNat, 4)])
  | .vrwt d a la gd => some (packFields [(0x79, 7), (d.toNat, 6), (a.toNat, 6), (0x4, 6), (la.toNat, 1), (0x0, 1), (gd.n.toNat, 1), (gd.g.toNat, 4)])
  | .vget d a la gd => some (packFields [(0x79, 7), (d.toNat, 6), (a.toNat, 6), (0x5, 6), (la.toNat, 1), (0x0, 1), (gd.n.toNat, 1), (gd.g.toNat, 4)])
  | .vref d a la gd => some (packFields [(0x79, 7), (d.toNat, 6), (a.toNat, 6), (0x6, 6), (la.toNat, 1), (0x0, 1), (gd.n.toNat, 1), (gd.g.toNat, 4)])
  | .vrel d a la gd => some (packFields [(0x79, 7), (d.toNat, 6), (a.toNat, 6), (0x7, 6), (la.toNat, 1), (0x0, 1), (gd.n.toNat, 1), (gd.g.toNat, 4)])
  | .vgen d a la gd => some (packFields [(0x79, 7), (d.toNat, 6), (a.toNat, 6), (0x8, 6), (la.toNat, 1), (0x0, 1), (gd.n.toNat, 1), (gd.g.toNat, 4)])
  | .trace d a la m gd => some (packFields [(0x7A, 7), (d.toNat, 6), (a.toNat, 6), (0x0, 6), (la.toNat, 1), (m.toNat, 1), (gd.n.toNat, 1), (gd.g.toNat, 4)])
  | .traceAny d a la m gd => some (packFields [(0x7A, 7), (d.toNat, 6), (a.toNat, 6), (0x2, 6), (la.toNat, 1), (m.toNat, 1), (gd.n.toNat, 1), (gd.g.toNat, 4)])
  | .hitget d a la gd => some (packFields [(0x7A, 7), (d.toNat, 6), (a.toNat, 6), (0x1, 6), (la.toNat, 1), (0x0, 1), (gd.n.toNat, 1), (gd.g.toNat, 4)])
  | .trap c => some (packFields [(0x7B, 7), (c.toNat, 15), (0x0, 10)])
  | .tret => some (packFields [(0xF6000001, 32)])
  | .cclr a => some (packFields [(0xF60, 12), (a.toNat, 5), (0x2, 15)])
  | .resv d => some (packFields [(0x7B, 7), (d.toNat, 5), (0x3, 20)])
  | .lvq => some (packFields [(0xF6000004, 32)])
  | .lvqSeg => some (packFields [(0xF6000005, 32)])
  | .mark d a b => some (packFields [(0x7B, 7), (d.toNat, 5), (a.toNat, 5), (b.toNat, 5), (0x6, 10)])
  | .hctr d a => some (packFields [(0x7B, 7), (d.toNat, 5), (a.toNat, 5), (0x7, 15)])
  | .dbrk d a => some (packFields [(0x7B, 7), (d.toNat, 5), (a.toNat, 5), (0x8, 15)])
  | .himm p => some (packFields [(0x7F0, 11), (p.toNat, 21)])
  | .hold a b c => some (packFields [(0x7F1, 11), (a.toNat, 2), (b.toNat, 2), (c.toNat, 2), (0x0, 15)])
  | .hsrc v w s t => some (packFields [(0x7F2, 11), (v.toNat, 6), (w.toNat, 1), (s.toNat, 5), (t.toNat, 1), (0x0, 8)])
  | .hmod r f c p o s => some (packFields [(0x7F3, 11), (r.toNat, 3), (f.toNat, 1), (c.toNat, 2), (0x0, 1), (p.toNat, 2), (o.toNat, 3), (s.toNat, 4), (0x0, 5)])
  | .hfree a b c => some (packFields [(0x7F4, 11), (a.toNat, 7), (b.toNat, 7), (c.toNat, 7)])
  | .registerWrite _ _ _ => none
  | .freplyReplay _ _ => none
  | .freplyFatalXlate _ _ => none
  | .freplyFatalWprot _ _ => none
  | .freplyIgnored _ _ => none
  | .shootdownStart _ _ => none
  | .shootdownComplete _ => none
  | .firmwareDownload _ => none
  | .firmwareDownloadDone _ _ => none
  | .attestationRequest _ => none
  | .attestationReport => none
  | .partitionSwapOut _ => none
  | .partitionSwapIn _ => none
  | .partitionSwapDone _ => none
  | .hatchClear _ => none
  | .launchRingWordWrite _ _ _ => none
  | .modidWrite _ => none
  | .ptclWrite _ _ => none
  | .xrteWrite _ _ => none
  | .stippleEnable _ => none
  | .launchRecordTake _ _ => none
  | .blockPlacement _ _ _ => none
  | .launchCompletion _ => none
  | .blockEviction _ => none
  | .registerDeadlockBreak _ _ => none
  | .blockRestore _ _ => none
  | .blockMigration _ _ _ => none
  | .coreLeavesService _ => none
  | .forwardedArrival _ _ => none
  | .forwardingEntryExpiry _ _ => none
  | .taskRecordArrival _ => none
  | .overflowRecordEntry _ _ => none
  | .taskDispatch _ _ => none
  | .registerGrant _ _ => none
  | .wakeConditionMet _ => none
  | .barrierCompletion _ => none
  | .cohortBarrierCompletion _ _ => none
  | .napExpiry _ => none
  | .pageWalk _ _ _ _ => none
  | .faultBufferEntry _ => none
  | .faultRecordWrite _ => none
  | .tagCompletion _ _ => none
  | .loadReturn _ => none
  | .atomicRequestArrival _ _ => none
  | .atomicAcknowledgement _ _ => none
  | .replayAnswer _ _ => none
  | .retransmitTimeout _ _ => none
  | .linkCorrectableError _ _ => none
  | .sequenceWindowExpiry _ _ _ => none
  | .promotion _ => none
  | .tileRequestArrival _ => none
  | .recallArrival _ => none
  | .recallResend _ => none
  | .surrenderWaveStart _ => none
  | .surrenderBoundExpiry _ => none
  | .tileDelivery _ => none
  | .graverCommandStart _ _ => none
  | .graverCommandComplete _ _ => none
  | .graverCommandFault _ _ _ _ => none
  | .vertexRetirement _ _ => none
  | .traceCompletion _ _ => none
  | .handlerEntry _ => none
  | .fpWindowClose _ _ => none
  | .uncorrectableEccError _ => none
  | .quantumCountExpiry _ => none
  | .quantumBoundaryCommit _ => none
  | .notchSegmentRelease _ => none
  | .sample _ => none
  | .etchTs _ => none
  | .powerUp _ _ => none
  | .powerLimitThrottle _ => none
  | .thermalHalt _ => none
  | .failureRecovery _ _ _ => none
  | .fabricTrafficArrival _ => none
  | .hostCxlStore _ _ => none
  | .hostCxlRead _ _ => none
  | .nonInstructionEncoding _ => none
  | .storeArrivalAtHome _ _ => none
  | .storeAcknowledgement _ _ => none
  | .engineAccessError _ _ _ _ => none
  | .stippleResultReturn _ _ => none
  | .executiveEndsLaunch _ => none
  | .registerPoolRepair _ _ _ => none
  | .emptyIssueCycle _ _ => none
  | .instructionFetchReturn _ => none
  | .c0RequestAdmitted _ _ => none
  | .exvosLinkStateChange _ _ => none

/-- The word of an instruction; the all-zero word, which encodes no instruction (R33), for an event. -/
def encode (i : Instr) : Word := (encode? i).getD 0

/-- A word stored little-endian (R24): its four bytes, the first at the lowest address. -/
def wordBytes (w : Word) : List Byte := [w.extractLsb' 0 8, w.extractLsb' 8 8, w.extractLsb' 16 8, w.extractLsb' 24 8]

/-- The word that four bytes hold (R24). -/
def bytesWord (bs : List Byte) : Word :=
  BitVec.ofNat 32 (bs.foldr (fun b acc => b.toNat + 256 * acc) 0)

/-- Decoding at the head of a list of bytes: the instruction and the bytes after its word. -/
def decodeBytes (bs : List Byte) : Except DecodeError (Instr × List Byte) :=
  match decode (bytesWord (bs.take 4)) with
  | .ok i => .ok (i, bs.drop 4)
  | .error e => .error e

/-- The instruction the decoder reads from a word numbered as spec/opcode_table.json numbers it. -/
def decodeTableWord (nbits w : Nat) : Option Instr :=
  match decodeBytes (wordBytes (BitVec.ofNat 32 (w % 2 ^ nbits))) with
  | .ok (i, _) => some i
  | .error _ => none

end Sys2Proof
end

