-- ==== Sys2Proof/Machine/Issue.lean ====
section
/-! DEFINITION. What an issue slot does around a word: cycles (R5), readiness and the choice of an entity (R193, R194), comparators
(R409–R411), fetched state and fetching (R302), hint words (R34), and the Hatch and stall counters (R403, R406). -/
namespace Sys2Proof.Machine

/-! ### Entities of a quadrant -/

/-- The entities of a block with their waves. -/
def Block.entities (id : Nat) (b : Block) : List (EntRef × Wave × Entity) :=
  let of (slot : Nat) (w : Wave) : List (EntRef × Wave × Entity) :=
    ({ blk := id, slot := slot, frag := false }, w, w.parent) ::
      (match w.frag with
       | some f => [({ blk := id, slot := slot, frag := true }, w, f)]
       | none => [])
  (b.waves.flatMap fun p => of p.1 p.2) ++
    (match b.sur with
     | some (w, _) => of 16 w
     | none => [])

/-- The entities of a block that stand on its core: of an evicted or swapped one, its surrender wave alone (R150, R397). -/
def Block.here (id : Nat) (b : Block) : List (EntRef × Wave × Entity) :=
  if b.res = .resident then b.entities id else (b.entities id).filter fun x => x.1.slot = 16

/-- Does a halt of its block let an entity issue: within its skid (R385, R386); a handler unless its partition is being swapped out (R397);
the surrender wave always (R387)? -/
def Block.haltLets (b : Block) (r : EntRef) (w : Wave) (e : Entity) : Bool :=
  b.halt.isNone || decide (r.slot = 16) || (if w.saved.isSome then !b.swap || decide (e.skid < 4) else !b.frozen && decide (e.skid < 4))

/-- May an entity issue (R178, R193)? It waits for nothing, its quantum has not ended (R211), a halt lets it, its wave's collection
window is open (R390), its surrender bound is not reached (R152). -/
def State.ready (s : State) (b : Block) (r : EntRef) (w : Wave) (e : Entity) : Bool :=
  let own := w.saved.isSome || decide (r.slot = 16)
  e.wait.isNone && decide (e.napEnd = 0) && !e.stopped && !e.halted && decide (w.live ≠ 0) &&
    b.haltLets r w e &&
    (own || match b.level with
     | none => true
     | some lv => !e.qended && decide (e.qcount < b.qnt) && lv.waitKey.isNone && !lv.committing) &&
    (match w.window with
     | some f => decide (s.now < f.opened + 8)
     | none => true) &&
    (match b.sur with
     | some (_, q) => decide (r.slot ≠ 16) || decide (q.issued < b.bnd)
     | none => true)

/-- Lexicographic order of keys. -/
def lexLt : List Nat → List Nat → Bool
  | [], [] => false
  | [], _ => true
  | _, [] => false
  | a :: as, b :: bs => decide (a < b) || (decide (a = b) && lexLt as bs)

/-- Is the entity's next word fetched (R302, R301)? -/
def Entity.hasWord (e : Entity) : Bool :=
  e.fetched.any (fun p => p.1 = e.pc) || ((e.loop.map fun l => l.words.any fun p => p.1 = e.pc).getD false)

/-- What decides between ready entities (R193). An entity whose next word is not fetched is not ready: it is chosen only where no other is,
and then its word is fetched on demand (log 72). -/
def State.choiceKey (s : State) (b : Block) (r : EntRef) (e : Entity) : List Nat :=
  [if e.hasWord then 0 else 1, if r.slot = 16 then 0 else 1, (s.launch b.launch).prio, e.lastIssue, b.restored, r.slot, if r.frag then 1 else 0]

/-- The entity that a quadrant issues from, if one is ready (R193). -/
def State.select (s : State) (core quad : Nat) : Option EntRef :=
  let cands := s.blocks.flatMap fun p =>
    if p.2.core = core then
      (p.2.here p.1).filterMap fun x =>
        if p.2.quad x.1.slot = quad ∧ s.ready p.2 x.1 x.2.1 x.2.2 = true then some (s.choiceKey p.2 x.1 x.2.2, x.1) else none
    else []
  let best := cands.foldl (fun (acc : Option (List Nat × EntRef)) x => match acc with
    | none => some x
    | some y => if lexLt x.1 y.1 then some x else some y) none
  best.map (·.2)

/-! ### Cycles -/

/-- Does the wave run its handler? A handler that a fault has ended does not run (R391). -/
def Wave.inHandler (w : Wave) : Bool := w.saved.isSome && !w.parent.halted

/-- The stall class of an entity: the first that applies (Table 22.1), 1–8. -/
def stallClass (b : Block) (w : Wave) (e : Entity) : Nat :=
  if b.halt.isSome && !w.inHandler then 1 else
  match e.wait with
  | some (.parked _) => 1
  | some (.regs ..) | some .restore => 2
  | wait =>
  if e.stopped || e.qended then 3 else
  if e.napEnd ≠ 0 then 4 else
  match wait with
  | some (.parked _) | some (.regs ..) | some .restore => 2
  | some .bar | some (.cbar _) | some .arrive | some .boundary => 3
  | some (.ring ..) | some (.tags ..) | some (.hit _) | some (.idle _) | some (.batch _) | some (.gslot ..) | some (.copySlot ..)
  | some (.post ..) | some .graver => 4
  | some .data | some .promote | some .drain | some .arm | some .tile | some (.fold ..) | some .c0 | some (.route _) => 5
  | some .stipple | some .surrender => 6
  | none => if e.hasWord then 8 else 7

/-- The class in which a wave counts (R406): the first that applies to either entity; away from its core, that of the waits it was saved
with. -/
def Wave.stallNow (b : Block) (w : Wave) : Nat :=
  w.away.getD (match w.frag with
    | some f => min (stallClass b w w.parent) (stallClass b w f)
    | none => stallClass b w w.parent)

/-- A wave in a cycle in which it issues nothing (R406). -/
def Wave.stallOne (b : Block) (w : Wave) : Wave :=
  let c := w.stallNow b
  let n := (w.stall[c - 1]?.getD 0).toNat
  { w with stall := w.stall.setIfInBounds (c - 1) (BitVec.ofNat 32 (min (n + 1) 0xFFFFFFFF))
           stallSat := w.stallSat || decide (0xFFFFFFFF ≤ n + 1) }

/-! ### Blocking points -/

/-- Is an entity at a blocking point (R178)? One that a halt has stopped is (R388). -/
def State.blockingPoint (s : State) (b : Block) (r : EntRef) (e : Entity) : Bool :=
  match e.wait with
  | some .bar | some (.cbar _) | some (.ring ..) | some (.tags ..) | some (.hit _) | some (.regs ..) | some (.parked _)
  | some .boundary | some .restore => true
  | some .data => (s.core b.core).loads.any fun p => p.ent = r
  | _ => (b.isLevel && e.qended) || e.halted

/-- Is a wave of a block at a blocking point (R178)? -/
def State.waveBlocked (s : State) (id : Nat) (b : Block) (slot : Nat) (w : Wave) : Bool :=
  let p := s.blockingPoint b { blk := id, slot := slot, frag := false } w.parent
  match w.frag with
  | none => p
  | some f =>
    let q := s.blockingPoint b { blk := id, slot := slot, frag := true } f
    (p || w.parent.stopped) && (q || f.stopped) && (p || q)

/-- Is every wave of a block that has not exited at a blocking point (R179)? -/
def State.blockBlocked (s : State) (id : Nat) (b : Block) : Bool :=
  let live := b.waves.filter fun p => p.2.live ≠ 0
  !live.isEmpty && !((b.level.map (·.committing)).getD false) && live.all fun p => s.waveBlocked id b p.1 p.2

/-- Is a quadrant in register deadlock (R180)? -/
def State.quadStuck (s : State) (core quad : Nat) : Bool :=
  let es := s.blocks.flatMap fun p =>
    if p.2.core = core then
      (p.2.here p.1).filterMap fun x => if p.2.quad x.1.slot = quad then some (p.2, x.1, x.2.2) else none
    else []
  let waits (e : Entity) : Bool := match e.wait with
    | some (.regs ..) => true
    | _ => false
  es.any (fun x => waits x.2.2) && es.all fun x => x.2.2.stopped || s.blockingPoint x.1 x.2.1 x.2.2

/-- Blocks all of whose waves are at blocking points, and quadrants in register deadlock, keep the cycle since which they are so. -/
def State.noteBlocked (s : State) : State :=
  let since (now : Bool) (old : Option Nat) : Option Nat := if now then some (old.getD s.now) else none
  { s with
    blocks := s.blocks.map fun p => (p.1, { p.2 with blockedSince := since (s.blockBlocked p.1 p.2) p.2.blockedSince })
    cores := s.cores.map fun c => (c.1, { c.2 with
      stuckAt := Vector.ofFn fun (q : Fin 4) => since (s.quadStuck c.1 q.val) c.2.stuckAt[q] }) }

/-! ### Counting a cycle -/

/-- The guard's truth over `xm`; a word without a guard is true in all of it (R29). -/
def guardMask (w : Wave) (e : Entity) (i : Instr) : Mask :=
  match (shape i).guard with
  | none => e.xm
  | some gd =>
    if h : gd.g.toNat < 12 then (if gd.n then e.xm &&& ~~~ w.k[gd.g.toNat] else e.xm &&& w.k[gd.g.toNat]) else e.xm

/-- The five classes of the lane positions of an issued word (R403). -/
def laneClasses (w : Wave) (e : Entity) (i : Instr) : List Nat :=
  let g := guardMask w e i
  [maskCount g, maskCount (w.live &&& ~~~ e.xm), maskCount (e.xm &&& ~~~ g), maskCount (~~~ w.present), maskCount w.exited]

/-- The Hatch counters count a word in every bin that holds its address (R403, R404). -/
def State.hatchCount (s : State) (core : Nat) (pc : Dword) (ns : List Nat) : State :=
  if (s.core core).dbg.hctlEn = false then s else
  s.modCore core fun c =>
    { c with hatch := (List.range 16).foldl (fun h b =>
        if (c.dbg.hbase[b]?.getD 0).toNat ≤ pc.toNat ∧ pc.toNat < (c.dbg.hlim[b]?.getD 0).toNat then
          ns.zipIdx.foldl (fun h p =>
            let old := (tgetD h (5 * b + p.2) 0#48).toNat
            tset h (5 * b + p.2) (BitVec.ofNat 48 (min (old + p.1) (2 ^ 48 - 1)))) h
        else h) c.hatch }

/-- The end of a cycle: its words are counted, and 32 positions of each quadrant that issued none (R403, R404; a clear of the cycle came
before, R405); every wave that issued none counts a stall (R406); the packets of its words enter their streams (R414). -/
def State.endCycle (s : State) : State :=
  let words := s.used.filterMap (·.word)
  let issued (core quad : Nat) : Bool := s.used.any fun u => decide (u.core = core) && decide (u.quad = quad) && u.word.isSome
  let wave (id : Nat) (b : Block) (q : Nat × Wave) : Nat × Wave :=
    if words.any fun x => decide (x.ent.blk = id) && decide (x.ent.slot = q.1) then q else (q.1, q.2.stallOne b)
  let empty (c : Nat × Core) : Nat × Core :=
    if c.2.dbg.hctlEn then
      let n := 32 * ((List.range 4).countP fun q => !issued c.1 q)
      let old := (tgetD c.2.hatch 80 0#48).toNat
      (c.1, { c.2 with hatch := tset c.2.hatch 80 (BitVec.ofNat 48 (min (old + n) (2 ^ 48 - 1))) })
    else c
  let s := s.used.foldl (fun s u => match u.word with
    | some x => s.hatchCount u.core x.pc x.lanes
    | none => s) s
  let s : State :=
    { s with blocks := s.blocks.map fun p => (p.1, { p.2 with waves := p.2.waves.map (wave p.1 p.2) }), cores := s.cores.map empty }
  ((s.cores.map (·.1)).foldl (fun s c => s.etchFlush c) s).noteBlocked

/-- A quadrant's slot: in the present cycle if it is unused in it, else in the next one (R5, R193; log 3). -/
def State.openSlot (s : State) (core quad : Nat) : State :=
  if s.used.any fun u => decide (u.core = core) && decide (u.quad = quad) then { s.endCycle with now := s.now + 1, used := [] } else s

/-- An entity's word takes a slot. Its block is at no blocking point then, nor its quadrant in deadlock (R180, R195). -/
def State.useSlot (s : State) (core quad : Nat) (x : Issued) : State :=
  let s : State := { s with used := s.used ++ [{ core := core, quad := quad, word := some x }] }
  (s.modCore core fun c => { c with stuckAt := c.stuckAt.setIfInBounds quad none }).modBlock x.ent.blk fun b =>
    { b with blockedSince := none }

/-! ### Fetching -/

/-- What a fetch brings: a word, the cause XLATE, or a parked fault. -/
inductive Fetch where
  | word (w : Word)
  | xlate
  | fault (p : Parked)

/-- Who parks an access of a wave, and with which key (R90, R91). -/
def State.parkedBy (s : State) (b : Block) (r : EntRef) (lanes : Mask) (va : Dword) (acc : AccKind) (kind lvl : Nat)
    (pte : Dword) : Parked :=
  let l := s.launch b.launch
  { by_ := .wave r, lanes := lanes, asid := l.asid, va := va, kind := kind, acc := acc, level := lvl, pte := pte
    core := b.core, who := s.wid b r.slot, lid := l.lid }

/-- The word at an address for an entity: from its captured loop, from what it has prefetched, or from the instruction cache
(R301, R302, R63). -/
def State.fetchWord (s : State) (b : Block) (r : EntRef) (e : Entity) (pc : Dword) : Fetch × State :=
  let kept := match e.loop.bind fun lb => lb.words.find? fun p => p.1 = pc with
    | some p => some p.2
    | none => (e.fetched.find? fun p => p.1 = pc).map (·.2)
  match kept with
  | some w => (.word w, s)
  | none =>
    match s.translate b.core (s.launch b.launch).asid pc .fetch with
    | (.ok pa st _, s) => let (w, s) := s.l1iFetch b.core pa st; (.word w, s)
    | (.xlate, s) => (.xlate, s)
    | (.fault k l p, s) => (.fault (s.parkedBy b r e.xm pc .fetch k l p), s)

/-- A fetched word is fetched state; one of the loop that the entity captures enters its loop buffer (R301, R302). -/
def Entity.capture (e : Entity) (pc : Dword) (w : Word) : Entity :=
  let e := if e.fetched.any (fun p => p.1 = pc) then e else { e with fetched := e.fetched ++ [(pc, w)] }
  match e.loop with
  | none => e
  | some lb =>
    if lb.words.any (fun p => p.1 = pc) then e else { e with loop := some { lb with words := lb.words ++ [(pc, w)] } }

/-- Changes an entity of the machine. -/
def State.modEntity (s : State) (r : EntRef) (f : Entity → Entity) : State :=
  s.modBlock r.blk fun b => match b.wave r.slot with
    | none => b
    | some w => match w.entity r.frag with
      | none => b
      | some e => b.setWave r.slot (w.setEntity r.frag (f e))

/-- Changes a wave. -/
def State.modWave (s : State) (blk slot : Nat) (f : Wave → Wave) : State :=
  s.modBlock blk fun b => match b.wave slot with
    | none => b
    | some w => b.setWave slot (f w)

/-- An entity that waits for a parked access, at its group (R90). -/
def Entity.parkAt (e : Entity) (plate : Nat) : Entity := { e with pc := e.resumeAt, hints := [], wait := some (.parked plate) }

/-! ### Comparators -/

/-- Is the word a hint? -/
def isHint (i : Instr) : Bool :=
  match i with
  | .himm .. | .hold .. | .hsrc .. | .hmod .. | .hfree .. => true
  | _ => false

/-- The addresses of the words of the group that begins at `pc`, looking at most three words ahead. -/
def State.groupAt (s : State) (b : Block) (r : EntRef) (e : Entity) (pc : Dword) : Nat → List Dword
  | 0 => [pc]
  | n + 1 =>
    match s.fetchWord b r e pc with
    | (.word w, _) =>
      match decode w with
      | .ok i => if isHint i then pc :: s.groupAt b r e (pc + 4) n else [pc]
      | .error _ => [pc]
    | _ => [pc]

/-- The PC comparator that matches a group, if one does (R409). -/
def State.pcMatch (s : State) (b : Block) (r : EntRef) (w : Wave) (addrs : List Dword) : Option Nat :=
  let d := (s.core b.core).dbg
  if d.pcen && w.saved.isNone && decide (r.slot ≠ 16) then
    (List.range 8).find? fun n =>
      let pcc := d.pcc[n]?.getD 0
      natBit pcc.toNat 0 && addrs.any (fun a => a.toNat % 2 ^ 57 / 4 = pcc.toNat % 2 ^ 57 / 4) &&
        natBit (d.pcr[n]?.getD 0).toNat (s.launch b.launch).ring && natBit (d.pcw[n]?.getD 0).toNat r.slot
  else none

/-- The settings of a core's conditional comparators: for 4 cycles after a `DBRK` the old or the new one (R417). -/
def State.settings (s : State) (core : Nat) : List (Option Comparator) × State :=
  (List.range 4).foldl (fun (r : List (Option Comparator) × State) n =>
    let c := r.2.core core
    let new := (c.comps[n]?).getD none
    let old := (c.compsOld[n]?).getD (0, none)
    if r.2.now < old.1 + 4 ∧ old.2 ≠ new then
      let (v, s) := r.2.takeFree
      (r.1 ++ [if v.getLsbD 0 then old.2 else new], s)
    else (r.1 ++ [new], r.2)) ([], s)

/-- The conditional comparators whose conditions hold (R410). -/
def condMatch (comps : List (Option Comparator)) (r : EntRef) (w : Wave) (e : Entity) : List Nat :=
  if w.saved.isSome || decide (r.slot = 16) then [] else
  (List.range 4).filter fun n =>
    match comps.getD n none with
    | none => false
    | some k =>
      decide (k.blk = r.blk) && k.wmask.getLsbD r.slot &&
        (if k.sreg then relation k.cc (w.s[k.reg]?.getD 0) (k.imm.signExtend 64)
         else
          let v := readV w k.reg
          let hold (l : Fin 32) : Bool := relation k.cc v[l] k.imm
          if k.all then decide (e.xm ≠ 0) && (lanesIn e.xm).all hold else (lanesIn e.xm).any hold)

/-- Comparators that match before a group issues raise BRKPT and CONDBRK (R409–R411); true when one matched. Every conditional one whose
condition holds disarms; DESIGN CHOICE (log 85): of several, `dbhit` names the lowest. -/
def State.breakpoint (s : State) (b : Block) (r : EntRef) (w : Wave) (e : Entity) : Bool × State :=
  if e.stepOver || !e.hints.isEmpty then (false, s) else
  let pc := s.pcMatch b r w (s.groupAt b r e e.pc 3)
  let (comps, s) := s.settings b.core
  let cd := condMatch comps r w e
  let hit (n kind : Nat) (s : State) : State :=
    s.modWave r.blk r.slot fun w => { w with dbhit := BitVec.ofNat 64 (n + 8 * kind + 16) }
  let disarm (ns : List Nat) (s : State) : State := s.modCore b.core fun c => ns.foldl (fun c n =>
    { c with comps := c.comps.setIfInBounds n none, compsOld := c.compsOld.setIfInBounds n (0, none) }) c
  match pc, cd with
  | none, [] => (false, s)
  | some n, [] => (true, (hit n 0 s).raise r { bits := causeBit cBRKPT } e.pc e.pc)
  | none, n :: ns => (true, (disarm (n :: ns) (hit n 1 s)).raise r { bits := causeBit cCONDBRK } e.pc e.pc)
  | some n, ms => (true, (disarm ms (hit n 0 s)).raise r { bits := causeBit cBRKPT ||| causeBit cCONDBRK } e.pc e.pc)

/-! ### The word an entity issues -/

/-- What a slot comes to: a state with nothing left to execute, an instruction to execute, or a word that encodes none (R33). -/
inductive Issue where
  | done (s : State)
  | word (s : State) (i : Instr)
  | bad (s : State) (w : Word)

/-- The word that an entity issues in the present cycle: comparators first, then its fetch; only a word takes the slot. What its access
follows in the memory order of block-shared registers shows. -/
def State.issueWord (s : State) (core quad : Nat) (r : EntRef) : Issue :=
  match tget s.blocks r.blk with
  | none => .done s
  | some b =>
    match b.wave r.slot with
    | none => .done s
    | some w =>
      match w.entity r.frag with
      | none => .done s
      | some e =>
        match s.breakpoint b r w e with
        | (true, s) => .done s
        | (false, s) =>
          match s.fetchWord b r e e.pc with
          | (.xlate, s) => .done (s.raise r { bits := causeBit cXLATE } e.resumeAt e.resumeAt)
          | (.fault p, s) => .done ((s.park (corePlate core) p).modEntity r fun e => e.parkAt (corePlate core))
          | (.word x, s) =>
            let s := s.modEntity r fun e => { e.capture e.pc x with lastIssue := s.now, issued := some (s.now, e.resumeAt) }
            let use (i : Instr) : State :=
              { (s.modBlock r.blk fun b => b.bregShow r.slot i (modsOf e.hints).ord.toNat).useSlot core quad { ent := r, pc := e.pc, lanes := laneClasses w e i, last := e.lastIssue, issued := e.issued } with
                cur := r }
            match decode x with
            | .ok i => .word (use i) i
            | .error _ => .bad (use .isync) x

/-- The word a quadrant issues, or none when no entity is ready. -/
def State.issueSlot (s : State) (core quad : Nat) : Option Issue :=
  let s := s.openSlot core quad
  (s.select core quad).map fun r => s.issueWord core quad r

/-! ### A program placed from outside -/

/-- The addresses at which a program is placed (log 1): its virtual page, and in the module's own DRAM the memory behind it and the four
tables that map the page. -/
def progVa : Nat := 0x10000
def progPa : Nat := 0x200000
def progTables : Nat := 0x1000000

/-- The tables that map the program's page (R81): one entry at each level, the last a leaf that may be fetched and has been accessed. -/
def State.placeTables (s : State) : State :=
  let at_ (n : Nat) : Nat := s.ownModule * 2 ^ 46 + progTables + n * 4096
  let link (s : State) (n : Nat) (pte : Nat) : State :=
    { s with mem := memWrite s.mem (at_ n + 8 * vaIndex progVa (3 - n)) (leBytes pte 8) }
  let s := link (link (link (link s 0 (at_ 1 + 1)) 1 (at_ 2 + 1)) 2 (at_ 3 + 1)) 3 (s.ownModule * 2 ^ 46 + progPa + 0x63)
  s.modHub fun h =>
    { h with asroot := tset h.asroot 0 (BitVec.ofNat 64 (at_ 0 + 1))
             plates := h.plates.map fun p => { p with walker := p.walker.filter fun e => !e.covers 0 progVa } }

/-- A launch of one block of one wave, alone on the quadrant in focus, whose program counter stands at bytes in memory (log 1). -/
def State.placeProgram (s : State) (bytes : List Byte) : State :=
  let core := s.focus.1
  let l : Launch := { ring := 64, kd := { entry := BitVec.ofNat 64 progVa }, nextBlk := 1 }
  let wave : Wave := { parent := { pc := BitVec.ofNat 64 progVa, xm := 0xFFFFFFFF, arm := 0xFFFFFFFF } }
  let b : Block := { launch := s.nextLaunch, core := core, q0 := s.focus.2, placed := s.nextPlace, restored := s.nextPlace, waves := [(0, wave)] }
  let pa := s.ownModule * 2 ^ 46 + progPa
  let leaf := s.ownModule * 2 ^ 46 + progTables + 3 * 4096 + 8 * vaIndex progVa 0
  let page : TlbEntry := { asid := 0, va := progVa, pa := pa, bits := 12, st := .normal, w := false, x := true, d := false, ts := 0, leaf := leaf }
  let s := s.placeTables
  { s with
    agenda := [], blocks := [(s.nextBlock, b)], nextBlock := s.nextBlock + 1, nextPlace := s.nextPlace + 1
    launches := tset s.launches s.nextLaunch l, nextLaunch := s.nextLaunch + 1
    mem := memWrite s.mem pa bytes
    cores := tset s.cores core { s.core core with l1i := [], tlb := page :: (s.core core).tlb.filter fun t => !t.covers 0 progVa } }

/-! ### Hint words -/

/-- The kind of a hint (R37). -/
def hintKind (i : Instr) : Nat :=
  match i with
  | .himm .. => 0 | .hold .. => 1 | .hsrc .. => 2 | .hmod .. => 3 | _ => 4

/-- May a hint follow those of its group (R34)? -/
def hintFits (hs : List Instr) (i : Instr) : Bool :=
  decide (hs.length < 3) &&
    decide ((hs.filter fun h => hintKind h = hintKind i).length < (if hintKind i = 0 then 2 else 1))

/-- A hint word: it joins the entity's group, or traps ILLOP at its word (R33, R34). -/
def runHint (i : Instr) (s : State) : Host.Outcome State Fault Refusal :=
  match s.issuer i with
  | none => .refused .noIssuer
  | some c =>
    if fieldsOk i && hintFits c.e.hints i then
      .next { c with e := { c.e with
        gpc := if c.e.hints.isEmpty then c.e.pc else c.e.gpc, hints := c.e.hints ++ [i], pc := c.npc
        fetched := c.e.fetched.filter fun p => p.1 ≠ c.e.pc } }.put
    else .next (c.put.raise c.r { bits := causeBit cILLOP } c.gpc c.npc)

end Sys2Proof.Machine
end

