-- ==== Sys2Proof/Machine/Wake.lean ====
section
/-! DEFINITION. When a waiting entity may go on (R178), which waiting entity receives freed entries (R177), and when barriers complete
(R293–R295). -/
namespace Sys2Proof.Machine

/-! ### Room in task shards (R203) -/

/-- The slots of a core's shard from its next index on that are free, the records held for it, and those on their way to it. -/
def State.shardFree (s : State) (core : Nat) : Nat :=
  let c := s.core core
  let size := s.shardSize core
  ((List.range size).takeWhile fun j => !(c.shard.any fun r => r.idx % size = (c.shardCount + j) % size)).length
def State.shardHeld (s : State) (core : Nat) : Nat :=
  ((s.partOf core).map fun p => ((s.part p).held.filter fun h => h.2.2.core = s.ownModule * 512 + core).length).getD 0
def State.shardComing (s : State) (core : Nat) : Nat := (s.records.filter fun r => r.core = s.ownModule * 512 + core).length

/-- Of the records on their way to a core's shard, with n more, those that it has no room for behind the held ones. -/
def State.shardExcess (s : State) (core n : Nat) : Nat := s.shardComing core + n - (s.shardFree core - s.shardHeld core)

/-- The slots of a partition's overflow ring that can take a record now (R143, R203), up to a number. -/
def State.overflowRoom (s : State) (part n : Nat) : Nat :=
  let p := s.part part
  if ringEnabled p.ptovf = false then 0 else
  ((List.range (min n (2 ^ ringK p.ptovf))).takeWhile fun j =>
    let i := p.ovfProd + BitVec.ofNat 32 j
    ringMayFill p.ptovf i.toNat (p.ovfWrap || decide (i.toNat < p.ovfProd.toNat)) (leNat (s.readHome (ringSlot p.ptovf i.toNat) 8))).length

/-- May records leave their `POST`, given their numbers by core (R203)? Each shard takes what it has room for, the overflow ring of a
partition the rest; those for another module travel to it. -/
def State.mayPost (s : State) (recs : List (Nat × Nat)) : Bool :=
  let mine (k : Nat) : Nat := ((recs.filter fun x => x.1 = s.ownModule * 512 + k).map (·.2)).sum
  let cores := (((recs.map (·.1)) ++ s.records.map (·.core)).filter fun c => c / 512 = s.ownModule).map (· % 512)
  let cores := cores.eraseDups
  (cores.all fun k => decide (s.shardExcess k (mine k) = s.shardExcess k 0) || (s.partOf k).isSome) &&
    (List.range 8).all fun p =>
      let here := cores.filter fun k => s.partOf k = some p
      let need := (here.map fun k => s.shardExcess k (mine k)).sum
      decide (need = (here.map fun k => s.shardExcess k 0).sum) || decide (need ≤ s.overflowRoom p need)

/-! ### Wake conditions -/

/-- Does a wait of an entity end now (R178, and the stalls)? Waits for results end with their events. In Level mode an `RWAIT` on an A ring
looks at the condition itself (R214). -/
def State.wakes (s : State) (b : Block) (r : EntRef) (w : Wave) (e : Entity) : Bool :=
  match e.wait with
  | some (.ring true pa seen _ _) =>
    decide (dwordOf (s.readHome pa 8) ≠ seen) || decide (dwordOf (s.l1View b.core pa) ≠ seen)
  | some (.ring false off seen want _) =>
    let v := dwordOf (s.bufRead b.core 3 (b.aslice.base + off) 8)
    if b.isLevel && decide (r.slot ≠ 16) && w.saved.isNone then decide (v = want) else decide (v ≠ seen)
  | some (.tags m any) => if any then decide (b.tgb &&& m ≠ 0) else decide (b.tgb &&& m = m)
  | some (.hit t) => ((b.tags[t]?).getD {}).ready
  | some (.idle m) => b.tags.zipIdx.all fun t => !m.getLsbD t.2 || decide (t.1.pending = 0)
  | some (.batch n) => decide ((w.grav.gbat - w.grav.last).toNat ≤ (w.grav.gbat - n).toNat)
  | some (.gslot off seen) => decide (dwordOf (s.bufRead b.core 3 (b.aslice.base + off) 8) ≠ seen)
  | some (.copySlot t copy) =>
    decide (((b.tags[t]?).getD {}).pending < 255) && (!copy || decide ((s.core b.core).copies.length < 128))
  | some (.post recs) => s.mayPost recs
  | some .drain | some .arrive => !s.outstanding b.core r.blk r.slot
  | some .arm =>
    let other : EntRef := { r with frag := !r.frag }
    !((s.core b.core).loads.any fun p => p.ent = other) && !((s.core b.core).atoms.any fun q => q.ent = other && q.dst.isSome) &&
      !((s.core b.core).stip.any fun p => p.ent = other)
  | some (.fold pa size) => !s.foldDue pa size
  | some .c0 => s.admits b.core
  | some (.route _) => true
  | some .graver => !w.grav.queue.any (!·.done)
  | some .surrender => b.sur.isNone
  | some .restore =>
    match w.saved with
    | some k => s.contextFits b.core (b.quad r.slot) r w.floor (mapFootprint k.v k.m)
    | none => true
  | _ => false

/-- In Level mode logical waits end only at a boundary, and the others not before the boundary of the quantum that they ended (R214). -/
def State.mayWake (s : State) (b : Block) (r : EntRef) (w : Wave) (e : Entity) : Bool :=
  let logical := (e.wait.map Wait.logical).getD false
  s.wakes b r w e && (!b.isLevel || decide (r.slot = 16) || w.saved.isSome || (!logical && !e.qended))

/-- May an entity of an evicted block go on, so that the block is restorable (R196)? -/
def State.restorable (s : State) (id : Nat) (b : Block) : Bool :=
  (b.halt.isSome && !b.handling && !b.reported && b.firstPending.isSome) ||
  (b.entities id).any fun x =>
    decide (x.1.slot ≠ 16) && decide (x.2.1.live ≠ 0) && !x.2.2.stopped && !x.2.2.halted && decide (x.2.2.napEnd = 0) &&
      (match x.2.2.wait with
       | none => !(b.isLevel && x.2.2.qended)
       | some (.regs ..) | some (.parked _) => true
       | some _ => s.mayWake b x.1 x.2.1 x.2.2)

/-! ### Grants of entries -/

/-- The register wait of an entity: the entries, and since when. -/
def Entity.regWait (e : Entity) : Option (Nat × Nat) :=
  match e.wait with
  | some (.regs n since) => some (n, since)
  | _ => none

/-- The entities of a quadrant in register wait, each with its wave, the entries that it waits for, and its age (R177): its block's
placement, its `wslot`, and since when it has waited. -/
def State.waiters (s : State) (core quad : Nat) : List (List Nat × EntRef × Wave × Nat) :=
  s.blocks.flatMap fun p =>
    if p.2.core = core then
      (p.2.here p.1).filterMap fun x =>
        if p.2.quad x.1.slot = quad then
          x.2.2.regWait.map fun n => ([p.2.placed, x.1.slot, n.2, if x.1.frag then 1 else 0], x.1, x.2.1, n.1)
        else none
    else []

/-- The first of a list by its keys. -/
def firstByKey {α : Type} (xs : List (List Nat × α)) : Option α :=
  (xs.foldl (fun (acc : Option (List Nat × α)) x => match acc with
    | none => some x
    | some y => if lexLt x.1 y.1 then some x else some y) none).map (·.2)

/-- The entity of a quadrant that is served first (R177): the surrender wave, then of the oldest wave the one that has waited longest. -/
def State.firstWaiter (s : State) (core quad : Nat) : Option (EntRef × Wave × Nat) :=
  firstByKey ((s.waiters core quad).map fun x => ((if x.2.1.slot = 16 then 0 else 1) :: x.1, x.2))

/-- Grants freed entries to the entity that is served first, if they suffice. -/
def State.grantEntries (s : State) (core quad : Nat) : Option State :=
  (s.firstWaiter core quad).bind fun x =>
    let need := x.2.1.footprint + x.2.1.parent.grant + ((x.2.1.frag.map (·.grant)).getD 0) + x.2.2 - x.2.1.floor
    if need ≤ s.remainder core quad x.1.blk x.1.slot then
      some (s.modEntity x.1 fun e => { e with wait := none, grant := x.2.2 })
    else none

end Sys2Proof.Machine
end

