-- ==== Sys2Proof/Machine/Schedule.lean ====
section
/-! DEFINITION. The launch distributor (R181–R192, R203, R207): records, checks, the order of placement, tasks and their dispatch, and how
blocks and launches end. -/
namespace Sys2Proof.Machine

/-! ### Checks of a launch -/

/-- Why a check of the distributor ends: a status with a failing block, or a parked access. -/
inductive Check where
  | refuse (status : Nat) (failing : Word)
  | park (e : EngStop)

/-- A check that reads through the launch's address space. -/
abbrev CheckM := ExceptT Check (StateM State)

def noBlock : Word := 0xFFFFFFFF

def checkRead (asid : BitVec 9) (va : Dword) (n : Nat) : CheckM (List Byte) := ExceptT.mk fun s =>
  match s.hubRead asid va n with
  | (.ok bs, s) => (.ok bs, s)
  | (.error .xlate, s) => (.error (.refuse 0x28 noBlock), s)
  | (.error e, s) => (.error (.park e), s)

/-- Refuses unless a condition holds. -/
def require (ok : Bool) (status : Nat) (failing : Word) : CheckM Unit := if ok then pure () else throw (.refuse status failing)

/-- The chosen variant (R186): the first of the signature, else the first of any partition. -/
def chooseVariant (asid : BitVec 9) (sig : Dword) : List Dword → Option Kd → CheckM Kd
  | [], any => match any with
    | some k => pure k
    | none => throw (.refuse 0x2A noBlock)
  | va :: rest, any => do
    let k := kdOf (← checkRead asid va 256)
    if k.sig = sig then pure k
    else chooseVariant asid sig rest (if any.isNone ∧ k.sig = BitVec.allOnes 64 then some k else any)

/-- The candidates of a descriptor's variant table. -/
def variantsOf (asid : BitVec 9) (va : Dword) (k : Kd) : CheckM (List Dword) :=
  if k.vtab = 0 then pure [va] else do
    let t ← checkRead asid k.vtab 64
    let vs := ((List.range 8).map fun i => dwordOf ((t.drop (8 * i)).take 8)).takeWhile fun (v : Dword) => decide (v ≠ 0)
    require (vs.all fun v => decide (v.toNat % 256 = 0)) 0x28 noBlock
    pure vs

/-- The checks of a launch (R182–R187), and what they find: its descriptor and its cohort list. -/
def launchChecks (x : Launch) (p : Partition) : CheckM (Kd × List CohortEntry) := do
  require (decide (p.ptcl ≠ 0)) 0x29 0
  require (decide (x.kdva.toNat % 256 = 0) && decide (x.done.toNat % 16 = 0)) 0x28 noBlock
  let k := kdOf (← checkRead x.asid x.kdva 256)
  let _ ← checkRead x.asid x.args 1
  if x.done ≠ 0 then let _ ← checkRead x.asid x.done 16
  if x.prof ≠ 0 then let _ ← checkRead x.asid x.prof 1
  let vs ← variantsOf x.asid x.kdva k
  let k ← chooseVariant x.asid p.ptsig vs none
  require (!k.malformed false) 0x28 noBlock
  let cs ← if k.ncoh = 0 then pure [] else do
    let bs ← checkRead x.asid k.cohl (16 * k.ncoh)
    pure ((List.range k.ncoh).map fun i => cohortOf ((bs.drop (16 * i)).take 16))
  require (!cs.any fun c => c.malformed k.nblk) 0x28 noBlock
  match lowestWhere cs fun b => decide (4 < (cohortsAt cs b).length) with
  | some b => throw (.refuse 0x2B (BitVec.ofNat 32 b))
  | none => pure ()
  match lowestWhere cs (pinsConflict cs p.ptcl) with
  | some b => throw (.refuse 0x2C (BitVec.ofNat 32 b))
  | none => pure ()
  pure (k, cs)

/-- The bytes of a launch's variant table as the Executive digests them (R426): the table and each descriptor that it names, or the lone
descriptor. -/
def variantBytes (x : Launch) : CheckM (List Byte) := do
  let kd ← checkRead x.asid x.kdva 256
  let k := kdOf kd
  if k.vtab = 0 then pure kd else do
    let t ← checkRead x.asid k.vtab 64
    let vs ← variantsOf x.asid x.kdva k
    let ks ← vs.mapM fun va => checkRead x.asid va 256
    pure (t ++ ks.flatten)

/-- An accepted launch's variant table enters the list of accepted tables, once (R426). -/
def State.noteVariant (s : State) (x : Launch) : State :=
  match (variantBytes x).run.run s with
  | (.ok bs, s) => s.modHub fun h => if h.variants.contains bs then h else { h with variants := h.variants ++ [bs] }
  | (.error _, s) => s

/-- A launch is checked: it is ready for placement, refused, or parked (R182). -/
def State.checkLaunch (s : State) (l : Nat) : State :=
  let x := s.launch l
  match (launchChecks x (s.part x.part)).run.run s with
  | (.ok (k, cs), s) =>
    (s.noteVariant x).modLaunch l fun x => { x with ready := true, kd := k, cohorts := cs, prio := if x.prio ≤ 3 then x.prio else k.prio }
  | (.error (.refuse st b), s) => s.refuseLaunch l st b
  | (.error (.park e), s) =>
    match distributorParked (.distributor l) x.part x.ring x.asid x.lid e with
    | some p => s.park 0 p
    | none => s

/-- A launch record (Table 8.1). -/
def launchOf (part ring : Nat) (r : LaunchRing) (prev : Option Nat) (bytes : List Byte) : Launch :=
  let n := leNat bytes
  let d (at_ : Nat) : Dword := BitVec.ofNat 64 (natBits n (8 * at_ + 63) (8 * at_))
  { part := part, ring := ring, index := r.cons.toNat, prev := if r.cons = 0 ∧ r.wrap = false then none else prev
    kdva := d 8, args := d 16, done := d 24, dval := d 32, prof := d 40
    asid := BitVec.ofNat 9 (part * 64 + natBits n 389 384), prio := natBits n 399 392
    after := natBit n 400, etch := natBit n 401, lid := BitVec.ofNat 32 (natBits n 447 416) }

/-- The last launch taken from a ring. -/
def State.lastOf (s : State) (part ring : Nat) : Option Nat :=
  s.launches.foldl (fun acc p => if p.2.part = part ∧ p.2.ring = ring then some p.1 else acc) none

/-- The distributor takes a record: it reads the full slot, frees it, and checks the launch (R181, R182). -/
def State.takeRecord (s : State) (part ring : Nat) : Option State :=
  (tget (s.part part).rings ring).bind fun r =>
    if ringEnabled r.word = false ∨ ringZ r.word ≠ 0 then none else
    let a := ringSlot r.word r.cons.toNat
    let ph := ringPhase r.word r.cons.toNat
    if leNat (s.readHome a 8) ≠ ph then none else
    let x := launchOf part ring r (s.lastOf part ring) (s.readHome a 64)
    let s := s.writeHome a (leBytes (2 + ph) 8)
    let n := ringNext r.cons r.wrap
    let s := s.modPart part fun p => { p with rings := tset p.rings ring { r with cons := n.1, wrap := n.2 } }
    let s := { s with launches := tset s.launches s.nextLaunch x, nextLaunch := s.nextLaunch + 1 }
    some (s.checkLaunch (s.nextLaunch - 1))

/-! ### The order of placement -/

/-- Have all blocks of a launch been placed, as far as its ring waits for it (R183)? -/
def Launch.placedAll (x : Launch) : Bool := x.stopped || (x.ready && decide (x.kd.nblk ≤ x.nextBlk))

/-- Have all launches of a ring up to one been placed (R183)? -/
def State.placedThrough (s : State) : Nat → Option Nat → Bool
  | _, none => true
  | 0, _ => true
  | n + 1, some l => (s.launch l).placedAll && s.placedThrough n (s.launch l).prev

/-- Is the launch the one that its ring places now? -/
def State.isHead (s : State) (x : Launch) : Bool :=
  x.ready && !x.placedAll &&
    (match x.prev with
     | none => true
     | some p => s.placedThrough s.launches.length (some p) && (!x.after || (s.launch p).completed))

/-- The blocks of a core's partition that are evicted and restorable, oldest eviction first. -/
def evictedAt (b : Block) : Nat :=
  match b.res with
  | .evicted n => n
  | _ => 0
def Block.isEvicted (b : Block) : Bool :=
  match b.res with
  | .evicted _ => true
  | _ => false

/-- What a saved block asks of a core to which it returns (R197): its waves need their saved footprints, and at least their floors. -/
def Block.savedWaves (b : Block) : List (Nat × Nat × Nat) :=
  b.liveWaves.map fun p => (p.1, p.2.floor, max p.2.footprint p.2.floor)

/-- Can an evicted block be restored on its core with its first wave in quadrant q0 (R197)? Entries owed to waiting waves stay free
(R180). -/
def State.restoreFits (s : State) (b : Block) (q0 : Nat) : Bool :=
  decide (q0 < 4) && (s.core b.core).inService && s.wavesFit b.core q0 b.savedWaves (s.owedTo b.core)

def State.swapped (s : State) (part : Nat) : Bool := (s.part part).swapped || (s.part part).swBusy

/-- Is some block of a class at most `prio` restorable, and does it fit its core (R196)? -/
def State.restoreFirst (s : State) (part prio : Nat) : Bool :=
  s.blocks.any fun p => p.2.isEvicted && decide ((s.launch p.2.launch).part = part) && decide ((s.launch p.2.launch).prio ≤ prio) &&
    s.restorable p.1 p.2 && (List.range 4).any (s.restoreFits p.2)

/-- Does a launch's next block fit somewhere now? -/
def State.canPlace (s : State) (x : Launch) : Bool :=
  (s.partCores x.part).any fun c => pinsMet x.cohorts c x.nextBlk && (List.range 4).any fun q => s.fits c q (x.kd.shape false)

/-- The ring that round-robin serves next among those of a class (R183). -/
def turnKey (last ring : Nat) : Nat := if last < ring then ring else ring + 64

/-- Do other launches of the partition come first: one of a higher class, or one of this class whose turn is earlier? -/
def State.placedFirst (s : State) (x : Launch) : Bool :=
  let last := ((s.part x.part).lastRing[x.prio]?).getD 63
  s.launches.any fun p => decide (p.2.part = x.part) && decide (p.2.ring ≠ x.ring) && s.isHead p.2 && s.canPlace p.2 &&
    (decide (p.2.prio < x.prio) || (decide (p.2.prio = x.prio) && decide (turnKey last p.2.ring < turnKey last x.ring)))

/-! ### Tasks -/

/-- The next record of a core's shard to be dispatched. -/
def Core.headRecord (c : Core) : Option ShardRec := c.shard.find? fun r => !r.running

/-- The number of a record as `blk` of its task reads (R204, R217). -/
def ShardRec.blkNo (r : ShardRec) : BitVec 32 :=
  match r.level with
  | some (t, _) => BitVec.ofNat 32 (2 ^ 31 + t % 2 ^ 31)
  | none => BitVec.ofNat 32 (2 ^ 31 + r.idx % 2 ^ 31)

/-- The task KD of a record: through the task table of the launch's descriptor (R186, R207). -/
def taskKd (x : Launch) (bytes : List Byte) : CheckM Kd := do
  let slot := leNat (bytes.take 2)
  let va := dwordOf (← checkRead x.asid (x.kd.ttab + BitVec.ofNat 64 (8 * slot)) 8)
  let k := kdOf (← checkRead x.asid va 256)
  require (!k.malformed true) 0x28 noBlock
  pure k

/-- Keeps a launch's first status other than OK. -/
def Launch.fail (x : Launch) (status : Nat) (failing : Word) : Launch :=
  if x.status = 0 then { x with status := status, failing := failing } else x

/-- Removes the records that do not run yet and that a condition names, wherever they stand; how many they were. -/
def State.dropRecords (s : State) (bad : List Byte → Nat → Bool) : Nat × State :=
  let inShard (r : ShardRec) : Bool := !r.running && bad r.bytes r.launch
  let inRing (h : Nat × Word × TaskRec) : Bool := bad h.2.2.bytes h.2.2.launch
  let n := (s.records.filter fun r => bad r.bytes r.launch).length + (s.cores.map fun c => (c.2.shard.filter inShard).length).sum +
    (s.hub.parts.toList.map fun p => (p.held.filter inRing).length).sum
  let s := s.cores.foldl (fun s c => (c.2.shard.filter inShard).foldl (fun s r => s.shardHeader c.1 r.idx false) s) s
  let s : State := { s with records := s.records.filter fun r => !bad r.bytes r.launch
                            cores := s.cores.map fun c => (c.1, { c.2 with shard := c.2.shard.filter fun r => !inShard r }) }
  let s := (List.range 8).foldl (fun s p =>
    let s := ((s.part p).held.filter inRing).foldl (fun s h =>
      s.writeHome h.1 (leBytes (2 + ringPhase (s.part p).ptovf h.2.1.toNat) 8)) s
    s.modPart p fun q => { q with held := q.held.filter fun h => !inRing h }) s
  (n, s)

/-- Removes every record of a launch that names a task slot, unrun (R207). -/
def State.dropTasks (s : State) (l slot : Nat) : State :=
  let (n, s) := s.dropRecords fun bytes launch => decide (launch = l) && decide (leNat (bytes.take 2) = slot)
  s.modLaunch l fun x => { x with tasks := x.tasks - n }

/-- A task KD that cannot run: its records go, and the launch has its status (R207). -/
def State.failTask (s : State) (r : ShardRec) (status : Nat) : State :=
  let s := s.dropTasks r.launch (leNat (r.bytes.take 2))
  (s.modLaunch r.launch fun x => x.fail status r.blkNo).reportLaunch r.launch status

/-- Would a saved block fit some core of the partition that meets its pins, with every core empty (R197)? -/
def State.fitsPinned (s : State) (x : Launch) (task : Bool) (blk : Nat) (sh : BlockShape) : Bool :=
  (s.partCores x.part).any fun c => (task || pinsMet x.cohorts c blk) && s.fitsEmpty c sh

/-- Would the task's block fit some core of the partition with every core empty (R190, R207)? -/
def State.fitsSome (s : State) (part : Nat) (x : BlockShape) : Bool := (s.partCores part).any fun c => s.fitsEmpty c x

/-- The head record of a core's shard is dispatched as a block of one wave (R203, R204, R206), removed, or parked. -/
def State.dispatchTask (s : State) (core q0 : Nat) : Option State :=
  (s.core core).headRecord.bind fun r =>
    let x := s.launch r.launch
    if s.isParked (.task core r.idx) || (s.partOf core).isNone || s.swapped x.part || s.restoreFirst x.part x.prio then none else
    match (taskKd x r.bytes).run.run s with
    | (.error (.refuse st _), s) => some (s.failTask r st)
    | (.error (.park e), s) => (distributorParked (.task core r.idx) x.part x.ring x.asid x.lid e).map fun p => s.park 0 p
    | (.ok k, s) =>
      if s.fitsSome x.part (k.shape true) = false then some (s.failTask r 0x29) else
      if s.fits core q0 (k.shape true) = false then none else
      let slot := r.idx % s.shardSize core
      let b : Block :=
        { launch := r.launch, blk := r.blkNo, task := true, record := some r.idx
          level := if x.kd.level then r.level.map fun v =>
            { index := 2 ^ 31 + v.1, open_ := { n := v.2 + 1 }, remote := s.clusterBufs core } else none }
      let s := s.acquireCaches core 7
      -- in a Level launch the quantum is the launch's (R209)
      let k := if x.kd.level then { k with qnt := x.kd.qnt } else k
      let s := s.placeBlock core q0 k (Config.shardVa core slot + 8) b
      some (s.modCore core fun c => { c with shard := c.shard.map fun y => if y.idx = r.idx then { y with running := true } else y })

/-- Is a task of a class at most `prio` ready for dispatch on a core (R203)? -/
def State.taskFirst (s : State) (core prio : Nat) : Bool :=
  match (s.core core).headRecord with
  | none => false
  | some r =>
    let x := s.launch r.launch
    decide (x.prio ≤ prio) && !s.isParked (.task core r.idx) &&
      (match (taskKd x r.bytes).run.run s with
       | (.ok k, s) => (List.range 4).any fun q => s.fits core q (k.shape true)
       | _ => true)

/-- The next block of a launch is placed on a core (R189–R191); before block 0, NOFIT refuses a launch that fits nowhere. -/
def State.placeNext (s : State) (l core q0 : Nat) : Option State :=
  (tget s.launches l).bind fun x =>
    if !s.isHead x || s.swapped x.part then none
    else if x.nextBlk = 0 ∧ s.fitsSome x.part (x.kd.shape false) = false then some (s.refuseLaunch l 0x29 0)
    else if s.restoreFirst x.part x.prio || s.taskFirst core x.prio || s.placedFirst x || !(s.partCores x.part).contains core ||
        !pinsMet x.cohorts core x.nextBlk || !s.fits core q0 (x.kd.shape false) then none
    else
      let b : Block :=
        { launch := l, blk := BitVec.ofNat 32 x.nextBlk, coh := cohortsAt x.cohorts x.nextBlk
          level := if x.kd.level then some { index := x.nextBlk, open_ := { n := 0 }, remote := s.clusterBufs core } else none }
      let s := (s.acquireCaches core 8).placeBlock core q0 x.kd x.args b
      let s := s.modPart x.part fun p => { p with lastRing := p.lastRing.setIfInBounds x.prio x.ring }
      some (s.modLaunch l fun x => { x with nextBlk := x.nextBlk + 1 })

/-! ### The end of a launch -/

/-- Has everything of a launch ended (R192, R207)? -/
def State.launchOver (s : State) (l : Nat) : Bool :=
  match tget s.launches l with
  | none => false
  | some x =>
    !x.completed && (x.ready || x.stopped) && x.placedAll && decide (x.tasks = 0) && !s.isParked (.completion l) &&
      !(s.blocks.any fun p => p.2.launch = l) &&
      s.cores.all fun c => (c.2.stores.all fun p => !x.ends.contains p.ent.blk) && c.2.atoms.all fun q => !x.ends.contains q.ent.blk

/-- The launch completes (R192). -/
def State.completeLaunch (s : State) (l : Nat) : State := s.finishLaunch l

/-- A block is ended from outside (log 45): its waves are gone, and the rest is as at the exit of its last wave. DESIGN CHOICE (log 105): the traced
runs end with END 2. -/
def State.killBlock (s : State) (blk : Nat) : State :=
  match tget s.blocks blk with
  | none => s
  | some b =>
    let s := b.waves.foldl (fun s p =>
      ((s.unpark (.wave { blk := blk, slot := p.1, frag := false })).unpark (.wave { blk := blk, slot := p.1, frag := true })).unpark
        (.graver blk p.1)) s
    let s := b.waves.foldl (fun s p => s.etchEnds blk b p.1 p.2 2) s
    let s := { s with promos := s.promos.filter fun p => p.2.2.1.blk ≠ blk }
    let s := s.modCore b.core fun c =>
      { c with loads := c.loads.filter fun p => p.ent.blk ≠ blk, stip := c.stip.filter fun p => p.ent.blk ≠ blk
               freedAt := Vector.replicate 4 s.now }
    (s.modBlock blk fun b => { b with waves := [], halt := none, frozen := false, swap := false, level := none }).endBlock blk

/-- The Executive ends the launch of a block that has halted or failed (R391, Table 8.3): nothing of it runs any more. -/
def State.abortLaunch (s : State) (blk : Nat) : Option State :=
  (tget s.blocks blk).bind fun b =>
    let x := s.launch b.launch
    if (b.halt.isNone && !b.reported) || x.completed then none else
    let s := (s.blocks.filter fun p => p.2.launch = b.launch && !p.2.ended).foldl (fun s p => s.killBlock p.1) s
    let s := (s.dropRecords fun _ launch => decide (launch = b.launch)).2
    some (s.modLaunch b.launch fun x => { x with stopped := true, tasks := 0, status := 0x2E, failing := b.blk })

end Sys2Proof.Machine
end

