-- ==== Sys2Proof/Machine/Faults.lean ====
section
/-! DEFINITION. What becomes of parked accesses (R91–R94, R182, R192): their answers, their records; and shootdowns (R98, R99). -/
namespace Sys2Proof.Machine

/-! ### Answers to a fault group -/

/-- The accesses parked in a group. -/
def Plate.members (p : Plate) (g : Nat) : List Parked := (p.buffer.filter fun e => e.2.2 = g).map (·.2.1)

/-- The group closes: its accesses leave the buffer, and its id returns to use (R91, R93). -/
def State.closeGroup (s : State) (plate g : Nat) : State :=
  s.modPlate plate fun p => { p with buffer := p.buffer.filter fun e => e.2.2 ≠ g, groups := tdel p.groups g }

/-- Has the halt of its block already taken the entity's access from the buffer (R95)? -/
def State.haltFreed (s : State) (r : EntRef) : Bool :=
  match tget s.blocks r.blk with
  | none => true
  | some b =>
    match b.wave r.slot with
    | none => true
    | some w => b.halt.isSome && w.saved.isNone && decide (r.slot ≠ 16)

/-- An access is issued again (R90, R93): its entity, engine or distributor makes it anew. -/
def State.replay (s : State) (a : Parked) : State :=
  match a.by_ with
  | .wave r =>
    if s.haltFreed r then s else
    s.modEntity r fun e => match e.wait with
      | some (.parked _) => { e with wait := none }
      | _ => e
  | .copy core cmd => s.modCore core fun c =>
    { c with copies := c.copies.map fun q => if q.1 = cmd then (q.1, { q.2 with parked := false }) else q }
  | .graver blk slot => s.modWave blk slot fun w =>
    { w with grav := { w.grav with queue := w.grav.queue.map fun q => { q with parked := false } } }
  | .trace core cmd => s.modCore core fun c =>
    { c with traces := c.traces.map fun q => if q.1 = cmd then (q.1, { q.2 with parked := false }) else q }
  | .distributor l => s.checkLaunch l
  | .task .. => s
  | .completion l => s.finishLaunch l

/-- A fatal answer (R94, R135, R344, R379, R182, R207, R192): the cause is XLATE or WPROT. Of a wave that a halt has stopped it is recorded,
and the wave is pending (R399). -/
def State.fatal (s : State) (a : Parked) (cause : Nat) : State :=
  match a.by_ with
  | .wave r =>
    let at_ := match ((tget s.blocks r.blk).bind fun b => b.wave r.slot).bind fun w => w.entity r.frag with
      | some e => e.resumeAt
      | none => 0
    -- the instruction of a Level block's commit that was parked has no effect
    let s := if (((tget s.blocks r.blk).bind (·.level)).map (·.committing)).getD false then s.modEntity r fun e => { e with held := [] } else s
    s.raise r { bits := causeBit cause, cmask := some a.lanes } at_ at_
  | .copy core cmd => match tget (s.core core).copies cmd with
    | some q => (s.endCopy core cmd q (some cause)).reapBlock q.blk
    | none => s
  | .graver blk slot => match s.gHead blk slot with
    | some (_, _, q) => s.gFail blk slot { q with parked := false } 1 none
    | none => s
  | .trace core cmd => match tget (s.core core).traces cmd with
    | some q => (s.endTrace core cmd q (lanesOf fun _ => []) (some cXLATE)).reapBlock q.blk
    | none => s
  | .distributor l => s.refuseLaunch l 0x28 noBlock
  | .task core idx => match (s.core core).shard.find? fun r => r.idx = idx && !r.running with
    | some r => s.failTask r 0x28
    | none => s
  | .completion l => (s.modLaunch l fun x => { x with completed := true }).reportLaunch l (s.launch l).status

/-- A write of `FREPLY` (R93): it answers an open group with action 0, 1 or 2; anything else is ignored. -/
def State.freply (s : State) (plate g action : Nat) : State :=
  if (tget (s.hub.plate plate).groups g).isNone || decide (3 ≤ action) then s else
  let as_ := (s.hub.plate plate).members g
  let s := s.closeGroup plate g
  as_.foldl (fun s a => if action = 0 then s.replay a else s.fatal a (if action = 1 then cXLATE else cWPROT)) s

/-! ### Entering the buffer, and records -/

/-- The oldest access held for want of room enters the buffer (R91). -/
def State.enterBuffer (s : State) (plate : Nat) : Option State :=
  match (s.hub.plate plate).waiting with
  | [] => none
  | a :: rest => ((s.hub.plate plate).enter a).map fun q => s.modPlate plate fun _ => { q with waiting := rest }

/-- Was the access an engine's or the distributor's (R432)? -/
def Parked.eng (a : Parked) : Bool :=
  match a.by_ with
  | .wave _ => false
  | _ => true

/-- A fault record (Table 4.4) with its phase. -/
def Parked.record (a : Parked) (group phase : Nat) : List Byte :=
  let n := phase + a.kind * 2 ^ 4 + accCode a.acc * 2 ^ 8 + a.level * 2 ^ 11 + a.asid.toNat * 2 ^ 13 + group % 4096 * 2 ^ 22 +
    a.core % 512 * 2 ^ 34 + (if a.eng then 2 ^ 43 else 0) + a.va.toNat * 2 ^ 64 + a.pte.toNat * 2 ^ 128 + a.who.toNat * 2 ^ 192 +
    a.lid.toNat * 2 ^ 256
  leBytes n 64

/-- The record of a group that has none yet is written into the plate's fault ring, and the Executive is interrupted (R92). Which of
several groups comes first is left open. -/
def State.writeRecord (s : State) (plate : Nat) : Option State :=
  let p := s.hub.plate plate
  let k := natBits p.frctl.toNat 4 0
  let todo := (p.groups.filter fun g => !g.2.recorded).map (·.1)
  if todo.isEmpty || !natBit p.frctl.toNat 8 || decide (16 < k) || decide (2 ^ k ≤ (p.frprod - p.frcons).toNat) then none else
  let (g, s) := s.pick todo
  (tget p.groups g).map fun grp =>
    let i := p.frprod.toNat
    let at_ := p.frbase.toNat + i % 2 ^ k * 64
    let bytes := grp.first.record g (i / 2 ^ k % 2)
    let s := (s.writeHome (at_ + 8) (bytes.drop 8)).writeHome at_ (bytes.take 8)
    let n := ringNext p.frprod p.frwrap
    (s.modPlate plate fun p =>
      { p with frprod := n.1, frwrap := n.2, groups := tset p.groups g { grp with recorded := true } }).report plate (2 ^ 66 + g)

/-! ### Shootdowns -/

/-- A control core's set of shootdown registers. -/
def Hub.shoot (h : Hub) (c : Nat) : Shootdown := h.xs[c]?.getD {}
def Hub.setShoot (h : Hub) (c : Nat) (x : Shootdown) : Hub := { h with xs := h.xs.setIfInBounds c x }

/-- A write of `XSCTL`.go: ignored while busy (R98). -/
def State.startShootdown (s : State) (c : Nat) (purge : Bool) : State :=
  let x := s.hub.shoot c
  if x.run.isSome then s else
  s.modHub fun h => h.setShoot c
    { x with purge := purge
             run := some { asid := x.asid, va := x.va, len := x.len, mod_ := x.mod_, pa := x.pa, purge := purge } }

/-- Does a shootdown remove what translates a range of an address space? -/
def ShootRun.meets (x : ShootRun) (asid : BitVec 9) (va size : Nat) : Bool :=
  (natBit x.asid.toNat 9 || decide (natBits x.asid.toNat 8 0 = asid.toNat)) &&
    (decide (x.len = 0) || overlaps va size x.va.toNat (x.len.toNat * 4096))
def ShootRun.covers (x : ShootRun) (t : TlbEntry) : Bool := x.meets t.asid t.va (2 ^ t.bits)
def ShootRun.through (x : ShootRun) (v : Via) : Bool := x.meets v.asid v.va (2 ^ v.bits)
def ShootRun.walks (x : ShootRun) (t : WalkEntry) : Bool := x.meets t.asid t.va (2 ^ (12 + 9 * t.lvl))

/-- Does the purge range hold a line? -/
def ShootRun.purges (x : ShootRun) (line : Nat) : Bool :=
  x.purge && (decide (x.len = 0) || overlaps (line * 128) 128 x.pa.toNat (x.len.toNat * 4096))

/-- Does the shootdown name the own module? -/
def ShootRun.ownsUp (x : ShootRun) (own : Nat) : Bool := decide (x.mod_ = 0) || x.mod_.getLsbD own

/-- Are all accesses of a core that went through a removed translation performed and acknowledged (R99)? -/
def Core.settledFor (c : Core) (x : ShootRun) : Bool := (c.stores.all fun p => !x.through p.via) && c.atoms.all fun q => !x.through q.via

/-- The translations that a held effect, or an entry of a stage, went through. -/
def Held.vias (h : Held) : List Via :=
  match h with
  | .store _ _ v _ | .red _ _ _ _ v _ | .trel _ v => [v]
  | .instr _ _ _ _ _ _ _ places => places.map (·.2.2)
  | _ => []
def StageEntry.via (x : StageEntry) : Option Via :=
  match x with
  | .store _ _ v .. | .red _ _ _ _ v .. | .trel _ _ _ v => some v
  | _ => none

/-- Are those that a Level block holds or stages (R99, R213, R215)? -/
def Block.settledFor (b : Block) (x : ShootRun) : Bool :=
  let held (hs : List ((Dword × Nat) × Held)) : Bool := hs.all fun h => h.2.vias.all fun v => !x.through v
  (b.waves.all fun p => held p.2.parent.held && held p.2.fragHeld && held ((p.2.frag.map (·.held)).getD [])) &&
    (match b.level with
     | some lv => (lv.open_ :: lv.closed).all fun g => g.entries.all fun e => e.via.all fun v => !x.through v
     | none => true)

/-- Tile requests that no home has decided (R99). -/
def TileReq.settledFor (q : TileReq) (x : ShootRun) : Bool :=
  match q.phase with
  | .staged | .toHome => !x.through q.via
  | _ => true

/-- An `RWAIT` that waits through a removed translation is issued again, and translates again (R99). -/
def Entity.translateAgain (e : Entity) (x : ShootRun) : Entity :=
  match e.wait with
  | some (.ring true _ _ _ v) => if x.through v then { e with wait := none } else e
  | _ => e
def Block.translateAgain (b : Block) (x : ShootRun) : Block :=
  { b with waves := b.waves.map fun p =>
      (p.1, { p.2 with parent := p.2.parent.translateAgain x, frag := p.2.frag.map fun e => e.translateAgain x }) }

/-- The purge of a core's L1 caches. -/
def State.purgeCore (s : State) (x : ShootRun) (core : Nat) : State :=
  let s := ((s.core core).l1d.filter fun l => x.purges l.1).foldl (fun s l => (s.l1Clean core l.1).l1Drop core l.1) s
  s.modCore core fun c => { c with l1i := c.l1i.filter fun l => !x.purges l.1 }

/-- The purge of the cluster caches. -/
def State.purgeClusters (s : State) (x : ShootRun) : State :=
  let keys := (s.clu.map (·.1)).filter fun k => x.purges (k % 2 ^ 45)
  keys.foldl (fun s k => let s := s.cluClean 288 k; { s with clu := tdel s.clu k }) s

/-- A shootdown completes (R98, R99). -/
def State.endShootdown (s : State) (c : Nat) : Option State :=
  let r := s.hub.shoot c
  r.run.bind fun x =>
    let own := x.ownsUp s.ownModule
    if own && !(s.cores.all (fun k => k.2.settledFor x) && s.blocks.all (fun p => p.2.settledFor x) && s.treqs.all fun q => q.2.settledFor x) then none else
    let s := if own then
        let s : State := { s with cores := s.cores.map fun k => (k.1, { k.2 with tlb := k.2.tlb.filter fun t => !x.covers t }) }
        let s := (List.range 2).foldl (fun s p => s.modPlate p fun q => { q with walker := q.walker.filter fun t => !x.walks t }) s
        let s := s.cores.foldl (fun s k => s.purgeCore x k.1) s
        let s := s.purgeClusters x
        { s with blocks := s.blocks.map fun p => (p.1, p.2.translateAgain x) }
      else s
    some (s.modHub fun h => h.setShoot c { r with run := none, done := true })

/-! ### Walks -/

/-- Does an access of a core need a walk (R86, R87)? -/
def State.needsWalk (s : State) (core : Nat) (asid : BitVec 9) (va : Nat) (acc : AccKind) : Bool :=
  match (s.core core).tlb.find? fun t => t.covers asid va with
  | some t => !(t.permits acc && (t.d || !accWrites acc))
  | none => true

end Sys2Proof.Machine
end

