-- ==== Sys2Proof/Machine/Cohort.lean ====
section
/-! DEFINITION. How the blocks of a Level launch wait for one another (R214–R218): the start of a quantum, the keys that a launch may still
release, cohort barriers, and barriers that a halt meets (R296). -/
namespace Sys2Proof.Machine

/-! ### Quanta -/

/-- An entity as its next quantum starts: a wait that ended the quantum is made at its start, a logical one goes on unless its condition
has come to hold (R214). -/
def Entity.nextQuantum (e : Entity) (met : Bool) : Entity :=
  let e := { e with qcount := 0 }
  match e.wait with
  | none => { e with qended := e.stopped }
  | some w => if w.logical && !met then { e with qended := true } else { e with wait := none, qwaited := true, qended := false }

/-- The next quantum of all waves of a block starts; a `BAR` at which every wave has arrived is over (R214). -/
def State.nextQuantum (s : State) (blk : Nat) : State :=
  match tget s.blocks blk with
  | none => s
  | some b =>
    let s := if b.atBar then (s.releaseCaches b.core 2).setBlock blk b.passBarrier else s
    match tget s.blocks blk with
    | none => s
    | some b =>
      let go (slot : Nat) (frag : Bool) (w : Wave) (e : Entity) : Entity :=
        e.nextQuantum (s.wakes b { blk := blk, slot := slot, frag := frag } w e)
      s.setBlock blk { b with
        waves := b.waves.map fun p => (p.1, { p.2 with parent := go p.1 false p.2 p.2.parent, frag := p.2.frag.map (go p.1 true p.2) })
        level := b.level.map fun lv => { lv with remote := s.clusterBufs b.core } }

/-! ### Keys -/

/-- Keys compare by segment number, then by level index (R215). -/
def keyLt (a b : Nat × Nat) : Bool := decide (a.1 < b.1) || (decide (a.1 = b.1) && decide (a.2 < b.2))

/-- The largest segment number with which a member has arrived at a cohort barrier; an exited member arrived with its last one (R217). -/
def State.maxArrival (s : State) (l : Nat) (id : BitVec 8) : Nat :=
  let here := (s.members l id).filterMap fun p => p.2.level.bind (·.cbarSeg)
  let gone := ((s.launch l).gone.filter fun g => (s.launch l).memberOf id g.1).map (·.2)
  (here ++ gone).foldl max 0

/-- The lowest key that a block may still release. -/
def State.blockKey (s : State) (b : Block) : Option (Nat × Nat) :=
  b.level.bind fun lv =>
    match lv.closed with
    | g :: _ => some (g.n, lv.index)
    | [] =>
      if b.ended then none
      else match lv.cbarSeg, b.barrier with
        | some _, some id => some (max lv.open_.n (s.maxArrival b.launch id + 1), lv.index)
        | _, _ => some (lv.open_.n, lv.index)

/-- The lowest keys that the agents of a launch may still release: its blocks, those not yet placed, and tasks not yet dispatched. -/
def State.openKeys (s : State) (l : Nat) : List (Nat × Nat) :=
  let x := s.launch l
  let task (v : Option (Nat × Nat)) : Option (Nat × Nat) := v.map fun v => (v.2 + 1, 2 ^ 31 + v.1)
  (s.blocks.filterMap fun p => if p.2.launch = l then s.blockKey p.2 else none) ++
    (if x.nextBlk < x.kd.nblk ∧ x.stopped = false then [(0, x.nextBlk)] else []) ++
    (s.records.filterMap fun r => if r.launch = l then task r.level else none) ++
    (s.hub.parts.toList.flatMap fun p => p.held.filterMap fun h => if h.2.2.launch = l then task h.2.2.level else none) ++
    (s.cores.flatMap fun c => c.2.shard.filterMap fun r => if r.launch = l ∧ r.running = false then task r.level else none)

/-- Has every key below a key been released (R216)? -/
def State.keyClear (s : State) (l : Nat) (key : Nat × Nat) : Bool := (s.openKeys l).all fun k => !keyLt k key

/-- Blocks that wait at a boundary learn whether every key below their closing key has been released. -/
def State.noteKeys (s : State) (l : Nat) : State :=
  let at_ (b : Block) : Block :=
    match b.level with
    | some lv => match lv.waitKey with
      | some n => { b with level := some { lv with ready := s.keyClear l (n, lv.index) } }
      | none => b
    | none => b
  { s with blocks := s.blocks.map fun p => if p.2.launch = l then (p.1, at_ p.2) else p }

/-! ### Cohort barriers -/

/-- A `CBAR` completes in Level mode (R218): every member has arrived, and every arrival segment has been released. -/
def State.levelCohort (s : State) (l : Nat) (id : BitVec 8) : Option State :=
  let ms := s.members l id
  let arrived (b : Block) : Bool :=
    match b.level with
    | some lv => b.atCbar id && lv.cbarSeg.isSome && lv.waitKey.isNone && lv.closed.isEmpty
    | none => false
  let released := s.blocks.all fun p =>
    decide (p.2.launch ≠ l) || p.2.task || !(s.launch l).memberOf id p.2.blk.toNat || ((p.2.level.map (·.closed)).getD []).isEmpty
  if (s.launch l).kd.level = false ∨ ms.isEmpty = true ∨ (s.launch l).allPlaced id = false ∨ (ms.all fun p => arrived p.2) = false ∨
      released = false then none
  else
    let n := s.maxArrival l id + 1
    let s := ms.foldl (fun s p => s.acquireCaches p.2.core 6) s
    let s := ms.foldl (fun s p =>
      (s.modBlock p.1 fun b =>
        { b.passBarrier with level := b.level.map fun lv => { lv with cbarSeg := none, open_ := { lv.open_ with n := n } } }).nextQuantum p.1) s
    some (s.noteKeys l)

/-! ### Barriers that a halt meets -/

/-- A barrier of the block at which every arrival has been made completes before the halt that reaches it (R296). At a `BAR` of a Level
block the waves go on at their next words, and the commit of the boundary follows. -/
def State.settleBarrier (s : State) (blk : Nat) : State :=
  match tget s.blocks blk with
  | none => s
  | some b =>
    match b.level with
    | some lv =>
      if b.atBar && lv.waitKey.isNone && lv.cbarSeg.isNone && !lv.committing then
        (s.releaseCaches b.core 2).setBlock blk b.passBarrier
      else (b.barrier.bind fun id => s.levelCohort b.launch id).getD s
    | none =>
      match s.blockBarrier blk b with
      | some s => s
      | none => (b.barrier.bind fun id => s.cohortBarrier b.launch id).getD s

end Sys2Proof.Machine
end

