-- ==== Sys2Proof/Machine/Move.lean ====
section
/-! DEFINITION. Eviction, restore, migration and partition swaps: when the spec lets them happen (R180, R195–R198, R397) and what they move
(R199, R200, R394–R397). -/
namespace Sys2Proof.Machine

/-! ### Eviction (R195, R395) -/

/-- Is every store, atomic and reduction of a block acknowledged or reported? -/
def State.drained (s : State) (blk : Nat) (b : Block) : Bool :=
  let c := s.core b.core
  (c.stores.all fun p => decide (p.ent.blk ≠ blk) || decide (p.ent.slot = 16)) &&
    (c.atoms.all fun q => decide (q.ent.blk ≠ blk) || decide (q.ent.slot = 16)) &&
    -- the results of its Stipple instructions have returned (R366)
    c.stip.all fun p => decide (p.ent.blk ≠ blk) || decide (p.ent.slot = 16)

/-- An entity as it is saved: out of the loop buffer, with its wait (R395, R406). -/
def Entity.save (e : Entity) : Entity := { e with loop := none, fetched := [], grant := 0 }

/-- An entity as it stands on a core again: a parked access is made anew (R95). -/
def Entity.back (e : Entity) (now : Nat) : Entity :=
  { e with lastIssue := now, sync := false
           wait := match e.wait with
             | some (.parked _) => none
             | w => w }

/-- A block leaves its core's quadrants. -/
def State.evict (s : State) (blk : Nat) : State :=
  match tget s.blocks blk with
  | none => s
  | some b =>
    let s := b.waves.foldl (fun s p =>
      let r (f : Bool) : EntRef := { blk := blk, slot := p.1, frag := f }
      ((s.unpark (.wave (r false))).unpark (.wave (r true))).etchEnds blk b p.1 p.2 1) s
    let s := s.releaseCaches b.core 6
    let s := s.modCore b.core fun c =>
      { c with freedAt := Vector.replicate 4 s.now, selected := c.selected.filter fun x => x ≠ blk }
    s.modBlock blk fun b =>
      { b with res := .evicted s.now, bregLog := []
               waves := b.waves.map fun p =>
                 (p.1, { p.2 with evicted := true, away := some (p.2.stallNow b), parent := p.2.parent.save, frag := p.2.frag.map Entity.save }) }

/-- Does some restore, placement or dispatch of a class at or above that of a block wait for the block's core (R195)? -/
def State.waitsFor (s : State) (core prio : Nat) : Bool :=
  (s.launches.any fun p => decide (p.2.prio ≤ prio) && s.isHead p.2 && (s.partCores p.2.part).contains core &&
    pinsMet p.2.cohorts core p.2.nextBlk && !s.canPlace p.2) ||
  (s.blocks.any fun p => p.2.isEvicted && decide (p.2.core = core) && decide ((s.launch p.2.launch).prio ≤ prio) &&
    s.restorable p.1 p.2 && !(List.range 4).any (s.restoreFits p.2)) ||
  (match (s.core core).headRecord with
   | none => false
   | some r =>
     let x := s.launch r.launch
     decide (x.prio ≤ prio) && !s.isParked (.task core r.idx) &&
       (match (taskKd x r.bytes).run.run s with
        | (.ok k, s) => !(List.range 4).any fun q => s.fits core q (k.shape true)
        | _ => false))

/-- Cycles of the eviction delay of a block's partition: units of 0.1 µs of 1.10 GHz (R195, R5). -/
def State.evictionDelay (s : State) (b : Block) : Nat := (s.part (s.launch b.launch).part).evd * 110

/-- May the distributor evict a block: its waves have been blocked for the delay, and its surrender wave does not run? -/
def State.evictable (s : State) (blk : Nat) (b : Block) : Bool :=
  decide (b.res = .resident) && b.sur.isNone && s.blockBlocked blk b &&
    (match b.blockedSince with
     | some t => decide (t + s.evictionDelay b ≤ s.now)
     | none => false) && s.waitsFor b.core (s.launch b.launch).prio

/-- Of the candidates on a core the lowest class goes first, then the one blocked longest (R195). -/
def State.evictedFirst (s : State) (blk : Nat) (b : Block) : Bool :=
  s.blocks.any fun p => decide (p.1 ≠ blk) && decide (p.2.core = b.core) && s.evictable p.1 p.2 &&
    (decide ((s.launch b.launch).prio < (s.launch p.2.launch).prio) ||
      (decide ((s.launch b.launch).prio = (s.launch p.2.launch).prio) &&
        decide (p.2.blockedSince.getD 0 < b.blockedSince.getD 0)))

/-- A block is evicted: by the deadlock break, or by the distributor; not while its partition is swapped out (R397). -/
def State.evictBlock (s : State) (blk : Nat) : Option State :=
  (tget s.blocks blk).bind fun b =>
    let byBreak := (s.core b.core).selected.contains blk
    let fp := (b.liveWaves.map fun p => p.2.footprint).sum
    if ¬ (b.res = .resident) ∨ b.ended = true ∨ (s.part (s.launch b.launch).part).swBusy = true ∨ s.blockBlocked blk b = false ∨ s.drained blk b = false ∨
        s.shadowRoom b.core (s.launch b.launch).part fp b.liveWaves.length = false then none
    else if byBreak || (s.evictable blk b && !s.evictedFirst blk b) then some (s.evict blk) else none

/-- The deadlock break selects the block placed or restored most recently, other than the one that owns the oldest waiting wave
(R180). -/
def State.breakDeadlock (s : State) (core quad : Nat) : Option State :=
  let c := s.core core
  let stuck := s.quadStuck core quad && (match (c.stuckAt[quad]?).getD none with
    | some t => decide (t + 64 ≤ s.now)
    | none => false) && decide ((c.freedAt[quad]?).getD 0 + 64 ≤ s.now)
  if stuck = false then none else
  -- a surrender wave has no age: it counts only where no other wave waits
  let old := (s.waiters core quad).filter fun x => x.2.1.slot ≠ 16
  (firstByKey (if old.isEmpty then s.waiters core quad else old)).bind fun x =>
    let cands := (s.blocksOn core).filter fun p => decide (p.1 ≠ x.1.blk) && decide (p.2.res = .resident) && !c.selected.contains p.1 &&
      p.2.liveWaves.any fun w => decide (p.2.quad w.1 = quad)
    let best := cands.foldl (fun (acc : Option (Nat × Block)) p => match acc with
      | none => some p
      | some q => if q.2.restored < p.2.restored then some p else some q) none
    best.map fun p => s.modCore core fun c => { c with selected := c.selected ++ [p.1] }

/-! ### Restore (R196, R396) -/

/-- A block stands on its core again, its waves in slots of the quadrants from q0 on. -/
def State.restore (s : State) (blk q0 : Nat) : State :=
  match tget s.blocks blk with
  | none => s
  | some b =>
    let r := b.waves.foldl (fun (r : Table Wave × State) p =>
      let free := (r.2.freeSlots b.core ((q0 + p.1) % 4)).filter fun n => !(r.1.any fun q => q.2.cslot = n)
      let (n, s) := r.2.pick free
      (r.1 ++ [(p.1, { p.2 with cslot := n, away := none, parent := p.2.parent.back s.now, frag := p.2.frag.map (·.back s.now) })], s)) ([], s)
    let s := r.2
    { s.setBlock blk { b with res := .resident, q0 := q0, restored := s.nextPlace, waves := r.1, blockedSince := none } with
      nextPlace := s.nextPlace + 1 }

/-- Is another block of the partition, evicted earlier, to be restored first (R196)? -/
def State.restoredFirst (s : State) (blk : Nat) (b : Block) : Bool :=
  s.blocks.any fun p => decide (p.1 ≠ blk) && p.2.isEvicted && decide ((s.launch p.2.launch).part = (s.launch b.launch).part) &&
    decide (evictedAt p.2 < evictedAt b) && s.restorable p.1 p.2 && (List.range 4).any (s.restoreFits p.2)

def State.restoreBlock (s : State) (blk q0 : Nat) : Option State :=
  (tget s.blocks blk).bind fun b =>
    if !b.isEvicted || s.swapped (s.launch b.launch).part || !s.restorable blk b || !s.restoreFits b q0 || s.restoredFirst blk b ||
        (b.sur.isSome && decide (q0 % 4 ≠ b.q0 % 4)) then none
    else some (s.restore blk q0)

/-! ### Migration (R198–R200) -/

/-- The shape of a saved block: its slices, its TIDs and tags, and its waves (R197). -/
def Block.savedShape (b : Block) : BlockShape :=
  { wfp := b.wslice.foot, afp := b.aslice.foot, cfp := b.cslice.foot, tids := b.tids.length, tags := b.tags.length, waves := b.savedWaves }

/-- Queued work of a core: records in its task shard and its restorable blocks (R198). -/
def State.queuedWork (s : State) (core : Nat) : Nat :=
  (s.core core).shard.length + ((s.blocksOn core).filter fun p => p.2.isEvicted && s.restorable p.1 p.2).length

/-- Could the block's own core ever take it back (R197)? -/
def State.coreTakes (s : State) (b : Block) : Bool := (s.core b.core).inService && s.fitsEmpty b.core b.savedShape

/-- Does something hold the block to its core (R198, R410)? A Graver batch is in flight until a `GWAIT` has acquired it (R337). -/
def State.heldToCore (s : State) (blk : Nat) (b : Block) : Bool :=
  let c := s.core b.core
  (s.cores.any fun k => k.2.copies.any fun q => decide (q.2.blk = blk) && decide (q.2.dspc ≠ 1)) ||
    (b.waves.any fun w => !w.2.grav.queue.isEmpty) || b.sur.isSome ||
    c.comps.toList.any fun k => decide (k.map (·.blk) = some blk)

/-- Typed-buffer bytes of a slice, moved. -/
def State.moveSlice (s : State) (space from_ to_ : Nat) (x y : Slice) : State :=
  let mine := ((s.core from_).buf space).filter fun p => decide (x.base ≤ p.1) && decide (p.1 < x.base + x.len)
  let s := s.modCore from_ fun c => c.setBuf space (tclear (c.buf space) x.base x.len)
  let s := s.modCore to_ fun c => c.setBuf space (tclear (c.buf space) y.base y.len)
  s.modCore to_ fun c => c.setBuf space (mine.foldl (fun t p => tset t (p.1 - x.base + y.base) p.2) (c.buf space))

/-- The counters of the C tiles that the slice covers wholly go with it (R341, R342): to the tile of the same block-relative offset; any
other tile that the new slice covers wholly is cleared by its grant. -/
def State.moveCtiles (s : State) (from_ to_ : Nat) (x y : Slice) : State :=
  let kept := x.wholeTiles.filterMap fun t => (tget (s.core from_).ctiles t).map fun v => (65536 * t - x.base, v)
  let s := s.modCore from_ fun c => { c with ctiles := x.wholeTiles.foldl tdel c.ctiles }
  let put (ts : Table (Word × Word × Word)) (t : Nat) : Table (Word × Word × Word) :=
    match kept.find? fun p => p.1 = 65536 * t - y.base with
    | some p => tset ts t p.2
    | none => tdel ts t
  s.modCore to_ fun c => { c with ctiles := y.wholeTiles.foldl put c.ctiles }

/-- A copy from a slice of a block that moves reads the slice where it now stands (R137). -/
def Copy.follow (q : Copy) (blk to_ : Nat) (b n : Block) : Copy :=
  if q.blk = blk ∧ 2 ≤ q.sspc ∧ q.sspc ≤ 4 then
    { q with moved := some to_
             src := q.src - BitVec.ofNat 64 (b.slice q.sspc).base + BitVec.ofNat 64 (n.slice q.sspc).base }
  else q

/-- A block as it will stand on a core that has room for it. -/
def State.standOn (s : State) (core : Nat) (b : Block) : Block × State :=
  let (wb, s) := s.pick (s.sliceBases core 2 b.wslice.foot)
  let (ab, s) := s.pick (s.sliceBases core 3 b.aslice.foot)
  let (cb, s) := s.pick (s.sliceBases core 4 b.cslice.foot)
  let (tb, s) := s.pick (s.tidBases core b.tids.length)
  let (gb, s) := s.pick (s.tagBases core b.tags.length)
  ({ b with core := core, wslice := { b.wslice with base := wb }, aslice := { b.aslice with base := ab }
            cslice := { b.cslice with base := cb }, tidBase := tb
            tagBase := gb }, s)

/-- The streamer moves a block to another core (R199), whose forwarding entry the old core keeps (R200). -/
def State.migrate (s : State) (blk core : Nat) (b : Block) : State :=
  let (n, s) := s.standOn core b
  let s := s.moveSlice 2 b.core core b.wslice n.wslice
  let s := s.moveSlice 3 b.core core b.aslice n.aslice
  let s := s.moveSlice 4 b.core core b.cslice n.cslice
  let s := s.moveCtiles b.core core b.cslice n.cslice
  let s : State := { s with cores := s.cores.map fun c =>
    (c.1, { c.2 with copies := c.2.copies.map fun q => (q.1, q.2.follow blk core b n) }) }
  let s := s.modCore b.core fun c =>
    { c with forwards := c.forwards ++ [{ blk := blk, dest := core, since := s.now, tagBase := b.tagBase, tags := b.tags.length }] }
  s.setBlock blk n

def State.migrateBlock (s : State) (blk core q0 : Nat) : Option State :=
  (tget s.blocks blk).bind fun b =>
    let l := s.launch b.launch
    let fitsThere := s.fits core q0 b.savedShape
    let wanted := !s.coreTakes b || (decide ((s.part l.part).mig < s.queuedWork b.core) && fitsThere)
    if !b.isEvicted || decide (core = b.core) || !(s.partCores l.part).contains core || !(b.task || pinsMet l.cohorts core b.blk.toNat) ||
        s.heldToCore blk b || !wanted || !fitsThere then none
    else some (s.migrate blk core b)

/-- The arrival of a load's data, or of a recall, at the old core of a block that has moved is redirected to the new one (R200). -/
def State.forward (s : State) (core blk : Nat) : Option State :=
  ((s.core core).forwards.find? fun f => f.blk = blk).bind fun f =>
    match (s.core core).loads.find? fun p => p.ent.blk = blk with
    | some p =>
      let s := s.modCore core fun c => { c with loads := c.loads.erase p }
      some (s.modCore f.dest fun c => { c with loads := c.loads ++ [p] })
    | none =>
      -- the recalls of the queue in its order, then those in flight in the order of their sending (R149)
      let mine (q : TileReq) : Bool := (tget s.tiles q.pa).map (·.holder) = some blk
      let queued := (s.core core).recalls.filter fun r => ((tget s.treqs r).map mine).getD false
      let flying := (s.treqs.filter fun q => q.2.phase = .recall core && mine q.2).map fun q => ([q.2.sent], q.1)
      (queued.head?.orElse fun _ => firstByKey flying).map fun r =>
        ({ s.dropRecall core r with nextReq := s.nextReq + 1 }).setTreq r fun q => { q with phase := .recall f.dest, fwd := some s.nextReq }

/-- A forwarding entry ends after 64 µs, when nothing that the block awaits can still reach the old core (R200). -/
def State.endForward (s : State) (core blk : Nat) : Option State :=
  ((s.core core).forwards.find? fun f => f.blk = blk).bind fun f =>
    let c := s.core core
    let awaited := (c.loads.any fun p => p.ent.blk = blk) || (c.copies.any fun q => q.2.blk = blk) || (c.traces.any fun q => q.2.blk = blk) ||
      s.treqs.any fun q => (decide (q.2.phase = .recall core) || decide (q.2.phase = .queued core)) &&
        decide ((tget s.tiles q.2.pa).map (·.holder) = some blk)
    if s.now < f.since + 70400 ∨ awaited = true then none
    else some (s.modCore core fun c => { c with forwards := c.forwards.filter fun x => !(x.blk = blk && x.since = f.since) })

/-- Evicted blocks that no core of their partition could ever hold, their pins met, are reported, and their launches fail with CAPACITY
(R197). -/
def State.reportLost (s : State) : State :=
  s.blocks.foldl (fun s p =>
    let l := s.launch p.2.launch
    if p.2.isEvicted && !p.2.ended && !s.fitsPinned l p.2.task p.2.blk.toNat p.2.savedShape then
      let s := (s.report p.1 (2 ^ 23)).modLaunch p.2.launch fun x => x.fail 0x2D p.2.blk
      s.killBlock p.1
    else s) s

/-! ### Partition swaps (R397) -/

/-- The blocks of a partition. -/
def State.partBlocks (s : State) (part : Nat) : List (Nat × Block) := s.blocks.filter fun p => (s.launch p.2.launch).part = part && !p.2.ended

/-- Have all resident contexts of a partition room in the shadow banks or the spill area? -/
def State.swapRoom (s : State) (part : Nat) : Bool :=
  natBit (s.part part).ctxbase.toNat 0 ||
    (s.partCores part).all fun core =>
      let mine := ((s.partBlocks part).filter fun p => p.2.core = core && decide (p.2.res = .resident)).flatMap fun p => p.2.liveWaves
      decide ((s.shadowUse core).1 + (mine.map fun w => w.2.footprint).sum ≤ 8192) && decide ((s.shadowUse core).2 + mine.length ≤ 128)

/-- The halt of a swap reaches a block (R397): a barrier that is due completes first (R296); a running handler is held too. -/
def Block.swapHalt (b : Block) (now : Nat) : Block :=
  let go (w : Wave) : Wave := if w.saved.isSome then { w with parent := { w.parent with skid := 0 } } else w
  let b := b.startHalt now
  { b with swap := true, waves := b.waves.map fun p => (p.1, go p.2) }

/-- A write of `PSWCTL`.out: every block of the partition halts, with no cause bit set. -/
def State.swapOut (s : State) (part : Nat) : State :=
  let p := s.part part
  if p.swBusy || p.swapped then s.modPart part fun p => { p with nospace := false }
  else if s.swapRoom part = false then s.modPart part fun p => { p with nospace := true }
  else
    let s := s.modPart part fun p => { p with nospace := false, swBusy := true, swIn := false }
    (s.partBlocks part).foldl (fun s p =>
      if p.2.res = .resident then (s.settleBarrier p.1).modBlock p.1 fun b => b.swapHalt s.now else s) s

/-- A write of `PSWCTL`.in. -/
def State.swapIn (s : State) (part : Nat) : State :=
  let p := s.part part
  if p.swBusy || !p.swapped then s.modPart part fun p => { p with nospace := false }
  else s.modPart part fun p => { p with nospace := false, swBusy := true, swIn := true }

/-- A wave as a swap finds it: stopped where it stands, without a cause; a handler's wave keeps what its handler's entry wrote. -/
def Wave.stopQuiet (w : Wave) : Wave :=
  if w.saved.isSome then
    let p := w.parent
    { w with parent := { p with pc := p.resumeAt, hints := [], wait := none, grant := 0, napEnd := 0, loop := none, fetched := [] } }
  else { w.stopHere with cause := w.cause }

/-- Every entity of a block stops, its traced run ends, and its contexts move out (R397, R413). -/
def State.swapBlock (s : State) (blk : Nat) : State :=
  match tget s.blocks blk with
  | none => s
  | some b =>
    -- a block that a trap has halted is frozen as such
    let s := if b.firstPending.isSome && !b.handling then s.freeze blk else s
    let s := b.waves.foldl (fun s p =>
      (s.unpark (.wave { blk := blk, slot := p.1, frag := false })).unpark (.wave { blk := blk, slot := p.1, frag := true })) s
    let b := (tget s.blocks blk).getD b
    let s := b.waves.foldl (fun s p => s.etchEnds blk b p.1 p.2 2) s
    let s := s.modCore b.core fun c => { c with freedAt := Vector.replicate 4 s.now }
    s.modBlock blk fun b =>
      { b with res := .swapped, frozen := true, bregLog := []
               waves := b.waves.map fun p => (p.1, if b.frozen && p.2.saved.isNone then p.2 else p.2.stopQuiet) }

/-- A swapped block stands on its core again: as an evicted one when the pool has become too small (R197), else it resumes, unless its
halt has a handler to run or to finish. -/
def State.unswapBlock (s : State) (blk : Nat) : State :=
  match tget s.blocks blk with
  | none => s
  | some b =>
    let go (e : Entity) : Entity := e.back s.now
    let b : Block := { b with swap := false, waves := b.waves.map fun p => (p.1, { p.2 with parent := go p.2.parent, frag := p.2.frag.map go }) }
    if s.wavesFit b.core b.q0 b.savedWaves (fun _ => 0) then
      let b := { b with res := .resident }
      s.setBlock blk (if b.firstPending.isSome || b.handling || b.reported then b else b.resume)
    else
      let b := if b.firstPending.isSome || b.handling || b.reported then b else b.resume
      s.setBlock blk { b with res := .evicted s.now, waves := b.waves.map fun p => (p.1, { p.2 with away := some (p.2.stallNow b) }) }

/-- A swap completes (R397). -/
def State.swapDone (s : State) (part : Nat) : Option State :=
  let p := s.part part
  let mine := s.partBlocks part
  if p.swBusy = false then none
  else if p.swIn then
    let s := mine.foldl (fun s q => if q.2.res = .swapped then s.unswapBlock q.1 else s) s
    some ((s.modPart part fun p => { p with swBusy := false, swDone := true, swapped := false }).reportLost)
  else if mine.any fun q => decide (q.2.res = .resident) && (s.resultsDue q.2 q.1 || (q.2.level.map (·.committing)).getD false) then none
  else
    let s := mine.foldl (fun s q => if q.2.res = .resident then s.swapBlock q.1 else s) s
    some (s.modPart part fun p => { p with swBusy := false, swDone := true, swapped := true })

end Sys2Proof.Machine
end

