-- ==== Sys2Proof/Machine/Matrix.lean ====
section
/-! DEFINITION. Matrix registers (R309–R317), moves, arithmetic, factorisations, solves and flags (R319–R324). -/
namespace Sys2Proof.Machine

/-! ### Registers -/

/-- A matrix register as the instruction reads it: in a split wave, of one that the other entity rewrites in a new shape, the old or the new
one, which one left open; of either only the reader's lanes count (R312; Level mode as for scalars, log 78). -/
def Ctx.rm (c : Ctx) (m : Reg3) : MReg :=
  let new := c.w0.m[m.toNat]
  if c.w0.frag.isNone || c.b.isLevel then new
  else c.finds (2080 + m.toNat) new ((c.w0.mlog.filter fun x => x.1 = m && x.2.1 ≠ c.r.frag).map (·.2.2))

/-- The elements of a lane, row by row; +0 when the name is unmapped (R309). -/
def MReg.elems (m : MReg) (l : Fin 32) : List Word :=
  match m.data with
  | some d => d[l]
  | none => List.replicate (m.rows * m.cols) 0

/-- Element (i, j) of a row-major list of `cols` columns. -/
def at2 (x : List Word) (cols i j : Nat) : Word := x.getD (i * cols + j) 0
def set2 (x : List Word) (cols i j : Nat) (v : Word) : List Word := x.set (i * cols + j) v

/-- Writes a matrix register in a shape (R309, R312): the lanes of the mask receive f; the others keep their elements, or read +0
when the register is mapped afresh or in a new shape. -/
def Ctx.wm (c : Ctx) (d : Reg3) (rows cols : Nat) (lanes : Mask) (f : Fin 32 → List Word) : Except Stop Ctx :=
  let old := c.w.m[d.toNat]
  let zero := List.replicate (rows * cols) (0 : Word)
  let put (c : Ctx) (keep : Lanes (List Word)) : Ctx :=
    { c with w := c.w.setM c.r.frag d old { rows := rows, cols := cols, data := some (lanesMerge lanes f keep) } }
  match old.data with
  | some k =>
    if old.rows = rows ∧ old.cols = cols then .ok (put c k)
    else
      let c := { c with w := { c.w with m := c.w.m.set d.toNat { old with data := none } } }
      (c.room (rows * cols)).map fun _ => put c (Vector.replicate 32 zero)
  | none => (c.room (rows * cols)).map fun _ => put c (Vector.replicate 32 zero)

/-- Elements and flags of a lane. -/
abbrev MatF := List Word × FFlags

/-- An arithmetic matrix instruction: the destination's shape, and each lane's elements with their flags (R320). -/
def matOp (d : Reg3) (rows cols : Nat) (f : Fin 32 → MatF) (c : Ctx) : Except Stop Ctx := do
  let r := lanesOf f
  let c ← c.wm d rows cols c.g fun l => (r[l]).1
  .ok (c.flags c.g fun l => (r[l]).2)

/-! ### The helpers of R313 -/

def fadd32 (x y : Word) : Word × FFlags := let r := fmt32.add .rne false x.toNat y.toNat; (BitVec.ofNat 32 r.1, r.2)
def fsub32 (x y : Word) : Word × FFlags := let r := fmt32.sub .rne false x.toNat y.toNat; (BitVec.ofNat 32 r.1, r.2)
def fmul32 (x y : Word) : Word × FFlags := let r := fmt32.mul .rne false x.toNat y.toNat; (BitVec.ofNat 32 r.1, r.2)
def ffma32 (x y z : Word) : Word × FFlags :=
  let r := fmt32.fma .rne false x.toNat y.toNat z.toNat
  (BitVec.ofNat 32 r.1, r.2)
def fma32 (x y z : Word) : Word := (ffma32 x y z).1
def fnma32 (x y z : Word) : Word := fma32 (x ^^^ 0x80000000) y z
def div32 (x y : Word) : Word := BitVec.ofNat 32 (fmt32.div .rne false x.toNat y.toNat).1
def sqrt32 (x : Word) : Word := BitVec.ofNat 32 (fmt32.sqrt .rne false x.toNat).1

def isNan32 (x : Word) : Bool := (fv32 x).isNan
def isInf32 (x : Word) : Bool := decide (x.toNat % 2 ^ 31 = 0x7F800000)
def isZero32 (x : Word) : Bool := decide (x.toNat % 2 ^ 31 = 0)
def neg32 (x : Word) : Bool := x.getLsbD 31

/-! ### Products -/

/-- One element of a product: the first product rounded, or an addend, then fused steps in ascending k (R320). -/
def dotSteps (x y : Nat → Word) (start : Option Word) (K : Nat) : Word × FFlags :=
  let step (acc : Word × FFlags) (k : Nat) : Word × FFlags :=
    let r := ffma32 (x k) (y k) acc.1
    (r.1, acc.2 ||| r.2)
  match start with
  | some s => (List.range K).foldl step (s, flNone)
  | none => ((List.range K).drop 1).foldl step (fmul32 (x 0) (y 0))

/-- The elements of an r×c result, computed element by element. -/
def matBuild (r c : Nat) (f : Nat → Nat → Word × FFlags) : MatF :=
  let es := (List.range r).flatMap fun i => (List.range c).map fun j => f i j
  (es.map (·.1), es.foldl (fun fl e => fl ||| e.2) flNone)

/-! ### Factorisations -/

/-- `mf` of a failing pivot: its flag bit and pidx = j + 1 (Table 14.2). -/
def mfPivot (flag j : Nat) : Word := BitVec.ofNat 32 (flag + 16 * (j + 1))
def mfNPD : Nat := 1
def mfZPIV : Nat := 2
def mfNAN : Nat := 4
def mfINF : Nat := 8

/-- The flag of a Cholesky pivot (R321). -/
def cholFlag (s : Word) : Option Nat :=
  if isNan32 s then some mfNAN
  else if s = 0x7F800000 then some mfINF
  else if neg32 s || isZero32 s then some mfNPD
  else none

/-- Column j of `MCHOL` on L, or the failure there (R321). -/
def cholColumn (n : Nat) (a L : List Word) (j : Nat) : Except (List Word × Word) (List Word) :=
  let s := (List.range j).foldl (fun s k => fnma32 (at2 L n j k) (at2 L n j k) s) (at2 a n j j)
  match cholFlag s with
  | some flag =>
    let L := (List.range n).foldl (fun L q =>
      if q < j then L else (List.range n).foldl (fun L i => if i < q then L else set2 L n i q (at2 a n i q)) L) L
    .error (L, mfPivot flag j)
  | none =>
    let d := sqrt32 s
    let L := set2 L n j j d
    .ok ((List.range n).foldl (fun L i =>
      if i ≤ j then L else
        let t := (List.range j).foldl (fun t k => fnma32 (at2 L n i k) (at2 L n j k) t) (at2 a n i j)
        set2 L n i j (div32 t d)) L)

/-- `MCHOL` on one lane: L and `mf`. -/
def cholesky (n : Nat) (a : List Word) : List Word × Word :=
  match (List.range n).foldlM (cholColumn n a) (List.replicate (n * n) 0) with
  | .ok L => (L, 0)
  | .error r => r

/-- The order of pivots: greatest magnitude, a NaN above every number (R322). -/
def pivKey (x : Word) : Nat := if isNan32 x then 2 ^ 33 else x.toNat % 2 ^ 31

/-- Exchanges rows i and p. -/
def swapRows (n : Nat) (W : List Word) (i p : Nat) : List Word :=
  (List.range (n * n)).map fun q =>
    let r := q / n
    let r' := if r = i then p else if r = p then i else r
    at2 W n r' (q % n)

/-- Step j of `MLU` on W and perm, or its stop (R322). -/
def luStep (n : Nat) (st : List Word × List Nat) (j : Nat) : Except (List Word × List Nat × Word) (List Word × List Nat) :=
  let (W, perm) := st
  let p := (List.range n).foldl (fun p i => if j < i ∧ pivKey (at2 W n p j) < pivKey (at2 W n i j) then i else p) j
  let W := swapRows n W j p
  let perm := (perm.set j (perm.getD p 0)).set p (perm.getD j 0)
  let v := at2 W n j j
  let flag := if isNan32 v then mfNAN else if isInf32 v then mfINF else if isZero32 v then mfZPIV else 0
  if flag ≠ 0 then .error (W, perm, mfPivot flag j) else
  .ok ((List.range n).foldl (fun W i =>
    if i ≤ j then W else
      let W := set2 W n i j (div32 (at2 W n i j) v)
      (List.range n).foldl (fun W k => if k ≤ j then W else
        set2 W n i k (fnma32 (at2 W n i j) (at2 W n j k) (at2 W n i k))) W) W, perm)

/-- `MLU` on one lane: W, the permutation word and `mf`. -/
def luFactor (n : Nat) (a : List Word) : List Word × Word × Word :=
  let word (perm : List Nat) : Word := BitVec.ofNat 32 (perm.zipIdx.foldl (fun s p => s + p.1 * 2 ^ (3 * p.2)) 0)
  match (List.range n).foldlM (luStep n) (a, List.range n) with
  | .ok (W, perm) => (W, word perm, if W.any isNan32 then 4 else if W.any isInf32 then 8 else 0)
  | .error (W, perm, mf) => (W, word perm, mf)

/-- The forward pass of `MSOLVE` on n×c right-hand sides. -/
def solveForward (n c : Nat) (unit : Bool) (a X : List Word) : List Word :=
  (List.range c).foldl (fun X q => (List.range n).foldl (fun X i =>
    let t := (List.range i).foldl (fun t k => fnma32 (at2 a n i k) (at2 X c k q) t) (at2 X c i q)
    set2 X c i q (if unit then t else div32 t (at2 a n i i))) X) X

/-- The backward pass; for `.chol` the upper factor is the transpose. -/
def solveBackward (n c : Nat) (chol : Bool) (a X : List Word) : List Word :=
  (List.range c).foldl (fun X q => (List.range n).reverse.foldl (fun X i =>
    let t := (List.range n).foldl (fun t k =>
      if k ≤ i then t else fnma32 (if chol then at2 a n k i else at2 a n i k) (at2 X c k q) t) (at2 X c i q)
    set2 X c i q (div32 t (at2 a n i i))) X) X

/-- `MSOLVE` on one lane: X and `mf` (R323). -/
def solve (m : BitVec 2) (n c : Nat) (a b : List Word) (perm : Word) : List Word × Word :=
  let X := if m = 3 then (List.range (n * c)).map fun q =>
      let p := natBits perm.toNat (3 * (q / c) + 2) (3 * (q / c))
      if n ≤ p then 0 else at2 b c p (q % c)
    else b
  let X := if m = 1 then X else solveForward n c (decide (m = 3)) a X
  let X := if m = 0 then X else solveBackward n c (decide (m = 2)) a X
  let z := match (List.range n).find? fun i => isZero32 (at2 a n i i) with
    | some i => mfZPIV + 16 * (i + 1)
    | none => 0
  (X, BitVec.ofNat 32 (z + (if X.any isNan32 then mfNAN else 0) + (if X.any isInf32 then mfINF else 0)))

/-- Replaces `mf` in the lanes that take part; an enabled MATSING is flagged for collection (R314, R315). -/
def Ctx.setMf (c : Ctx) (f : Fin 32 → Word) : Ctx :=
  let c := { c with w := { c.w with mf := lanesMerge c.g f c.w.mf } }
  let bad : Mask := maskOf fun l => inMask c.g l && decide ((f l).toNat % 16 ≠ 0)
  if c.w0.fpx.getLsbD 5 && decide (bad ≠ 0) then { c with fx := some (causeBit cMATSING, bad) } else c

/-- `MMOV` (R319). -/
def execMmov (d a : BitVec 3) (gd : Guard) (s : State) : Host.Outcome State Fault Refusal :=
  run (.mmov d a gd) (fun c => c.wm d (c.rm a).rows (c.rm a).cols c.g (c.rm a).elems) s

/-- `MGET` (R319). -/
def execMget (i a j : BitVec 3) (v : BitVec 5) (gd : Guard) (s : State) : Host.Outcome State Fault Refusal :=
  run (.mget i a j v gd) (fun c =>
      let m := c.rm a
      if i.toNat < m.rows ∧ j.toNat < m.cols then c.wv v.toNat c.g fun l => at2 (m.elems l) m.cols i.toNat j.toNat
      else raises cILLOP) s

/-- `MSET` (R319). -/
def execMset (d i j : BitVec 3) (v : BitVec 5) (gd : Guard) (s : State) : Host.Outcome State Fault Refusal :=
  run (.mset d i j v gd) (fun c =>
      let m := c.w.m[d.toNat]
      if i.toNat < m.rows ∧ j.toNat < m.cols then
        c.wm d m.rows m.cols c.g fun l => set2 (m.elems l) m.cols i.toNat j.toNat (c.rvn v.toNat)[l]
      else raises cILLOP) s

/-- `MZERO` (R319). -/
def execMzero (d r c : BitVec 3) (gd : Guard) (s : State) : Host.Outcome State Fault Refusal :=
  run (.mzero d r c gd) (fun x => x.wm d (r.toNat + 1) (c.toNat + 1) x.g fun _ => List.replicate ((r.toNat + 1) * (c.toNat + 1)) 0) s

/-- `MIDENT` (R319). -/
def execMident (d r c : BitVec 3) (gd : Guard) (s : State) : Host.Outcome State Fault Refusal :=
  run (.mident d r c gd) (fun x => x.wm d (r.toNat + 1) (c.toNat + 1) x.g fun _ =>
      (matBuild (r.toNat + 1) (c.toNat + 1) fun i j => (if i = j then 0x3F800000 else 0, flNone)).1) s

/-- `MTRN` (R319). -/
def execMtrn (d a : BitVec 3) (gd : Guard) (s : State) : Host.Outcome State Fault Refusal :=
  run (.mtrn d a gd) (fun c =>
      let m := c.rm a
      c.wm d m.cols m.rows c.g fun l => (matBuild m.cols m.rows fun i j => (at2 (m.elems l) m.cols j i, flNone)).1) s

/-- `MADD` (R320). -/
def execMadd (d a b : BitVec 3) (gd : Guard) (s : State) : Host.Outcome State Fault Refusal :=
  run (.madd d a b gd) (fun c =>
      let x := c.rm a
      let y := c.rm b
      if x.rows = y.rows ∧ x.cols = y.cols then
        matOp d x.rows x.cols (fun l => matBuild x.rows x.cols fun i j =>
          fadd32 (at2 (x.elems l) x.cols i j) (at2 (y.elems l) x.cols i j)) c
      else raises cILLOP) s

/-- `MSUB` (R320). -/
def execMsub (d a b : BitVec 3) (gd : Guard) (s : State) : Host.Outcome State Fault Refusal :=
  run (.msub d a b gd) (fun c =>
      let x := c.rm a
      let y := c.rm b
      if x.rows = y.rows ∧ x.cols = y.cols then
        matOp d x.rows x.cols (fun l => matBuild x.rows x.cols fun i j =>
          fsub32 (at2 (x.elems l) x.cols i j) (at2 (y.elems l) x.cols i j)) c
      else raises cILLOP) s

/-- `MSCL` (R320). -/
def execMscl (d a : BitVec 3) (v : BitVec 5) (gd : Guard) (s : State) : Host.Outcome State Fault Refusal :=
  run (.mscl d a v gd) (fun c =>
      let x := c.rm a
      matOp d x.rows x.cols (fun l => matBuild x.rows x.cols fun i j =>
        fmul32 (at2 (x.elems l) x.cols i j) (c.rvn v.toNat)[l]) c) s

/-- `MMUL` (R320). -/
def execMmul (d a b : BitVec 3) (gd : Guard) (s : State) : Host.Outcome State Fault Refusal :=
  run (.mmul d a b gd) (fun c =>
      let x := c.rm a
      let y := c.rm b
      if x.cols = y.rows then
        matOp d x.rows y.cols (fun l => matBuild x.rows y.cols fun i j =>
          dotSteps (fun k => at2 (x.elems l) x.cols i k) (fun k => at2 (y.elems l) y.cols k j) none x.cols) c
      else raises cILLOP) s

/-- `MMULT` (R320). -/
def execMmult (d a b : BitVec 3) (gd : Guard) (s : State) : Host.Outcome State Fault Refusal :=
  run (.mmult d a b gd) (fun c =>
      let x := c.rm a
      let y := c.rm b
      if x.rows = y.rows then
        matOp d x.cols y.cols (fun l => matBuild x.cols y.cols fun i j =>
          dotSteps (fun k => at2 (x.elems l) x.cols k i) (fun k => at2 (y.elems l) y.cols k j) none x.rows) c
      else raises cILLOP) s

/-- `MFMA` (R320). -/
def execMfma (d a b c : BitVec 3) (gd : Guard) (s : State) : Host.Outcome State Fault Refusal :=
  run (.mfma d a b c gd) (fun t =>
      let x := t.rm a
      let y := t.rm b
      let z := t.rm c
      if x.cols = y.rows ∧ z.rows = x.rows ∧ z.cols = y.cols then
        matOp d x.rows y.cols (fun l => matBuild x.rows y.cols fun i j =>
          dotSteps (fun k => at2 (x.elems l) x.cols i k) (fun k => at2 (y.elems l) y.cols k j)
            (some (at2 (z.elems l) y.cols i j)) x.cols) t
      else raises cILLOP) s

/-- `MCHOL` (R321). -/
def execMchol (d a : BitVec 3) (gd : Guard) (s : State) : Host.Outcome State Fault Refusal :=
  run (.mchol d a gd) (fun c =>
      let x := c.rm a
      if x.rows = x.cols then do
        let r := lanesOf fun l => cholesky x.rows (x.elems l)
        let c ← c.wm d x.rows x.rows c.g fun l => (r[l]).1
        .ok (c.setMf fun l => (r[l]).2)
      else raises cILLOP) s

/-- `MLU` (R322). -/
def execMlu (d a : BitVec 3) (v : BitVec 5) (gd : Guard) (s : State) : Host.Outcome State Fault Refusal :=
  run (.mlu d a v gd) (fun c =>
      let x := c.rm a
      if x.rows = x.cols then do
        let r := lanesOf fun l => luFactor x.rows (x.elems l)
        let c ← c.wm d x.rows x.rows c.g fun l => (r[l]).1
        let c ← c.wv v.toNat c.g fun l => (r[l]).2.1
        .ok (c.setMf fun l => (r[l]).2.2)
      else raises cILLOP) s

/-- `MSOLVE` (R323). -/
def execMsolve (d a b : BitVec 3) (m : BitVec 2) (gd : Guard) (s : State) : Host.Outcome State Fault Refusal :=
  run (.msolve d a b m gd) (fun c =>
      let x := c.rm a
      let y := c.rm b
      if x.rows = x.cols ∧ y.rows = x.rows then do
        let r := lanesOf fun l => solve m x.rows y.cols (x.elems l) (y.elems l) (c.rv c.vcReg)[l]
        let c ← c.wm d x.rows y.cols c.g fun l => (r[l]).1
        .ok (c.setMf fun l => (r[l]).2)
      else raises cILLOP) s

/-- `MFLG` (R324). -/
def execMflg (m k : BitVec 4) (gd : Guard) (s : State) : Host.Outcome State Fault Refusal :=
  run (.mflg m k gd) (predOp k fun c l => decide ((c.w0.mf[l]).toNat % 16 &&& m.toNat ≠ 0)) s

end Sys2Proof.Machine
end

