-- ==== Sys2Proof/Machine/StipRun.lean ====
section
/-! DEFINITION. The Stipple's engines (R354–R373): vertex records in the plates' memory, partial sums and weights, merges, references,
retirement, and what each instruction answers for a lane. -/
namespace Sys2Proof.Machine

/-! ### Records -/

def State.stip (s : State) : Stipple := s.hub.stip
def State.stipPlate (s : State) (p : Nat) : StipPlate := if p = 0 then s.hub.stip.plates[0] else s.hub.stip.plates[1]
def State.modStipPlate (s : State) (p : Nat) (f : StipPlate → StipPlate) : State :=
  s.modHub fun h => { h with stip := { h.stip with
    plates := if p = 0 then h.stip.plates.set 0 (f h.stip.plates[0]) else h.stip.plates.set 1 (f h.stip.plates[1]) } }

/-- The slots of a plate. -/
def Stipple.slots (x : Stipple) : Nat := 2 ^ x.ncap.toNat

/-- The physical address of a record (R354). -/
def State.recordAt (s : State) (p slot : Nat) : Nat :=
  s.ownModule * 2 ^ 46 + p * 2 ^ 45 + natBits (s.stipPlate p).base.toNat 44 20 * 2 ^ 20 + 64 * slot

/-- An identifier (R355): plate, generation bits and slot. -/
def idPlate (id : Word) : Nat := natBits id.toNat 31 31
def idGen (id : Word) : Nat := natBits id.toNat 30 28
def idSlot (id : Word) : Nat := natBits id.toNat 27 0
def noVertex : Word := 0xFFFFFFFF

/-- A record as a number of 512 bits (Table 18.3); one that another agent has changed is undefined (R354). -/
def State.record (s : State) (id : Word) : Nat :=
  let at_ := s.recordAt (idPlate id) (idSlot id)
  let r := leNat (s.readHome at_ 64)
  let known := tget (s.stipPlate (idPlate id)).written (idSlot id)
  if known.isNone || known = some r then r else leNat ((List.range 64).map fun j => Config.raceByte s.now 4 at_ j)

/-- The Stipple writes a record. -/
def State.setRecord (s : State) (id : Word) (r : Nat) : State :=
  (s.writeHome (s.recordAt (idPlate id) (idSlot id)) (leBytes r 64)).modStipPlate (idPlate id) fun x =>
    { x with written := tset x.written (idSlot id) (r % 2 ^ 512) }

/-- What stands in the slot-allocator area or the merge-grid area of a plate (Table 18.2). -/
def State.areaCells (s : State) (p : Nat) (base : Dword) : List Host.Cell :=
  let first := s.ownModule * 2 ^ 46 + p * 2 ^ 45 + natBits base.toNat 44 20 * 2 ^ 20
  s.mem.filter fun c => decide (first ≤ c.1) && decide (c.1 < first + 2 ^ (s.stip.ncap.toNat + 3))

/-- Has another agent changed a plate's slot-allocator area, or a merge-grid area (R354)? -/
def State.slotsSpoiled (s : State) (p : Nat) : Bool := decide (s.areaCells p (s.stipPlate p).slot ≠ (s.stipPlate p).slotArea)
def State.gridSpoiled (s : State) (p : Nat) : Bool := decide (s.areaCells p (s.stipPlate p).grid ≠ (s.stipPlate p).gridArea)

def rWord (r i : Nat) : Word := BitVec.ofNat 32 (natBits r (32 * i + 31) (32 * i))
def rPdfFwd (r : Nat) : Word := rWord r 7
def rPdfRev (r : Nat) : Word := rWord r 8
def rL (r : Nat) : Word := rWord r 9
def rParent (r : Nat) : Word := rWord r 10
def rPath (r : Nat) : Nat := natBits r 383 352
def rDepth (r : Nat) : Nat := natBits r 399 384
def rGen (r : Nat) : Nat := natBits r 407 400
def rM (r : Nat) : Word := rWord r 14
def rRefs (r : Nat) : Nat := natBits r 495 480
/-- Flags (Table 18.4). -/
def rFlag (r i : Nat) : Bool := natBit r (208 + i)
def rLight (r : Nat) : Bool := rFlag r 0
def rEndp (r : Nat) : Bool := rFlag r 1
def rDelta (r : Nat) : Bool := rFlag r 2
def rSealed (r : Nat) : Bool := rFlag r 3
def rMerge (r : Nat) : Bool := rFlag r 4
def rPconn (r : Nat) : Bool := rFlag r 5
def rLive (r : Nat) : Bool := rFlag r 6
def rConn (r : Nat) : Bool := rEndp r || !rDelta r

/-! ### Arithmetic -/

def one32 : Word := 0x3F800000
def bool32 (b : Bool) : Word := if b then one32 else 0
def add32 (x y : Word) : Word := BitVec.ofNat 32 (fmt32.add .rne false x.toNat y.toNat).1
def sub32 (x y : Word) : Word := BitVec.ofNat 32 (fmt32.sub .rne false x.toNat y.toNat).1
def mul32 (x y : Word) : Word := BitVec.ofNat 32 (fmt32.mul .rne false x.toNat y.toNat).1
/-- ρ, the heuristic (Table 18.2). -/
def rho (power : Bool) (x : Word) : Word := if power then mul32 x x else x

/-- Finite and at or above +0, or above it. -/
def nonNeg (x : Word) : Bool :=
  match fv32 x with
  | .fin neg n _ => !neg || decide (n = 0)
  | _ => false
def positive (x : Word) : Bool := nonNeg x && (match fv32 x with
  | .fin _ n _ => decide (n ≠ 0)
  | _ => false)

/-! ### Retirement -/

/-- Is a live vertex eligible (R363)? -/
def State.eligible (s : State) (p slot : Nat) : Bool :=
  let r := s.record (BitVec.ofNat 32 (p * 2 ^ 31 + slot))
  (tget (s.stipPlate p).live slot).isSome && decide (rRefs r = 0) &&
    decide (s.stip.wret.toNat < (s.stip.gen.toNat % 256 + 256 - rGen r) % 256)

/-- Changes a record's reference count. -/
def State.setRefs (s : State) (id : Word) (n : Nat) : State := s.setRecord id (natSet (s.record id) 495 480 n)

/-- A vertex retires (R362, R363): its live flag is cleared, its slot is free, it leaves its grid, and its parent loses a reference. -/
def State.retireVertex (s : State) (p slot : Nat) : State :=
  let id : Word := BitVec.ofNat 32 (p * 2 ^ 31 + slot)
  let r := s.record id
  let s := s.setRecord id (natSet r 214 214 0)
  let s := s.modStipPlate p fun x =>
    let next := ringNext x.prod x.wrap
    { x with live := tdel x.live slot, merge := x.merge.filter fun m => idSlot m ≠ slot, prod := next.1, wrap := next.2 }
  let par := rParent r
  if par = noVertex then s else s.setRefs par (rRefs (s.record par) - 1)

/-! ### Naming a vertex -/

/-- The status of an identifier of a vertex that an instruction needs: 8 bad, 2 stale, 0. A vertex that is eligible may be acted on or
reported stale (R355, R364). -/
def State.idStatus (s : State) (id : Word) : Nat × State :=
  if s.stip.slots ≤ idSlot id ∨ id = noVertex then (8, s) else
  let r := s.record id
  if (tget (s.stipPlate (idPlate id)).live (idSlot id)).isNone || decide (rGen r % 8 ≠ idGen id) then (2, s)
  else if s.eligible (idPlate id) (idSlot id) then
    let (v, s) := s.takeFree
    (if v.getLsbD 0 then 2 else 0, s)
  else (0, s)

/-- The first status, in an order, that any of several identifiers has. -/
def worstOf (order : List Nat) (xs : List Nat) : Nat := (order.find? fun o => xs.contains o).getD 0

/-! ### Appending -/

/-- The slots of a plate that an append may use: all but the one whose identifier would be that of no vertex (R355; log 97). -/
def State.namedSlots (s : State) (p : Nat) : Nat :=
  if p = 1 ∧ s.stip.gen.toNat % 8 = 7 ∧ s.stip.slots = 2 ^ 28 then 2 ^ 28 - 1 else s.stip.slots

/-- A slot for a new vertex of a plate, which one is unspecified (R363, R367); none when no slot is free and no vertex is eligible, but for
the named parent, which the append keeps (R362). -/
def State.allocVertex (s : State) (p : Nat) (par : Word) : Option (Nat × State) :=
  let slots := s.namedSlots p
  let live := (s.stipPlate p).live.filter fun x => decide (x.1 < slots)
  let free := slots - live.length
  if 0 < free then
    let (v, s) := s.takeFree
    some (live.foldl (fun k x => if x.1 ≤ k then k + 1 else k) (v.toNat % free), s)
  else
    let cands := live.filter fun x => s.eligible p x.1 && !(decide (par ≠ noVertex) && decide (idPlate par = p) && decide (idSlot par = x.1))
    if cands.isEmpty then none else
    let (v, s) := s.takeFree
    match cands[v.toNat % cands.length]? with
    | some x => some (x.1, s.retireVertex p x.1)
    | none => none

/-- A supplied record with the fields the hardware computes (R357), given the parent record. -/
def vertexRecord (power : Bool) (gen : Nat) (img : Nat) (parent : Option Nat) : Nat :=
  let delta := rDelta img
  let light := rLight img
  let endp := parent.isNone
  let merge := rMerge img && light && !endp && !delta
  let rev : Word := if endp then 0 else rPdfRev img
  let cp := match parent with
    | some P => rConn P
    | none => !delta
  let t : Word := match parent with
    | some P => rho power (div32 (rPdfRev img) (rPdfFwd P))
    | none => 0
  let L : Word := match parent with
    | some P => mul32 t (add32 (bool32 (rConn P && rPconn P)) (rL P))
    | none => 0
  let M : Word := match parent with
    | some P => mul32 t (add32 (bool32 (rMerge P)) (rM P))
    | none => 0
  let bit (b : Bool) (i : Nat) : Nat := if b then 2 ^ i else 0
  let flags := bit light 0 + bit endp 1 + bit delta 2 + bit merge 4 + bit cp 5 + 2 ^ 6
  let depth := (parent.map fun P => rDepth P + 1).getD 0
  let r := natSet img 223 208 flags
  let r := natSet r 287 256 rev.toNat
  let r := natSet r 319 288 L.toNat
  let r := natSet r 399 384 depth
  let r := natSet r 407 400 (gen % 256)
  let r := natSet r 479 448 M.toNat
  natSet r 511 480 0

/-- Are the supplied fields within their rules (R357, R367)? -/
def appendOk (img : Nat) (parent : Option Nat) : Bool :=
  decide (natBits img 223 215 = 0) && positive (rPdfFwd img) &&
    (match parent with
     | none => true
     | some P => nonNeg (rPdfRev img) && decide (rLight img = rLight P) && decide (rDepth P ≠ 65535))

/-- Seals a vertex (R368, R360). -/
def State.sealVertex (s : State) (id : Word) : State :=
  let r := s.record id
  if rSealed r then s else
  let s := s.setRecord id (natSet r 211 211 1)
  if rMerge r && decide (rGen r = s.stip.gen.toNat % 256) then s.modStipPlate (idPlate id) fun x => { x with merge := x.merge ++ [id] }
  else s

/-- `VAPP` in one lane (R367): identifier and status. -/
def State.vapp (s : State) (core : Nat) (seals : Bool) (ws : List Word) : List Word × State :=
  let img := (ws.zipIdx.map fun p => p.1.toNat * 2 ^ (32 * p.2)).sum
  let par := rParent img
  let (st, s) := if par = noVertex then (0, s) else s.idStatus par
  let P := if par = noVertex then none else some (s.record par)
  let st := if st ≠ 0 then st
    else if (P.map rSealed) = some false then 1
    else if appendOk img P = false then 6
    else if (P.map rRefs) = some 65535 then 4 else 0
  if st ≠ 0 then ([noVertex, BitVec.ofNat 32 st], s) else
  let p := corePlate core
  match s.allocVertex p par with
  -- FULL is for a plate without an eligible vertex: an eligible parent may be reported STALE (R363, R364)
  | none => ([noVertex, if par ≠ noVertex ∧ idPlate par = p ∧ s.eligible p (idSlot par) = true then 2 else 3], s)
  | some (slot, s) =>
    let gen := s.stip.gen.toNat
    let id : Word := BitVec.ofNat 32 (p * 2 ^ 31 + gen % 8 * 2 ^ 28 + slot)
    let s := s.setRecord id (vertexRecord s.stip.heur gen img P)
    let s := s.modStipPlate p fun x => { x with live := tset x.live slot () }
    let s := if par = noVertex then s else s.setRefs par (rRefs (s.record par) + 1)
    ([id, 0], if seals then s.sealVertex id else s)

/-! ### Weights -/

/-- A connection term: ρ(div32(rx, X.pdf_fwd)) × (X.pconn + X.L) (R358). -/
def connTerm (power : Bool) (rx : Word) (X : Nat) : Word :=
  mul32 (rho power (div32 rx (rPdfFwd X))) (add32 (bool32 (rPconn X)) (rL X))

/-- D of R358 and R359. -/
def connSum (power : Bool) (E Λ : Nat) (re rl : Word) : Word :=
  add32 (add32 one32 (connTerm power rl Λ)) (connTerm power re E)

/-- Is a density ratio beyond the format (R358)? -/
def overflown (x : Word) : Bool := match fv32 x with
  | .fin .. => false
  | _ => true

/-- The hit term of a subpath, and whether a ratio of it overflows (R359); none when the walk passes 63 ancestors. -/
def State.hitTerm (s : State) (power : Bool) : Nat → Nat → Word × Bool → Option (Word × Bool)
  | 0, v, h => if rEndp v then some (if rDelta v then (0, false) else h) else none
  | k + 1, v, h =>
    if rEndp v then some (if rDelta v then (0, false) else h)
    else
      let p := s.record (rParent v)
      let x := rho power (div32 (rPdfRev v) (rPdfFwd p))
      s.hitTerm power k p (mul32 h.1 x, h.2 || overflown x)

/-- `VCONN`, or `VRWT` with m, in one lane (R358, R359, R369): weight and status. -/
def State.connect (s : State) (m : Option Word) (ws : List Word) : List Word × State :=
  let e := ws.getD 0 0
  let l := ws.getD 1 0
  let re := ws.getD 2 0
  let rl := ws.getD 3 0
  let (se, s) := s.idStatus e
  let (sl, s) := s.idStatus l
  let E := s.record e
  let Λ := s.record l
  let pw := s.stip.heur
  let st := worstOf [8, 2] [se, sl]
  let st := if st ≠ 0 then st
    else if rSealed E = false ∨ rSealed Λ = false then 1
    else if rLight E ∨ rLight Λ = false ∨ nonNeg re = false ∨ nonNeg rl = false then 6 else 0
  if st ≠ 0 then ([0, BitVec.ofNat 32 st], s)
  else if !rConn E || !rConn Λ then ([0, 0], s)
  else
    let D := connSum pw E Λ re rl
    let tl := rho pw (div32 rl (rPdfFwd Λ))
    let te := rho pw (div32 re (rPdfFwd E))
    -- a ratio that overflows gives +0 (log 88)
    let tooLarge := overflown tl || overflown te
    match m with
    | none => ([if tooLarge then 0 else div32 one32 D, 0], s)
    | some m =>
      match s.hitTerm pw 63 Λ (tl, false), s.hitTerm pw 63 E (te, false) with
      | some hl, some he =>
        let sm := rho pw (div32 one32 m)
        ([if tooLarge then 0
          else if m = one32 then div32 one32 D
          else if hl.2 || he.2 then 0
          else div32 one32 (add32 D (mul32 (sub32 sm one32) (add32 hl.1 he.1))), 0], s)
      | _, _ => ([0, 5], s)

/-! ### Merging -/

/-- The squared distance of R360. -/
def distance2 (q p : List Word) : Word :=
  let d (i : Nat) : Word := sub32 (q.getD i 0) (p.getD i 0)
  fma32 (d 2) (d 2) (fma32 (d 1) (d 1) (mul32 (d 0) (d 0)))

def fle32 (x y : Word) : Bool := (fmt32.cmp 3 false x.toNat y.toNat).1

/-- Inserts into a list that rises by a key. -/
def insertKey (x : List Nat × Word) : List (List Nat × Word) → List (List Nat × Word)
  | [] => [x]
  | y :: ys =>
    let rec less : List Nat → List Nat → Bool
      | a :: as, b :: bs => decide (a < b) || (decide (a = b) && less as bs)
      | _, _ => false
    if less x.1 y.1 then x :: y :: ys else y :: insertKey x ys

/-- `VMERGE` in one lane (R360, R370): eight identifiers and the word of count and status. -/
def State.vmerge (s : State) (ws : List Word) : List Word :=
  let q := ws.take 3
  let r := ws.getD 3 0
  -- the cell edge is one per plate; the radius keeps to both
  let ok := !(q.any fun x => (fv32 x).isNan) && nonNeg r &&
    fle32 r (s.stipPlate 0).cell && fle32 r (s.stipPlate 1).cell
  if ok = false then List.replicate 8 noVertex ++ [0x600] else
  let lim := mul32 r r
  let cands := ((s.stipPlate 0).merge ++ (s.stipPlate 1).merge).filterMap fun id =>
    let rec_ := s.record id
    let p := [rWord rec_ 0, rWord rec_ 1, rWord rec_ 2]
    let d2 := distance2 q p
    if p.any (fun x => (fv32 x).isNan) ∨ fle32 d2 lim = false ∨ (tget (s.stipPlate (idPlate id)).live (idSlot id)).isNone then none
    else some ([fmt32.orderKey d2.toNat, rPath rec_, rDepth rec_, id.toNat], id)
  let sorted := (cands.foldl (fun acc x => insertKey x acc) []).map (·.2)
  let top := sorted.take 8
  (top ++ List.replicate (8 - top.length) noVertex) ++
    [BitVec.ofNat 32 (top.length + (if 8 < sorted.length then 16 else 0))]

/-! ### Reading and counting -/

/-- `VGET` in one lane (R371). -/
def State.vget (s : State) (id : Word) : List Word × State :=
  let (st, s) := s.idStatus id
  let r := s.record id
  let st := if st ≠ 0 then st else if rSealed r = false then 1 else 0
  -- a bad identifier names no record: its reference count is stated nowhere
  let (refs, s) := if st = 8 then (let (v, s) := s.takeFree; (v.toNat % 2 ^ 16, s)) else (rRefs r, s)
  if st ≠ 0 then (List.replicate 15 0 ++ [BitVec.ofNat 32 (refs + st * 2 ^ 16)], s)
  else ((List.range 15).map (rWord r) ++ [BitVec.ofNat 32 (refs + st * 2 ^ 16)], s)

/-- `VREF` and `VREL` in one lane (R372). -/
def State.vref (s : State) (add : Bool) (id : Word) : List Word × State :=
  let (st, s) := s.idStatus id
  let r := s.record id
  let st := if st ≠ 0 then st
    else if rSealed r = false then 1
    else if add then (if rRefs r = 65535 then 4 else 0)
    else (if rRefs r = 0 then 7 else 0)
  ([BitVec.ofNat 32 st], if st ≠ 0 then s else s.setRefs id (if add then rRefs r + 1 else rRefs r - 1))

/-- `VSEAL` in one lane (R368). -/
def State.vseal (s : State) (id : Word) : List Word × State :=
  let (st, s) := s.idStatus id
  ([BitVec.ofNat 32 st], if st ≠ 0 then s else s.sealVertex id)

/-- `VGEN` (R361, R373): the generation after it. -/
def State.vgen (s : State) (expected : Word) : Word × State :=
  let g := s.stip.gen
  if g.setWidth 32 = expected then
    let s := s.modHub fun h => { h with stip := { h.stip with gen := g + 1, plates := h.stip.plates.map fun p => { p with merge := [] } } }
    ((g + 1).setWidth 32, s)
  else (g.setWidth 32, s)

/-! ### A whole instruction -/

/-- The registers that a Stipple instruction writes: the first and how many. -/
def stipDest (i : Instr) : Nat × Nat :=
  match i with
  | .vapp d .. | .vconn d .. | .vrwt d .. => (d.toNat, 2)
  | .vseal d .. | .vref d .. | .vrel d .. | .vgen d .. => (d.toNat, 1)
  | .vmerge d .. => (d.toNat, 9)
  | .vget d .. => (d.toNat, 16)
  | _ => (0, 0)

/-- Free words. -/
def State.freeWords (s : State) : Nat → List Word × State
  | 0 => ([], s)
  | n + 1 =>
    let (v, s) := s.takeFree
    let (ws, s) := s.freeWords n
    (v.setWidth 32 :: ws, s)

/-- What an operation does and answers in one lane. -/
def State.stipLane (s : State) (core : Nat) (i : Instr) (m : Word) (ws : List Word) : List Word × State :=
  match i with
  | .vapp _ _ _ seals _ =>
    let (ws, t) := s.vapp core seals ws
    if s.slotsSpoiled (corePlate core) then t.freeWords 2 else (ws, t)
  | .vseal .. => s.vseal (ws.getD 0 0)
  | .vconn .. => s.connect none ws
  | .vrwt .. => s.connect (some m) ws
  | .vmerge .. => if s.gridSpoiled 0 || s.gridSpoiled 1 then s.freeWords 9 else (s.vmerge ws, s)
  | .vget .. => s.vget (ws.getD 0 0)
  | .vref .. => s.vref true (ws.getD 0 0)
  | .vrel .. => s.vref false (ws.getD 0 0)
  | _ => ([], s)

/-- An operation in all its lanes, in ascending order; a lane that met an error has its record effect or not, and undefined results
(R374). The results by lane. -/
def State.stipPerform (s : State) (core : Nat) (q : StipOp) (err : Mask) : Lanes (List Word) × State :=
  let src (l : Fin 32) : List Word := q.src.map fun v => v[l]
  let n := (stipDest q.i).2
  match q.i with
  | .vgen .. =>
    match lowestLane q.lanes with
    | none => (lanesOf fun _ => [], s)
    | some l0 =>
      let (w, t) := s.vgen ((src l0).getD 0 0)
      if err = 0 then (lanesOf fun _ => [w], t) else
      let (v, s) := s.takeFree
      let t : State := if v.getLsbD 0 then { t with fresh := s.fresh } else s
      let (vs, t) := t.freeWords 32
      (lanesOf fun l => [if inMask err l then vs.getD l.val 0 else w], t)
  | _ =>
    let (rs, s) := (lanesIn q.lanes).foldl (fun (r : List (Fin 32 × List Word) × State) l =>
      let (ws, t) := r.2.stipLane core q.i q.m (src l)
      if inMask err l then
        let (v, u) := r.2.takeFree
        let t : State := if v.getLsbD 0 then { t with fresh := max t.fresh u.fresh } else u
        let (fs, t) := t.freeWords n
        (r.1 ++ [(l, fs)], t)
      else (r.1 ++ [(l, ws)], t)) ([], s)
    (lanesOf fun l => ((rs.find? fun x => x.1 = l).map (·.2)).getD [], s)

end Sys2Proof.Machine
end

