-- ==== Sys2Proof/Machine/HubRegs.lean ====
section
/-! DEFINITION. The hub register window (R100, R398, R415, R420, R430, Tables 4.5, 18.1, 20.6, 22.7, 23.1–23.4): what each register reads, and
what a write of 4 or 8 bytes does. -/
namespace Sys2Proof.Machine

/-! ### Registers with an action -/

/-- A field of a number placed at its bit. -/
def at_ (v lo : Nat) : Nat := v * 2 ^ lo
/-- The bits hi down to lo of a word, in place. -/
def keepBits (v : Dword) (hi lo : Nat) : Nat := natBits v.toNat hi lo * 2 ^ lo

/-- The defect-map signature of a partition follows its clusters (R186): a free value. -/
def State.newSig (s : State) (part : Nat) : State :=
  let (v, s) := s.takeFree
  s.modPart part fun p => { p with ptsig := v }

/-- The record of repaired cores and banks of a core's partition changes (R186). -/
def State.repaired (s : State) (core : Nat) : State :=
  match s.partOf core with
  | some n => s.newSig n
  | none => s

/-- Does the partition hold a block: one of its launches, or one that stands on a core of its clusters (R202 places a task on its home core)? -/
def State.partHolds (s : State) (part : Nat) : Bool :=
  s.blocks.any fun p => decide ((s.launch p.2.launch).part = part) || (p.2.res = .resident && s.partOf p.2.core = some part)

/-- A write of `PTCL` (R419): ignored while another partition has one of the clusters or the partition holds a block. -/
def State.writePtcl (s : State) (part : Nat) (val : Dword) : State :=
  let clu : BitVec 24 := val.setWidth 24
  let clash := (List.range 8).any fun n => decide (n ≠ part) && decide ((s.part n).ptcl &&& clu ≠ 0)
  if clash || s.partHolds part || decide ((s.part part).ptcl = clu) then s
  else (s.modPart part fun p => { p with ptcl := clu }).newSig part

/-- A write of `PTSCHED` (R419, Table 23.1): a value outside its range leaves its field unchanged. -/
def State.writePtsched (s : State) (part : Nat) (v : Nat) : State :=
  if s.partHolds part then s else
  let evd := natBits v 9 0
  let mig := natBits v 22 10
  let shk := natBits v 27 23
  s.modPart part fun p =>
    { p with evd := if 1 ≤ evd ∧ evd ≤ 1000 then evd else p.evd
             mig := if 1 ≤ mig ∧ mig ≤ 4096 then mig else p.mig
             shk := if 6 ≤ shk ∧ shk ≤ 16 then shk else p.shk }

/-- A write of a launch-ring word (R181): the consumer index restarts at 0, on the ring's first lap. -/
def State.writeRing (s : State) (part ring : Nat) (word : Dword) : State :=
  s.modPart part fun p => { p with rings := tset p.rings ring { word := word } }

/-- The first write of `MODID` after power-up fixes it (R431). -/
def State.writeModid (s : State) (val : Dword) : State :=
  if s.hub.modidSet then s else s.modHub fun h => { h with modid := val.setWidth 6, modidSet := true }

/-- A write of `FWCTL`.go (R425): in stages 1 and 2; while a download is in progress it answers status 4 and changes nothing else. The kinds
8 to 15 start none. -/
def State.startDownload (s : State) (kind : BitVec 4) : State :=
  if ¬ (s.hub.stage = 1 ∨ s.hub.stage = 2) then s else
  match s.hub.fwBusy with
  | some _ => s.modHub fun h => { h with fwstat := 4 }
  | none => if 8 ≤ kind.toNat then s else s.modHub fun h => { h with fwctl := kind.setWidth 64, fwBusy := some (kind, h.fwaddr, h.fwlen) }

/-- The write of `ATTADDR` starts a request, which latches the nonce, `ATTLEN` and the address (R426). -/
def State.startAttest (s : State) (addr : Dword) : State :=
  s.modHub fun h =>
    { h with attaddr := addr, attstat := 1, attq := h.attq ++ [{ nonce := h.nonce, len := h.attlen, addr := addr }] }

/-- A write of `HCTL`.clr (R404). -/
def State.clearHatch (s : State) (core : Nat) : State := s.modCore core fun c => { c with hatch := [] }

/-- A write of `STCFG` (R354): while enabled, heur and ncap keep their values; enabling makes every slot free and empties the grids. -/
def State.writeStcfg (s : State) (v : Nat) : State :=
  let x := s.hub.stip
  let x := { x with wret := BitVec.ofNat 2 (natBits v 3 2) }
  if x.en then s.modHub fun h => { h with stip := { x with en := natBit v 0 } } else
  let n := natBits v 8 4
  let x := { x with heur := natBit v 1, ncap := BitVec.ofNat 5 n }
  let s := s.modHub fun h => { h with stip := x }
  if natBit v 0 && decide (10 ≤ n) && decide (n ≤ 28) then
    -- every slot is in its plate's allocator
    let start (p : Nat) (q : StipPlate) : StipPlate :=
      { q with live := [], merge := [], written := [], slotArea := s.areaCells p q.slot, gridArea := s.areaCells p q.grid
               prod := BitVec.ofNat 32 (2 ^ n), wrap := false }
    s.modHub fun h => { h with stip := { x with en := true, plates := #v[start 0 x.plates[0], start 1 x.plates[1]] } }
  else s

/-- Traffic for a module that has not been acknowledged: of the own cores, or forwarded. -/
def State.trafficTo (s : State) (m : Nat) : Bool :=
  (s.cores.any fun c => (c.2.stores.any fun p => moduleOf p.pa = m) || c.2.atoms.any fun q => moduleOf q.pa = m) ||
    s.hub.out.any fun x => x.2.dest = m

/-- A route changes: new traffic is held until the traffic on the old path has been acknowledged (R423). -/
def State.writeRoute (s : State) (m : Nat) (ports : BitVec 12) (clear : Word) : State :=
  s.modHub fun h =>
    let r := tgetD h.xrte m {}
    let hold := decide (ports ≠ r.ports) && s.trafficTo m
    { h with xrte := tset h.xrte m { r with ports := ports, drop := r.drop &&& ~~~ clear, draining := r.draining || hold } }

/-- A write of `PSWCTL` (R397, R398): done, then out or in. -/
def State.writePswctl (s : State) (part : Nat) (ones : Dword) (low : Bool) : State :=
  let s := if natBit ones.toNat 9 then s.modPart part fun p => { p with swDone := false } else s
  if low = false then s
  else if (s.part part).swapped then (if natBit ones.toNat 1 then s.swapIn part else s)
  else if natBit ones.toNat 0 then s.swapOut part else s

/-- A write of `XSCTL` (R98): done, purge, and go. -/
def State.writeXsctl (s : State) (c : Nat) (new ones : Dword) (low : Bool) : State :=
  let purge := natBit new.toNat 1
  let s := s.modHub fun h =>
    let x := h.shoot c
    h.setShoot c { x with done := x.done && !natBit ones.toNat 9, purge := purge }
  if low && natBit ones.toNat 0 then s.startShootdown c purge else s

/-! ### Reading -/

/-- A port register (Table 23.2). -/
def Port.reg (p : Port) : Nat :=
  (if p.en then 1 else 0) + at_ p.c0 1 + at_ p.peer.toNat 9 + (if p.up then 2 ^ 15 else 0) + at_ p.crc.toNat 16

/-- Debug registers of a core (Table 22.8), by their offset in the core's block. -/
def Core.debugReg (c : Core) (o : Nat) : Nat :=
  let d := c.dbg
  let armed := c.comps.toList.zipIdx.foldl (fun n p => if p.1.isSome then n + 2 ^ p.2 else n) 0
  let i := (o - 0x140) / 16 % 8
  match o with
  | 0x00 => (if d.tenant then 1 else 0) + (if d.pcen then 2 else 0) + at_ armed 8
  | 0x08 => (if d.hctlEn then 1 else 0) + (if d.hctlWr then 2 else 0)
  | 0x10 => d.etring.toNat
  | 0x18 => d.etctl.toNat
  | 0x28 => d.smpctl.toNat
  | 0x30 => d.smpring.toNat
  | 0x38 => d.smploss.toNat
  | _ =>
    if 0x40 ≤ o ∧ o < 0xC0 then (d.hbase[(o - 0x40) / 8]?.getD 0).toNat
    else if 0xC0 ≤ o ∧ o < 0x140 then (d.hlim[(o - 0xC0) / 8]?.getD 0).toNat
    else if 0x140 ≤ o ∧ o < 0x1C0 then (if o % 16 = 0 then d.pcc[i]?.getD 0 else d.pcr[i]?.getD 0).toNat
    else if 0x1C0 ≤ o then (d.pcw[(o - 0x1C0) / 8]?.getD 0).toNat
    else 0

/-- Trap and swap registers, partition registers (Tables 20.6, 23.1). -/
def Partition.swapReg (p : Partition) (o : Nat) : Nat :=
  match o with
  | 0x00 => p.trhvec.toNat
  | 0x08 => p.trhdata.toNat
  | 0x10 => p.ctxbase.toNat
  | 0x18 => (if p.swBusy then 2 ^ 8 else 0) + (if p.swDone then 2 ^ 9 else 0) + (if p.swapped then 2 ^ 10 else 0) +
      (if p.nospace then 2 ^ 11 else 0)
  | _ => 0
def Partition.reg (p : Partition) (o : Nat) : Nat :=
  match o with
  | 0x00 => p.ptcl.toNat
  | 0x08 => p.ptsig.toNat
  | 0x10 => p.evd + at_ p.mig 10 + at_ p.shk 23
  | 0x18 => p.ptovf.toNat
  | _ => 0

/-- The module's registers at 0x0003_0000 (Table 23.2, R425, R426). -/
def Hub.moduleReg (h : Hub) (o : Nat) : Nat :=
  match o with
  | 0x00 => h.modid.toNat
  | 0x08 => h.stage.toNat
  | 0x10 => h.watts.toNat + (if h.thr then 2 ^ 16 else 0)
  | 0x18 => h.therm.toNat
  | 0x20 => h.fwaddr.toNat
  | 0x28 => h.fwlen.toNat
  | 0x30 => h.fwctl.toNat
  | 0x38 => h.fwstat.toNat
  | 0x40 | 0x48 | 0x50 | 0x58 => (h.nonce.getD ((o - 0x40) / 8) 0).toNat
  | 0x60 => h.attaddr.toNat
  | 0x68 => h.attlen.toNat
  | 0x70 => h.attstat.toNat
  | _ => 0

/-- The fault registers of a plate, the shootdown registers of a control core (Table 4.6), the Stipple registers (Table 18.2). -/
def Plate.reg (p : Plate) (o : Nat) : Nat :=
  match o with
  | 0x00 => p.frbase.toNat
  | 0x08 => p.frctl.toNat
  | 0x10 => p.frcons.toNat
  | 0x18 => p.frprod.toNat
  | _ => 0
def Shootdown.reg (x : Shootdown) (o : Nat) : Nat :=
  match o with
  | 0x00 => x.asid.toNat
  | 0x08 => x.va.toNat
  | 0x10 => x.len.toNat
  | 0x18 => x.mod_.toNat
  | 0x20 => x.pa.toNat
  | 0x28 => (if x.purge then 2 else 0) + (if x.run.isSome then 2 ^ 8 else 0) + (if x.done then 2 ^ 9 else 0)
  | _ => 0
def Stipple.cfg (x : Stipple) : Nat :=
  (if x.en then 1 else 0) + (if x.heur then 2 else 0) + at_ x.wret.toNat 2 + at_ x.ncap.toNat 4
def StipPlate.reg (p : StipPlate) (o : Nat) : Nat :=
  match o with
  | 0x00 => p.base.toNat
  | 0x08 => p.slot.toNat
  | 0x10 => p.grid.toNat
  | 0x18 => p.cell.toNat
  | _ => 0

/-- The 64-bit register at an offset that is a multiple of 8 as the hub keeps it; a reserved one is zero (R430). -/
def State.regKept (s : State) (o : Nat) : Nat :=
  let h := s.hub
  if o < 0x10000 then 0
  else if o < 0x10200 then (h.part ((o - 0x10000) / 0x40)).reg (o % 0x40)
  else if 0x20000 ≤ o ∧ o < 0x21000 then
    ((tget (h.part ((o - 0x20000) / 0x200)).rings (o % 0x200 / 8)).map fun r => r.word.toNat).getD 0
  else if 0x30000 ≤ o ∧ o < 0x30078 then h.moduleReg (o - 0x30000)
  else if 0x40000 ≤ o ∧ o < 0x41000 then (tgetD h.asroot ((o - 0x40000) / 8) 0).toNat
  else if 0x41000 ≤ o ∧ o < 0x41080 then (h.plate ((o - 0x41000) / 0x40)).reg (o % 0x40)
  else if 0x42000 ≤ o ∧ o < 0x42200 then (h.shoot ((o - 0x42000) / 0x40)).reg (o % 0x40)
  else if o = 0x50000 then h.stip.cfg
  else if o = 0x50008 then h.stip.gen.toNat
  else if 0x50040 ≤ o ∧ o < 0x500C0 then (s.stipPlate ((o - 0x50040) / 0x40)).reg (o % 0x40)
  else if 0x60000 ≤ o ∧ o < 0x60200 then (h.part ((o - 0x60000) / 0x40)).swapReg (o % 0x40)
  else if 0x80000 ≤ o ∧ o < 0x80300 then (if o % 0x40 = 0 then (h.ports[(o - 0x80000) / 0x40]?.getD {}).reg else 0)
  else if 0x81000 ≤ o ∧ o < 0x81900 then (tgetD h.xadm ((o - 0x81000) / 8) 8#16).toNat
  else if 0x82000 ≤ o ∧ o < 0x82200 then
    let r := tgetD h.xrte ((o - 0x82000) / 8) {}
    r.ports.toNat + at_ r.drop.toNat 16
  else if 0x100000 ≤ o ∧ o < 0x100000 + 288 * 0x400 then
    (if o % 0x400 ≤ 0x280 then (tgetD (s.core ((o - 0x100000) / 0x400)).hatch (o % 0x400 / 8) 0#48).toNat else 0)
  else if 0x200000 ≤ o ∧ o < 0x224000 then (s.core ((o - 0x200000) / 0x200)).debugReg (o % 0x200)
  else 0

/-- Does an offset hold a ring word: a launch ring's, `PTOVF`, `ETRING` or `SMPRING` (R429)? -/
def holdsRingWord (o : Nat) : Bool :=
  (decide (0x10000 ≤ o) && decide (o < 0x10200) && decide (o % 0x40 = 0x18)) || (decide (0x20000 ≤ o) && decide (o < 0x21000)) ||
    (decide (0x200000 ≤ o) && decide (o < 0x224000) && (decide (o % 0x200 = 0x10) || decide (o % 0x200 = 0x30)))

/-- The register as software reads it: the reserved bits of a ring word, 57 and 63:62, read zero (R8, Table 6.4). DEDUCED (log 89): a word
written with one of them set is kept as written, for such a word disables its ring (R181, R429). -/
def State.regRead (s : State) (o : Nat) : Nat :=
  let v := s.regKept o
  if holdsRingWord o then natBits v 56 0 + natBits v 61 58 * 2 ^ 58 else v

/-- Is an access of the window accepted: 4 or 8 bytes, naturally aligned, below 1 GiB (R430)? -/
def windowOk (off size : Nat) : Bool :=
  (decide (size = 4) || decide (size = 8)) && decide (off % size = 0) && decide (off < 0x40000000)

/-- A read of the window: the bytes it names, or zero (R430). -/
def State.windowRead (s : State) (off size : Nat) : Nat :=
  if windowOk off size then
    let v := s.regRead (off / 8 * 8)
    if size = 8 then v else natBits v (8 * (off % 8) + 31) (8 * (off % 8))
  else 0

/-! ### Writing -/

/-- The debug registers of a core. -/
def State.writeDebug (s : State) (core o : Nat) (new ones : Dword) (low : Bool) : State :=
  let n := new.toNat
  let i := (o - 0x140) / 16 % 8
  let w (x : Nat) : Dword := BitVec.ofNat 64 x
  let dbg (f : Debug → Debug) : State := s.modCore core fun c => { c with dbg := f c.dbg }
  match o with
  | 0x00 => dbg fun d => { d with tenant := natBit n 0, pcen := natBit n 1 }
  | 0x08 =>
    let s := dbg fun d => { d with hctlEn := natBit n 0, hctlWr := natBit n 1 }
    if low && natBit ones.toNat 2 then s.clearHatch core else s
  | 0x10 => s.modCore core fun c =>
      { c with dbg := { c.dbg with etring := new }, etch := { c.etch with prod := 0, wrap := false, buf := [], lost := 0 } }
  | 0x18 => s.modCore core fun c =>
      { c with dbg := { c.dbg with etctl := w (natBits n 0 0 + keepBits new 31 4) }, etch := { c.etch with ts := s.now } }
  | 0x28 => s.modCore core fun c => { c with dbg := { c.dbg with smpctl := w (natBits n 0 0 + keepBits new 31 8) }, smpLast := s.now }
  | 0x30 => s.modCore core fun c => { c with dbg := { c.dbg with smpring := new }, smpProd := 0, smpWrap := false }
  | 0x38 => dbg fun d => { d with smploss := BitVec.ofNat 32 n }
  | _ =>
    if 0x40 ≤ o ∧ o < 0xC0 then dbg fun d => { d with hbase := d.hbase.setIfInBounds ((o - 0x40) / 8) (w (keepBits new 56 2)) }
    else if 0xC0 ≤ o ∧ o < 0x140 then dbg fun d => { d with hlim := d.hlim.setIfInBounds ((o - 0xC0) / 8) (w (keepBits new 56 2)) }
    else if 0x140 ≤ o ∧ o < 0x1C0 then
      (if o % 16 = 0 then dbg fun d => { d with pcc := d.pcc.setIfInBounds i (w (natBits n 0 0 + keepBits new 56 2)) }
       else dbg fun d => { d with pcr := d.pcr.setIfInBounds i new })
    else if 0x1C0 ≤ o then dbg fun d => { d with pcw := d.pcw.setIfInBounds ((o - 0x1C0) / 8) (w (n % 2 ^ 16)) }
    else s

/-- The partition registers. -/
def State.writePart (s : State) (part o : Nat) (new : Dword) : State :=
  match o with
  | 0x00 => s.writePtcl part new
  | 0x10 => s.writePtsched part new.toNat
  | 0x18 => s.modPart part fun p => { p with ptovf := new, ovfProd := 0, ovfWrap := false }
  | _ => s

/-- The trap and swap registers. -/
def State.writeSwap (s : State) (part o : Nat) (new ones : Dword) (low : Bool) : State :=
  match o with
  | 0x00 => s.modPart part fun p => { p with trhvec := BitVec.ofNat 64 (keepBits new 56 2) }
  | 0x08 => s.modPart part fun p => { p with trhdata := new }
  | 0x10 => s.modPart part fun p => { p with ctxbase := BitVec.ofNat 64 (keepBits new 8 0 + keepBits new 51 21) }
  | 0x18 => s.writePswctl part ones low
  | _ => s

/-- The module's registers. -/
def State.writeModule (s : State) (o : Nat) (new ones : Dword) (low : Bool) : State :=
  match o with
  | 0x00 => if low then s.writeModid new else s
  | 0x10 =>
    let v := natBits new.toNat 15 0
    if 1500 ≤ v ∧ v ≤ 4200 then s.modHub fun h => { h with watts := BitVec.ofNat 16 v } else s
  | 0x20 => s.modHub fun h => { h with fwaddr := new }
  | 0x28 => s.modHub fun h => { h with fwlen := new }
  | 0x30 =>
    if low && natBit ones.toNat 8 then s.startDownload (new.setWidth 4)
    else s.modHub fun h => { h with fwctl := (new.setWidth 4).setWidth 64 }
  | 0x40 | 0x48 | 0x50 | 0x58 => s.modHub fun h => { h with nonce := h.nonce.set ((o - 0x40) / 8) new }
  | 0x60 => if low then s.startAttest new else s.modHub fun h => { h with attaddr := new }
  | 0x68 => s.modHub fun h => { h with attlen := new }
  | _ => s

/-- The fault registers of a plate; a ring configured anew begins its first lap (R143). -/
def State.writePlate (s : State) (plate o : Nat) (new ones : Dword) (low : Bool) : State :=
  match o with
  | 0x00 => s.modPlate plate fun p => { p with frbase := BitVec.ofNat 64 (keepBits new 51 6), frwrap := false }
  | 0x08 => s.modPlate plate fun p =>
      { p with frctl := BitVec.ofNat 64 (natBits new.toNat 4 0 + keepBits new 8 8), frwrap := false }
  | 0x10 => s.modPlate plate fun p => { p with frcons := new.setWidth 32 }
  | 0x20 => if low then s.freply plate (natBits ones.toNat 11 0) (natBits ones.toNat 13 12) else s
  | _ => s

/-- The shootdown registers of a control core. -/
def State.writeShoot (s : State) (c o : Nat) (new ones : Dword) (low : Bool) : State :=
  let mod (f : Shootdown → Shootdown) : State := s.modHub fun h => h.setShoot c (f (h.shoot c))
  match o with
  | 0x00 => mod fun x => { x with asid := BitVec.ofNat 64 (natBits new.toNat 9 0) }
  | 0x08 => mod fun x => { x with va := BitVec.ofNat 64 (keepBits new 56 12) }
  | 0x10 => mod fun x => { x with len := BitVec.ofNat 64 (natBits new.toNat 44 0) }
  | 0x18 => mod fun x => { x with mod_ := new }
  | 0x20 => mod fun x => { x with pa := BitVec.ofNat 64 (keepBits new 51 12) }
  | 0x28 => s.writeXsctl c new ones low
  | _ => s

/-- The Stipple's areas, ignored while it is enabled (R354). -/
def State.writeStip (s : State) (plate o : Nat) (new : Dword) : State :=
  if s.hub.stip.en then s else
  let base : Dword := BitVec.ofNat 64 (keepBits new 44 20)
  match o with
  | 0x00 => s.modStipPlate plate fun p => { p with base := base }
  | 0x08 => s.modStipPlate plate fun p => { p with slot := base }
  | 0x10 => s.modStipPlate plate fun p => { p with grid := base }
  | 0x18 => s.modStipPlate plate fun p => { p with cell := new.setWidth 32 }
  | _ => s

/-- A port register (Table 23.2). -/
def State.writePort (s : State) (port : Nat) (new ones : Dword) : State :=
  let n := new.toNat
  s.modHub fun h =>
    let p := h.ports[port]?.getD {}
    let q : Port :=
      { p with en := natBit n 0, c0 := if natBits n 4 1 ≤ 8 then natBits n 4 1 else p.c0, peer := BitVec.ofNat 6 (natBits n 14 9)
               crc := p.crc &&& ~~~ (BitVec.ofNat 32 (natBits ones.toNat 47 16)) }
    { h with ports := h.ports.setIfInBounds port q }

/-- A write of the register at an offset that is a multiple of 8. `new` is the register's value as it stands after the write, `ones` what
WO and RW1C fields see, `low` says that bits 31:0 are written (R430). -/
def State.regWrite (s : State) (o : Nat) (new ones : Dword) (low : Bool) : State :=
  if o < 0x10000 then s
  else if o < 0x10200 then s.writePart ((o - 0x10000) / 0x40) (o % 0x40) new
  else if 0x20000 ≤ o ∧ o < 0x21000 then s.writeRing ((o - 0x20000) / 0x200) (o % 0x200 / 8) new
  else if 0x30000 ≤ o ∧ o < 0x30078 then s.writeModule (o - 0x30000) new ones low
  else if 0x40000 ≤ o ∧ o < 0x41000 then
    let v : Dword := BitVec.ofNat 64 (natBits new.toNat 0 0 + keepBits new 51 21)
    s.modHub fun h => { h with asroot := tset h.asroot ((o - 0x40000) / 8) v }
  else if 0x41000 ≤ o ∧ o < 0x41080 then s.writePlate ((o - 0x41000) / 0x40) (o % 0x40) new ones low
  else if 0x42000 ≤ o ∧ o < 0x42200 then s.writeShoot ((o - 0x42000) / 0x40) (o % 0x40) new ones low
  else if o = 0x50000 then (if low then s.writeStcfg new.toNat else s)
  else if 0x50040 ≤ o ∧ o < 0x500C0 then s.writeStip ((o - 0x50040) / 0x40) (o % 0x40) new
  else if 0x60000 ≤ o ∧ o < 0x60200 then s.writeSwap ((o - 0x60000) / 0x40) (o % 0x40) new ones low
  else if 0x80000 ≤ o ∧ o < 0x80300 then (if o % 0x40 = 0 then s.writePort ((o - 0x80000) / 0x40) new ones else s)
  else if 0x81000 ≤ o ∧ o < 0x81900 then
    s.modHub fun h => { h with xadm := tset h.xadm ((o - 0x81000) / 8) (new.setWidth 16) }
  else if 0x82000 ≤ o ∧ o < 0x82200 then
    s.writeRoute ((o - 0x82000) / 8) (new.setWidth 12) (BitVec.ofNat 32 (natBits ones.toNat 47 16))
  else if 0x200000 ≤ o ∧ o < 0x224000 then s.writeDebug ((o - 0x200000) / 0x200) (o % 0x200) new ones low
  else s

/-- A write of the window (R430): an access of another size or alignment writes nothing; the bytes that it does not name keep their
fields, and a WO or RW1C field there sees zero. -/
def State.windowWrite (s : State) (off size : Nat) (val : Dword) : State :=
  if windowOk off size then
    let sh := 8 * (off % 8)
    let mask : Dword := if size = 8 then BitVec.allOnes 64 else BitVec.ofNat 64 ((2 ^ 32 - 1) * 2 ^ sh)
    let ones := (val <<< sh) &&& mask
    let old : Dword := BitVec.ofNat 64 (s.regKept (off / 8 * 8))
    s.regWrite (off / 8 * 8) ((old &&& ~~~ mask) ||| ones) ones (decide (off % 8 = 0))
  else s

end Sys2Proof.Machine
end

