-- ==== Sys2Proof/Machine/Sha3.lean ====
section
/-! DEFINITION. SHA3-512, which R425 and R426 name by its standard: FIPS 202 (PRESUMED, log 98). -/
namespace Sys2Proof.Machine

/-- A state of 25 lanes; lane (x, y) stands at x + 5y. -/
abbrev Lanes25 := Vector Dword 25

def laneAt (a : Lanes25) (x y : Nat) : Dword := a[(x % 5 + 5 * (y % 5)) % 25]'(Nat.mod_lt _ (by decide))

/-- The rotation of each lane, x + 5y. -/
def laneTurn : Vector Nat 25 := #v[0, 1, 62, 28, 27, 36, 44, 6, 55, 20, 3, 10, 43, 25, 39, 41, 45, 15, 21, 8, 18, 2, 61, 56, 14]

/-- The constants of the 24 rounds. -/
def roundConstants : List Dword :=
  [0x0000000000000001, 0x0000000000008082, 0x800000000000808A, 0x8000000080008000,
   0x000000000000808B, 0x0000000080000001, 0x8000000080008081, 0x8000000000008009,
   0x000000000000008A, 0x0000000000000088, 0x0000000080008009, 0x000000008000000A,
   0x000000008000808B, 0x800000000000008B, 0x8000000000008089, 0x8000000000008003,
   0x8000000000008002, 0x8000000000000080, 0x000000000000800A, 0x800000008000000A,
   0x8000000080008081, 0x8000000000008080, 0x0000000080000001, 0x8000000080008008]

/-- One round: θ, ρ and π, χ, ι. -/
def keccakRound (a : Lanes25) (rc : Dword) : Lanes25 :=
  let c (x : Nat) : Dword := laneAt a x 0 ^^^ laneAt a x 1 ^^^ laneAt a x 2 ^^^ laneAt a x 3 ^^^ laneAt a x 4
  let cs : Vector Dword 5 := #v[c 0, c 1, c 2, c 3, c 4]
  let d (x : Nat) : Dword := cs[(x + 4) % 5]'(Nat.mod_lt _ (by decide)) ^^^ (cs[(x + 1) % 5]'(Nat.mod_lt _ (by decide))).rotateLeft 1
  let ds : Vector Dword 5 := #v[d 0, d 1, d 2, d 3, d 4]
  let t : Lanes25 := Vector.ofFn fun i => (a[i] ^^^ ds[i.val % 5]'(Nat.mod_lt _ (by decide))).rotateLeft laneTurn[i]
  -- lane (x, y) moves to (y, 2x + 3y)
  let b : Lanes25 := Vector.ofFn fun i => laneAt t (i.val % 5 + 3 * (i.val / 5)) (i.val % 5)
  let e : Lanes25 := Vector.ofFn fun i =>
    b[i] ^^^ (~~~ (laneAt b (i.val % 5 + 1) (i.val / 5)) &&& laneAt b (i.val % 5 + 2) (i.val / 5))
  e.set 0 (e[0] ^^^ rc)

def keccak (a : Lanes25) : Lanes25 := roundConstants.foldl keccakRound a

/-- The rate of SHA3-512 in bytes. -/
def sha3Rate : Nat := 72

/-- A message padded to whole blocks: a byte 6, zeros, and 128 in the last byte. -/
def sha3Pad (bs : List Byte) : List Byte :=
  let n := sha3Rate - bs.length % sha3Rate
  bs ++ if n = 1 then [0x86] else 6 :: List.replicate (n - 2) 0 ++ [0x80]

/-- Absorbs one block. -/
def absorb (a : Lanes25) (bs : List Byte) : Lanes25 :=
  keccak (Vector.ofFn fun i => if i.val < 9 then a[i] ^^^ dwordOf ((bs.drop (8 * i.val)).take 8) else a[i])

/-- The SHA3-512 digest of bytes: 64 bytes. -/
def sha3 (bs : List Byte) : List Byte :=
  let p := sha3Pad bs
  let a := (List.range (p.length / sha3Rate)).foldl (fun a k => absorb a ((p.drop (sha3Rate * k)).take sha3Rate)) (Vector.replicate 25 0)
  (List.range 8).flatMap fun i => leBytes (a.toList.getD i 0).toNat 8

end Sys2Proof.Machine
end

