-- ==== Sys2Proof/Machine/Outside.lean ====
section
/-! DEFINITION. What reaches the module from outside: power (R424, R428), firmware and attestation (R425, R426), the host (R418), the fabric
(R423) and recovery (R427). -/
namespace Sys2Proof.Machine

/-! ### Power -/

/-- Power-up (R424): everything is as at reset; the loader or the recovery image runs, or nothing does. The host's memory, behind the
host window, and the checkpoints that other modules keep are no part of the module and stay. -/
def State.powerUp (s : State) (loaderOk recoveryOk : Bool) : State :=
  let recovery := !loaderOk && recoveryOk
  let started := loaderOk || recoveryOk
  { State.reset with
    agenda := s.agenda, focus := s.focus, fresh := s.fresh, checkpoints := s.checkpoints
    mem := s.mem.filter fun c => inHostWindow c.1
    hub :=
      { stage := if loaderOk then 1 else if recoveryOk then 2 else 4
        recovery := recovery
        images := if started then [(16, sha3 (Config.bootImage recovery))] else [] } }

/-- Module power above `PWRCAP`.watts: the arithmetic clock is lowered by a step of 25 MHz (R428). -/
def State.throttle (s : State) (watts : Nat) : Option State :=
  if s.hub.watts.toNat < watts then some (s.modHub fun h => { h with thr := true, clockSteps := h.clockSteps + 1 }) else none

/-- The hottest junction, in units of 0.125 °C; above 105 °C every partition halts as for a swap out, and the Executive is told (R428). -/
def State.thermal (s : State) (tj : BitVec 16) : State :=
  let s := s.modHub fun h => { h with therm := tj }
  if 840 < tj.toNat then ((List.range 8).foldl (fun s n => s.swapOut n) s).report 0 (2 ^ 67) else s

/-! ### Firmware and attestation -/

/-- A download ends (R425): accepted, and an Executive starts; or rejected and discarded. The signature is good where it verifies over the
image's digest; an image that cannot hold a signature is of bad length, and which other lengths are is left open. -/
def State.endDownload (s : State) (sigOk lenOk : Bool) : Option State :=
  s.hub.fwBusy.bind fun d =>
    let image := s.readHome d.2.1.toNat d.2.2.toNat
    let digest := sha3 image
    if sigOk ≠ Config.verifies digest image ∨ (lenOk = true ∧ d.2.2.toNat < 4627) then none else
    let s := s.modHub fun h => { h with fwBusy := none }
    some <| if sigOk && lenOk then
      s.modHub fun h =>
        { h with fwstat := 1, images := tset h.images d.1.toNat digest, stage := if d.1.toNat = 0 then 3 else h.stage }
    else
      let (st, s) := if !sigOk && !lenOk then s.either 2 3 else (if sigOk then 3 else 2, s)
      s.modHub fun h => { h with fwstat := BitVec.ofNat 64 st }

/-- A digest of 64 bytes; of an image that is not there, free bytes. -/
def State.digestOf (s : State) (kind : Nat) : List Byte × State :=
  match tget s.hub.images kind with
  | some d => (d, s)
  | none => (List.range 8).foldl (fun (r : List Byte × State) _ =>
      let (v, s) := r.2.takeFree
      (r.1 ++ leBytes v.toNat 8, s)) ([], s)

/-- The report up to its key (Table 23.5), with the given variant entries and a truncation flag. -/
def State.reportBody (s : State) (q : AttReq) (entries : List (Nat × List Byte)) (cut : Bool) : List Byte × State :=
  let h := s.hub
  let fw := h.images.filter fun p => decide (1 ≤ p.1) && decide (p.1 ≤ 7)
  let (boot, s) := s.digestOf 16
  let (exec_, s) := s.digestOf 0
  let len := 184 + 72 * fw.length + 72 * entries.length + 7219
  let flags := (if cut then 1 else 0) + (if h.recovery then 2 else 0)
  let head := leBytes 1 4 ++ leBytes len 4 ++ leBytes fw.length 2 ++ leBytes flags 2 ++ leBytes entries.length 4 ++ leBytes (h.attseq + 1) 8
  let nonce := q.nonce.flatMap fun d => leBytes d.toNat 8
  let entry (p : Nat × List Byte) : List Byte := leBytes p.1 8 ++ p.2
  (head ++ nonce ++ boot ++ exec_ ++ fw.flatMap entry ++ entries.flatMap entry, s)

/-- The oldest request is served (R426). -/
def State.attest (s : State) : Option State :=
  match s.hub.attq with
  | [] => none
  | q :: rest =>
    let s := s.modHub fun h => { h with attq := rest }
    let status (n : Nat) (s : State) : State := if rest.isEmpty then s.modHub fun h => { h with attstat := BitVec.ofNat 64 n } else s
    let nf := (s.hub.images.filter fun p => decide (1 ≤ p.1) && decide (p.1 ≤ 7)).length
    let all := s.hub.variants.zipIdx.map fun p => (p.2 + 1, sha3 p.1)
    let least := 184 + 72 * nf + 7219
    let badAddr := decide (q.addr.toNat % 64 ≠ 0) || decide (2 ^ 52 ≤ q.addr.toNat) || !inHostWindow q.addr.toNat
    let short := decide (q.len.toNat < least)
    if badAddr || short then
      let (st, s) := if badAddr && short then s.either 3 4 else (if short then 3 else 4, s)
      some (status st s)
    else
      let fit := (q.len.toNat - least) / 72
      let kept := all.drop (all.length - fit)
      let (body, s) := s.reportBody q kept (decide (kept.length < all.length))
      let signed := body ++ Config.identityKey.toList
      let s := s.writeHome q.addr.toNat (signed ++ (Config.sign (sha3 signed)).toList)
      some (status 2 (s.modHub fun h => { h with attseq := h.attseq + 1 }))

/-! ### The host -/

/-- Does a range of the HDM decoder's 384 GiB lie within one plate's share of it (R418)? A host request stays within a line. -/
def hdmOk (hdm len : Nat) : Bool := decide (hdm < 2 * dramSize) && decide (hdm % dramSize + len ≤ dramSize)

/-- The HDM decoder (R418): plate 0 at HDM offset 0, plate 1 at 192 GiB, of the module's own DRAM. -/
def State.hdmPa (s : State) (hdm : Nat) : Nat := s.ownModule * 2 ^ 46 + hdm / dramSize * 2 ^ 45 + hdm % dramSize

/-- Do bytes lie within the module's own DRAM, on one plate? -/
def State.inOwnDram (s : State) (pa len : Nat) : Bool :=
  decide (pa < 2 ^ 52) && decide (moduleOf pa = s.ownModule) && decide (offsetOf pa + len ≤ dramSize)

/-- A store performed at the homes of its bytes from outside the cores (R418). -/
def State.outsideStore (s : State) (pa : Nat) (bytes : List Byte) : State := (s.spoilTraces pa bytes.length).writeHome pa bytes

/-- The host reads a device line, as its home holds it (R418). -/
def State.hostRead (s : State) (pa len : Nat) : State := s.modHub fun h => { h with hostData := s.readHome pa len }

/-! ### The fabric -/

/-- A request of another module's core at its home unit here (R118, R119): applied, found kept, or answered REPLAY with no bytes. -/
def State.arriveFar (s : State) (x : FabricMsg) (src : Nat) (seq : BitVec 24) (fop ty : BitVec 3) (val cmp : Dword) (replay : Bool) :
    List Byte × State :=
  let n := atomSize ty
  match s.keptSeq (homeOf x.pa) src seq with
  | some v => (leBytes v.toNat n, s)
  | none =>
    if replay then ([], s) else
    let old := dwordOf (s.readHome x.pa n)
    let s := s.outsideStore x.pa (leBytes (atomOp fop ty old val cmp).toNat n)
    (leBytes old.toNat n, s.keepSeq (homeOf x.pa) src seq old)

/-- Traffic for this module is delivered (R423, log 100): a store, a read and an atomic request are performed at the home units, and the answer
of the latter two leaves in the request's class for the module that asked. An answer to a request of this module shows with the event of
that request. -/
def State.deliverTraffic (s : State) (x : FabricMsg) : State :=
  match x.kind with
  | .store => if s.inOwnDram x.pa x.bytes.length then s.outsideStore x.pa x.bytes else s
  | .read src len =>
    if s.inOwnDram x.pa len then s.sendOut { dest := src, cls := x.cls, pa := x.pa, bytes := s.readHome x.pa len, kind := .answer } else s
  | .atomic src seq fop ty val cmp replay =>
    if s.inOwnDram x.pa (atomSize ty) then
      let (bs, s) := s.arriveFar x src seq fop ty val cmp replay
      s.sendOut { dest := src / 512, cls := x.cls, pa := x.pa, bytes := bs, kind := .answer }
    else s
  | .answer => s

/-- Traffic arrives from another module (R423): delivered, forwarded in its class, held behind a route change, or discarded. -/
def State.fabricArrival (s : State) (x : FabricMsg) : State :=
  if x.dest = s.ownModule then s.deliverTraffic x
  else
    let s := if (tgetD s.hub.xrte x.dest {}).draining then s.drainRoute x.dest else s
    let r := tgetD s.hub.xrte x.dest {}
    if r.draining then s.modHub fun h => { h with xrte := tset h.xrte x.dest { r with held := r.held ++ [x] } }
    else s.sendOut x

/-- A port's link is trained or lost. -/
def State.setLink (s : State) (port : Nat) (up : Bool) : State :=
  s.modHub fun h =>
    let p := h.ports[port]?.getD {}
    { h with ports := h.ports.setIfInBounds port { p with up := up } }

/-! ### Recovery (R427) -/

/-- The blocks of a launch that have not ended. -/
def State.blocksOf (s : State) (l : Nat) : Table Block := s.blocks.filter fun p => p.2.launch = l && !p.2.ended

/-- Is all of a block in its saved context and its slices: it is evicted, and nothing of it is under way or held elsewhere? -/
def State.quiet (s : State) (blk : Nat) (b : Block) : Bool :=
  b.isEvicted && !s.heldToCore blk b && b.tiles.isEmpty && s.cores.all fun c =>
    !(c.2.copies.any fun q => q.2.blk = blk) && !(c.2.traces.any fun q => q.2.blk = blk) && !(c.2.loads.any fun p => p.ent.blk = blk)

/-- The Executive checkpoints a launch (log 65): its record, and its blocks with the bytes of their slices; a launch of which something is under
way stays as it was checkpointed before. -/
def State.checkpoint (s : State) (l : Nat) : State :=
  let mine := s.blocksOf l
  if (s.launch l).completed || decide ((s.launch l).tasks ≠ 0) || !mine.all (fun p => s.quiet p.1 p.2) then s else
  let bytes (b : Block) (space : Nat) : List Byte := s.bufRead b.core space (b.slice space).base (b.slice space).len
  let k : Checkpoint := { launch := s.launch l, blocks := mine.map fun p => (p.1, p.2, [bytes p.2 2, bytes p.2 3, bytes p.2 4]) }
  { s with checkpoints := tset s.checkpoints l k }

/-- What runs of a launch is gone: its blocks, what its engines and waves had under way, and its records. -/
def State.forget (s : State) (l : Nat) : State :=
  let ids := (s.blocks.filter fun p => p.2.launch = l).map (·.1)
  let s := ids.foldl (fun s id => s.killBlock id) s
  let s := (s.dropRecords fun _ launch => decide (launch = l)).2
  { s with blocks := s.blocks.filter fun p => p.2.launch ≠ l
           cores := s.cores.map fun c => (c.1, { c.2 with
             copies := c.2.copies.filter fun q => !ids.contains q.2.blk, traces := c.2.traces.filter fun q => !ids.contains q.2.blk
             stores := c.2.stores.filter fun p => !ids.contains p.ent.blk, atoms := c.2.atoms.filter fun q => !ids.contains q.ent.blk }) }

/-- A saved block stands, evicted, on a core of its partition that has room for its slices; a launch without such a core fails with CAPACITY
(R197). -/
def State.putBack (s : State) (l : Nat) (x : Nat × Block × List (List Byte)) : State :=
  let b := x.2.1
  let takes (c : Nat) : Bool := (s.core c).inService && !(s.sliceBases c 2 b.wslice.foot).isEmpty && !(s.sliceBases c 3 b.aslice.foot).isEmpty &&
    !(s.sliceBases c 4 b.cslice.foot).isEmpty && !(s.tidBases c b.tids.length).isEmpty && !(s.tagBases c b.tags.length).isEmpty
  match (s.partCores (s.launch l).part).find? takes with
  | none => s.modLaunch l fun y => { (y.fail 0x2D b.blk) with exited := y.exited + 1 }
  | some core =>
    let (n, s) := s.standOn core b
    let put (s : State) (space : Nat) : State := s.bufWrite core space (n.slice space).base (x.2.2.getD (space - 2) [])
    put (put (put (s.setBlock x.1 { n with res := .evicted s.now }) 2) 3) 4

/-- An affected launch is resumed from its last checkpoint; one without ends with ABORTED. -/
def State.resumeLaunch (s : State) (l : Nat) : State :=
  if (s.launch l).completed then s else
  match tget s.checkpoints l with
  | some k =>
    let s := s.forget l
    k.blocks.foldl (fun s x => s.putBack l x) { s with launches := tset s.launches l k.launch }
  | none => (s.forget l).modLaunch l fun x => { x with stopped := true, tasks := 0, status := 0x2E, failing := noBlock }

/-- What R427 has the Executives do: checkpoints are taken, routes and ports rewritten, memory stands again as at the checkpoints, and the
affected launches are resumed. -/
def State.recover (s : State) (routes : List (Nat × BitVec 12)) (ports : List (Nat × Dword)) (x : Recovery) : State :=
  let s := x.saved.foldl (fun s l => s.checkpoint l) s
  let s := routes.foldl (fun s r => if r.1 < 64 then s.writeRoute r.1 r.2 0 else s) s
  let s := ports.foldl (fun s p => if p.1 < 12 then s.writePort p.1 p.2 0 else s) s
  x.affected.foldl (fun s l => s.resumeLaunch l) (x.image.foldl (fun s c => s.outsideStore c.1 [c.2]) s)

end Sys2Proof.Machine
end

