-- ==== Sys2Proof/Machine/Board.lean ====
section
/-! DEFINITION. Writes of hub registers (R398, R404, R415, R419, R423, R425, R430, R431), and the events of host, power, fabric and boot
(R418, R423–R428). -/
namespace Sys2Proof.Machine

/-- `REGISTER_WRITE` (R430): of 4 or 8 bytes, naturally aligned; any other, and one of a reserved offset, is ignored. -/
def execRegisterWrite (off size : Nat) (val : Dword) (s : State) : Host.Outcome State Fault Refusal :=
  event "REGISTER_WRITE" (some (s.windowWrite off size val))

/-- `MODID_WRITE` (R431): the first after power-up; later ones are ignored. -/
def execModidWrite (val : Dword) (s : State) : Host.Outcome State Fault Refusal :=
  event "MODID_WRITE" (some (s.writeModid val))

/-- `PTCL_WRITE` (R419): ignored while it conflicts or the partition holds a block. -/
def execPtclWrite (part : Nat) (val : Dword) (s : State) : Host.Outcome State Fault Refusal :=
  event "PTCL_WRITE" (if part < 8 then some (s.writePtcl part val) else none)

/-- `XRTE_WRITE` (R423): new traffic is held until the old path has drained. -/
def execXrteWrite (module : Nat) (val : Dword) (s : State) : Host.Outcome State Fault Refusal :=
  event "XRTE_WRITE" (if module < 64 then some (s.writeRoute module (val.setWidth 12) (BitVec.ofNat 32 (natBits val.toNat 47 16))) else none)

/-- `STIPPLE_ENABLE` (R354): a write of `STCFG`. -/
def execStippleEnable (val : Dword) (s : State) : Host.Outcome State Fault Refusal :=
  event "STIPPLE_ENABLE" (some (s.writeStcfg val.toNat))

/-- `HATCH_CLEAR` (R404): every counter of the core. -/
def execHatchClear (core : Nat) (s : State) : Host.Outcome State Fault Refusal :=
  event "HATCH_CLEAR" (if core < 288 then some (s.clearHatch core) else none)

/-- `FIRMWARE_DOWNLOAD` (R425): a write of `FWCTL`.go. -/
def execFirmwareDownload (kind : BitVec 4) (s : State) : Host.Outcome State Fault Refusal :=
  event "FIRMWARE_DOWNLOAD" (some (s.startDownload kind))

/-- `FIRMWARE_DOWNLOAD_DONE` (R425): the loader has verified the image. -/
def execFirmwareDownloadDone (sigOk lenOk : Bool) (s : State) : Host.Outcome State Fault Refusal :=
  event "FIRMWARE_DOWNLOAD_DONE" (s.endDownload sigOk lenOk)

/-- `ATTESTATION_REQUEST` (R426): a write of `ATTADDR`. -/
def execAttestationRequest (addr : Dword) (s : State) : Host.Outcome State Fault Refusal :=
  event "ATTESTATION_REQUEST" (some (s.startAttest addr))

/-- `ATTESTATION_REPORT` (R426): the oldest request. -/
def execAttestationReport (s : State) : Host.Outcome State Fault Refusal :=
  event "ATTESTATION_REPORT" (s.attest)

/-- `POWER_UP` (R424): from mask ROM to the loader or the recovery image. -/
def execPowerUp (loaderOk recoveryOk : Bool) (s : State) : Host.Outcome State Fault Refusal :=
  event "POWER_UP" (some (s.powerUp loaderOk recoveryOk))

/-- `POWER_LIMIT_THROTTLE` (R428): timing only. -/
def execPowerLimitThrottle (watts : Nat) (s : State) : Host.Outcome State Fault Refusal :=
  event "POWER_LIMIT_THROTTLE" (s.throttle watts)

/-- `THERMAL_HALT` (R428): above 105 °C. -/
def execThermalHalt (tj : BitVec 16) (s : State) : Host.Outcome State Fault Refusal :=
  event "THERMAL_HALT" (some (s.thermal tj))

/-- `FAILURE_RECOVERY` (R427): checkpoints, routes, ports, memory as at the checkpoint, and the affected launches. -/
def execFailureRecovery (routes : List (Nat × BitVec 12)) (ports : List (Nat × Dword)) (x : Recovery) (s : State) : Host.Outcome State Fault Refusal :=
  event "FAILURE_RECOVERY" (some (s.recover routes ports x))

/-- `FABRIC_TRAFFIC_ARRIVAL` (R423): delivered, forwarded or discarded. -/
def execFabricTrafficArrival (msg : FabricMsg) (s : State) : Host.Outcome State Fault Refusal :=
  event "FABRIC_TRAFFIC_ARRIVAL" (some (s.fabricArrival msg))

/-- `HOST_CXL_STORE` (R418): the host's store to an HDM offset is performed at the home units. -/
def execHostCxlStore (hdm : Nat) (bytes : List Byte) (s : State) : Host.Outcome State Fault Refusal :=
  event "HOST_CXL_STORE" (if hdmOk hdm bytes.length then some (s.outsideStore (s.hdmPa hdm) bytes) else none)

/-- `HOST_CXL_READ` (R418): a line at an HDM offset, as its home holds it. -/
def execHostCxlRead (hdm len : Nat) (s : State) : Host.Outcome State Fault Refusal :=
  event "HOST_CXL_READ" (if hdmOk hdm len then some (s.hostRead (s.hdmPa hdm) len) else none)

/-- `EXVOS_LINK_STATE_CHANGE` (R423): `XPCTL`.up. -/
def execExvosLinkStateChange (port : Nat) (up : Bool) (s : State) : Host.Outcome State Fault Refusal :=
  event "EXVOS_LINK_STATE_CHANGE" (if port < 12 then some (s.setLink port up) else none)

end Sys2Proof.Machine
end

