-- ==== Sys2Proof/Machine/Control.lean ====
section
/-! DEFINITION. Branches, splits, calls, the end of a wave, naps and barriers (R166–R170, R283–R296, R301–R304). -/
namespace Sys2Proof.Machine

/-! ### Transfers and the loop buffer -/

/-- The entity leaves the loop buffer (R301). -/
def Ctx.leaveLoop (c : Ctx) : Ctx := { c with e := { c.e with loop := none } }

/-- Is the loop buffer of a quadrant of a core free (R301)? -/
def State.loopFree (s : State) (core quad : Nat) : Bool :=
  let uses (w : Wave) : Bool := w.parent.loop.isSome || (w.frag.map (·.loop.isSome)).getD false
  !(s.blocks.any fun p => decide (p.2.core = core) &&
    ((p.2.waves.any fun q => decide (p.2.quad q.1 = quad) && uses q.2) ||
      (match p.2.sur with
       | some (w, _) => decide (p.2.quad 16 = quad) && uses w
       | none => false)))

/-- A taken uniform branch, and the capture of a loop that takes the same backward branch again (R301). -/
def Ctx.takeBranch (c : Ctx) (tgt : Dword) : Ctx :=
  let A := c.e.pc
  let c := { c with npc := tgt, jumped := true }
  if A.toNat < tgt.toNat then c else
  let again := c.e.lastBack.contains (A, tgt)
  let c := if again then c else { c with e := { c.e with lastBack := (A, tgt) :: c.e.lastBack } }
  if again && c.e.loop.isNone && decide ((A.toNat - tgt.toNat) / 4 + 1 ≤ 64) && c.s.loopFree c.core c.quad then
    { c with e := { c.e with loop := some { first := tgt, last := A } } }
  else c

/-- A register transfer to a target (R287): ALIGN or XLATE with no transfer and no link. -/
def Ctx.jump (c : Ctx) (tgt : Dword) (kind : Nat) : Except Stop Ctx :=
  if tgt.toNat % 4 ≠ 0 then raises cALIGN
  else if 2 ^ 57 ≤ tgt.toNat then raises cXLATE
  else .ok { c.leaveLoop with npc := tgt, jumped := true, pkts := [pktInd kind tgt] }

/-! ### Splits -/

/-- Two arms of an entity: lanes and next pc. -/
abbrev Arm := Mask × Dword

/-- A pending access comes before both arms of the split that follows it (R105). -/
def State.markBoth (s : State) (core : Nat) (r : EntRef) : State :=
  s.modCore core fun k =>
    { k with stores := k.stores.map fun p => if p.ent = r then { p with both := true } else p
             atoms := k.atoms.map fun q => if q.ent = r then { q with both := true } else q }

/-- A split that creates the wave's fragment (R168): the arm with fewer lanes, on a tie the one with the higher next pc, detaches.
Lanes that software has cleared stay with the parent (R166). DESIGN CHOICE (log 83): of arms equal in both, the fall-through arm
detaches, and in a nested split the taken arm runs first. -/
def Ctx.fragmentSplit (c : Ctx) (x y : Arm) : Ctx :=
  let xDetaches : Bool :=
    decide (maskCount x.1 < maskCount y.1) || (decide (maskCount x.1 = maskCount y.1) && decide (y.2.toNat < x.2.toNat))
  let (f, p) := if xDetaches then (x, y) else (y, x)
  let frag : Entity := { pc := f.2, xm := f.1, arm := f.1, lastIssue := c.s.now, sync := true }
  { c.leaveLoop with
    s := c.s.markBoth c.core c.r
    w := { c.w with frag := some frag }
    e := { c.leaveLoop.e with xm := p.1, arm := p.1 ||| (c.e.arm &&& ~~~ c.e.xm) }
    npc := p.2
    jumped := !xDetaches }

/-- A nested split (R169): the arm with more lanes, on a tie the one with the lower next pc, runs first; the other is pushed. -/
def Ctx.nestedSplit (c : Ctx) (x y : Arm) : Ctx :=
  let xFirst : Bool :=
    decide (maskCount y.1 < maskCount x.1) || (decide (maskCount x.1 = maskCount y.1) && decide (x.2.toNat ≤ y.2.toNat))
  let (f, o) := if xFirst then (x, y) else (y, x)
  { c.leaveLoop with
    e := { c.leaveLoop.e with
      xm := f.1, arm := f.1 ||| (c.e.arm &&& ~~~ c.e.xm), stack := { arm := o.1, xm := o.1, pc := o.2 } :: c.e.stack }
    npc := f.2
    jumped := xFirst }

/-- `REJOIN` as it pairs with the innermost open split (R170, R289). -/
def rejoinBody (c : Ctx) : Except Stop Ctx :=
  match c.e.stack with
  | t :: rest =>
    if t.partner then .ok { c with e := { c.e with stack := rest } }
    else if t.stopped then
      if c.e.pc = t.pc then
        .ok { c with e := { c.e with stack := rest, arm := c.e.arm ||| t.arm, xm := (c.e.xm ||| t.xm) &&& ~~~ c.w.exited } }
      else raises cCONVERGE (some c.e.arm)
    else
      .ok { c with
        e := { c.e with stack := { arm := c.e.arm, xm := c.e.xm, pc := c.e.pc, stopped := true } :: rest, arm := t.arm, xm := t.xm }
        npc := t.pc
        jumped := true }
  | [] =>
    match c.w.frag with
    | none => .ok c
    | some f =>
      let other := if c.r.frag then c.w.parent else f
      if other.stopped then
        if other.pc = c.e.pc then
          let held := if c.r.frag then other.held ++ c.e.held else c.e.held ++ other.held
          let s := c.s.etch { c.r with frag := true } c.e.pc [pktEnd 3]
          .ok { c with
            s := s.retag c.core c.r.blk c.r.slot
            r := { c.r with frag := false }
            w := { c.w with frag := none, slog := [], mlog := [] }
            e := { c.e with sync := if c.r.frag then other.sync else c.e.sync, arm := c.e.arm ||| other.arm, xm := (c.e.xm ||| other.xm) &&& ~~~ c.w.exited, held := held } }
        else raises cCONVERGE (some c.e.arm)
      else
        -- the first entity records the pc and stops; in Level mode this ends its quantum (R211)
        .ok { c with e := { c.e with stopped := true, qended := c.b.isLevel || c.e.qended }, npc := c.e.pc }

/-! ### Barriers -/

/-- The other waves of the block that have not exited. -/
def Ctx.others (c : Ctx) : List Wave := (c.b.liveWaves.filter fun p => p.1 ≠ c.r.slot).map (·.2)

def Wave.atBar (w : Wave) : Bool := decide (w.parent.wait = some .bar)

/-- `BAR` (R293): a mixed barrier traps, a block of one wave completes at once, else the wave waits. -/
def barBody (c : Ctx) : Except Stop Ctx :=
  if c.others.any fun w => w.atCbar.isSome then raises cCONVERGE (some c.w.live)
  else if c.s.outstanding c.core c.r.blk c.r.slot then .error (.wait .arrive)
  else if c.others.isEmpty && !c.level then .ok { c with b := { c.b with tidLog := [], keyLog := [] } }
  else .error (.wait .bar)

/-- `CBAR` with a cohort id (R294). -/
def cbarBody (id : BitVec 8) (c : Ctx) : Except Stop Ctx :=
  if (id = 255 && c.b.task) || (id ≠ 255 && !c.b.coh.contains id) then raises cBOUNDS
  else if c.others.any fun w => w.atBar || (w.atCbar.isSome && decide (w.atCbar ≠ some id)) then
    raises cCONVERGE (some c.w.live)
  else if c.s.outstanding c.core c.r.blk c.r.slot then .error (.wait .arrive)
  else .error (.wait (.cbar id))

/-- `BRA` (R283). -/
def execBra (m : BitVec 3) (k : BitVec 4) (n : Bool) (o : BitVec 17) (s : State) : Host.Outcome State Fault Refusal :=
  run (.bra m k n o) (fun c =>
      let tgt := c.e.pc + BitVec.ofInt 64 (4 * c.x.imm o.toNat 17)
      let C := c.e.xm &&& (if n then ~~~ c.rk k else c.rk k)
      let go (taken : Bool) : Except Stop Ctx :=
        .ok { (if taken then c.takeBranch tgt else c) with pkts := if m = 0 then [] else [pktBr taken] }
      match m.toNat with
      | 0 => go true
      | 1 => go (decide (C ≠ 0))
      | 2 => go (decide (C = c.e.xm))
      | 3 => go (decide (C = 0))
      | _ =>
        let c := { c with pkts := [pktSplit C] }
        if C = 0 then .ok c.leaveLoop
        else if C = c.e.xm then .ok { c.leaveLoop with npc := tgt, jumped := true }
        else if c.w.frag.isNone && c.e.stack.isEmpty then .ok (c.fragmentSplit (C, tgt) (c.e.xm &&& ~~~ C, c.npc))
        else .ok (c.nestedSplit (C, tgt) (c.e.xm &&& ~~~ C, c.npc))) s

/-- `CALL` (R285). -/
def execCall (d : BitVec 5) (i : BitVec 20) (s : State) : Host.Outcome State Fault Refusal :=
  run (.call d i) (fun c => .ok { (c.leaveLoop.ws d (c.e.pc + 4)) with npc := c.e.pc + BitVec.ofInt 64 (4 * c.x.imm i.toNat 20), jumped := true }) s

/-- `JMPS` (R287). -/
def execJmps (a : BitVec 5) (s : State) : Host.Outcome State Fault Refusal :=
  run (.jmps a) (fun c => c.jump (c.rs a) 0) s

/-- `CALLS` (R287). -/
def execCalls (d a : BitVec 5) (s : State) : Host.Outcome State Fault Refusal :=
  run (.calls d a) (fun c => (c.jump (c.rs a) 1).map fun c' => c'.ws d (c.e.pc + 4)) s

/-- `RET` (R287). -/
def execRet (a : BitVec 5) (s : State) : Host.Outcome State Fault Refusal :=
  run (.ret a) (fun c => c.jump (c.rs a) 2) s

/-- `EXIT` (R289). -/
def execExit (s : State) : Host.Outcome State Fault Refusal :=
  run .exit (exitBody) s

/-- `REJOIN` (R170). -/
def execRejoin (s : State) : Host.Outcome State Fault Refusal :=
  run .rejoin (rejoinBody) s

/-- `ISYNC` (R304). -/
def execIsync (s : State) : Host.Outcome State Fault Refusal :=
  run .isync (fun c => .ok { c.leaveLoop with e := { c.leaveLoop.e with fetched := [] } }) s

/-- `NAP` (R292). -/
def execNap (a : BitVec 5) (s : State) : Host.Outcome State Fault Refusal :=
  run (.nap a) (fun c => .ok { c with e := { c.e with napEnd := c.s.now + max 1 (min (c.rs a).toNat 65536) } }) s

/-- `BAR` (R293). -/
def execBar (s : State) : Host.Outcome State Fault Refusal :=
  run .bar (barBody) s

/-- `CBAR` (R294). -/
def execCbar (a : BitVec 5) (s : State) : Host.Outcome State Fault Refusal :=
  run (.cbar a) (fun c => cbarBody ((c.rs a).setWidth 8) c) s

end Sys2Proof.Machine
end

