-- ==== Sys2Proof/Machine/Conversion.lean ====
section
/-! DEFINITION. Conversions (R242–R245) and Rocker draws (R240, R241, R246–R249). -/
namespace Sys2Proof.Machine

/-- The conversion mode of a group: `HMOD` cv when non-zero, else m (R242). -/
def Ctx.satMode (c : Ctx) (m : Bool) : Bool := if c.x.cv = 0 then m else decide (c.x.cv = 1)

/-- A narrow result written into a part of a word: `bits` wide at position p; the other bits are kept. -/
def writePart (old : Word) (bits p code : Nat) : Word :=
  BitVec.ofNat 32 (natSet old.toNat (bits * p + bits - 1) (bits * p) code)

/-- Writes narrow results lane by lane, with their flags and saturation counts. The kept bits are those of the destination after
the group's frees (R30). -/
def narrowOp (d : Reg6) (bits p : Nat) (r : Lanes Conv) (c : Ctx) : Except Stop Ctx := do
  let old := readV c.w d.toNat
  let c ← c.wv d.toNat c.g fun l => writePart old[l] bits p (r[l]).code
  .ok ((c.flags c.g fun l => (r[l]).flags).countSat ((lanesIn c.g).countP fun l => (r[l]).counted))

/-- A full-width conversion. -/
def wideOp (d : Reg6) (pair : Bool) (r : Lanes Conv) (c : Ctx) : Except Stop Ctx := do
  let c ← if pair then c.wd d.toNat c.g fun l => BitVec.ofNat 64 (r[l]).code
    else c.wv d.toNat c.g fun l => BitVec.ofNat 32 (r[l]).code
  .ok ((c.flags c.g fun l => (r[l]).flags).countSat ((lanesIn c.g).countP fun l => (r[l]).counted))

/-- The exact source of a conversion in a lane (Table 10.5). -/
def Ctx.cvtSource (x : Ctx) (a : Reg6) (c : BitVec 4) (l : Fin 32) : FV :=
  if c = 8 ∨ c = 13 then intValue 32 true (x.rv a)[l].toNat
  else if c = 9 then intValue 32 false (x.rv a)[l].toNat
  else if c = 11 ∨ c = 12 then fmt64.valueZ x.x.ftz (x.rd a.toNat l).toNat
  else fmt32.valueZ x.x.ftz (x.rv a)[l].toNat

/-- The conversion of a code (Table 10.5). -/
def cvtOne (c : BitVec 4) (mode : RMode) (ftz sat : Bool) (v : FV) : Conv :=
  match c.toNat with
  | 0 => Elem.fp16.convert mode ftz sat v
  | 1 => Elem.bf16.convert mode ftz sat v
  | 2 => Elem.e4m3.convert mode ftz sat v
  | 3 => Elem.e5m2.convert mode ftz sat v
  | 4 => Elem.dx8.convert mode ftz sat v
  | 5 => Elem.int8.convert mode ftz sat v
  | 6 | 12 => Elem.int32.convert mode ftz sat v
  | 7 => intConvert 32 false mode sat v
  | 10 | 13 => Elem.fp64.convert mode ftz sat v
  | _ => Elem.fp32.convert mode ftz sat v

/-- The neighbouring representable magnitudes of a format around a magnitude a / b that it does not represent: their codes and
values (R245). -/
def neighbours (e : Elem) (a b : Nat) : (Nat × FV) × Nat × FV :=
  let mk (lo hi : Nat) := ((lo, e.value lo), hi, e.value hi)
  match e with
  | .int8 => ((a / b, .fin false (a / b) 1), a / b + 1, .fin false (a / b + 1) 1)
  | .dx8 => mk (dx8Round .rtz false a b).1 (dx8Round .rup false a b).1
  | _ =>
    let lo := ((e.fmt?.getD fmt16).round .rtz false a b).code
    mk lo (lo + 1)

/-- Does a magnitude lie beyond a format's range (R245)? -/
def beyond (e : Elem) (neg : Bool) (a b : Nat) : Bool :=
  match e with
  | .int8 => decide ((if neg then 128 else 127) * b < a)
  | .dx8 => decide (100000 * b < a)
  | _ =>
    let f := e.fmt?.getD fmt16
    match f.value f.maxCode with
    | .fin _ p q => decide (p * b < a * q)
    | _ => false

/-- The smallest normal magnitude of a format as a fraction; none for an integer. -/
def smallestNormal (e : Elem) : Option (Nat × Nat) :=
  match e with
  | .dx8 => some (1, 1000000)
  | .int8 | .int32 => none
  | _ => match (e.fmt?.getD fmt16).value (e.fmt?.getD fmt16).minNormal with
    | .fin _ p q => some (p, q)
    | _ => none

/-- Stochastic conversion of one lane with draw q (R245). -/
def stochastic (e : Elem) (ftz sat : Bool) (x : FV) (q : Nat) : Conv :=
  match x with
  | .fin neg a b =>
    let exact := e.convert .rtz ftz sat x
    -- a value beyond the range overflows whatever q is, so it is rounded away from zero (log 20)
    if beyond e neg a b then e.convert (if neg then .rdn else .rup) ftz sat x
    else if exact.flags &&& flInx = 0 then exact else
    match neighbours e a b with
    | ((lo, .fin _ l ld), hi, .fin _ h hd) =>
      -- (|x| − lo) 2^32 + q (hi − lo) ≥ 2^32 (hi − lo), over the common denominator
      let X := a * ld * hd
      let L := l * b * hd
      let H := h * b * ld
      let up : Bool := decide (2 ^ 32 * (H - L) ≤ (X - L) * 2 ^ 32 + q * (H - L))
      let mag := if up then hi else lo
      let tiny : Bool := match smallestNormal e with
        | some (p, r) => decide (a * r < p * b)
        | none => false
      let sub : Bool := match e.fmt? with
        | some f => ftz && decide (0 < mag) && decide (mag < f.minNormal)
        | none => false
      let code := match e with
        | .int8 => if neg then (256 - mag) % 256 else mag
        | _ => (if sub then 0 else mag) + (if neg then (if e.size = 1 then 128 else 32768) else 0)
      { code := code, flags := if tiny || sub then flUnf ||| flInx else flInx }
    | _ => exact
  | _ => e.convert .rtz ftz sat x

/-- The destination and position of a `CVTS` control word (Table 10.6); none: it traps ILLOP. -/
def cvtsControl (w : Dword) : Option (Elem × Nat × Bool) :=
  let n := w.toNat
  let f := natBits n 3 0
  let p := natBits n 5 4
  if n < 128 ∧ 1 ≤ f ∧ f ≤ 6 ∧ (f < 5 ∨ p < 2) then (elemOf f).map fun e => (e, p, natBit n 6) else none

/-- An element of a packed source unpacked to FP32 (R243). -/
def unpackOne (c : BitVec 4) (mode : RMode) (ftz : Bool) (code : Nat) : Conv :=
  match c.toNat with
  | 5 => { code := (BitVec.ofInt 32 (sextInt code 8)).toNat }
  | 4 => let r := fmt32.convert mode false false (dx8Value code); { r with counted := false }
  | n =>
    let f := if n = 0 then fmt16 else if n = 1 then fmtB16 else if n = 2 then fmtE4m3 else fmtE5m2
    let r := fmt32.convert .rne false false (f.valueZ ftz code)
    { r with counted := false }

/-! ### Rocker -/

/-- The quarter-round on four words of a ChaCha state (R240). -/
def quarter (st : List Word) (i j k l : Nat) : List Word :=
  let g (st : List Word) (n : Nat) : Word := st.getD n 0
  let a := g st i + g st j
  let d := (g st l ^^^ a).rotateLeft 16
  let c := g st k + d
  let b := (g st j ^^^ c).rotateLeft 12
  let a := a + b
  let d := (d ^^^ a).rotateLeft 8
  let c := c + d
  let b := (b ^^^ c).rotateLeft 7
  (((st.set i a).set j b).set k c).set l d

def doubleRound (st : List Word) : List Word :=
  let st := quarter (quarter (quarter (quarter st 0 4 8 12) 1 5 9 13) 2 6 10 14) 3 7 11 15
  quarter (quarter (quarter (quarter st 0 5 10 15) 1 6 11 12) 2 7 8 13) 3 4 9 14

/-- Words 0–3 of the draw of a key, stream, global lane index and step (R240). -/
def rocker (key : List Word) (stream lane step : Word) : List Word :=
  let st : List Word := [0x61707865, 0x3320646E, 0x79622D32, 0x6B206574] ++ key.take 8 ++ [stream, lane, step, 0]
  let r := doubleRound (doubleRound (doubleRound (doubleRound st)))
  (List.range 4).map fun i => r.getD i 0 + st.getD i 0

/-- The global lane index (R240). -/
def Ctx.globalLane (c : Ctx) (l : Fin 32) : Word :=
  let w := (c.s.wid c.b c.r.slot).setWidth 32 * 32#32 + BitVec.ofNat 32 l.val
  if c.isSurrender then w ^^^ 0x80000000 else w

/-- Writes a group of four registers. -/
def Ctx.wv4 (c : Ctx) (d : Nat) (lanes : Mask) (f : Fin 32 → List Word) : Except Stop Ctx := do
  let r := lanesOf f
  let c ← c.wv d lanes fun l => (r[l]).getD 0 0
  let c ← c.wv (d + 1) lanes fun l => (r[l]).getD 1 0
  let c ← c.wv (d + 2) lanes fun l => (r[l]).getD 2 0
  c.wv (d + 3) lanes fun l => (r[l]).getD 3 0

/-- The width of a slice (R247). -/
def sliceWidth (w : BitVec 3) : Nat := [1, 2, 4, 8, 12, 16, 24, 32].getD w.toNat 1

/-- A slice of a 128-bit draw (R247). -/
def sliceOf (D : Nat) (ctl : Dword) (n : Nat) : Nat :=
  let j := natBits ctl.toNat 6 0
  let rot := natBits ctl.toNat 14 8
  let D := D / 2 ^ rot + D % 2 ^ rot * 2 ^ (128 - rot)
  let jj := j % (128 / n)
  natBits D ((jj + 1) * n - 1) (jj * n)

/-- `CVT` (R242). -/
def execCvt (d a : BitVec 6) (c : BitVec 4) (p : BitVec 2) (la m : Bool) (gd : Guard) (s : State) : Host.Outcome State Fault Refusal :=
  run (.cvt d a c p la m gd) (fun x =>
      let r := lanesOf fun l => cvtOne c x.rmode x.x.ftz (x.satMode m) (x.cvtSource a c l)
      if c.toNat ≤ 1 then narrowOp d 16 p.toNat r x
      else if c.toNat ≤ 5 then narrowOp d 8 p.toNat r x
      else wideOp d (decide (c = 10) || decide (c = 13)) r x) s

/-- `CVTS` (R245). -/
def execCvts (d a b : BitVec 6) (la lb : Bool) (gd : Guard) (s : State) : Host.Outcome State Fault Refusal :=
  run (.cvts d a b la lb gd) (fun c =>
      match cvtsControl c.rsc with
      | none => raises cILLOP
      | some (e, p, sat) =>
        let r := lanesOf fun l => stochastic e c.x.ftz sat (fmt32.valueZ c.x.ftz (c.rv a)[l].toNat) (c.rv b)[l].toNat
        narrowOp d (8 * e.size) p r c) s

/-- `PACK` (R244). -/
def execPack (d a b : BitVec 6) (la lb : Bool) (gd : Guard) (s : State) : Host.Outcome State Fault Refusal :=
  run (.pack d a b la lb gd) (vecOp d fun c l => (c.rv b)[l].extractLsb' 0 16 ++ (c.rv a)[l].extractLsb' 0 16) s

/-- `UNPK` (R243). -/
def execUnpk (d a : BitVec 6) (c : BitVec 4) (p : BitVec 2) (la : Bool) (gd : Guard) (s : State) : Host.Outcome State Fault Refusal :=
  run (.unpk d a c p la gd) (fun x =>
      let w := if c.toNat ≤ 1 then 16 else 8
      wideOp d false (lanesOf fun l => unpackOne c x.rmode x.x.ftz (natBits (x.rv a)[l].toNat (w * p.toNat + w - 1) (w * p.toNat))) x) s

/-- `RND` (R246). -/
def execRnd (d a : BitVec 6) (s : BitVec 5) (la m : Bool) (gd : Guard) (st : State) : Host.Outcome State Fault Refusal :=
  run (.rnd d a s la m gd) (fun c =>
      c.wv4 d.toNat c.g fun l =>
        rocker c.keyWords ((c.rs s).setWidth 32) (c.globalLane l)
          (if m then BitVec.ofInt 32 (if c.x.himm.isEmpty then (a.toNat : Int) else c.x.imm a.toNat 6) else (c.rv a)[l])) st

/-- `RSLICE` (R247). -/
def execRslice (d a : BitVec 6) (w : BitVec 3) (la m : Bool) (gd : Guard) (s : State) : Host.Outcome State Fault Refusal :=
  run (.rslice d a w la m gd) (vecOp d fun c l =>
      let D := (c.rvn (a.toNat + 3))[l] ++ (c.rvn (a.toNat + 2))[l] ++ (c.rvn (a.toNat + 1))[l] ++ (c.rv a)[l]
      let n := sliceWidth w
      let x := sliceOf D.toNat c.rsc n
      BitVec.ofNat 32 (if m then (fmt32.ofFV .rtz false (.fin false x (2 ^ n))).1 else x)) s

/-- `RBERN` (R248). -/
def execRbern (k c : BitVec 4) (a b : BitVec 6) (gd : Guard) (s : State) : Host.Outcome State Fault Refusal :=
  run (.rbern k c a b gd) (predOp k fun x l => decide (((x.rvn (a.toNat + c.toNat))[l]).toNat < ((x.rv b)[l]).toNat)) s

/-- `RKEY` (R249). -/
def execRkey (a : BitVec 5) (s : State) : Host.Outcome State Fault Refusal :=
  run (.rkey a) (fun c =>
      .ok (c.setKey ((List.range 4).flatMap fun i =>
        let v := c.rs (a + BitVec.ofNat 5 i)
        [v.setWidth 32, v.extractLsb' 32 32]))) s

end Sys2Proof.Machine
end

