-- ==== Sys2Proof/Machine/CrossLane.lean ====
section
/-! DEFINITION. Cross-lane instructions (R277–R282). -/
namespace Sys2Proof.Machine

/-- Lane `src` of a register as lane l reads it: its own value when `src` is no active lane (R277). -/
def Ctx.laneRead (c : Ctx) (a : Reg6) (src : Option Nat) (l : Fin 32) : Word :=
  match src.bind laneOfNat with
  | some j => if inMask c.e.xm j then (c.rv a)[j] else (c.rv a)[l]
  | none => (c.rv a)[l]

/-- A value as an f32 reduction takes it: a subnormal flushed under ftz, a NaN canonical, INV for a signalling one. -/
def redLeaf (ftz : Bool) (x : Word) : Nat × FFlags :=
  match fmt32.value x.toNat with
  | .nan s => fmt32.nanR s
  | _ => (if ftz && fmt32.isSubnormal x.toNat then x.toNat / fmt32.signBit * fmt32.signBit else x.toNat, flNone)

/-- The operation of a reduction code on two values (Table 11.8). -/
def redOp (f : Reg6) (mode : RMode) (ftz : Bool) (x y : Nat) : Nat × FFlags :=
  let i (g : Word → Word → Word) : Nat × FFlags := ((g (BitVec.ofNat 32 x) (BitVec.ofNat 32 y)).toNat, flNone)
  match f.toNat with
  | 0 => i fun a b => a + b
  | 1 => i (pick false false)
  | 2 => i (pick false true)
  | 3 => i (pick true false)
  | 4 => i (pick true true)
  | 5 => i fun a b => a &&& b
  | 6 => i fun a b => a ||| b
  | 7 => i fun a b => a ^^^ b
  | 8 => fmt32.add mode ftz x y
  | 9 => fmt32.minMax false ftz x y
  | _ => fmt32.minMax true ftz x y

/-- The identity of a reduction code (Table 11.8). -/
def redIdentity (f : Reg6) : Word :=
  match f.toNat with
  | 1 => 0x7FFFFFFF
  | 2 => 0x80000000
  | 3 | 5 => 0xFFFFFFFF
  | 9 => 0x7F800000
  | 10 => 0xFF800000
  | _ => 0

/-- One level of the fixed tree: neighbours combined, an empty node yielding the other (R281). -/
def treeLevel (g : Nat → Nat → Nat × FFlags) : List (Option (Nat × FFlags)) → List (Option (Nat × FFlags))
  | some (x, p) :: some (y, q) :: t => some ((g x y).1, p ||| q ||| (g x y).2) :: treeLevel g t
  | some x :: none :: t => some x :: treeLevel g t
  | none :: y :: t => y :: treeLevel g t
  | [x] => [x]
  | [] => []

/-- The value of each lane that takes part, empty elsewhere, as node (0, l). -/
def Ctx.leaves (c : Ctx) (a f : Reg6) : List (Option (Nat × FFlags)) :=
  laneList.map fun l =>
    if inMask c.g l then some (if 8 ≤ f.toNat then redLeaf c.x.ftz (c.rv a)[l] else ((c.rv a)[l].toNat, flNone)) else none

/-- The root of the tree; for the integer operations the order does not matter. -/
def Ctx.reduce (c : Ctx) (a f : Reg6) : Option (Nat × FFlags) :=
  let lv := treeLevel (redOp f c.rmode c.x.ftz)
  ((lv (lv (lv (lv (lv (c.leaves a f)))))).headD none)

/-- The order of `.argmax` and `.argmin`: a NaN above every number, −0 below +0 (R281). -/
def argKey (x : Nat) : Nat := if (fmt32.value x).isNan then 2 ^ 33 else fmt32.orderKey x

/-- The value and the lane that `.argmax` or `.argmin` selects. -/
def Ctx.argBest (c : Ctx) (a f : Reg6) : Option (Nat × Fin 32) :=
  (lanesIn c.g).foldl (fun best l =>
    let x := (redLeaf c.x.ftz (c.rv a)[l]).1
    match best with
    | none => some (x, l)
    | some (y, k) =>
      let better := if f.toNat = 11 then argKey y < argKey x else argKey x < argKey y
      if better then some (x, l) else some (y, k)) none

/-- The running combinations of a scan: for each lane that takes part its result, and the flags of all steps (R282). -/
def scanGo (g : Nat → Nat → Nat × FFlags) (leaf : Fin 32 → Nat × FFlags) (excl : Bool) (ident : Nat) :
    List (Fin 32) → Option Nat → FFlags → List (Fin 32 × Nat) × FFlags
  | [], _, fl => ([], fl)
  | l :: ls, acc, fl =>
    let x := leaf l
    let (next, fl') : Nat × FFlags := match acc with
      | none => (x.1, x.2)
      | some s => ((g s x.1).1, x.2 ||| (g s x.1).2)
    -- an exclusive scan combines a lane's value only for the lanes after it
    let used := !excl || !ls.isEmpty
    let (rest, flr) := scanGo g leaf excl ident ls (some next) (if used then fl ||| fl' else fl)
    ((l, if excl then acc.getD ident else next) :: rest, flr)

/-- Flags of a reduction or a scan stand for every lane that takes part (R282). -/
def Ctx.flagsAll (c : Ctx) (fl : FFlags) : Ctx := c.flags c.g fun _ => fl

/-- `SHFL` (R278). -/
def execShfl (d a b : BitVec 6) (la lb : Bool) (gd : Guard) (s : State) : Host.Outcome State Fault Refusal :=
  run (.shfl d a b la lb gd) (vecOp d fun c l => c.laneRead a (some ((c.rv b)[l].toNat % 32)) l) s

/-- `SHFX` (R278). -/
def execShfx (d a : BitVec 6) (i : BitVec 8) (gd : Guard) (s : State) : Host.Outcome State Fault Refusal :=
  run (.shfx d a i gd) (vecOp d fun c l => c.laneRead a (some (l.val ^^^ i.toNat)) l) s

/-- `SHFU` (R278). -/
def execShfu (d a : BitVec 6) (i : BitVec 8) (gd : Guard) (s : State) : Host.Outcome State Fault Refusal :=
  run (.shfu d a i gd) (vecOp d fun c l => c.laneRead a (if i.toNat ≤ l.val then some (l.val - i.toNat) else none) l) s

/-- `SHFD` (R278). -/
def execShfd (d a : BitVec 6) (i : BitVec 8) (gd : Guard) (s : State) : Host.Outcome State Fault Refusal :=
  run (.shfd d a i gd) (vecOp d fun c l => c.laneRead a (some (l.val + i.toNat)) l) s

/-- `BCST` (R279). -/
def execBcst (d a : BitVec 6) (s : BitVec 5) (x : BitVec 3) (gd : Guard) (st : State) : Host.Outcome State Fault Refusal :=
  run (.bcst d a s x gd) (vecOp d fun c l => c.laneRead a (if x = 0 then some ((c.rs s).toNat % 32) else (lowestLane c.g).map (·.val)) l) st

/-- `RDFL` (R280). -/
def execRdfl (k a : BitVec 6) (s : BitVec 5) (w : Bool) (gd : Guard) (st : State) : Host.Outcome State Fault Refusal :=
  run (.rdfl k a s w gd) (fun c =>
      match lowestLane c.g with
      | none => .ok c
      | some f =>
        let v (l : Fin 32) : Dword := if w then c.rd a.toNat l else (c.rv a)[l].setWidth 64
        .ok ((c.ws s (v f)).wk (k.setWidth 4) c.g (maskOf fun l => decide (v l = v f)))) st

/-- `VRED` (R281). -/
def execVred (d a f : BitVec 6) (la : Bool) (gd : Guard) (s : State) : Host.Outcome State Fault Refusal :=
  run (.vred d a f la gd) (fun c =>
      if f.toNat < 11 then do
        let r := c.reduce a f
        let c ← c.wv d.toNat c.g fun _ => BitVec.ofNat 32 ((r.map (·.1)).getD 0)
        .ok (c.flagsAll ((r.map (·.2)).getD flNone))
      else do
        let r := c.argBest a f
        let inv := (lanesIn c.g).foldl (fun fl l => fl ||| (redLeaf false (c.rv a)[l]).2) flNone
        let c ← c.wv d.toNat c.g fun _ => BitVec.ofNat 32 ((r.map (·.1)).getD 0)
        let c ← c.wv (d.toNat + 1) c.g fun _ => BitVec.ofNat 32 ((r.map (·.2.val)).getD 0)
        .ok (c.flagsAll inv)) s

/-- `VSCAN` (R282). -/
def execVscan (d a f : BitVec 6) (la e : Bool) (gd : Guard) (s : State) : Host.Outcome State Fault Refusal :=
  run (.vscan d a f la e gd) (fun c => do
      let leaf (l : Fin 32) : Nat × FFlags := if 8 ≤ f.toNat then redLeaf c.x.ftz (c.rv a)[l] else ((c.rv a)[l].toNat, flNone)
      let r := scanGo (redOp f c.rmode c.x.ftz) leaf e (redIdentity f).toNat (lanesIn c.g) none flNone
      let c ← c.wv d.toNat c.g fun l => BitVec.ofNat 32 (((r.1.find? fun p => p.1 = l).map (·.2)).getD 0)
      .ok (c.flagsAll r.2)) s

end Sys2Proof.Machine
end

