-- ==== Sys2Proof/Machine/Faulting.lean ====
section
/-! DEFINITION. Translation events: walks, the fault buffer, its records and answers (R87–R94), shootdowns (R98, R99), and the events of
traps (R383, R389, R390). -/
namespace Sys2Proof.Machine

/-- `PAGE_WALK` (R87): A and D are set, and the translation is installed; one that faults is held by no TLB. -/
def execPageWalk (core : Nat) (asid : BitVec 9) (va : Dword) (acc : AccKind) (s : State) : Host.Outcome State Fault Refusal :=
  event "PAGE_WALK" (if core < 288 ∧ va.toNat < 2 ^ 57 ∧ s.needsWalk core asid va.toNat acc = true then some (s.walkInstall core asid va.toNat acc).2 else none)

/-- `FAULT_BUFFER_ENTRY` (R91): an access held at its core enters when an entry is free. -/
def execFaultBufferEntry (plate : Nat) (s : State) : Host.Outcome State Fault Refusal :=
  event "FAULT_BUFFER_ENTRY" (if plate < 2 then s.enterBuffer plate else none)

/-- `FAULT_RECORD_WRITE` (R92): one record for each group. -/
def execFaultRecordWrite (plate : Nat) (s : State) : Host.Outcome State Fault Refusal :=
  event "FAULT_RECORD_WRITE" (if plate < 2 then s.writeRecord plate else none)

/-- `FREPLY_REPLAY` (R93): every access of the group is issued again. -/
def execFreplyReplay (plate : Nat) (group : BitVec 12) (s : State) : Host.Outcome State Fault Refusal :=
  event "FREPLY_REPLAY" (if plate < 2 then some (s.freply plate group.toNat 0) else none)

/-- `FREPLY_FATAL_XLATE` (R93): every access of the group ends with XLATE. -/
def execFreplyFatalXlate (plate : Nat) (group : BitVec 12) (s : State) : Host.Outcome State Fault Refusal :=
  event "FREPLY_FATAL_XLATE" (if plate < 2 then some (s.freply plate group.toNat 1) else none)

/-- `FREPLY_FATAL_WPROT` (R93): every access of the group ends with WPROT. -/
def execFreplyFatalWprot (plate : Nat) (group : BitVec 12) (s : State) : Host.Outcome State Fault Refusal :=
  event "FREPLY_FATAL_WPROT" (if plate < 2 then some (s.freply plate group.toNat 2) else none)

/-- `FREPLY_IGNORED` (R93): action 3: nothing changes. -/
def execFreplyIgnored (plate : Nat) (group : BitVec 12) (s : State) : Host.Outcome State Fault Refusal :=
  event "FREPLY_IGNORED" (if plate < 2 then some (s.freply plate group.toNat 3) else none)

/-- `SHOOTDOWN_START` (R98): ignored while the control core's shootdown is in progress. -/
def execShootdownStart (control : Nat) (purge : Bool) (s : State) : Host.Outcome State Fault Refusal :=
  event "SHOOTDOWN_START" (if control < 8 then some (s.startShootdown control purge) else none)

/-- `SHOOTDOWN_COMPLETE` (R99): no cache holds a translation or a line of the range any more. -/
def execShootdownComplete (control : Nat) (s : State) : Host.Outcome State Fault Refusal :=
  event "SHOOTDOWN_COMPLETE" (if control < 8 then s.endShootdown control else none)

/-- `HANDLER_ENTRY` (R389): the pending wave of lowest `wslot`. -/
def execHandlerEntry (blk : Nat) (s : State) : Host.Outcome State Fault Refusal :=
  event "HANDLER_ENTRY" (s.enterNext blk)

/-- `FP_WINDOW_CLOSE` (R390): 8 cycles after the first flagged exception, the block halts; a barrier that is due completes first (R296). -/
def execFpWindowClose (blk slot : Nat) (s : State) : Host.Outcome State Fault Refusal :=
  event "FP_WINDOW_CLOSE" ((tget s.blocks blk).bind fun b => (tget b.waves slot).bind fun w => w.window.bind fun f =>
      if f.opened + 8 ≤ s.now then
        -- the halt closes the window; the skid of its wave counts from the reported instruction on (R386)
        some ((s.settleBarrier blk).modBlock blk fun b => match tget b.waves slot with
          | some w => if b.halt.isSome then b.setWave slot w.closeWindow else b.startHalt s.now
          | none => b)
      else none)

/-- `UNCORRECTABLE_ECC_ERROR` (R383): in a register that an entity reads: ECC is raised before its group. -/
def execUncorrectableEccError (ent : EntRef) (s : State) : Host.Outcome State Fault Refusal :=
  event "UNCORRECTABLE_ECC_ERROR" ((tget s.blocks ent.blk).bind fun b => (b.wave ent.slot).bind fun w => (w.entity ent.frag).bind fun e =>
      if s.ready b ent w e then some (s.raise ent { bits := causeBit cECC } e.resumeAt e.resumeAt) else none)

end Sys2Proof.Machine
end

