-- ==== Sys2Proof/Machine/Approx.lean ====
section
/-! DEFINITION. The approximate functions `FRCP`, `FRSQ`, `FEXP2`, `FLOG2`, `FSIN`, `FCOS` (R274, R275). Their bits on inputs that
Table 11.6 does not make exact are an implementation's own: a free function of the input (`Config.approx`) whose answer is taken
where it meets the stated bound, and replaced by the rounded exact result where it does not. The exact results are computed in
fixed point with at least 128 fraction bits. -/
namespace Sys2Proof.Machine

/-- π / 2 × 2 ^ 320, truncated. -/
def halfPi320 : Nat := 0x1921FB54442D18469898CC51701B839A252049C1114CF98E804177D4C76273644A29410F31C6809BB
/-- ln 2 × 2 ^ 192, truncated. -/
def ln2Fix : Nat := 0xB17217F7D1CF79ABC9E3B39803F2F6AF40F343267298B62D

/-- 2 ^ 192, the unit of the fixed-point numbers below. -/
def fixOne : Nat := 2 ^ 192

/-- Σ over k of x ^ k / k! in fixed point, from term `t` of index `k` on. -/
def expSum (x : Nat) : Nat → Nat → Nat → Nat
  | 0, _, _ => 0
  | fuel + 1, k, t => t + expSum x fuel (k + 1) (t * x / fixOne / (k + 1))

/-- 2 ^ f for 0 ≤ f < 1, both in fixed point. -/
def exp2Frac (f : Nat) : Nat := expSum (f * ln2Fix / fixOne) 60 0 fixOne

/-- 2 ^ (± num / den) as a rational. -/
def exp2Val (neg : Bool) (num den : Nat) : Nat × Nat :=
  let i := num / den
  let f := num % den * fixOne / den
  if neg then
    -- 2 ^ −(i + f) = 2 ^ (1 − f) / 2 ^ (i + 1)
    if num % den = 0 then (1, 2 ^ i) else (exp2Frac (fixOne - f), fixOne * 2 ^ (i + 1))
  else (exp2Frac f * 2 ^ i, fixOne)

/-- Σ over odd k of z ^ k / k in fixed point, z the fixed-point argument and z2 its square. -/
def atanhSum (z2 : Nat) : Nat → Nat → Nat → Nat
  | 0, _, _ => 0
  | fuel + 1, k, t => t / k + atanhSum z2 fuel (k + 2) (t * z2 / fixOne)

/-- log2 (num / den) for a positive argument: sign and magnitude, in fixed point. -/
def log2Val (num den : Nat) : Bool × Nat :=
  let e := qlog2 num den
  let n := if e < 0 then num * 2 ^ (-e).toNat else num
  let d := if e < 0 then den else den * 2 ^ e.toNat
  -- 1 ≤ n / d < 2: ln = 2 atanh ((n − d) / (n + d))
  let z := (n - d) * fixOne / (n + d)
  let l := 2 * atanhSum (z * z / fixOne) 130 1 z * fixOne / ln2Fix
  if e < 0 then
    let m := (-e).toNat * fixOne
    if l < m then (true, m - l) else (false, l - m)
  else (false, e.toNat * fixOne + l)

/-- The alternating Taylor sum from term `t` of index `k`: t − t x² / ((k+1)(k+2)) + …, both parts kept apart. -/
def trigSum (x2 : Nat) : Nat → Nat → Nat → Nat × Nat
  | 0, _, _ => (0, 0)
  | fuel + 1, k, t =>
    let r := trigSum x2 fuel (k + 2) (t * x2 / fixOne / ((k + 1) * (k + 2)))
    (t + r.2, r.1)

/-- sin or cos of a fixed-point argument in [0, π/4]. -/
def sinFix (x : Nat) : Nat := let r := trigSum (x * x / fixOne) 30 1 x; r.1 - r.2
def cosFix (x : Nat) : Nat := let r := trigSum (x * x / fixOne) 30 0 fixOne; r.1 - r.2

/-- sin (quarter = 0) or cos (quarter = 1) of ± num / den radians: sign and magnitude, in fixed point. The argument is reduced to
the nearest multiple of π/2. -/
def trigVal (quarter : Nat) (neg : Bool) (num den : Nat) : Bool × Nat :=
  let a := num * 2 ^ 320 / den
  let k := (2 * a + halfPi320) / (2 * halfPi320)
  let base := k * halfPi320
  let rneg : Bool := decide (a < base)
  let r := (if rneg then base - a else a - base) / 2 ^ 128
  -- sin (a) with a = k π/2 ± r
  let q := (k + quarter) % 4
  let s := sinFix r
  let c := cosFix r
  let v : Bool × Nat := match q with
    | 0 => (rneg, s) | 1 => (false, c) | 2 => (!rneg, s) | _ => (true, c)
  if neg && decide (quarter = 0) then (!v.1, v.2) else v

/-- The raw answer of the implementation when its distance in codes from the rounded exact result is within `d`, else the rounded
exact result, which may be zero or infinite (bounds in ulps, R274). -/
def nearCode (f : Fmt) (raw exact d : Nat) : Nat :=
  let r := if raw ≤ exact + d ∧ exact ≤ raw + d then raw else exact
  if f.infCode < r then f.infCode else r

/-- The flags of an approximate finite or overflowing result: INX, with OVF or UNF as for an arithmetic result, and the flush of a
subnormal result (R233, R270). -/
def approxResult (f : Fmt) (ftz neg tiny : Bool) (code : Nat) : Nat × FFlags :=
  if f.infCode ≤ code then (f.signed neg f.infCode, flOvf ||| flInx)
  else if ftz && decide (0 < code) && decide (code < f.minNormal) then (f.signed neg 0, flUnf ||| flInx)
  else (f.signed neg code, if tiny then flUnf ||| flInx else flInx)

/-- The exact result when it is representable, else one of the two representable magnitudes next to it: the raw answer if it is one
of them (a bound of 1 ulp). INX is set for both (R274; log 10). On overflow it is infinity, as RNE has it (R270). -/
def oneUlp (f : Fmt) (raw : Nat) (num den : Nat) (ftz neg : Bool) : Nat × FFlags :=
  let lo := f.round .rtz neg num den
  if lo.inexact = false ∧ lo.code ≤ f.maxCode then
    (if ftz && decide (0 < lo.code) && decide (lo.code < f.minNormal) then (f.signed neg 0, flUnf ||| flInx)
     else (f.signed neg lo.code, flInx))
  else
    let near := (f.round .rne neg num den).code
    if f.maxCode < near then (f.signed neg f.infCode, flOvf ||| flInx)
    else approxResult f ftz neg lo.tiny (if raw = lo.code ∨ raw = lo.code + 1 then raw else near)

/-- `FRCP` (Tables 11.6 and 11.7). -/
def Fmt.rcp (f : Fmt) (ftz : Bool) (x : Nat) : Nat × FFlags :=
  match f.valueZ ftz x with
  | .nan s => f.nanR s
  | .inf n => (f.signed n 0, flNone)
  | .fin n a b =>
    if a = 0 then (f.signed n f.infCode, flDz)
    else oneUlp f (Config.approx (2 + f.fbits) x % f.signBit) b a ftz n

/-- `FRSQ`. -/
def Fmt.rsq (f : Fmt) (ftz : Bool) (x : Nat) : Nat × FFlags :=
  match f.valueZ ftz x with
  | .nan s => f.nanR s
  | .inf n => if n then f.nanR true else (0, flNone)
  | .fin n a b =>
    if a = 0 then (f.signed n f.infCode, flDz)
    else if n then f.nanR true
    else
      let r := qsqrt (2 * f.bias + 64) b a
      oneUlp f (Config.approx (3 + f.fbits) x % f.signBit) r.1 r.2 ftz false

/-- `FEXP2`. -/
def fexp2 (ftz : Bool) (x : Nat) : Nat × FFlags :=
  match fmt32.valueZ ftz x with
  | .nan s => fmt32.nanR s
  | .inf n => if n then (0, flNone) else (fmt32.infCode, flNone)
  | .fin n a b =>
    if a = 0 then (0x3F800000, flNone)
    else if n = false ∧ 128 * b ≤ a then (fmt32.infCode, flOvf ||| flInx)
    else if n = true ∧ 200 * b ≤ a then approxResult fmt32 ftz false true (nearCode fmt32 (Config.approx 5 x) 0 2)
    else
      let v := exp2Val n a b
      let r := fmt32.round .rne false v.1 v.2
      if a % b = 0 ∧ r.inexact = false then
        (if ftz && decide (r.code < fmt32.minNormal) then (0, flUnf ||| flInx) else (r.code, flNone))
      else approxResult fmt32 ftz false r.tiny (nearCode fmt32 (Config.approx 5 x) r.code 2)

/-- Is num / den a power of two? -/
def isPow2 (num den : Nat) : Bool :=
  let e := qlog2 num den
  if e < 0 then decide (num * 2 ^ (-e).toNat = den) else decide (num = den * 2 ^ e.toNat)

/-- Is |± p / q − (± v in fixed point)| ≤ 2 ^ −22? -/
def within22 (n1 : Bool) (p q : Nat) (n2 : Bool) (v : Nat) : Bool :=
  let x := p * fixOne
  let y := v * q
  let d := if n1 = n2 then (if x < y then y - x else x - y) else x + y
  decide (d * 2 ^ 22 ≤ q * fixOne)

/-- The raw answer when it is a finite value within 2 ^ −22 of the fixed-point value, else the rounded value. -/
def near22 (raw : Nat) (neg : Bool) (v : Nat) : Nat :=
  let r := raw % 2 ^ 32
  match fmt32.value r with
  | .fin n p q => if within22 n p q neg v then r else fmt32.signed neg (if v = 0 then 0 else (fmt32.round .rne neg v fixOne).code)
  | _ => fmt32.signed neg (if v = 0 then 0 else (fmt32.round .rne neg v fixOne).code)

/-- The result of a function bounded in absolute terms, given as a signed code. -/
def approx22 (ftz : Bool) (tiny : Bool) (code : Nat) : Nat × FFlags :=
  approxResult fmt32 ftz (code / fmt32.signBit % 2 = 1) tiny (code % fmt32.signBit)

/-- `FLOG2`. -/
def flog2 (ftz : Bool) (x : Nat) : Nat × FFlags :=
  match fmt32.valueZ ftz x with
  | .nan s => fmt32.nanR s
  | .inf n => if n then fmt32.nanR true else (fmt32.infCode, flNone)
  | .fin n a b =>
    if a = 0 then (fmt32.signed true fmt32.infCode, flDz)
    else if n then fmt32.nanR true
    else
      let v := log2Val a b
      if isPow2 a b then
        (if v.2 = 0 then 0 else fmt32.signed v.1 (fmt32.round .rne v.1 v.2 fixOne).code, flNone)
      else
        let e := (fmt32.round .rne v.1 v.2 fixOne).code
        let raw := Config.approx 6 x % 2 ^ 32
        let tiny : Bool := decide (v.2 * 2 ^ 126 < fixOne)
        if (fmt32.signBit ≤ raw) = (v.1 = true) ∧ raw % fmt32.signBit ≤ e + 2 ∧ e ≤ raw % fmt32.signBit + 2 then
          approx22 ftz tiny raw
        else if b ≤ 2 * a ∧ a ≤ 2 * b then approx22 ftz tiny (near22 raw v.1 v.2)
        else approx22 ftz tiny (fmt32.signed v.1 e)

/-- `FSIN` (quarter 0) and `FCOS` (quarter 1). DESIGN CHOICE (log 102): the 1 that `FCOS` gives of a zero sets no INX, as Table 11.7 gives it without a
flag. -/
def ftrig (quarter : Nat) (ftz : Bool) (x : Nat) : Nat × FFlags :=
  match fmt32.valueZ ftz x with
  | .nan s => fmt32.nanR s
  | .inf _ => fmt32.nanR true
  | .fin n a b =>
    if a = 0 then (if quarter = 0 then fmt32.signed n 0 else 0x3F800000, flNone)
    else
      let v := trigVal quarter n a b
      approx22 ftz (decide (v.2 * 2 ^ 126 < fixOne)) (near22 (Config.approx (7 + quarter) x) v.1 v.2)

end Sys2Proof.Machine
end

