-- ==== Sys2Proof/Machine/FloatFam.lean ====
section
/-! DEFINITION. Floating-point arithmetic (R270–R276): FP32, packed FP16 and BF16, and FP64 pairs. -/
namespace Sys2Proof.Machine

/-- The two halves of a packed value, each computed on its own, their flags joined (R270). -/
def packed2 (f : Nat → Nat → Nat × FFlags) (x y : Word) : Nat × FFlags :=
  let lo := f (x.toNat % 65536) (y.toNat % 65536)
  let hi := f (x.toNat / 65536) (y.toNat / 65536)
  (hi.1 * 65536 + lo.1, lo.2 ||| hi.2)

def packed3 (f : Nat → Nat → Nat → Nat × FFlags) (x y z : Word) : Nat × FFlags :=
  let lo := f (x.toNat % 65536) (y.toNat % 65536) (z.toNat % 65536)
  let hi := f (x.toNat / 65536) (y.toNat / 65536) (z.toNat / 65536)
  (hi.1 * 65536 + lo.1, lo.2 ||| hi.2)

/-- A two-source FP32 instruction; the operation gets the rounding mode and ftz of the group. -/
def fp32Bin (d a b : Reg6) (f : RMode → Bool → Nat → Nat → Nat × FFlags) : Ctx → Except Stop Ctx :=
  fpOp d fun c l => f c.rmode c.x.ftz (c.rv a)[l].toNat (c.rv b)[l].toNat
/-- The same on packed halves. -/
def fp16Bin (d a b : Reg6) (f : RMode → Bool → Nat → Nat → Nat × FFlags) : Ctx → Except Stop Ctx :=
  fpOp d fun c l => packed2 (f c.rmode c.x.ftz) (c.rv a)[l] (c.rv b)[l]
/-- The same on FP64 pairs. -/
def fp64Bin (d a b : Reg6) (f : RMode → Bool → Nat → Nat → Nat × FFlags) : Ctx → Except Stop Ctx :=
  fpOp2 d fun c l => f c.rmode c.x.ftz (c.rd a.toNat l).toNat (c.rd b.toNat l).toNat
/-- A packed fused instruction. -/
def fp16Fma (d a b : Reg6) (f : Fmt) : Ctx → Except Stop Ctx :=
  fpOp d fun c l => packed3 (f.fma c.rmode c.x.ftz) (c.rv a)[l] (c.rv b)[l] (c.rv c.vcReg)[l]
/-- A one-source function: FP32, or FP64 pairs with m = 1 (R274). -/
def fpUn (d a : Reg6) (m : Bool) (f : Fmt → RMode → Bool → Nat → Nat × FFlags) : Ctx → Except Stop Ctx :=
  if m then fpOp2 d fun c l => f fmt64 c.rmode c.x.ftz (c.rd a.toNat l).toNat
  else fpOp d fun c l => f fmt32 c.rmode c.x.ftz (c.rv a)[l].toNat

/-- `FABS` and `FNEG`: the sign changed, a NaN canonical, nothing raised (R274); ftz first. -/
def Fmt.setSign (f : Fmt) (ftz : Bool) (neg : Bool → Bool) (x : Nat) : Nat × FFlags :=
  if (f.value x).isNan then (f.nanCode, flNone) else
  let mag := if ftz && f.isSubnormal x then 0 else x % f.signBit
  (f.signed (neg (decide (x / f.signBit % 2 = 1))) mag, flNone)

/-- `FADD` (R271). -/
def execFadd (d a b : BitVec 6) (la lb : Bool) (gd : Guard) (s : State) : Host.Outcome State Fault Refusal :=
  run (.fadd d a b la lb gd) (fp32Bin d a b fmt32.add) s

/-- `FSUB` (R271). -/
def execFsub (d a b : BitVec 6) (la lb : Bool) (gd : Guard) (s : State) : Host.Outcome State Fault Refusal :=
  run (.fsub d a b la lb gd) (fp32Bin d a b fmt32.sub) s

/-- `FMUL` (R271). -/
def execFmul (d a b : BitVec 6) (la lb : Bool) (gd : Guard) (s : State) : Host.Outcome State Fault Refusal :=
  run (.fmul d a b la lb gd) (fp32Bin d a b fmt32.mul) s

/-- `FFMA` (R271). -/
def execFfma (d a b : BitVec 6) (la lb : Bool) (gd : Guard) (s : State) : Host.Outcome State Fault Refusal :=
  run (.ffma d a b la lb gd) (fpOp d fun c l => fmt32.fma c.rmode c.x.ftz (c.rv a)[l].toNat (c.rv b)[l].toNat (c.rv c.vcReg)[l].toNat) s

/-- `FMIN` (R272). -/
def execFmin (d a b : BitVec 6) (la lb : Bool) (gd : Guard) (s : State) : Host.Outcome State Fault Refusal :=
  run (.fmin d a b la lb gd) (fp32Bin d a b fun _ => fmt32.minMax false) s

/-- `FMAX` (R272). -/
def execFmax (d a b : BitVec 6) (la lb : Bool) (gd : Guard) (s : State) : Host.Outcome State Fault Refusal :=
  run (.fmax d a b la lb gd) (fp32Bin d a b fun _ => fmt32.minMax true) s

/-- `FABS` (R274). -/
def execFabs (d a : BitVec 6) (la m : Bool) (gd : Guard) (s : State) : Host.Outcome State Fault Refusal :=
  run (.fabs d a la m gd) (fpUn d a m fun f _ z => f.setSign z fun _ => false) s

/-- `FNEG` (R274). -/
def execFneg (d a : BitVec 6) (la m : Bool) (gd : Guard) (s : State) : Host.Outcome State Fault Refusal :=
  run (.fneg d a la m gd) (fpUn d a m fun f _ z => f.setSign z fun n => !n) s

/-- `FRCP` (R274). -/
def execFrcp (d a : BitVec 6) (la m : Bool) (gd : Guard) (s : State) : Host.Outcome State Fault Refusal :=
  run (.frcp d a la m gd) (fpUn d a m fun f _ z => f.rcp z) s

/-- `FRSQ` (R274). -/
def execFrsq (d a : BitVec 6) (la m : Bool) (gd : Guard) (s : State) : Host.Outcome State Fault Refusal :=
  run (.frsq d a la m gd) (fpUn d a m fun f _ z => f.rsq z) s

/-- `FSQRT` (R274). -/
def execFsqrt (d a : BitVec 6) (la m : Bool) (gd : Guard) (s : State) : Host.Outcome State Fault Refusal :=
  run (.fsqrt d a la m gd) (fpUn d a m Fmt.sqrt) s

/-- `FEXP2` (R274). -/
def execFexp2 (d a : BitVec 6) (la : Bool) (gd : Guard) (s : State) : Host.Outcome State Fault Refusal :=
  run (.fexp2 d a la gd) (fpOp d fun c l => fexp2 c.x.ftz (c.rv a)[l].toNat) s

/-- `FLOG2` (R274). -/
def execFlog2 (d a : BitVec 6) (la : Bool) (gd : Guard) (s : State) : Host.Outcome State Fault Refusal :=
  run (.flog2 d a la gd) (fpOp d fun c l => flog2 c.x.ftz (c.rv a)[l].toNat) s

/-- `FSIN` (R274). -/
def execFsin (d a : BitVec 6) (la : Bool) (gd : Guard) (s : State) : Host.Outcome State Fault Refusal :=
  run (.fsin d a la gd) (fpOp d fun c l => ftrig 0 c.x.ftz (c.rv a)[l].toNat) s

/-- `FCOS` (R274). -/
def execFcos (d a : BitVec 6) (la : Bool) (gd : Guard) (s : State) : Host.Outcome State Fault Refusal :=
  run (.fcos d a la gd) (fpOp d fun c l => ftrig 1 c.x.ftz (c.rv a)[l].toNat) s

/-- `FRND` (R274). -/
def execFrnd (d a : BitVec 6) (la m : Bool) (gd : Guard) (s : State) : Host.Outcome State Fault Refusal :=
  run (.frnd d a la m gd) (fpUn d a m Fmt.rint) s

/-- `FCLASS` (R276): the mask fills one register, for FP64 too. -/
def execFclass (d a : BitVec 6) (la m : Bool) (gd : Guard) (s : State) : Host.Outcome State Fault Refusal :=
  run (.fclass d a la m gd) (vecOp d fun c l => BitVec.ofNat 32 (if m then fmt64.classMask (c.rd a.toNat l).toNat else fmt32.classMask (c.rv a)[l].toNat)) s

/-- `FDIV` (R273). -/
def execFdiv (d a b : BitVec 6) (la lb : Bool) (gd : Guard) (s : State) : Host.Outcome State Fault Refusal :=
  run (.fdiv d a b la lb gd) (fp32Bin d a b fmt32.div) s

/-- `HADD` (R271). -/
def execHadd (d a b : BitVec 6) (la lb : Bool) (gd : Guard) (s : State) : Host.Outcome State Fault Refusal :=
  run (.hadd d a b la lb gd) (fp16Bin d a b fmt16.add) s

/-- `HSUB` (R271). -/
def execHsub (d a b : BitVec 6) (la lb : Bool) (gd : Guard) (s : State) : Host.Outcome State Fault Refusal :=
  run (.hsub d a b la lb gd) (fp16Bin d a b fmt16.sub) s

/-- `HMUL` (R271). -/
def execHmul (d a b : BitVec 6) (la lb : Bool) (gd : Guard) (s : State) : Host.Outcome State Fault Refusal :=
  run (.hmul d a b la lb gd) (fp16Bin d a b fmt16.mul) s

/-- `HFMA` (R271). -/
def execHfma (d a b : BitVec 6) (la lb : Bool) (gd : Guard) (s : State) : Host.Outcome State Fault Refusal :=
  run (.hfma d a b la lb gd) (fp16Fma d a b fmt16) s

/-- `HMIN` (R272). -/
def execHmin (d a b : BitVec 6) (la lb : Bool) (gd : Guard) (s : State) : Host.Outcome State Fault Refusal :=
  run (.hmin d a b la lb gd) (fp16Bin d a b fun _ => fmt16.minMax false) s

/-- `HMAX` (R272). -/
def execHmax (d a b : BitVec 6) (la lb : Bool) (gd : Guard) (s : State) : Host.Outcome State Fault Refusal :=
  run (.hmax d a b la lb gd) (fp16Bin d a b fun _ => fmt16.minMax true) s

/-- `BADD` (R271). -/
def execBadd (d a b : BitVec 6) (la lb : Bool) (gd : Guard) (s : State) : Host.Outcome State Fault Refusal :=
  run (.badd d a b la lb gd) (fp16Bin d a b fmtB16.add) s

/-- `BSUB` (R271). -/
def execBsub (d a b : BitVec 6) (la lb : Bool) (gd : Guard) (s : State) : Host.Outcome State Fault Refusal :=
  run (.bsub d a b la lb gd) (fp16Bin d a b fmtB16.sub) s

/-- `BMUL` (R271). -/
def execBmul (d a b : BitVec 6) (la lb : Bool) (gd : Guard) (s : State) : Host.Outcome State Fault Refusal :=
  run (.bmul d a b la lb gd) (fp16Bin d a b fmtB16.mul) s

/-- `BFMA` (R271). -/
def execBfma (d a b : BitVec 6) (la lb : Bool) (gd : Guard) (s : State) : Host.Outcome State Fault Refusal :=
  run (.bfma d a b la lb gd) (fp16Fma d a b fmtB16) s

/-- `BMIN` (R272). -/
def execBmin (d a b : BitVec 6) (la lb : Bool) (gd : Guard) (s : State) : Host.Outcome State Fault Refusal :=
  run (.bmin d a b la lb gd) (fp16Bin d a b fun _ => fmtB16.minMax false) s

/-- `BMAX` (R272). -/
def execBmax (d a b : BitVec 6) (la lb : Bool) (gd : Guard) (s : State) : Host.Outcome State Fault Refusal :=
  run (.bmax d a b la lb gd) (fp16Bin d a b fun _ => fmtB16.minMax true) s

/-- `DADD` (R271). -/
def execDadd (d a b : BitVec 6) (la lb : Bool) (gd : Guard) (s : State) : Host.Outcome State Fault Refusal :=
  run (.dadd d a b la lb gd) (fp64Bin d a b fmt64.add) s

/-- `DSUB` (R271). -/
def execDsub (d a b : BitVec 6) (la lb : Bool) (gd : Guard) (s : State) : Host.Outcome State Fault Refusal :=
  run (.dsub d a b la lb gd) (fp64Bin d a b fmt64.sub) s

/-- `DMUL` (R271). -/
def execDmul (d a b : BitVec 6) (la lb : Bool) (gd : Guard) (s : State) : Host.Outcome State Fault Refusal :=
  run (.dmul d a b la lb gd) (fp64Bin d a b fmt64.mul) s

/-- `DFMA` (R271). -/
def execDfma (d a b : BitVec 6) (la lb : Bool) (gd : Guard) (s : State) : Host.Outcome State Fault Refusal :=
  run (.dfma d a b la lb gd) (fpOp2 d fun c l =>
      fmt64.fma c.rmode c.x.ftz (c.rd a.toNat l).toNat (c.rd b.toNat l).toNat (c.rd c.vcReg.toNat l).toNat) s

end Sys2Proof.Machine
end

