-- ==== Sys2Proof/Machine/Graver.lean ====
section
/-! DEFINITION. Graver instructions (R328–R350) and the events of the Graver's commands. -/
namespace Sys2Proof.Machine

/-! ### `GCMD` -/

/-- Commands outstanding: open, or in an outstanding batch (R350). -/
def WaveGraver.outstanding (g : WaveGraver) : Nat := g.opened + (g.out.map (·.size)).sum

/-- The command that 11 scalar registers hold (R330). -/
def Ctx.commandOf (c : Ctx) (a : Reg5) : Nat :=
  (List.range 11).foldl (fun n q => n + (if a.toNat + q < 32 then c.rs (BitVec.ofNat 5 (a.toNat + q)) else 0).toNat * 2 ^ (64 * q + 64)) 0

/-- Is a command's own form malformed (R347, third check, without its operands)? -/
def gMalformed (n : Nat) : Bool :=
  let kind := gKind n
  let cnt := gCounts n
  let st := gStart n
  decide (natBits n 71 70 ≠ 0) || decide (natBits n 79 76 ≠ 0) || decide (natBits n 127 121 ≠ 0) || decide (natBits n 447 416 ≠ 0) ||
  decide (3 ≤ kind) || decide (7 ≤ gCvt n) ||
  cnt.any (fun x => decide (x = 0)) || (st.zip cnt).any (fun p => decide (p.2 ≤ p.1)) ||
  (!gRst n && st.any fun x => decide (x ≠ 0)) ||
  (decide (kind = 1) && decide (gTida n ≠ 0)) || (decide (kind ≠ 0) && decide (gTidb n ≠ 0)) ||
  (decide (kind ≠ 2) && (gCol n || decide (gCvt n ≠ 0))) || (decide (kind ≠ 1) && decide (gFval n ≠ 0))

/-- The space of an operand is W, A, remote W or remote A, with a core of the cluster (R334, R55). -/
def gSpaceOk (t : Tid) : Bool :=
  decide (t.space = 2) || decide (t.space = 3) || (t.isRemote && decide (t.rcore < 12))

/-- The format pairs that a GEMM accepts (R334). -/
def gPairOk (a b : Nat) : Bool :=
  let narrow (x : Nat) : Bool := decide (1 ≤ x) && decide (x ≤ 4)
  (narrow a && narrow b) || (decide (a = b) && (decide (a = 5) || decide (a = 6) || decide (a = 7)))

/-- The operands meet R334. -/
def gOperandsOk (n : Nat) (a b : Tid) : Bool :=
  match gKind n with
  | 0 =>
    gSpaceOk a && gSpaceOk b && decide (2 ≤ a.rank) && decide (2 ≤ b.rank) && decide (a.ext.getD 0 0 = b.ext.getD 1 0) &&
      gPairOk a.format b.format && decide (a.smode ≠ 3) && decide (b.smode ≠ 2) &&
      (!(decide (a.format = 1) && decide (b.format = 1)) || (decide (a.smode = 0) && decide (b.smode = 0)))
  | 2 => gSpaceOk a && decide (a.format = 7)
  | _ => true

/-- The coordinates of an iteration are in range, and the bytes that it reads lie in their slices or within the remote limit
(R347). -/
def gIterOk (blk : Block) (n : Nat) (a b : Tid) (iv : List Nat) : Bool :=
  let inside (x : Bool × Int) : Bool :=
    let t := if x.1 then b else a
    decide (0 ≤ x.2) && decide (x.2 + t.esize ≤ (if t.isRemote then 0x200000 else (blk.slice t.space).len : Nat))
  (match gKind n with
   | 0 => decide (0 ≤ gR n iv) && decide (0 ≤ gC n iv) && decide (0 ≤ gG n iv) &&
       decide (gG n iv < ((a.ext.getD 0 0 * a.esize + 255) / 256 : Nat))
   | 2 => decide (0 ≤ (if gCol n then gC n iv else gR n iv))
   | _ => true) && (gReads n a b iv).all inside

/-- Does every C row of an iteration lie in a window (R347, fourth check)? -/
def gWindowOk (n : Nat) (win : Nat × Nat) (iv : List Nat) : Bool :=
  decide ((win.1 : Int) ≤ gW n iv) && decide (gW n iv + gM n ≤ win.2)

/-- The commands that the wave's quantum holds for the commit. -/
def Ctx.heldCmds (c : Ctx) : Nat :=
  if c.level then c.heldSeen.countP fun h => match h with
    | .gcmd .. => true
    | _ => false
  else 0

/-- `GCMD`'s checks (R347): the command as captured, and the ring and index that it goes to. -/
def Ctx.gcmdCheck (c : Ctx) (a b : Reg5) : Except Stop (GravCmd × GravRing × Ctx) := do
  let w := c.rs b
  let g := c.w.grav
  let same := decide (g.ring.map (·.word) = some w)
  if !ringOk w || !ringSpc w || decide (ringZ w ≠ 1) || (!same && decide (g.outstanding + c.heldCmds ≠ 0)) then raises cRINGERR
  if c.b.aslice.len < ringBase w + 128 * 2 ^ ringK w then raises cBOUNDS
  let n := c.commandOf a
  if gMalformed n then raises cBOUNDS
  let image (used : Bool) (t : Nat) : Except Stop (List Byte) :=
    if used then match c.tidImage t with
      | some im => .ok im
      | none => raises cBOUNDS
    else .ok []
  let ia ← image (decide (gKind n ≠ 1)) (gTida n)
  let ib ← image (decide (gKind n = 0)) (gTidb n)
  if gOperandsOk n (tidOf ia) (tidOf ib) = false then raises cBOUNDS
  let its := gIters n (gFirst n)
  if !its.all (gIterOk c.b n (tidOf ia) (tidOf ib)) then raises cBOUNDS
  let (win, c) := c.window
  if !its.all (gWindowOk n win) then raises cCWIN
  let ring := if same then g.ring.getD { word := w } else { word := w }
  .ok ({ idx := ring.prod, slot := 0, cmd := n, tida := ia, tidb := ib, iv := gFirst n, wave := (c.r.blk, c.r.slot)
         cls := c.launch.cls }, ring, c)

/-- A command enters its ring once the slot is free (R329). -/
def Ctx.gcmdEnter (c : Ctx) (q : GravCmd) (ring : GravRing) : Except Stop Ctx :=
  let w := ring.word
  let off := ringSlot w ring.prod.toNat
  let header := dwordOf (c.bufLoad 3 off 8)
  if !ringMayFill w ring.prod.toNat ring.wrap header.toNat then .error (.wait (.gslot off header))
  else do
    let c ← c.release 2
    let at_ := c.b.aslice.base + off
    let s := c.s.bufWrite c.core 3 (at_ + 8) (leBytes (q.cmd / 2 ^ 64) 120)
    let s := s.bufWrite c.core 3 at_ (leBytes (ringPhase w ring.prod.toNat) 8)
    let g := c.w.grav
    let g := { g with queue := g.queue ++ [{ q with slot := at_, ready := g.ready }], opened := g.opened + 1 }
    .ok { c with s := s, w := { c.w with grav := g } }

/-- `GCMD`'s effect (R347); in Level mode the command enters its ring in the commit (R213). -/
def gcmdBody (d a b : Reg5) (c : Ctx) : Except Stop Ctx := do
  let (q, ring, c) ← c.gcmdCheck a b
  let c ← if c.level then pure (c.hold (.gcmd q ring)) else c.gcmdEnter q ring
  let next := ringNext ring.prod ring.wrap
  let ring := { ring with prod := next.1, wrap := next.2 }
  .ok ({ c with w := { c.w with grav := { c.w.grav with ring := some ring } } }.ws d (q.idx.setWidth 64))

/-- `GCMD` (R347). -/
def execGcmd (d a b : BitVec 5) (s : State) : Host.Outcome State Fault Refusal := run (.gcmd d a b) (gcmdBody d a b) s

/-- The lowest number that a wave's Graver commands of the cluster, but one wave's, may need of the late stores (R339). -/
def State.lateFrom (s : State) (core : Nat) (r : EntRef) : Nat :=
  s.blocks.foldl (fun n b => if b.2.core / 12 ≠ core / 12 then n else b.2.waves.foldl (fun n w =>
    let q := (w.2.grav.queue.filter (!·.done)).foldl (fun n q => min n q.ready) n
    if w.2.role = 2 ∧ ¬ (b.1 = r.blk ∧ w.1 = r.slot) then min q w.2.grav.ready else q) n) s.nextReq

/-- `GRDY`'s effect (R339): commands that the wave issues from here on read the stores performed so far; late stores that no command of
the cluster can miss any more are forgotten. -/
def grdyBody (c : Ctx) : Except Stop Ctx :=
  let c := c.settle
  let low := c.s.lateFrom c.core c.r
  let clu := (List.range 12).map (c.core / 12 * 12 + ·)
  let s := clu.foldl (fun s k => if (s.core k).late.isEmpty then s else
    s.modCore k fun q => { q with late := q.late.filter fun x => decide (low ≤ x.id) }) c.s
  .ok { c with s := s, w := { c.w with grav := { c.w.grav with ready := c.s.nextReq } } }

/-- `GRDY` (R339). -/
def execGrdy (s : State) : Host.Outcome State Fault Refusal := run .grdy (deferred false grdyBody) s

/-! ### Batches -/

/-- `GFENCE` closes the open commands into the next batch (R337). -/
def gfenceClose (c : Ctx) : Except Stop Ctx :=
  let g := c.w.grav
  if 32767 ≤ g.out.length then .error (.wait (.batch (g.last + 1)))
  else
    let n := g.gbat + 1
    let close (q : GravCmd) : GravCmd := if q.batch.isNone then { q with batch := some n } else q
    let g : WaveGraver :=
      { g with gbat := n, opened := 0, openErr := false, out := g.out ++ [{ num := n, size := g.opened, err := g.openErr }]
               queue := g.queue.map close }
    .ok { c with w := { c.w with grav := g.settle (g.out.length + 1) } }

/-- The number of the batch that `GFENCE` closes (R337): the next one, after those that the wave's held fences will close. -/
def Ctx.nextBatch (c : Ctx) : BitVec 16 :=
  c.w.grav.gbat + 1 + BitVec.ofNat 16 (c.heldSeen.countP fun h => match h with
    | .instr (.gfence _) .. => true
    | _ => false)

/-- `GFENCE`'s effect (R337, R346): S[d] receives the number. In Level mode the batch is closed in the commit (R213), and S[d] is written as
the word issues, so that a later word of the quantum finds it or overwrites it (R43; log 48). -/
def gfenceBody (d : Reg5) (c : Ctx) : Except Stop Ctx :=
  let n := if c.level then c.nextBatch else c.w.grav.gbat + 1
  (deferred false gfenceClose c).map fun c => c.ws d (n.setWidth 64)

/-- `GFENCE` (R337). -/
def execGfence (d : BitVec 5) (s : State) : Host.Outcome State Fault Refusal := run (.gfence d) (gfenceBody d) s

/-- How far a batch number lies before `gbat` (R338). -/
def WaveGraver.age (g : WaveGraver) (n : BitVec 16) : Nat := (g.gbat - n).toNat
/-- Does a number name a completed batch (R337)? -/
def WaveGraver.completed (g : WaveGraver) (n : BitVec 16) : Bool := decide (g.age g.last ≤ g.age n)

/-- `GWAIT` once its batch has completed: GRVFLT for batches with error, whose marks and the faulted state it clears, else the
commands of batches up to n are in flight no more (R337, R338, R344). -/
def Ctx.gwaitDone (c : Ctx) (n : BitVec 16) : Ctx :=
  let g := c.w.grav
  let upTo (m : BitVec 16) : Bool := decide (g.age n ≤ g.age m)
  if g.failed.any upTo then
    let w := { c.w with grav := { g with failed := g.failed.filter fun m => !upTo m, faulted := false } }
    { c with s := { c with w := w }.put.raise c.r { bits := causeBit cGRVFLT, cmask := some c.e.xm } c.gpc c.npc, gone := true }
  else
    let keep (q : GravCmd) : Bool := !q.done || !(q.batch.map upTo).getD false
    { c with w := { c.w with grav := { g with queue := g.queue.filter keep } } }

/-- `GWAIT` (R338). -/
def execGwait (a : BitVec 5) (s : State) : Host.Outcome State Fault Refusal :=
  run (.gwait a) (fun c =>
      let n : BitVec 16 := (c.rs a).setWidth 16
      -- in Level mode the batches of the quantum are numbered in its commit (R213)
      c.quantumFirst (.batch n) (if 2 ^ 15 ≤ c.w.grav.age n then raises cBOUNDS
        else if c.w.grav.completed n then .ok (c.gwaitDone n) else .error (.wait (.batch n)))) s

/-! ### Windows, counters and queries -/

/-- The number of waves of the block. -/
def Ctx.waveCount (c : Ctx) : Nat := if c.b.task then 1 else c.launch.kd.wpb

/-- `GWIN` (R348). -/
def execGwin (a b : BitVec 5) (s : State) : Host.Outcome State Fault Refusal :=
  run (.gwin a b) (fun c =>
      let i := (c.rs a).toNat % 16
      let v := (c.rs b).toNat
      let base := natBits v 11 0
      let lim := natBits v 27 16
      if c.r.slot ≠ 0 then raises cROLE
      else if c.waveCount ≤ i ∨ lim < base ∨ c.b.cslice.len / 512 < lim then raises cBOUNDS
      else if i = 0 then .ok { c with w := { c.w with cwb := base, cwl := lim, grav := { c.w.grav with win := none } } }
      else .ok { c with b := match c.b.wave i with
        | some w => c.b.setWave i { w with grav := { w.grav with win := some (base, lim) } }
        | none => c.b }) s

/-- The tile of the C-buffer that holds a block-relative row (R349). -/
def Ctx.ctile (c : Ctx) (row : Dword) : Except Stop Nat :=
  if c.b.cslice.len ≤ row.toNat * 512 then raises cBOUNDS else .ok ((c.b.cslice.base / 512 + row.toNat) / 128)

/-- The counts of a tile that commands in flight added: a `GCTR` sees them or not (R343). -/
def State.flightAdds (s : State) (core tile : Nat) : Nat × Nat × Nat :=
  s.blocks.foldl (fun acc b =>
    if b.2.core ≠ core then acc else
    b.2.waves.foldl (fun acc w => w.2.grav.queue.foldl (fun acc q =>
      let x := tgetD q.adds tile (0, 0, 0)
      (acc.1 + x.1, acc.2.1 + x.2.1, acc.2.2 + x.2.2)) acc) acc) (0, 0, 0)

/-- A counter as a `GCTR` reads it. -/
def seenCount (now : Word) (flight free : Nat) : Nat := now.toNat - free % (min flight now.toNat + 1)

/-- `GCTR` (R349). -/
def execGctr (d a : BitVec 5) (s : State) : Host.Outcome State Fault Refusal :=
  run (.gctr d a) (fun c => do
      let t ← c.ctile (c.rs a)
      let k := tgetD (c.s.core c.core).ctiles t (0, 0, 0)
      let f := c.s.flightAdds c.core t
      let (v, c) := if f = (0, 0, 0) then ((0 : Dword), c) else c.takeFree
      let (u, c) := if f = (0, 0, 0) then ((0 : Dword), c) else c.takeFree
      let nan := seenCount k.1 f.1 (natBits v.toNat 31 0)
      let ovf := seenCount k.2.1 f.2.1 (natBits v.toNat 63 32)
      .ok ((c.ws d (BitVec.ofNat 64 (nan + ovf * 2 ^ 32))).ws (d + 1) (BitVec.ofNat 64 (seenCount k.2.2 f.2.2 u.toNat)))) s

/-- Notes a clear of a tile in the commands that are at work on the core (R343). -/
def State.noteClear (s : State) (core tile : Nat) : State :=
  let mark (q : GravCmd) : GravCmd := if q.done then { q with adds := tdel q.adds tile } else
    { q with cleared := q.cleared ++ [tile], adds := tdel q.adds tile }
  { s with blocks := s.blocks.map fun b => if b.2.core ≠ core then b else
      (b.1, { b.2 with waves := b.2.waves.map fun w => (w.1, { w.2 with grav := { w.2.grav with queue := w.2.grav.queue.map mark } }) }) }

/-- `GCLR` (R349). -/
def execGclr (a : BitVec 5) (s : State) : Host.Outcome State Fault Refusal :=
  run (.gclr a) (fun c => do
      let t ← c.ctile (c.rs a)
      .ok (c.onState fun s => (s.noteClear c.core t).modCore c.core fun k => { k with ctiles := tdel k.ctiles t })) s

/-- What `GQRY` answers (R350); `held` commands stand in the quantum. -/
def WaveGraver.query (g : WaveGraver) (held sel : Nat) : Dword :=
  let iv (j : Nat) : Nat := ((g.fault.map fun f => f.iv.getD j 0)).getD 0
  match sel with
  | 0 => BitVec.ofNat 64 (g.last.toNat + g.gbat.toNat * 2 ^ 16 + (g.outstanding + held) % 2 ^ 16 * 2 ^ 32 +
      (if g.faulted then 2 ^ 48 else 0) + ((g.fault.map (·.kind.toNat)).getD 0) * 2 ^ 49)
  | 1 => BitVec.ofNat 64 (iv 0 + iv 1 * 2 ^ 16 + iv 2 * 2 ^ 32 + iv 3 * 2 ^ 48)
  | _ => BitVec.ofNat 64 (iv 4 + ((g.fault.map (·.idx.toNat)).getD 0) * 2 ^ 16 + ((g.fault.bind (·.rem)).getD 15) * 2 ^ 48)

/-- `GQRY` (R350). -/
def execGqry (d b : BitVec 5) (s : State) : Host.Outcome State Fault Refusal :=
  run (.gqry d b) (fun c => .ok (c.ws d (c.w.grav.query c.heldCmds b.toNat))) s

/-! ### Events -/

/-- `GRAVER_COMMAND_START` (R331): the Graver takes a command from its ring; that of a faulted wave is cancelled (R344). -/
def execGraverCommandStart (blk slot : Nat) (s : State) : Host.Outcome State Fault Refusal :=
  event "GRAVER_COMMAND_START" ((s.gHead blk slot).bind fun x =>
      if x.2.2.started then none
      else if x.2.1.grav.faulted then some (s.gEnd blk slot x.2.2 true)
      else some (s.setGrav blk slot { x.2.2 with started := true }))

/-- The command's remaining iterations, up to one that fails. -/
def State.gFinish (s : State) (b : Block) (blk slot : Nat) (q : GravCmd) : State :=
  match s.gRun blk slot (s.launch b.launch).asid q q.left with
  | (.ok (), s, q) => s.gEnd blk slot q false
  | (.error e, s, q) => s.gStopped b blk slot q e

/-- Some of the command's remaining element updates, which one leaves open (R331). -/
def State.gSome (s : State) (b : Block) (blk slot : Nat) (q : GravCmd) : State :=
  let asid := (s.launch b.launch).asid
  let (v, s) := s.takeFree
  let k := natBits v.toNat 31 0 % (q.left + 1)
  if k = q.left then s.gFinish b blk slot q else
  match s.gRun blk slot asid q k with
  | (.error e, s, q) => s.gStopped b blk slot q e
  | (.ok (), s, q) =>
    match s.gIterate blk slot asid q (some (natBits v.toNat 63 32)) with
    | (.ok (), s, q) => s.setGrav blk slot q
    | (.error e, s, q) => s.gStopped b blk slot q e

/-- `GRAVER_COMMAND_COMPLETE` (R329, R331): the command's remaining element updates; while a command of another wave of the core is at
work, up to some update, so that the updates of both interleave. -/
def execGraverCommandComplete (blk slot : Nat) (s : State) : Host.Outcome State Fault Refusal :=
  event "GRAVER_COMMAND_COMPLETE" ((s.gHead blk slot).bind fun x =>
      if !x.2.2.started || x.2.2.parked || s.heldAt x.1.core x.2.2.cls then none
      else if s.gBeside x.1 blk slot then some (s.gSome x.1 blk slot x.2.2)
      else some (s.gFinish x.1 blk slot x.2.2))

/-- May a command fail with a kind (Table 16.3): it makes such an access, and a remote core is gone where the kind says so? -/
def gFaultFits (s : State) (b : Block) (q : GravCmd) (kind : Nat) : Bool :=
  let a := tidOf q.tida
  let b' := tidOf q.tidb
  let ops := if gKind q.cmd = 0 then [a, b'] else if gKind q.cmd = 2 then [a] else []
  match kind with
  | 1 => decide (gKind q.cmd = 0) && ops.any fun t => decide (t.smode ≠ 0)
  | 2 => decide (gKind q.cmd ≠ 1)
  | 3 => ops.any Tid.isRemote
  | 4 => decide (gKind q.cmd = 2) || ops.any fun t => decide (t.smode ≠ 0)
  | 5 => (s.gGone b q.cmd a b').isSome
  | _ => false

/-- The remote core that a fault of a kind names; of two, either (R344). -/
def gFaultCore (s : State) (q : GravCmd) (kind : Nat) : Option Nat × State :=
  if kind ≠ 3 then (none, s) else
  let cs := (([tidOf q.tida, tidOf q.tidb].take (if gKind q.cmd = 0 then 2 else 1)).filter Tid.isRemote).map (·.rcore)
  match cs with
  | [x, y] => if x = y then (some x, s) else let (v, s) := s.takeFree; (some (if v.getLsbD 0 then x else y), s)
  | [x] => (some x, s)
  | _ => (none, s)

/-- `GRAVER_COMMAND_FAULT` (R344): iterations before the given one are complete, and it fails. -/
def execGraverCommandFault (blk slot : Nat) (kind : BitVec 3) (iter : Nat) (s : State) : Host.Outcome State Fault Refusal :=
  event "GRAVER_COMMAND_FAULT" ((s.gHead blk slot).bind fun x =>
      let q := x.2.2
      if !q.started || q.parked || s.heldAt x.1.core q.cls || decide (q.left ≤ iter) || (decide (q.el ≠ 0) && decide (iter = 0)) || !gFaultFits s x.1 q kind.toNat then none else
      match s.gRun blk slot (s.launch x.1.launch).asid q (if kind = 5 then (if q.el = 0 then 0 else 1) else iter) with
      | (.ok (), s, q) =>
        if kind = 1 then
          match s.gIteration x.1 (s.launch x.1.launch).asid q with
          | (.error .xlate, s) => some (s.gFail blk slot q 1 none)
          | _ => none
        else
          let (rem, s) := if kind = 5 then (s.gGone x.1 q.cmd (tidOf q.tida) (tidOf q.tidb), s) else gFaultCore s q kind.toNat
          some (s.gFail blk slot q kind rem)
      | _ => none)

end Sys2Proof.Machine
end

