-- ==== Sys2Proof/Machine/Launching.lean ====
section
/-! DEFINITION. Launches: ring words (R181), records taken and checked (R182–R187), blocks placed (R189–R191), completion (R192), and a
launch that the Executive ends (R391). -/
namespace Sys2Proof.Machine

/-- `LAUNCH_RING_WORD_WRITE` (R181): the consumer index restarts at 0, on the ring's first lap. -/
def execLaunchRingWordWrite (part ring : Nat) (word : Dword) (s : State) : Host.Outcome State Fault Refusal :=
  event "LAUNCH_RING_WORD_WRITE" (if part < 8 ∧ ring < 64 then some (s.writeRing part ring word) else none)

/-- `LAUNCH_RECORD_TAKE` (R182): a full slot is read and freed, and its launch is checked. -/
def execLaunchRecordTake (part ring : Nat) (s : State) : Host.Outcome State Fault Refusal :=
  event "LAUNCH_RECORD_TAKE" (if part < 8 ∧ ring < 64 ∧ s.hub.stage ≠ 4 then s.takeRecord part ring else none)

/-- `BLOCK_PLACEMENT` (R191): the launch's next block starts on a core that it fits; or the launch is refused, with NOFIT. -/
def execBlockPlacement (launch core q0 : Nat) (s : State) : Host.Outcome State Fault Refusal :=
  event "BLOCK_PLACEMENT" (s.placeNext launch core q0)

/-- `LAUNCH_COMPLETION` (R192): a `.sys` release, and the completion record. -/
def execLaunchCompletion (launch : Nat) (s : State) : Host.Outcome State Fault Refusal :=
  event "LAUNCH_COMPLETION" (if s.launchOver launch then some (s.completeLaunch launch) else none)

/-- `EXECUTIVE_ENDS_LAUNCH` (R391): a launch whose handler has failed, or that met a fatal trap, is ended with status ABORTED. -/
def execExecutiveEndsLaunch (blk : Nat) (s : State) : Host.Outcome State Fault Refusal :=
  event "EXECUTIVE_ENDS_LAUNCH" (s.abortLaunch blk)

end Sys2Proof.Machine
end

