-- ==== Sys2Proof/Machine/Stipple.lean ====
section
/-! DEFINITION. Stipple instructions (R366–R373), the return of their results (R374) and the retirement of vertices (R363). -/
namespace Sys2Proof.Machine

/-- Writes the results of a Stipple instruction (R366). -/
def Wave.setResults (w : Wave) (i : Instr) (lanes : Mask) (rs : Lanes (List Word)) : Wave :=
  let d := stipDest i
  (List.range d.2).foldl (fun w j => w.setLanes (d.1 + j) lanes fun l => (rs[l]).getD j 0) w

/-- A Stipple instruction's issue: its destinations are mapped, and the entity waits for its results (R366, R44); the seals of its lanes
release (R365). -/
def stipBody (rel acq : Bool) (src : List Nat) (m : Word) (c : Ctx) : Except Stop Ctx := do
  let c ← if rel then c.release 6 else pure c
  let d := stipDest c.i
  let c ← (List.range d.2).foldlM (fun c j => c.wv (d.1 + j) 0 fun _ => 0) c
  if c.g = 0 then .ok c else
  let q : StipOp := { ent := c.r, gpc := c.gpc, i := c.i, lanes := c.g, src := src.map c.rvn, m := m, acq := acq, cls := c.launch.cls }
  .ok { c with s := (c.s.charge c.core c.launch.prio (64 * maskCount c.g)).modCore c.core fun k => { k with stip := k.stip ++ [q] }, post := some .stipple, sends := c.sends ++ [c.s.ownModule] }

/-- The names of a group of registers. -/
def groupOf (a : Reg6) (n : Nat) : List Nat := (List.range n).map (a.toNat + ·)

/-- `VAPP` (R367). -/
def execVapp (d a : BitVec 6) (la m : Bool) (gd : Guard) (s : State) : Host.Outcome State Fault Refusal :=
  run (.vapp d a la m gd) (deferred true (stipBody m true (groupOf a 16) 0)) s

/-- `VSEAL` (R368). -/
def execVseal (d a : BitVec 6) (la : Bool) (gd : Guard) (s : State) : Host.Outcome State Fault Refusal :=
  run (.vseal d a la gd) (deferred false (stipBody true false [a.toNat] 0)) s

/-- `VCONN` (R358). -/
def execVconn (d a : BitVec 6) (la : Bool) (gd : Guard) (s : State) : Host.Outcome State Fault Refusal :=
  run (.vconn d a la gd) (deferred true (stipBody false true (groupOf a 4) 0)) s

/-- `VMERGE` (R370). -/
def execVmerge (d a : BitVec 6) (la : Bool) (gd : Guard) (s : State) : Host.Outcome State Fault Refusal :=
  run (.vmerge d a la gd) (deferred true (stipBody false true (groupOf a 4) 0)) s

/-- `VRWT`'s effect: m in bits 31:0 of S[sc], from 1 to 2^24, as FP32 (R369). -/
def vrwtBody (a : Reg6) (c : Ctx) : Except Stop Ctx :=
  let m := c.rsc.toNat % 2 ^ 32
  if m = 0 ∨ 2 ^ 24 < m then raises cBOUNDS
  else stipBody false true (groupOf a 4) (rne32 (.fin false m 1)) c

/-- `VRWT` (R359). -/
def execVrwt (d a : BitVec 6) (la : Bool) (gd : Guard) (s : State) : Host.Outcome State Fault Refusal :=
  run (.vrwt d a la gd) (deferred true (vrwtBody a)) s

/-- `VGET` (R371). -/
def execVget (d a : BitVec 6) (la : Bool) (gd : Guard) (s : State) : Host.Outcome State Fault Refusal :=
  run (.vget d a la gd) (deferred true (stipBody false true [a.toNat] 0)) s

/-- `VREF` (R372). -/
def execVref (d a : BitVec 6) (la : Bool) (gd : Guard) (s : State) : Host.Outcome State Fault Refusal :=
  run (.vref d a la gd) (deferred false (stipBody false false [a.toNat] 0)) s

/-- `VREL` (R372). -/
def execVrel (d a : BitVec 6) (la : Bool) (gd : Guard) (s : State) : Host.Outcome State Fault Refusal :=
  run (.vrel d a la gd) (deferred false (stipBody false false [a.toNat] 0)) s

/-- The lanes that take part and whose source differs from the lowest one's (R172). -/
def Ctx.differing (c : Ctx) (a : Reg6) : Mask :=
  match lowestLane c.g with
  | none => 0
  | some l0 => maskOf fun l => inMask c.g l && decide ((c.rv a)[l] ≠ (c.rv a)[l0])

/-- `VGEN`'s effect (R373): nothing at all when no lane takes part (R172). -/
def vgenBody (a : Reg6) (c : Ctx) : Except Stop Ctx :=
  if c.g = 0 then .ok c
  else if c.differing a ≠ 0 then raises cUNIFORM (some (c.differing a))
  else stipBody false false [a.toNat] 0 c

/-- `VGEN` (R373). -/
def execVgen (d a : BitVec 6) (la : Bool) (gd : Guard) (s : State) : Host.Outcome State Fault Refusal :=
  run (.vgen d a la gd) (deferred false (vgenBody a)) s

/-! ### Events -/

/-- The first Stipple instruction of an entity whose results have not returned; those of a Level block are performed in commit order
(R212, R213). -/
def State.stipFirst (s : State) (r : EntRef) : Option (Block × Wave × Entity × StipOp) :=
  (tget s.blocks r.blk).bind fun b => (b.wave r.slot).bind fun w => (w.entity r.frag).bind fun e =>
    ((s.core b.core).stip.find? fun q => q.ent = r || (b.isLevel && q.ent.blk = r.blk && r.slot ≠ 16)).bind fun q =>
      if q.ent = r then some (b, w, e, q) else none

/-- `STIPPLE_RESULT_RETURN` (R374): with STPFLT for the lanes that met an error, all of them while the Stipple is disabled. -/
def execStippleResultReturn (ent : EntRef) (errLanes : Mask) (s : State) : Host.Outcome State Fault Refusal :=
  event "STIPPLE_RESULT_RETURN" ((s.stipFirst ent).bind fun x =>
      let q := x.2.2.2
      let err := if s.stip.en then errLanes else q.lanes
      if errLanes &&& ~~~ q.lanes ≠ 0 then none else
      let (rs, s) := s.stipPerform x.1.core q err
      -- the records have been read: their acquire (R124, R365)
      let s := if q.acq then s.acquireCaches x.1.core 6 else s
      let rest := ((s.core x.1.core).stip).erase q
      let s := s.modCore x.1.core fun k => { k with stip := rest }
      let more := rest.any fun p => p.ent = ent
      let s := s.modBlock ent.blk fun b => match b.wave ent.slot with
        | some w => match w.entity ent.frag with
          | some e =>
            let e := if more then e else { e with wait := if e.wait = some .stipple then none else e.wait }
            b.setWave ent.slot ((w.setResults q.i q.lanes rs).setEntity ent.frag e)
          | none => b
        | none => b
      if err = 0 then some s
      else some ((s.settleBarrier ent.blk).raise ent { bits := causeBit cSTPFLT, cmask := some err } q.gpc (x.2.2.1.resumeAt)))

/-- `VERTEX_RETIREMENT` (R363): of a vertex that is eligible. -/
def execVertexRetirement (plate slot : Nat) (s : State) : Host.Outcome State Fault Refusal :=
  event "VERTEX_RETIREMENT" (if plate < 2 ∧ s.stip.en = true ∧ s.eligible plate slot = true then some (s.retireVertex plate slot) else none)

end Sys2Proof.Machine
end

