-- ==== Sys2Proof/Machine/Commit.lean ====
section
/-! DEFINITION. Level mode between quanta (R211–R222): the commit of a block's held effects, the closing of its segments, the keys of a launch,
and what the Notch releases. -/
namespace Sys2Proof.Machine

/-! ### Held effects -/

/-- Why the effects of an instruction do not commit: what it needs is not there yet, or it traps. -/
inductive CommitStop where
  | wait
  | trap (t : Trap)

/-- The places that a held `ATOM` has translated. -/
def heldPlaces (ps : List (Nat × Nat × Via)) : List Place := ps.map fun p => { lane := Fin.ofNat 32 p.1, pa := p.2.1, st := .normal, via := p.2.2 }

/-- The effect of a held instruction (Table 9.1, ending and engine classes). -/
def heldBody (i : Instr) (places : List (Nat × Nat × Via)) : Option (Ctx → Except Stop Ctx) :=
  match i with
  | .atom d _ f t .. => some (Ctx.levelAtom · d f t (heldPlaces places))
  | .atoma d a f t _ _ => some (atomaBody d a f t)
  | .bsxch d a r => some (bregBody d a r false)
  | .bsadd d a r => some (bregBody d a r true)
  | .cpy s g => some (cpyBody s g.toNat)
  | .cpyt s t g p r => some (cpytBody s t.toNat g.toNat p.toNat r)
  | .grdy => some grdyBody
  | .gfence _ => some gfenceClose
  | .trace d a _ m _ => some (traceBody false d.toNat a m)
  | .traceAny d a _ m _ => some (traceBody true d.toNat a m)
  | .vapp _ a _ m _ => some (stipBody m true (groupOf a 16) 0)
  | .vseal _ a _ _ => some (stipBody true false [a.toNat] 0)
  | .vconn _ a _ _ | .vmerge _ a _ _ => some (stipBody false true (groupOf a 4) 0)
  | .vrwt _ a _ _ => some (vrwtBody a)
  | .vget _ a _ _ => some (stipBody false true [a.toNat] 0)
  | .vref _ a _ _ | .vrel _ a _ _ => some (stipBody false false [a.toNat] 0)
  | .vgen _ a _ _ => some (vgenBody a)
  | _ => none

/-- Enters an item into a block's open segment; LEVEL when it would pass 65,536 entries (R216). -/
def State.stageTo (s : State) (blk : Nat) (x : StageEntry) : Except CommitStop State :=
  match (tget s.blocks blk).bind (·.level) with
  | none => .ok s
  | some lv =>
    if 65536 < lv.open_.size + x.size then .error (.trap { bits := causeBit cLEVEL })
    else .ok (s.modBlock blk fun b => { b with level := some { lv with open_ := { lv.open_ with entries := lv.open_.entries ++ [x] } } })

/-- The context of an entity in the commit: it writes to the wave as it stands. -/
def State.commitCtx (s : State) (r : EntRef) (i : Instr) : Option Ctx :=
  (tget s.blocks r.blk).bind fun b => (b.wave r.slot).bind fun w => (w.entity r.frag).map fun e =>
    let e0 : Entity := { e with hints := [], wait := none }
    { s := s, r := r, i := i, b := b, w0 := w, w := w, e := e0, x := modsOf [], g := e.xm, npc := e.pc, commit := true }

/-- The same for a held instruction, which reads what it read at its issue. -/
def Ctx.asIssued (c : Ctx) (hints : List Instr) (pc : Dword) (xm : Mask) (regs : Vector Dword 32)
    (v : Vector (Option (Lanes Word)) 64) (k : Vector Mask 12) : Ctx :=
  let w0 : Wave := { c.w0 with s := regs, v := v, k := k }
  let e0 : Entity := { c.e with pc := pc, hints := hints, gpc := pc, xm := xm }
  { c with w0 := w0, e := e0, x := modsOf hints, g := guardMask w0 e0 c.i, npc := pc + 4 }

/-- The state after an effect performed in the commit: the entity stays where it stands. -/
def Ctx.committed (c : Ctx) (body : Ctx → Except Stop Ctx) : Except CommitStop State :=
  let e := (c.w.entity c.r.frag).getD c.e
  match body c with
  | .error (.trap t) | .error (.trapIn _ t) => .error (.trap t)
  | .error (.waitIn ..) | .error (.wait _) => .error .wait
  | .ok c' => .ok { c' with e := e }.put

/-- One held effect is applied to the block, or enters its stage (Table 9.1). -/
def State.commitHeld (s : State) (r : EntRef) (h : Held) : Except CommitStop State :=
  match tget s.blocks r.blk with
  | none => .ok s
  | some b =>
    match h with
    | .buf space off bytes => .ok (s.waveWrite r b.core space ((b.slice space).base + off) bytes)
    | .breg n v => .ok (s.setBlock r.blk { b with breg := b.breg.set n.toNat v (by omega) })
    | .tid t img => .ok (s.setBlock r.blk { b with tids := b.tids.set t img })
    | .key k => .ok (s.setBlock r.blk { b with key := k })
    | .store pa bytes via lane => s.stageTo r.blk (.store pa bytes via r lane)
    | .red fop ty pa v via lane => s.stageTo r.blk (.red fop ty pa v via r lane)
    | .record bytes core => s.stageTo r.blk (.record bytes core)
    | .tacq q => s.stageTo r.blk (.tacq q)
    | .trel pa via =>
      match b.heldTile pa with
      | none => .ok s
      | some t =>
        (s.stageTo r.blk (.trel pa t.kind (s.tileCopy b t.aoff t.size) via)).map fun s =>
          s.modBlock r.blk fun b => { b with tiles := b.tiles.filter fun u => !(u.pa = pa && u.view = .held) }
    | .gcmd q ring => match s.commitCtx r .grdy with
      | some c => c.committed fun c => c.gcmdEnter q ring
      | none => .ok s
    | .instr i hints pc xm regs v k places => match s.commitCtx r i, heldBody i places with
      | some c, some body => (c.asIssued hints pc xm regs v k).committed body
      | _, _ => .ok s

/-! ### The commit of a block (R212) -/

/-- Where a wave's held effects stand, in commit order: its parent, a fragment that has ended, its fragment. -/
inductive HeldBy where
  | parent | gone | frag
deriving DecidableEq, Repr

def Wave.heldBy (w : Wave) (k : HeldBy) : List ((Dword × Nat) × Held) :=
  match k with
  | .parent => w.parent.held
  | .gone => w.fragHeld
  | .frag => (w.frag.map (·.held)).getD []

def Wave.setHeld (w : Wave) (k : HeldBy) (hs : List ((Dword × Nat) × Held)) : Wave :=
  match k with
  | .parent => { w with parent := { w.parent with held := hs } }
  | .gone => { w with fragHeld := hs }
  | .frag => { w with frag := w.frag.map fun e => { e with held := hs } }

/-- The first instruction of a block whose effects are still held (R212): its wave, where they stand, and their number. -/
def Block.firstHeld (b : Block) : Option (Nat × HeldBy × List ((Dword × Nat) × Held) × Nat) :=
  (b.waves.flatMap fun p => ([.parent, .gone, .frag] : List HeldBy).filterMap fun k =>
    match p.2.heldBy k with
    | [] => none
    | x :: xs => some (p.1, k, x :: xs, 1 + (xs.takeWhile fun y => decide (y.1 = x.1)).length)).head?

/-- The effects of the first instruction commit together, or none of them. None when it must wait. DESIGN CHOICE (log 106): after a cause
raised in the commit the entity's later held effects are dropped, while its later words' effects on registers stay (R216 says only where
LEVEL traps). -/
def State.commitFirst (s : State) (blk : Nat) (x : Nat × HeldBy × List ((Dword × Nat) × Held) × Nat) : Option State :=
  let r : EntRef := { blk := blk, slot := x.1, frag := decide (x.2.1 = .frag) }
  let hs := x.2.2.1
  let now := hs.take x.2.2.2
  let drop (s : State) (n : Nat) : State := s.modWave blk x.1 fun w => w.setHeld x.2.1 (hs.drop n)
  match now.foldlM (fun s h => s.commitHeld r h.2) s with
  | .ok s => some (drop s x.2.2.2)
  | .error .wait => none
  | .error (.trap t) =>
    let s := drop s hs.length
    let gpc := (now.head?.map (·.1.1)).getD 0
    some (s.modBlock blk fun b => { b with level := b.level.map fun lv =>
      { lv with traps := lv.traps ++ [(x.1, r.frag, t.bits, t.cmask, gpc)] } })

/-- Commits in order as far as it goes: the state, how many instructions, and whether all. -/
def State.commitSome (s : State) (blk : Nat) : Nat → Nat → State × Nat × Bool
  | 0, n => (s, n, false)
  | fuel + 1, n =>
    match (tget s.blocks blk).bind Block.firstHeld with
    | none => (s, n, true)
    | some x =>
      match s.commitFirst blk x with
      | some s => s.commitSome blk fuel (n + 1)
      | none => (s, n, false)

/-! ### Boundaries -/

/-- Has an entity's quantum ended, and is nothing physical awaited (R211, R214)? -/
def Entity.atEnd (e : Entity) : Bool := (e.qended || e.stopped) && ((e.wait.map Wait.ends).getD true)
def Wave.atEnd (w : Wave) : Bool := decide (w.live = 0) || (w.parent.atEnd && ((w.frag.map Entity.atEnd).getD true))

/-- A wave as the commit leaves it. -/
def Wave.committed (w : Wave) : Wave :=
  let clear (e : Entity) : Entity := { e with held := [] }
  { w with parent := clear w.parent, frag := w.frag.map clear, fragHeld := [], qnt := w.qnt + 1 }

/-- A `CBAR` that a wave has reached in the quantum just over. -/
def Wave.newCbar (w : Wave) : Bool := w.atCbar.isSome && !w.parent.qwaited

/-- The close of a block's segment, when one is due (R216): the closing number. -/
def Block.closing (b : Block) (lv : BlockLevel) : Option Nat :=
  if lv.seg || b.waves.isEmpty || (b.waves.any fun p => p.2.newCbar) || (b.barrier.isSome && lv.cbarSeg.isNone) then some lv.open_.n
  else none

/-- The block with its open segment closed. -/
def Block.close (b : Block) (lv : BlockLevel) (n : Nat) : Block :=
  let mark (w : Wave) : Wave := if w.atCbar.isSome then { w with parent := { w.parent with qwaited := true } } else w
  { b with
    waves := b.waves.map fun p => (p.1, mark p.2)
    level := some { lv with closed := lv.closed ++ [lv.open_], open_ := { n := n + 1 }, waitKey := some n, ready := false, seg := false
                            cbarSeg := if b.barrier.isSome then some n else lv.cbarSeg, ended := b.waves.isEmpty } }

/-! ### The boundary of a block -/

/-- Has everything come that the commit's instructions return (Table 9.1), and have the commands of waves that have exited completed
(R337)? -/
def State.commitOver (s : State) (blk : Nat) (b : Block) : Bool :=
  !((s.core b.core).stip.any fun q => q.ent.blk = blk && q.ent.slot ≠ 16) &&
    b.waves.all fun p => decide (p.2.live ≠ 0) || p.2.grav.queue.all (·.done)

/-- What follows a block's commit: the next quantum, or the wait at a segment's close (R216); then the traps of its instructions. -/
def State.commitDone (s : State) (blk : Nat) (b : Block) (lv : BlockLevel) : State :=
  let stays (p : Nat × Wave) : Bool := decide (p.2.live ≠ 0) || p.2.pending.isSome || lv.traps.any fun t => t.1 = p.1
  let lv' : BlockLevel := { lv with committing := false, traps := [] }
  let b := { b with level := some lv', waves := (b.waves.filter stays).map fun p => (p.1, p.2.committed) }
  let s := s.setBlock blk b
  let s := match b.closing lv' with
    | some n => s.setBlock blk (b.close lv' n)
    | none => s.nextQuantum blk
  let s := lv.traps.foldl (fun s t => s.raise { blk := blk, slot := t.1, frag := t.2.1 } { bits := t.2.2.1, cmask := t.2.2.2.1 } t.2.2.2.2 t.2.2.2.2) s
  s.noteKeys b.launch

/-- The commit of a block (R212), as far as it goes: an instruction that must wait holds up those after it. None when nothing can
commit. -/
def State.commitBlock (s : State) (blk : Nat) (b : Block) : Option State :=
  let total := (b.waves.map fun p => p.2.parent.held.length + p.2.fragHeld.length + (p.2.heldBy .frag).length).sum
  let x := s.commitSome blk (total + 1) 0
  (tget x.1.blocks blk).bind fun b => b.level.bind fun lv =>
    if x.2.2 && x.1.commitOver blk b then some (x.1.commitDone blk b lv)
    else if x.2.1 = 0 ∧ lv.committing = true then none
    else some (x.1.setBlock blk { b with level := some { lv with committing := true } })

/-- Is a recall still to be served at the close of the block's segment (R221)? -/
def State.recallsDue (s : State) (blk : Nat) (lv : BlockLevel) (n : Nat) : Bool :=
  s.treqs.any fun q =>
    (match q.2.phase with
     | .recall _ | .queued _ | .resend | .serving _ => true
     | _ => false) &&
    ((q.2.key.map fun k => keyLt k (n, lv.index)).getD true) && decide ((tget s.tiles q.2.pa).map (·.holder) = some blk) &&
    ((tget s.blocks blk).map fun b => (b.heldTile q.2.pa).isSome).getD false

/-- The exit close is over (R155, R216, R221): tiles are released through the stage, in a last segment if anything is in it, and the block
ends. -/
def State.endLevelBlock (s : State) (blk n : Nat) (b : Block) (lv : BlockLevel) : State :=
  let rels := (b.tiles.filter fun t => t.view = .held).map fun t => StageEntry.trel t.pa t.kind (s.tileCopy b t.aoff t.size) {}
  let last := { lv.open_ with entries := lv.open_.entries ++ rels }
  let lv : BlockLevel :=
    if last.entries.isEmpty then { lv with open_ := { n := n }, waitKey := none }
    else { lv with closed := lv.closed ++ [last], open_ := { n := last.n }, waitKey := none }
  (s.setBlock blk { b with level := some lv, tiles := b.tiles.filter fun t => t.view ≠ .held }).endBlock blk

/-- A block goes on after the close of its segment, its recalls served (R216, R221); at a `CBAR` only with its completion (R218). -/
def State.leaveClose (s : State) (blk : Nat) (b : Block) (lv : BlockLevel) (n : Nat) : Option State :=
  if lv.ready = false ∨ b.sur.isSome = true ∨ s.recallsDue blk lv n = true then none
  else if lv.ended then some ((s.endLevelBlock blk n b lv).noteKeys b.launch)
  else
    let s := s.setBlock blk { b with level := some { lv with waitKey := none, ready := false } }
    some (if lv.cbarSeg.isSome then s else s.nextQuantum blk)

/-- A quantum boundary of a block: its commit, or its going on after a segment's close. -/
def State.boundary (s : State) (blk : Nat) : Option State :=
  (tget s.blocks blk).bind fun b => b.level.bind fun lv =>
    if b.ended || decide (b.res = .swapped) then none
    else if lv.committing then s.commitBlock blk b
    else if b.halt.isSome || b.reported then none else
    match lv.waitKey with
    | some n => s.leaveClose blk b lv n
    | none =>
      if lv.cbarSeg.isSome || b.waves.isEmpty || !(b.waves.all fun p => p.2.atEnd) then none else s.commitBlock blk b

/-- An entity that has issued the Q-th word of its quantum has ended it (R211). -/
def State.expireQuantum (s : State) (r : EntRef) : Option State :=
  (tget s.blocks r.blk).bind fun b => (b.wave r.slot).bind fun w => (w.entity r.frag).bind fun e =>
    if b.isLevel && decide (r.slot ≠ 16) && w.saved.isNone && e.wait.isNone && !e.qended && decide (b.qnt ≤ e.qcount) then
      some (s.modEntity r fun e => { e with qended := true })
    else none

/-! ### The Notch -/

/-- A cede's fold, or fold and snapshot, as its segment is released (R153, R221). -/
def State.releaseCede (s : State) (blk core : Nat) (out : BitVec 2) (r : Nat) (cancelled : Bool) (pa : Nat) (kind : BitVec 2)
    (bytes : List Byte) : State :=
  let s := s.foldBytes blk core pa kind bytes
  if out = 0 then
    let s := ({ s with tiles := tdel s.tiles pa }).resendRecalls pa
    match tget s.treqs r with
    | some q => if cancelled then s else s.grantTile r q
    | none => s
  else if cancelled then s
  else match tget s.treqs r with
    | some q => s.sendImage r q false
    | none => s

/-- One entry of a released segment is applied at its home (R215, R217, R221). -/
def State.releaseEntry (s : State) (blk l core n index : Nat) (x : StageEntry) : State :=
  match x with
  | .store pa bytes via ent lane =>
    (s.spoilTraces pa bytes.length).storeNow core ent (s.launch l).prio lane pa bytes via
  | .red fop ty pa v via ent lane =>
    (s.spoilTraces pa (atomSize ty)).redNow core ent (s.launch l).prio lane fop ty pa v via
  | .record bytes core =>
    let t := (s.launch l).notch
    let s := s.modLaunch l fun x => { x with notch := t + 1, tasks := x.tasks + 1 }
    { s with records := s.records ++ [{ bytes := bytes, core := core, launch := l, level := some (t, n), cls := (s.launch l).cls }] }
  | .tacq r =>
    match tget s.treqs r with
    | none => s
    | some q =>
      let q := { q with key := some (n, index), phase := .toHome }
      ({ s with treqs := tset s.treqs r q }).decideTile r q
  | .trel pa kind bytes _ => (({ s.foldBytes blk core pa kind bytes with tiles := tdel s.tiles pa }).releaseCaches core 6).resendRecalls pa
  | .cede out r cancelled pa kind bytes => s.releaseCede blk core out r cancelled pa kind bytes

/-- The block of a launch whose closed segment has the lowest key. -/
def State.lowestClosed (s : State) (l : Nat) : Option (Nat × Block × BlockLevel × Segment) :=
  s.blocks.foldl (fun acc p =>
    match p.2.level with
    | some lv => match lv.closed with
      | g :: _ =>
        if p.2.launch ≠ l then acc else
        match acc with
        | some (_, _, lv', g') => if keyLt (g.n, lv.index) (g'.n, lv'.index) then some (p.1, p.2, lv, g) else acc
        | none => some (p.1, p.2, lv, g)
      | [] => acc
    | none => acc) none

/-- The Notch releases the next segment in key order (R215). -/
def State.releaseSegment (s : State) (l : Nat) : Option State :=
  (s.lowestClosed l).bind fun x =>
    let b := x.2.1
    let lv := x.2.2.1
    let g := x.2.2.2
    if s.keyClear l (g.n, lv.index) = false then none else
    let s := s.modBlock x.1 fun b => { b with level := b.level.map fun lv => { lv with closed := lv.closed.drop 1 } }
    let s := g.entries.foldl (fun s e => s.releaseEntry x.1 l b.core g.n lv.index e) s
    some ((s.reapBlock x.1).noteKeys l)

end Sys2Proof.Machine
end

