-- ==== Sys2Proof/Machine/Level.lean ====
section
/-! DEFINITION. The events of Level mode (R211, R212, R215). -/
namespace Sys2Proof.Machine

/-- `QUANTUM_COUNT_EXPIRY` (R211): its Q-th word ends an entity's quantum. -/
def execQuantumCountExpiry (ent : EntRef) (s : State) : Host.Outcome State Fault Refusal :=
  event "QUANTUM_COUNT_EXPIRY" (s.expireQuantum ent)

/-- `QUANTUM_BOUNDARY_COMMIT` (R212): the held effects of every wave; or the end of the wait at a segment's close. -/
def execQuantumBoundaryCommit (blk : Nat) (s : State) : Host.Outcome State Fault Refusal :=
  event "QUANTUM_BOUNDARY_COMMIT" (s.boundary blk)

/-- `NOTCH_SEGMENT_RELEASE` (R215): the closed segment of lowest key, when no lower key can occur. -/
def execNotchSegmentRelease (launch : Nat) (s : State) : Host.Outcome State Fault Refusal :=
  event "NOTCH_SEGMENT_RELEASE" (s.releaseSegment launch)

end Sys2Proof.Machine
end

