-- ==== Sys2Proof/Machine/MatMem.lean ====
section
/-! DEFINITION. Loads and stores of matrix registers (R317, R318). -/
namespace Sys2Proof.Machine

/-- The first address of a lane's matrix (R318). -/
def Ctx.matAddr (c : Ctx) (s : Reg5) (elems : Nat) (l : Fin 32) : Dword :=
  let stride : Dword := match c.x.sc with
    | some r => c.rs r
    | none => BitVec.ofNat 64 (4 * elems)
  c.rs s + BitVec.ofInt 64 (c.x.imm 0 0) + BitVec.ofNat 64 l.val * stride

/-- The addresses of the elements of every lane that takes part. -/
def Ctx.matAddrs (c : Ctx) (s : Reg5) (elems : Nat) : List (Fin 32 × Dword) :=
  (lanesIn c.g).flatMap fun l => (List.range elems).map fun k => (l, c.matAddr s elems l + BitVec.ofNat 64 (4 * k))

/-- The element words that a list of loaded bytes holds for a lane, in element order. -/
def matWords (x : Loaded) (l : Fin 32) : List Word := (x.vals.filter fun v => v.1 = l).map fun v => wordOf v.2

/-- `MLD` from global memory. -/
def mldBody (d r k : Reg3) (s : Reg5) (c : Ctx) : Except Stop Ctx := do
  let rows := r.toNat + 1
  let cols := k.toNat + 1
  let (c, ps) ← c.globalLanes .load false 4 (c.matAddrs s (rows * cols))
  let (x, c) := c.loadAll 4 ps
  let vals := lanesOf fun l => matWords x l
  if x.far then
    let c ← c.wm d rows cols 0 fun _ => []
    let p : PendLoad :=
      { ent := c.r, vregs := [], mreg := some (d, c.g, { rows := rows, cols := cols, data := some vals })
        cls := c.launch.cls, lost := x.lost }
    .ok { c with s := c.s.modCore c.core fun q => { q with loads := q.loads ++ [p] }, post := some .data }
  else c.wm d rows cols c.g fun l => vals[l]

/-- `MLD.a` from the block's A slice. -/
def mldABody (d r k : Reg3) (s : Reg5) (c : Ctx) : Except Stop Ctx := do
  let rows := r.toNat + 1
  let cols := k.toNat + 1
  let c ← c.bufLanes 3 false 4 (c.matAddrs s (rows * cols))
  c.wm d rows cols c.g fun l =>
    (List.range (rows * cols)).map fun i => wordOf (c.bufLoad 3 ((c.matAddr s (rows * cols) l).toNat + 4 * i) 4)

/-- The elements that a store writes, by lane (R318). -/
def Ctx.matElems (c : Ctx) (a : Reg3) (l : Fin 32) (i : Nat) : List Byte := leBytes (((c.rm a).elems l).getD i 0).toNat 4

/-- `MLD` (R318). -/
def execMld (d r c : BitVec 3) (s : BitVec 5) (gd : Guard) (st : State) : Host.Outcome State Fault Refusal :=
  run (.mld d r c s gd) (mldBody d r c s) st

/-- `MLD.a` (R318). -/
def execMldA (d r c : BitVec 3) (s : BitVec 5) (gd : Guard) (st : State) : Host.Outcome State Fault Refusal :=
  run (.mldA d r c s gd) (mldABody d r c s) st

/-- `MST` (R318). -/
def execMst (a : BitVec 3) (s : BitVec 5) (gd : Guard) (st : State) : Host.Outcome State Fault Refusal :=
  run (.mst a s gd) (fun c => do
      let n := (c.rm a).rows * (c.rm a).cols
      let (c, ps) ← c.globalLanes .store false 4 (c.matAddrs s n)
      (ps.zipIdx).foldlM (fun c p => c.storeAt 0 6 p.1 (c.matElems a p.1.lane (p.2 % n))) c) st

/-- `MST.a` (R318). -/
def execMstA (a : BitVec 3) (s : BitVec 5) (gd : Guard) (st : State) : Host.Outcome State Fault Refusal :=
  run (.mstA a s gd) (fun c => do
      let n := (c.rm a).rows * (c.rm a).cols
      let es := c.matAddrs s n
      let c ← c.bufLanes 3 false 4 es
      .ok ((es.zipIdx).foldl (fun c p => c.bufStore 3 p.1.2.toNat (c.matElems a p.1.1 (p.2 % n))) c)) st

end Sys2Proof.Machine
end

