-- ==== Sys2Proof/Machine/Memory.lean ====
section
/-! DEFINITION. Loads, stores and cache maintenance (R66–R74). -/
namespace Sys2Proof.Machine

/-- The addresses of the lanes that take part (R66). -/
def Ctx.addrs (c : Ctx) (global p q : Bool) (i : BitVec 4) (s : Reg5) : List (Fin 32 × Dword) :=
  (lanesIn c.g).map fun l => (l, c.laneAddr global p q i s l)

/-- A typed-buffer load (R71), its remote form when `HSRC` supplies a core-in-cluster index. -/
def bufLoadBody (space : Nat) (d : Reg6) (p q : Bool) (i : BitVec 4) (s : Reg5) (w : BitVec 3) (c : Ctx) : Except Stop Ctx := do
  let n := widthBytes w
  let es := c.addrs false p q i s
  match c.x.sc with
  | none =>
    let c ← c.bufLanes space false n es
    c.deliver d.toNat (widthRegs w) c.g false false fun l => loadWords w (c.bufLoad space (c.laneAddr false p q i s l).toNat n)
  | some sc =>
    if c.ord ≠ 0 ∨ c.x.scp ≠ 0 then raises cILLOP
    let rc := (c.rs sc).toNat % 16
    remoteLanes false rc n es
    let c := c.settle
    let far := decide (c.core % 12 ≠ rc) && decide (es.isEmpty = false)
    c.deliver d.toNat (widthRegs w) c.g far false fun l =>
      loadWords w (c.remoteLoad space rc (c.laneAddr false p q i s l).toNat n).1

/-- A typed-buffer store (R71). -/
def bufStoreBody (space : Nat) (d : Reg6) (p q : Bool) (i : BitVec 4) (s : Reg5) (w : BitVec 3) (c : Ctx) : Except Stop Ctx := do
  let es := c.addrs false p q i s
  let c ← c.bufLanes space false (widthBytes w) es
  let c ← if c.ord = 4 then c.release 2 else pure c
  .ok (es.foldl (fun c e => c.bufStore space e.2.toNat (c.storeBytes d.toNat w e.1)) c)

/-- The bytes of a width code of `SLD` and `SST` (R73), and the value `SLD` writes. -/
def scalarBytes (w : BitVec 3) : Nat := 2 ^ (if w.toNat < 4 then w.toNat else w.toNat - 4)
def scalarValue (w : BitVec 3) (bs : List Byte) : Dword :=
  if w.toNat < 4 then dwordOf bs else sext64 (leNat bs) (8 * scalarBytes w)

/-- The lines that the lanes of a cache instruction name, with their leaves' states: those of addresses that translate (R47, R74). -/
def Ctx.namedLines (c : Ctx) (es : List (Fin 32 × Dword)) : List (Nat × LeafState) :=
  es.filterMap fun e =>
    let va := e.2.toNat
    let found := match (c.s.core c.core).tlb.find? fun t => t.covers c.asid va with
      | some t => some t
      | none => match walk c.s c.asid va .load (some (corePlate c.core)) with
        | .ok t _ => some t
        | .fault .. => none
    if 2 ^ 57 ≤ va then none else
    found.bind fun t => match t.answer va with
      | .ok pa st _ => some (lineOf pa, st)
      | _ => none

/-- `LD` (R70). -/
def execLd (d : BitVec 6) (p q : Bool) (i : BitVec 4) (s : BitVec 5) (w : BitVec 3) (gd : Guard) (st : State) : Host.Outcome State Fault Refusal :=
  run (.ld d p q i s w gd) (fun c => do
      let es := c.addrs true p q i s
      let (c, ps) ← c.globalLanes .load false (widthBytes w) es
      let (x, c) := c.loadAll (widthBytes w) ps
      let c ← c.deliver d.toNat (widthRegs w) c.g x.far x.lost fun l => loadWords w (x.at l)
      .ok (c.acquire c.ord (c.scope true) (ps.map (·.pa)))) st

/-- `ST` (R70). -/
def execSt (d : BitVec 6) (p q : Bool) (i : BitVec 4) (s : BitVec 5) (w : BitVec 3) (gd : Guard) (st : State) : Host.Outcome State Fault Refusal :=
  run (.st d p q i s w gd) (fun c => do
      let (c, ps) ← c.globalLanes .store false (widthBytes w) (c.addrs true p q i s)
      let c ← if c.ord = 4 then c.release (c.scope true) else pure c
      c.storeAll c.ord (c.scope true) ps (c.storeBytes d.toNat w)) st

/-- `LDA` (R71). -/
def execLda (d : BitVec 6) (p q : Bool) (i : BitVec 4) (s : BitVec 5) (w : BitVec 3) (gd : Guard) (st : State) : Host.Outcome State Fault Refusal :=
  run (.lda d p q i s w gd) (bufLoadBody 3 d p q i s w) st

/-- `STA` (R71). -/
def execSta (d : BitVec 6) (p q : Bool) (i : BitVec 4) (s : BitVec 5) (w : BitVec 3) (gd : Guard) (st : State) : Host.Outcome State Fault Refusal :=
  run (.sta d p q i s w gd) (bufStoreBody 3 d p q i s w) st

/-- `LDW` (R71). -/
def execLdw (d : BitVec 6) (p q : Bool) (i : BitVec 4) (s : BitVec 5) (w : BitVec 3) (gd : Guard) (st : State) : Host.Outcome State Fault Refusal :=
  run (.ldw d p q i s w gd) (bufLoadBody 2 d p q i s w) st

/-- `STW` (R71). -/
def execStw (d : BitVec 6) (p q : Bool) (i : BitVec 4) (s : BitVec 5) (w : BitVec 3) (gd : Guard) (st : State) : Host.Outcome State Fault Refusal :=
  run (.stw d p q i s w gd) (bufStoreBody 2 d p q i s w) st

/-- `LDC` (R71). -/
def execLdc (d : BitVec 6) (p q : Bool) (i : BitVec 4) (s : BitVec 5) (w : BitVec 3) (gd : Guard) (st : State) : Host.Outcome State Fault Refusal :=
  run (.ldc d p q i s w gd) (bufLoadBody 4 d p q i s w) st

/-- `STC` (R71). -/
def execStc (d : BitVec 6) (p q : Bool) (i : BitVec 4) (s : BitVec 5) (w : BitVec 3) (gd : Guard) (st : State) : Host.Outcome State Fault Refusal :=
  run (.stc d p q i s w gd) (bufStoreBody 4 d p q i s w) st

/-- `LDT` (R72). -/
def execLdt (d a : BitVec 6) (s : BitVec 5) (w : Bool) (gd : Guard) (st : State) : Host.Outcome State Fault Refusal :=
  run (.ldt d a s w gd) (fun c => do
      let t ← c.tidNamed ((c.rs s).toNat % 256)
      c.loadElement d a t w) st

/-- `STT` (R72). -/
def execStt (d a : BitVec 6) (s : BitVec 5) (w : Bool) (gd : Guard) (st : State) : Host.Outcome State Fault Refusal :=
  run (.stt d a s w gd) (fun c => do
      let t ← c.tidNamed ((c.rs s).toNat % 256)
      c.storeElement d a t w) st

/-- `SLD` (R73). -/
def execSld (d a : BitVec 5) (w : BitVec 3) (p : BitVec 2) (s : State) : Host.Outcome State Fault Refusal :=
  run (.sld d a w p) (fun c => do
      let e := c.rs a + BitVec.ofInt 64 (c.x.imm 0 0)
      let n := scalarBytes w
      if p = 0 then
        let (c, ps) ← c.globalLanes .load true n [(0, e)]
        let (x, c) := c.loadAll n ps
        .ok ((c.deliverS d x.far x.lost (scalarValue w (x.at 0))).acquire c.ord (c.scope true) (ps.map (·.pa)))
      else
        let c ← c.bufLanes (p.toNat + 1) true n [(0, e)]
        .ok (c.ws d (scalarValue w (c.bufLoad (p.toNat + 1) e.toNat n)))) s

/-- `SST` (R73). -/
def execSst (a b : BitVec 5) (w : BitVec 3) (p : BitVec 2) (s : State) : Host.Outcome State Fault Refusal :=
  run (.sst a b w p) (fun c => do
      let e := c.rs a + BitVec.ofInt 64 (c.x.imm 0 0)
      let n := scalarBytes w
      let bs := leBytes (c.rs b).toNat n
      if p = 0 then
        let (c, ps) ← c.globalLanes .store true n [(0, e)]
        let c ← if c.ord = 4 then c.release (c.scope true) else pure c
        c.storeAll c.ord (c.scope true) ps fun _ => bs
      else
        let c ← c.bufLanes (p.toNat + 1) true n [(0, e)]
        let c ← if c.ord = 4 then c.release 2 else pure c
        .ok (c.bufStore (p.toNat + 1) e.toNat bs)) s

/-- `PREF` (R74): the line is fetched, but for one of an UNCACHED page (R65); no visible effect. -/
def execPref (d : BitVec 6) (p q : Bool) (i : BitVec 4) (s : BitVec 5) (gd : Guard) (st : State) : Host.Outcome State Fault Refusal :=
  run (.pref d p q i s gd) (fun c =>
      let ls := (c.namedLines (c.addrs true p q i s)).filter fun x => x.2 ≠ .uncached
      .ok { c with s := ls.foldl (fun st x => if d = 0 then (st.l1Fill c.core x.1).1 else st.cluFill c.core x.1) c.s }) st

/-- `CFLUSH` (R74). -/
def execCflush (d : BitVec 6) (p q : Bool) (i : BitVec 4) (s : BitVec 5) (gd : Guard) (st : State) : Host.Outcome State Fault Refusal :=
  run (.cflush d p q i s gd) (fun c =>
      let ls := c.namedLines (c.addrs true p q i s)
      .ok { c with s := ls.foldl (fun st x =>
              let st := st.l1Clean c.core x.1
              if d = 1 then st.l1Drop c.core x.1 else st) c.s }) st

/-- `CINV` (R74). -/
def execCinv (d : BitVec 6) (p q : Bool) (i : BitVec 4) (s : BitVec 5) (gd : Guard) (st : State) : Host.Outcome State Fault Refusal :=
  run (.cinv d p q i s gd) (fun c =>
      let ls := c.namedLines (c.addrs true p q i s)
      .ok { c with s := ls.foldl (fun st x =>
              if d = 1 then st.modCore c.core fun k => { k with l1i := tdel k.l1i x.1 }
              else (st.l1Clean c.core x.1).l1Drop c.core x.1) c.s }) st

end Sys2Proof.Machine
end

