-- ==== Sys2Proof/Machine/Moving.lean ====
section
/-! DEFINITION. Evictions, restores, migrations (R180, R195–R200), cores that change (R197) and partition swaps (R397). -/
namespace Sys2Proof.Machine

/-- `BLOCK_EVICTION` (R195): the block's waves are all at blocking points and its accesses drained. -/
def execBlockEviction (blk : Nat) (s : State) : Host.Outcome State Fault Refusal :=
  event "BLOCK_EVICTION" (s.evictBlock blk)

/-- `REGISTER_DEADLOCK_BREAK` (R180): after 64 cycles of deadlock, a block is selected. -/
def execRegisterDeadlockBreak (core quad : Nat) (s : State) : Host.Outcome State Fault Refusal :=
  event "REGISTER_DEADLOCK_BREAK" (if core < 288 ∧ quad < 4 then s.breakDeadlock core quad else none)

/-- `BLOCK_RESTORE` (R196): the oldest evicted of the restorable blocks. -/
def execBlockRestore (blk q0 : Nat) (s : State) : Host.Outcome State Fault Refusal :=
  event "BLOCK_RESTORE" (s.restoreBlock blk q0)

/-- `BLOCK_MIGRATION` (R199): the streamer moves an evicted block. -/
def execBlockMigration (blk core q0 : Nat) (s : State) : Host.Outcome State Fault Refusal :=
  event "BLOCK_MIGRATION" (s.migrateBlock blk core q0)

/-- `CORE_LEAVES_SERVICE` (R197): with no resident block on it (log 47). -/
def execCoreLeavesService (core : Nat) (s : State) : Host.Outcome State Fault Refusal :=
  event "CORE_LEAVES_SERVICE" (if core < 288 ∧ (s.core core).inService = true ∧ (s.blocksOn core).all (fun p => p.2.isEvicted || p.2.ended) = true then
      some ((s.modCore core fun c => { c with inService := false }).reportLost.repaired core)
    else none)

/-- `FORWARDED_ARRIVAL` (R200): data or a recall that reaches the old core. -/
def execForwardedArrival (core blk : Nat) (s : State) : Host.Outcome State Fault Refusal :=
  event "FORWARDED_ARRIVAL" (s.forward core blk)

/-- `FORWARDING_ENTRY_EXPIRY` (R200): nothing awaited is left. -/
def execForwardingEntryExpiry (core blk : Nat) (s : State) : Host.Outcome State Fault Refusal :=
  event "FORWARDING_ENTRY_EXPIRY" (s.endForward core blk)

/-- `REGISTER_POOL_REPAIR` (R197): the pool shrinks, in steps of 64, to what its resident waves leave (R174). -/
def execRegisterPoolRepair (core quad size : Nat) (s : State) : Host.Outcome State Fault Refusal :=
  event "REGISTER_POOL_REPAIR" (let old := ((s.core core).pool[quad]?).getD 0
    if core < 288 ∧ quad < 4 ∧ 1536 ≤ size ∧ size < old ∧ size % 64 = 0 ∧ old - size ≤ s.remainder core quad s.nextBlock 0 then
      some ((s.modCore core fun c => { c with pool := c.pool.setIfInBounds quad size }).reportLost.repaired core)
    else none)

/-- `PARTITION_SWAP_OUT` (R397): ignored while a swap is in progress or the partition is out. -/
def execPartitionSwapOut (part : Nat) (s : State) : Host.Outcome State Fault Refusal :=
  event "PARTITION_SWAP_OUT" (if part < 8 then some (s.swapOut part) else none)

/-- `PARTITION_SWAP_IN` (R397): ignored while a swap is in progress or the partition is in. -/
def execPartitionSwapIn (part : Nat) (s : State) : Host.Outcome State Fault Refusal :=
  event "PARTITION_SWAP_IN" (if part < 8 then some (s.swapIn part) else none)

/-- `PARTITION_SWAP_DONE` (R397): every context has moved. -/
def execPartitionSwapDone (part : Nat) (s : State) : Host.Outcome State Fault Refusal :=
  event "PARTITION_SWAP_DONE" (if part < 8 then s.swapDone part else none)

end Sys2Proof.Machine
end

