-- ==== Sys2Proof/Machine/Pace.lean ====
section
/-! DEFINITION. Hint words (R34–R42), words that encode nothing (R33), empty issue cycles (R403) and prefetches (R302). -/
namespace Sys2Proof.Machine

/-- `HIMM` (R38): joins the group. -/
def execHimm (p : BitVec 21) (s : State) : Host.Outcome State Fault Refusal := runHint (.himm p) s

/-- `HOLD` (R39): joins the group; the names held steer the operand latches, which change no result. -/
def execHold (a b c : BitVec 2) (s : State) : Host.Outcome State Fault Refusal := runHint (.hold a b c) s

/-- `HSRC` (R40): joins the group. -/
def execHsrc (v : BitVec 6) (w : Bool) (s : BitVec 5) (t : Bool) (st : State) : Host.Outcome State Fault Refusal :=
  runHint (.hsrc v w s t) st

/-- `HMOD` (R41): joins the group. -/
def execHmod (r : BitVec 3) (f : Bool) (c p : BitVec 2) (o : BitVec 3) (s : BitVec 4) (st : State) :
    Host.Outcome State Fault Refusal := runHint (.hmod r f c p o s) st

/-- `HFREE` (R42): joins the group. -/
def execHfree (a b c : BitVec 7) (s : State) : Host.Outcome State Fault Refusal := runHint (.hfree a b c) s

/-- `NON_INSTRUCTION_ENCODING` (R33): ILLOP, with no other effect. -/
def execNonInstructionEncoding (word : Word) (s : State) : Host.Outcome State Fault Refusal :=
  event "NON_INSTRUCTION_ENCODING" (match decode word with
    | .ok _ => none
    | .error _ => (s.issuer .isync).map fun c => c.put.raise c.r { bits := causeBit cILLOP } c.gpc c.npc)

/-- `EMPTY_ISSUE_CYCLE` (R403): no entity of the quadrant is ready; its slot of the cycle passes. -/
def execEmptyIssueCycle (core quad : Nat) (s : State) : Host.Outcome State Fault Refusal :=
  event "EMPTY_ISSUE_CYCLE" (let t := s.openSlot core quad
    if core < 288 ∧ quad < 4 ∧ (t.select core quad).isNone then some { t with used := t.used ++ [{ core := core, quad := quad }] } else none)

/-- The entity prefetches the next word after those it holds, at most 16 ahead (R302). -/
def State.prefetch (s : State) (r : EntRef) : Option State :=
  match tget s.blocks r.blk with
  | none => none
  | some b =>
    match (b.wave r.slot).bind fun w => w.entity r.frag with
    | none => none
    | some e =>
      let held (a : Dword) : Bool := e.fetched.any fun p => p.1 = a
      let ahead := (List.range 16).find? fun n => !held (e.pc + BitVec.ofNat 64 (4 * n))
      match ahead with
      | none => none
      | some n =>
        if ¬ (b.res = .resident) ∨ e.halted = true then none else
        let pc := e.pc + BitVec.ofNat 64 (4 * n)
        match s.fetchWord b r e pc with
        | (.word w, s) => some (s.modEntity r fun e => { e with fetched := e.fetched ++ [(pc, w)] })
        | _ => none

/-- `INSTRUCTION_FETCH_RETURN` (R302): a prefetched word enters the entity's fetched state. -/
def execInstructionFetchReturn (ent : EntRef) (s : State) : Host.Outcome State Fault Refusal :=
  event "INSTRUCTION_FETCH_RETURN" (s.prefetch ent)

end Sys2Proof.Machine
end

