-- ==== Sys2Proof/Machine/Predicate.lean ====
section
/-! DEFINITION. Comparisons, predicate logic, transfers and matches (R265–R269). -/
namespace Sys2Proof.Machine

/-- A two-source predicate operation: x bit 0 inverts the first operand, bit 1 the second (R266). -/
def predBin (d a b : Reg4) (x : BitVec 2) (f : Bool → Bool → Bool) : Ctx → Except Stop Ctx :=
  predOp d fun c l => f (inMask (c.rk a) l ^^ x.getLsbD 0) (inMask (c.rk b) l ^^ x.getLsbD 1)

/-- The name of a vector register in an 8-bit field, and of a scalar register. -/
def vName (r : BitVec 8) : Reg6 := r.setWidth 6
def sName (r : BitVec 8) : Reg5 := r.setWidth 5

/-- `VCMP` (R265). -/
def execVcmp (k c : BitVec 4) (a b : BitVec 6) (gd : Guard) (s : State) : Host.Outcome State Fault Refusal :=
  run (.vcmp k c a b gd) (predOp k fun x l => relation c (x.rv a)[l] (x.rv b)[l]) s

/-- `FCMP` (R265): FP32, or FP64 pairs with bit 3 of the code. -/
def execFcmp (k c : BitVec 4) (a b : BitVec 6) (gd : Guard) (s : State) : Host.Outcome State Fault Refusal :=
  run (.fcmp k c a b gd) (fun x =>
      let r := lanesOf fun l =>
        if c.getLsbD 3 then fmt64.cmp (c.toNat % 8) x.x.ftz (x.rd a.toNat l).toNat (x.rd b.toNat l).toNat
        else fmt32.cmp (c.toNat % 8) x.x.ftz (x.rv a)[l].toNat (x.rv b)[l].toNat
      .ok ((x.wk k x.g (maskOf fun l => (r[l]).1)).flags x.g fun l => (r[l]).2)) s

/-- `PAND` (R266). -/
def execPand (d a b : BitVec 4) (x : BitVec 2) (gd : Guard) (s : State) : Host.Outcome State Fault Refusal :=
  run (.pand d a b x gd) (predBin d a b x fun p q => p && q) s

/-- `POR` (R266). -/
def execPor (d a b : BitVec 4) (x : BitVec 2) (gd : Guard) (s : State) : Host.Outcome State Fault Refusal :=
  run (.por d a b x gd) (predBin d a b x fun p q => p || q) s

/-- `PXOR` (R266). -/
def execPxor (d a b : BitVec 4) (x : BitVec 2) (gd : Guard) (s : State) : Host.Outcome State Fault Refusal :=
  run (.pxor d a b x gd) (predBin d a b x fun p q => p ^^ q) s

/-- `PNOT` (R266). -/
def execPnot (d a : BitVec 4) (gd : Guard) (s : State) : Host.Outcome State Fault Refusal :=
  run (.pnot d a gd) (predOp d fun c l => !inMask (c.rk a) l) s

/-- `PSET` (R266). -/
def execPset (d : BitVec 4) (x : Bool) (gd : Guard) (s : State) : Host.Outcome State Fault Refusal :=
  run (.pset d x gd) (predOp d fun _ _ => x) s

/-- `KTOV` (R267). -/
def execKtov (k : BitVec 4) (r : BitVec 8) (gd : Guard) (s : State) : Host.Outcome State Fault Refusal :=
  run (.ktov k r gd) (vecOp (vName r) fun c l => if inMask (c.rk k) l then 1 else 0) s

/-- `VTOK` (R267). -/
def execVtok (k : BitVec 4) (r : BitVec 8) (gd : Guard) (s : State) : Host.Outcome State Fault Refusal :=
  run (.vtok k r gd) (predOp k fun c l => decide ((c.rv (vName r))[l] ≠ 0)) s

/-- `KTOS` (R267). -/
def execKtos (k : BitVec 4) (r : BitVec 8) (gd : Guard) (s : State) : Host.Outcome State Fault Refusal :=
  run (.ktos k r gd) (scalarOp (sName r) fun c => (c.rk k &&& c.g).setWidth 64) s

/-- `STOK` (R267). -/
def execStok (k : BitVec 4) (r : BitVec 8) (gd : Guard) (s : State) : Host.Outcome State Fault Refusal :=
  run (.stok k r gd) (predOp k fun c l => (c.rs (sName r)).getLsbD l.val) s

/-- `PCNT` (R267). -/
def execPcnt (k : BitVec 4) (r : BitVec 8) (gd : Guard) (s : State) : Host.Outcome State Fault Refusal :=
  run (.pcnt k r gd) (scalarOp (sName r) fun c => BitVec.ofNat 64 (maskCount (c.rk k &&& c.g))) s

/-- `XMGET` (R267). -/
def execXmget (r : BitVec 8) (s : State) : Host.Outcome State Fault Refusal :=
  run (.xmget r) (scalarOp (sName r) fun c => c.e.xm.setWidth 64) s

/-- `XMSET` (R267): within the entity's arm (R166). -/
def execXmset (r : BitVec 8) (s : State) : Host.Outcome State Fault Refusal :=
  run (.xmset r) (fun c => .ok { c with e := { c.e with xm := (c.rs (sName r)).setWidth 32 &&& c.e.arm } }) s

/-- `VMATCH` (R269). -/
def execVmatch (k c : BitVec 4) (a : BitVec 6) (gd : Guard) (s : State) : Host.Outcome State Fault Refusal :=
  run (.vmatch k c a gd) (predOp k fun x l =>
      let v := x.rv a
      let same (j : Fin 32) : Bool := decide (v[j] = v[l])
      match c.toNat with
      | 0 => (lanesIn x.g).any fun j => decide (j ≠ l) && same j
      | 1 => (lanesIn x.g).all same
      | _ => decide (((lanesIn x.g).find? same) = some l)) s

end Sys2Proof.Machine
end

