-- ==== Sys2Proof/Machine/Recall.lean ====
section
/-! DEFINITION. Tile requests on their way (R147–R156): at the home directory, as recalls at a holder's core, served by a surrender wave,
and delivered. -/
namespace Sys2Proof.Machine

/-- The wave of a request granted or queued at once receives its status and goes on (R156). -/
def State.answerTacq (s : State) (q : TileReq) (status : Dword) : State :=
  match q.direct with
  | none => s
  | some (r, d) =>
    (s.modWave r.blk r.slot fun w => w.setS r.frag d status).modEntity r fun e =>
      if e.wait = some .tile then { e with wait := none } else e

/-- A request at the home directory: granted at once, or QUEUED behind a recall (R147). -/
def State.requestHome (s : State) (r : Nat) (q : TileReq) : State :=
  let s := s.decideTile r q
  match (tget s.treqs r).map (fun x : TileReq => x.phase) with
  | some (.recall _) => if q.direct.isSome then
      ((s.answerTacq q 1).queueTag q).setTreq r fun x => { x with direct := none } else s
  | _ => s

/-- The order of the recalls of Level requests: by key (R149, R221). -/
def keyBefore (x y : Option (Nat × Nat)) : Bool :=
  match x, y with
  | some a, some b => decide (a.1 < b.1) || (decide (a.1 = b.1) && decide (a.2 < b.2))
  | _, _ => false

/-- A recall put into a queue: first in, first out, Level requests in key order. -/
def State.insertRecall (s : State) (r : Nat) (q : TileReq) : List Nat → List Nat
  | [] => [r]
  | x :: xs =>
    if keyBefore q.key ((tget s.treqs x).bind (·.key)) then r :: x :: xs else x :: s.insertRecall r q xs

/-- A recall at a holder's core (R149): into the queue, or back to the directory when the tile has passed on. -/
def State.recallAt (s : State) (r core : Nat) (q : TileReq) : Option State :=
  match (tget s.tiles q.pa).bind fun d => tget s.blocks d.holder with
  | none => some (s.setTreq r fun q => { q with phase := .resend })
  | some h =>
    if h.core ≠ core then
      if (s.core core).forwards.any fun f => (tget s.tiles q.pa).map (·.holder) = some f.blk then none
      else some (s.setTreq r fun q => { q with phase := .resend })
    else if 16 ≤ (s.core core).recalls.length then none
    else some ((s.modCore core fun c => { c with recalls := s.insertRecall r q c.recalls }).setTreq r fun q =>
      { q with phase := .queued core, fwd := none })

/-- May a surrender wave of a block run now? In Level mode at a segment close of the holder, whose key exceeds the request's (R221). -/
def Block.serves (b : Block) (q : TileReq) : Bool :=
  match b.level with
  | none => true
  | some lv =>
    match lv.waitKey with
    | none => false
    | some n => lv.ready && (match q.key with
      | some k => decide (k.1 < n) || (decide (k.1 = n) && decide (k.2 < lv.index))
      | none => true)

/-- The surrender wave as it starts (R150). -/
def surrenderWave (t : TileEntry) (q : TileReq) (requester : Dword) (now : Nat) : Wave :=
  let set (v : Vector Dword 32) (n : Fin 32) (x : Dword) : Vector Dword 32 := v.set n x
  let regs := set (set (set (set (set (set (Vector.replicate 32 0) 0 t.va) 1 (BitVec.ofNat 64 t.aoff)) 2 (if q.excl then 0 else 1)) 3
    requester) 4 (BitVec.ofNat 64 t.refusals)) 5 (t.kind.setWidth 64)
  let all : Mask := BitVec.allOnes 32
  { role := 0, cslot := 64, floor := 64, cap := 512, start := now, s := regs, parent := { pc := t.spc, xm := all, arm := all, lastIssue := now } }

/-- The first recall of a core's queue, but for those of tiles that an outcome in a Level block's stage has passed on: they wait for its
release (R221). -/
def State.headRecall (s : State) (core : Nat) : Option Nat :=
  (s.core core).recalls.find? fun r => (((tget s.treqs r).bind fun q => (tget s.tiles q.pa).bind fun d =>
    (tget s.blocks d.holder).map fun h => !h.isLevel || (h.tile q.pa).isSome)).getD true

/-- The surrender wave of a core starts for the recall at the head of the queue (R150); a misaligned surrender pc ends it at once
(R151, R156). -/
def State.startSurrender (s : State) (core : Nat) : Option State :=
  if s.blocks.any fun p => p.2.core = core && p.2.sur.isSome then none else
  (s.headRecall core).bind fun r => (tget s.treqs r).bind fun q => (tget s.tiles q.pa).bind fun d =>
    (tget s.blocks d.holder).bind fun h => (h.heldTile q.pa).bind fun t =>
      if h.core ≠ core ∨ h.serves q = false then none else
      let who : Dword := match tget s.blocks q.blk with
        | some b => b.blk.setWidth 64
        | none => 0
      let s := s.setTreq r fun q => { q with phase := .serving d.holder }
      let s := s.modBlock d.holder fun b => { b with sur := some (surrenderWave t q who s.now, { req := r, tile := q.pa }) }
      some (if t.spc.toNat % 4 ≠ 0 then s.surrenderTrap d.holder (causeBit cALIGN) else s)

/-- The bound of a surrender wave is reached (R152). -/
def State.boundSurrender (s : State) (core : Nat) : Option State :=
  (s.blocks.find? fun p => p.2.core = core && p.2.sur.isSome).bind fun p =>
    match p.2.sur with
    | none => none
    | some (_, q) =>
      if q.issued < p.2.bnd ∨ s.outstanding core p.1 16 = true then none
      else
        let s := s.modCore core fun c =>
          { c with loads := c.loads.filter fun x => !(x.ent.blk = p.1 && x.ent.slot = 16)
                   stip := c.stip.filter fun x => !(x.ent.blk = p.1 && x.ent.slot = 16) }
        some (s.surrenderTrap p.1 0)

/-- A block's entry of a tile becomes what an outcome makes of it. -/
def State.setView (s : State) (blk pa : Nat) (v : TileView) : State :=
  s.modBlock blk fun b => { b with tiles := b.tiles.map fun t => if t.pa = pa && t.view = .pending then { t with view := v } else t }

/-- A request's outcome reaches its block (R147, R153, R156, R159): the image, tenure or a refusal. -/
def State.deliverTile (s : State) (r : Nat) (q : TileReq) : Option State :=
  (tget s.blocks q.blk).bind fun b =>
    let gone (s : State) : State := { s with treqs := tdel s.treqs r }
    let arrives (image : List Byte) (tenure : Bool) : Option State :=
      let s := (s.charge b.core q.cls.toNat image.length).engineWrite b.core 3 (b.aslice.base + q.aoff) image
      let s := s.acquireCaches b.core 6
      let s := if q.direct.isSome && !tenure then
          s.modBlock q.blk fun b => { b with tiles := b.tiles.filter fun t => !(t.pa = q.pa && t.view = .pending) }
        else s.setView q.blk q.pa (if tenure then .held else .delivered)
      some (gone (if q.direct.isSome then s.answerTacq q 0 else s.endTag q.blk q.tag none))
    match q.phase with
    | .delivering image tenure => arrives image tenure
    | .folding tenure => if s.foldDue q.pa q.size then none else arrives (s.tileImage q tenure) tenure
    | .refused => some (gone ((s.setView q.blk q.pa .refused).endTag q.blk q.tag none))
    | _ => none

end Sys2Proof.Machine
end

