-- ==== Sys2Proof/Machine/Recalls.lean ====
section
/-! DEFINITION. The events of tile requests (R147–R153). -/
namespace Sys2Proof.Machine

/-- `TILE_REQUEST_ARRIVAL` (R147): granted, or sent as a recall to the holder's core, which its tag counts: not while that stands at 255
(R139). -/
def execTileRequestArrival (req : Nat) (s : State) : Host.Outcome State Fault Refusal :=
  event "TILE_REQUEST_ARRIVAL" ((tget s.treqs req).bind fun q =>
      let full := ((tget s.blocks q.blk).map fun b => decide (255 ≤ (b.tags.getD q.tag {}).pending)).getD false
      if q.phase ≠ .toHome ∨ ((tget s.tiles q.pa).isSome && q.direct.isSome && full) = true then none else some (s.requestHome req q))

/-- Does another recall come first to a core (R149): one of the tile that the directory has sent before, and that is on its way or stands in
another core's queue, from which a forwarding entry takes it; or one that such an entry has redirected before? -/
def TileReq.follows (q x : TileReq) (core : Nat) : Bool :=
  let away := match x.phase with
    | .recall _ => true
    | .queued c => decide (c ≠ core)
    | _ => false
  (away && decide (x.pa = q.pa) && decide (x.sent < q.sent)) ||
    (decide (x.phase = .recall core) && (match q.fwd, x.fwd with
      | some n, some m => decide (m < n)
      | _, _ => false))

/-- `RECALL_ARRIVAL` (R149): the recall enters the queue of the holder's core; recalls of a tile arrive in the order in which the directory
sent them, and those of a queue that has moved in the queue's order. -/
def execRecallArrival (req : Nat) (s : State) : Host.Outcome State Fault Refusal :=
  event "RECALL_ARRIVAL" ((tget s.treqs req).bind fun q =>
      match q.phase with
      | .recall core => if s.treqs.any fun x => q.follows x.2 core then none else s.recallAt req core q
      | _ => none)

/-- `RECALL_RESEND` (R149): as a request for a free tile, or to the new holder. -/
def execRecallResend (req : Nat) (s : State) : Host.Outcome State Fault Refusal :=
  event "RECALL_RESEND" ((tget s.treqs req).bind fun q => if q.phase = .resend then some (s.decideTile req q) else none)

/-- `SURRENDER_WAVE_START` (R150): for the recall at the head of the queue. -/
def execSurrenderWaveStart (core : Nat) (s : State) : Host.Outcome State Fault Refusal :=
  event "SURRENDER_WAVE_START" (s.startSurrender core)

/-- `SURRENDER_BOUND_EXPIRY` (R152): the wave ends as by `CEDE.FIN`, with OVERRUN. -/
def execSurrenderBoundExpiry (core : Nat) (s : State) : Host.Outcome State Fault Refusal :=
  event "SURRENDER_BOUND_EXPIRY" (s.boundSurrender core)

/-- `TILE_DELIVERY` (R153): the image is in the A slice, and the request completes. -/
def execTileDelivery (req : Nat) (s : State) : Host.Outcome State Fault Refusal :=
  event "TILE_DELIVERY" ((tget s.treqs req).bind fun q => s.deliverTile req q)

end Sys2Proof.Machine
end

