-- ==== Sys2Proof/Machine/Answers.lean ====
section
/-! DEFINITION. What answers to accesses in flight come to: data written to registers (R44, R178), REPLAY reports (R120, R423),
promotions (R114), and the end of the wait for them. -/
namespace Sys2Proof.Machine

/-- A request of lanes of an entity is reported (R120): REPLAY, between two instructions of its wave, to the wave's parent if the
entity has ended; of several reports not yet handled, `cmask` names the lanes of all. A barrier that is due completes first (R296). -/
def State.reportReplay (s : State) (r : EntRef) (lanes : Mask) : State :=
  let s := s.settleBarrier r.blk
  match (tget s.blocks r.blk).bind fun b => b.wave r.slot with
  | none => s
  | some w =>
    let r : EntRef := if r.frag && w.frag.isNone then { r with frag := false } else r
    match w.entity r.frag with
    | none => s
    | some e =>
      let before := match w.pending with
        | some p => if p.causes &&& causeBit cREPLAY ≠ 0 ∧ w.saved.isNone then w.cmask else 0
        | none => 0
      s.raise r { bits := causeBit cREPLAY, cmask := some (lanes ||| before) } e.resumeAt e.resumeAt

/-- The cycle that an entity's wait for data ends: it goes on, or waits for promotions (R114). -/
def State.endData (s : State) (r : EntRef) : State :=
  let promoting := s.promos.any fun p => p.2.2.1 = r
  s.modEntity r fun e => if e.wait = some .data then { e with wait := if promoting then some .promote else none } else e

/-! ### Loads (R178) -/

/-- The registers of a wave with a load's data, undefined where it was lost (R423). -/
def Wave.land (w : Wave) (p : PendLoad) (free : Dword) : Wave :=
  let bad (x : Word) : Word := if p.lost then free.setWidth 32 else x
  let w := p.vregs.foldl (fun w r => w.setLanes r.1.toNat r.2.1 fun l => bad r.2.2[l]) w
  let w := match p.sreg with
    | some (d, v) => w.setS p.ent.frag d (if p.lost then free else v)
    | none => w
  match p.mreg with
  | some (d, lanes, m) =>
    let old := w.m[d.toNat]
    let same := decide (old.rows = m.rows) && decide (old.cols = m.cols)
    let zero : List Word := List.replicate (m.rows * m.cols) 0
    let keep : Lanes (List Word) := if same then old.data.getD (Vector.replicate 32 zero) else Vector.replicate 32 zero
    let new : Lanes (List Word) := m.data.getD (Vector.replicate 32 zero)
    w.setM p.ent.frag d old { m with data := some (lanesMerge lanes (fun l => (new[l]).map bad) keep) }
  | none => w

/-- The data of an entity's outstanding load returns. -/
def State.landLoad (s : State) (ent : EntRef) : Option State :=
  (tget s.blocks ent.blk).bind fun b =>
    ((s.core b.core).loads.find? fun p => p.ent = ent).bind fun p =>
      let s := s.modCore b.core fun c => { c with loads := c.loads.erase p }
      let (v, s) := if p.lost then s.takeFree else (0, s)
      let s := s.modWave ent.blk ent.slot fun w => w.land p v
      let s := if (s.core b.core).loads.any fun q => q.ent = ent then s else s.endData ent
      let lanes := p.vregs.foldl (fun m r => m ||| r.2.1) ((p.mreg.map (·.2.1)).getD 0)
      some (if p.lost then s.reportReplay ent lanes else s)

/-! ### Atomics (R118–R121) -/

/-- Writes one lane's result of an `ATOM`. -/
def Wave.setAtom (w : Wave) (q : AtomReq) (val : Dword) : Wave :=
  match q.dst, laneOfNat q.lane with
  | some d, some l =>
    let m : Mask := 1#32 <<< l.val
    let w := w.setLanes d.toNat m fun _ => val.setWidth 32
    if atomSize q.ty = 8 then w.setLanes (d.toNat + 1) m fun _ => val.extractLsb' 32 32 else w
  | _, _ => w

/-- A request is no longer in flight, its result written. The last of its instruction performs the acquire, or asks for promotions
(R104, R114), and ends the wait. -/
def State.endReq (s : State) (core : Nat) (q : AtomReq) (val : Dword) : State :=
  let s := s.modCore core fun c => { c with atoms := c.atoms.filter fun x => x.seq ≠ q.seq }
  let s := s.modWave q.ent.blk q.ent.slot fun w => w.setAtom q val
  let s := match q.tagger with
    | some k =>
      let s := s.modWave q.ent.blk q.ent.slot fun w => w.noteTags [k]
      if s.promos.any fun p => p.1 = k && p.2.2.1 = q.ent then s
      else { s with promos := s.promos ++ [(k, max q.acq 6, q.ent, q.acq)] }
    | none => s
  if (s.core core).atoms.any fun x => x.grp = q.grp && x.ent = q.ent then s else
  let s := if q.acq ≠ 0 ∧ (s.promos.any fun p => p.2.2.1 = q.ent) = false then s.acquireCaches core q.acq else s
  if q.dst.isSome then s.endData q.ent else s

/-- The request is reported: its `ATOM` lane receives an undefined value (R120). -/
def State.reportReq (s : State) (core : Nat) (q : AtomReq) : State :=
  let (v, s) := s.takeFree
  (s.endReq core q v).reportReplay q.ent (1#32 <<< q.lane)

/-- A request is transmitted again with the replay bit, at most three times; then it is reported (R120). -/
def State.retransmit (s : State) (core : Nat) (q : AtomReq) : State :=
  if 3 ≤ q.tries then s.reportReq core q
  else s.setReq core q.seq fun r => { r with st := .sent, tries := r.tries + 1, sent := s.now, replayBit := true }

def State.req (s : State) (core : Nat) (seq : BitVec 24) : Option AtomReq :=
  ((s.core core).atoms.find? fun q => q.seq = seq)

/-! ### Promotions (R114) -/

/-- A core performs the release that its promotions ask for and acknowledges; an acquirer without further ones performs its own
action. -/
def State.promoteCore (s : State) (core : Nat) : Option State :=
  let mine := s.promos.filter fun p => p.1 = core
  if mine.isEmpty then none else
  let s := s.releaseCaches core (mine.foldl (fun n p => max n p.2.1) 0)
  let s : State := { s with promos := s.promos.filter fun p => p.1 ≠ core }
  some (mine.foldl (fun s p =>
    let r := p.2.2.1
    if s.promos.any fun q => q.2.2.1 = r then s else
    match tget s.blocks r.blk with
    | none => s
    | some b => (s.acquireCaches b.core p.2.2.2).modEntity r fun e => if e.wait = some .promote then { e with wait := none } else e) s)

/-! ### C0 requests (R422) -/

/-- The entity of a number whose word is held at its core: its block, its wave and whether it is the fragment. -/
def entOf (id : Nat) : EntRef := { blk := id / 64, slot := id / 2 % 32, frag := decide (id % 2 = 1) }

/-- The rate of a core admits what an entity's word asks for: the entity goes on. -/
def State.admitRequest (s : State) (core id : Nat) : Option State :=
  (tget s.blocks (entOf id).blk).bind fun b => (b.wave (entOf id).slot).bind fun w => (w.entity (entOf id).frag).bind fun e =>
    if b.core = core ∧ e.wait = some .c0 ∧ s.admits core = true then some (s.modEntity (entOf id) fun e => { e with wait := none }) else none

end Sys2Proof.Machine
end

