-- ==== Sys2Proof/Machine/Return.lean ====
section
/-! DEFINITION. Arrivals of accesses at their homes, and of their answers at the cores (R103, R113–R121, R178, R395, R422). -/
namespace Sys2Proof.Machine

/-- `LOAD_RETURN` (R178): the load's registers are written, and its wait ends. -/
def execLoadReturn (ent : EntRef) (s : State) : Host.Outcome State Fault Refusal :=
  event "LOAD_RETURN" (s.landLoad ent)

/-- `STORE_ARRIVAL_AT_HOME` (R113): a strong store is performed at its home unit, or discarded on the way (R423). -/
def execStoreArrivalAtHome (core id : Nat) (s : State) : Host.Outcome State Fault Refusal :=
  event "STORE_ARRIVAL_AT_HOME" (((s.core core).stores.find? fun p => p.id = id).bind fun p =>
      if p.arrived || p.lost then none
      else if s.draining (moduleOf p.pa) then some (s.drainRoute (moduleOf p.pa)) else some (s.arriveStore core p))

/-- `STORE_ACKNOWLEDGEMENT` (R395): of a store performed at home; one that was discarded is reported after its retransmissions (R423). -/
def execStoreAcknowledgement (core id : Nat) (s : State) : Host.Outcome State Fault Refusal :=
  event "STORE_ACKNOWLEDGEMENT" (((s.core core).stores.find? fun p => p.id = id).bind fun p =>
      if !p.arrived && !p.lost then none else
      let s := s.modCore core fun c => { c with stores := c.stores.filter fun q => q.id ≠ id }
      some (if p.lost then s.reportReplay p.ent (1#32 <<< p.lane) else s))

/-- `ATOMIC_REQUEST_ARRIVAL` (R119): applied, found kept, or answered REPLAY. -/
def execAtomicRequestArrival (core : Nat) (seq : BitVec 24) (s : State) : Host.Outcome State Fault Refusal :=
  event "ATOMIC_REQUEST_ARRIVAL" ((s.req core seq).bind fun q => if q.st ≠ .sent then none
      else if s.draining (moduleOf q.pa) then some (s.drainRoute (moduleOf q.pa)) else some (s.arriveReq core q))

/-- `ATOMIC_ACKNOWLEDGEMENT` (R120): the value of an `ATOM` is written, and its instruction's wait may end. -/
def execAtomicAcknowledgement (core : Nat) (seq : BitVec 24) (s : State) : Host.Outcome State Fault Refusal :=
  event "ATOMIC_ACKNOWLEDGEMENT" ((s.req core seq).bind fun q =>
      match q.st with
      | .answered v => some (s.endReq core q v)
      | _ => none)

/-- `REPLAY_ANSWER` (R120): the request is reported. -/
def execReplayAnswer (core : Nat) (seq : BitVec 24) (s : State) : Host.Outcome State Fault Refusal :=
  event "REPLAY_ANSWER" ((s.req core seq).bind fun q => if q.st = .replay then some (s.reportReq core q) else none)

/-- `RETRANSMIT_TIMEOUT` (R120): 8 µs after the last transmission, unless the answer is REPLAY. -/
def execRetransmitTimeout (core : Nat) (seq : BitVec 24) (s : State) : Host.Outcome State Fault Refusal :=
  event "RETRANSMIT_TIMEOUT" ((s.req core seq).bind fun q =>
      if s.now < q.sent + retryCycles ∨ q.st = .replay then none else some (s.retransmit core q))

/-- `LINK_CORRECTABLE_ERROR` (R120): the request, or its acknowledgement, is lost on the link, and the request is transmitted again at once. -/
def execLinkCorrectableError (core : Nat) (seq : BitVec 24) (s : State) : Host.Outcome State Fault Refusal :=
  event "LINK_CORRECTABLE_ERROR" ((s.req core seq).bind fun q => if q.st = .replay then none else some (s.retransmit core q))

/-- `SEQUENCE_WINDOW_EXPIRY` (R119): the home unit drops the number 32 µs after it applied it. -/
def execSequenceWindowExpiry (unit : Nat) (source : Nat) (seq : BitVec 24) (s : State) : Host.Outcome State Fault Refusal :=
  event "SEQUENCE_WINDOW_EXPIRY" (if (s.home unit).kept.any fun k => k.src = source && k.seq = seq && decide (k.at_ + keepCycles ≤ s.now) then
      some (s.setHome unit { s.home unit with kept := (s.home unit).kept.filter fun k => !(k.src = source && k.seq = seq) })
    else none)

/-- `PROMOTION` (R114): the core's release, and the end of the waits for it. -/
def execPromotion (core : Nat) (s : State) : Host.Outcome State Fault Refusal :=
  event "PROMOTION" (s.promoteCore core)

/-- `C0_REQUEST_ADMITTED` (R422): the rate admits a held request. -/
def execC0RequestAdmitted (core id : Nat) (s : State) : Host.Outcome State Fault Refusal :=
  event "C0_REQUEST_ADMITTED" (s.admitRequest core id)

end Sys2Proof.Machine
end

