-- ==== Sys2Proof/Machine/Sampler.lean ====
section
/-! DEFINITION. The sampler of a core (R408) and the TS packets of its Etch stream (R413). -/
namespace Sys2Proof.Machine

/-- What a sample says of an entity (Table 22.4). -/
structure Sample where
  slot : Nat
  frag : Bool
  pc   : Dword
  wid  : Dword
  mask : Mask
  cls  : Nat
  st   : Nat
  hdlr : Bool
  lid  : Word
deriving DecidableEq, Repr

/-- Something that a sample may take: a resident entity, or a slot whose wave has exited. -/
inductive Candidate where
  | entity (blk : Nat) (b : Block) (r : EntRef) (w : Wave) (e : Entity)
  | exited (x : ExitNote)

/-- The order of candidates: by core wave slot, the parent before its fragment. -/
def Candidate.pos (x : Candidate) : Nat × Bool :=
  match x with
  | .entity _ _ r w _ => (w.cslot, r.frag)
  | .exited n => (n.cslot, false)
def Candidate.key (x : Candidate) : Nat := 2 * x.pos.1 + (if x.pos.2 then 1 else 0)

/-- The candidates of a quadrant. -/
def State.candidates (s : State) (core quad : Nat) : List Candidate :=
  let here := s.blocks.flatMap fun p =>
    if p.2.core = core then
      (p.2.here p.1).filterMap fun x =>
        if p.2.quad x.1.slot = quad ∧ x.2.1.live ≠ 0 then some (Candidate.entity p.1 p.2 x.1 x.2.1 x.2.2) else none
    else []
  let gone := ((s.core core).smpExits.filter fun n =>
    n.cslot / 16 = quad && !here.any fun x => x.pos.1 = n.cslot).map Candidate.exited
  here ++ gone

/-- The candidate next after a position, in turn. -/
def nextCandidate (last : Option (Nat × Bool)) (xs : List Candidate) : Option Candidate :=
  let lowest (ys : List Candidate) : Option Candidate := ys.foldl (fun acc y => match acc with
    | none => some y
    | some z => if y.key < z.key then some y else some z) none
  match last with
  | none => lowest xs
  | some p =>
    match lowest (xs.filter fun x => 2 * p.1 + (if p.2 then 1 else 0) < x.key) with
    | some x => some x
    | none => lowest xs

/-- PC, state and stall class of an entity (R408). -/
def State.standing (s : State) (b : Block) (r : EntRef) (w : Wave) (e : Entity) : Dword × Nat × Nat :=
  let cls := stallClass b w e
  match e.issued with
  | some (at_, pc) => if at_ = s.now then (pc, 0, 0) else rest cls
  | none => rest cls
where
  rest (cls : Nat) : Dword × Nat × Nat :=
    if cls = 7 then (e.pc, 2, 7)
    else if w.inHandler && decide (r.slot ≠ 16) then (e.pc, 5, cls)
    else if b.halt.isSome && decide (r.slot ≠ 16) then (e.resumeAt, 4, 1)
    else (e.resumeAt, 1, cls)

/-- The sample of a candidate. -/
def State.sampleOf (s : State) (x : Candidate) : Sample :=
  match x with
  | .exited n => { slot := n.cslot, frag := false, pc := n.pc, wid := n.wid, mask := 0, cls := 0, st := 3, hdlr := false, lid := n.lid }
  | .entity _ b r w e =>
    let v := s.standing b r w e
    { slot := w.cslot, frag := r.frag, pc := v.1, wid := s.wid b r.slot, mask := e.xm, cls := v.2.2, st := v.2.1
      hdlr := w.inHandler && decide (r.slot ≠ 16), lid := (s.launch b.launch).lid }

/-- The bytes of a sample after its slot's header (Table 22.4). -/
def Sample.bytes (x : Sample) (core quad now : Nat) : List Byte :=
  leBytes (now % 2 ^ 64 + x.wid.toNat * 2 ^ 64 + x.pc.toNat * 2 ^ 128 + x.mask.toNat * 2 ^ 192 + x.cls * 2 ^ 224 + x.st * 2 ^ 232 +
    quad * 2 ^ 240 + (if x.frag then 2 ^ 248 else 0) + (if x.slot = 64 then 2 ^ 249 else 0) + (if x.hdlr then 2 ^ 250 else 0) +
    core * 2 ^ 256 + x.lid.toNat * 2 ^ 288) 56

/-- A sample is written into its ring, or dropped and counted when no slot is empty. -/
def State.putSample (s : State) (core : Nat) (bytes : List Byte) : State :=
  let c := s.core core
  if ringEnabled c.dbg.smpring = false then s else
  match s.fillSlot c.dbg.smpring c.smpProd c.smpWrap bytes with
  | some s =>
    let n := ringNext c.smpProd c.smpWrap
    s.modCore core fun c => { c with smpProd := n.1, smpWrap := n.2 }
  | none => s.modCore core fun c =>
    { c with dbg := { c.dbg with smploss := BitVec.ofNat 32 (min (c.dbg.smploss.toNat + 1) 0xFFFFFFFF) } }

/-- The sampler takes the sample that is due (R408). -/
def State.takeSample (s : State) (core : Nat) : Option State :=
  let c := s.core core
  if !natBit c.dbg.smpctl.toNat 0 || decide (s.now < c.smpLast + max 1024 (natBits c.dbg.smpctl.toNat 31 8)) then none else
  let quad := c.smpCount % 4
  let next := nextCandidate ((c.smpPos[quad]?).getD none) (s.candidates core quad)
  let s := s.modCore core fun c =>
    { c with smpCount := c.smpCount + 1, smpLast := s.now, smpExits := c.smpExits.filter fun n => n.cslot / 16 ≠ quad }
  match next with
  | none => some s
  | some x =>
    let s := s.modCore core fun c => { c with smpPos := c.smpPos.setIfInBounds quad (some x.pos) }
    some (s.putSample core ((s.sampleOf x).bytes core quad s.now))

/-- A TS packet that is due: cycles since the stream's last SYNC or TS (R413). -/
def State.putTs (s : State) (core : Nat) : Option State :=
  let c := s.core core
  let n := natBits c.dbg.etctl.toNat 31 16
  if !natBit c.dbg.etctl.toNat 0 || decide (n = 0) || decide (s.now < c.etch.ts + n) || !ringEnabled c.dbg.etring then none else
  let s := s.modCore core fun c => { c with etch := { c.etch with ts := s.now } }
  let (s, ok) := s.etchPut core ([0x05, 0] ++ leBytes (s.now - c.etch.last) 4)
  some (if ok then s.modCore core fun c => { c with etch := { c.etch with last := s.now } } else s)

end Sys2Proof.Machine
end

