-- ==== Sys2Proof/Machine/Sampling.lean ====
section
/-! DEFINITION. Samples (R408) and TS packets (R413). -/
namespace Sys2Proof.Machine

/-- `SAMPLE` (R408): the one that is due. -/
def execSample (core : Nat) (s : State) : Host.Outcome State Fault Refusal :=
  event "SAMPLE" (if core < 288 then s.takeSample core else none)

/-- `ETCH_TS` (R413): the TS packet that is due. -/
def execEtchTs (core : Nat) (s : State) : Host.Outcome State Fault Refusal :=
  event "ETCH_TS" (if core < 288 then s.putTs core else none)

end Sys2Proof.Machine
end

