-- ==== Sys2Proof/Machine/Scalar.lean ====
section
/-! DEFINITION. Scalar instructions (R250–R255): once for the issue entity, whatever its mask holds. -/
namespace Sys2Proof.Machine

/-- The high 64 bits of the product (Table 11.1). -/
def mulHigh64 (u : Bool) (x y : Dword) : Dword :=
  if u then BitVec.ofNat 64 (x.toNat * y.toNat / 2 ^ 64) else BitVec.ofInt 64 (x.toInt * y.toInt / 2 ^ 64)

/-- `SADD` (R250). -/
def execSadd (d a b : BitVec 5) (i : Bool) (s : State) : Host.Outcome State Fault Refusal :=
  run (.sadd d a b i) (scalarOp d fun c => c.rs a + c.scalarB b i) s

/-- `SSUB` (R250). -/
def execSsub (d a b : BitVec 5) (i : Bool) (s : State) : Host.Outcome State Fault Refusal :=
  run (.ssub d a b i) (scalarOp d fun c => c.rs a - c.scalarB b i) s

/-- `SMUL` (R250). -/
def execSmul (d a b : BitVec 5) (i : Bool) (s : State) : Host.Outcome State Fault Refusal :=
  run (.smul d a b i) (scalarOp d fun c => c.rs a * c.scalarB b i) s

/-- `SMULH` (R250). -/
def execSmulh (d a b : BitVec 5) (i u : Bool) (s : State) : Host.Outcome State Fault Refusal :=
  run (.smulh d a b i u) (scalarOp d fun c => mulHigh64 u (c.rs a) (c.scalarB b i)) s

/-- `SAND` (R250). -/
def execSand (d a b : BitVec 5) (i : Bool) (s : State) : Host.Outcome State Fault Refusal :=
  run (.sand d a b i) (scalarOp d fun c => c.rs a &&& c.scalarB b i) s

/-- `SOR` (R250). -/
def execSor (d a b : BitVec 5) (i : Bool) (s : State) : Host.Outcome State Fault Refusal :=
  run (.sor d a b i) (scalarOp d fun c => c.rs a ||| c.scalarB b i) s

/-- `SXOR` (R250). -/
def execSxor (d a b : BitVec 5) (i : Bool) (s : State) : Host.Outcome State Fault Refusal :=
  run (.sxor d a b i) (scalarOp d fun c => c.rs a ^^^ c.scalarB b i) s

/-- `SSHL` (R250): 0 when the amount is 64 or more. -/
def execSshl (d a b : BitVec 5) (i : Bool) (s : State) : Host.Outcome State Fault Refusal :=
  run (.sshl d a b i) (scalarOp d fun c => shl (c.rs a) (c.scalarB b i).toNat) s

/-- `SSHR` (R250). -/
def execSshr (d a b : BitVec 5) (i : Bool) (s : State) : Host.Outcome State Fault Refusal :=
  run (.sshr d a b i) (scalarOp d fun c => shr (c.rs a) (c.scalarB b i).toNat) s

/-- `SSAR` (R250). -/
def execSsar (d a b : BitVec 5) (i : Bool) (s : State) : Host.Outcome State Fault Refusal :=
  run (.ssar d a b i) (scalarOp d fun c => sar (c.rs a) (c.scalarB b i).toNat) s

/-- `SMIN` (R250). -/
def execSmin (d a b : BitVec 5) (i u : Bool) (s : State) : Host.Outcome State Fault Refusal :=
  run (.smin d a b i u) (scalarOp d fun c => pick u false (c.rs a) (c.scalarB b i)) s

/-- `SMAX` (R250). -/
def execSmax (d a b : BitVec 5) (i u : Bool) (s : State) : Host.Outcome State Fault Refusal :=
  run (.smax d a b i u) (scalarOp d fun c => pick u true (c.rs a) (c.scalarB b i)) s

/-- `SCMP` (R250). -/
def execScmp (d a b : BitVec 5) (i : Bool) (c : BitVec 4) (s : State) : Host.Outcome State Fault Refusal :=
  run (.scmp d a b i c) (scalarOp d fun x => if relation c (x.rs a) (x.scalarB b i) then 1 else 0) s

/-- `SSEL` (R250). -/
def execSsel (d a b : BitVec 5) (i : Bool) (s : State) : Host.Outcome State Fault Refusal :=
  run (.ssel d a b i) (scalarOp d fun c => if c.rsc ≠ 0 then c.rs a else c.scalarB b i) s

/-- `SMOV` (R250). -/
def execSmov (d a : BitVec 5) (s : State) : Host.Outcome State Fault Refusal :=
  run (.smov d a) (scalarOp d fun c => c.rs a) s

/-- `SLEA` (R250). -/
def execSlea (d a b : BitVec 5) (i : Bool) (c : BitVec 4) (s : State) : Host.Outcome State Fault Refusal :=
  run (.slea d a b i c) (scalarOp d fun x => x.rs a + (x.scalarB b i <<< c.toNat)) s

/-- `SMOVI` (R252). -/
def execSmovi (d : BitVec 5) (i : BitVec 20) (s : State) : Host.Outcome State Fault Refusal :=
  run (.smovi d i) (scalarOp d fun c => BitVec.ofInt 64 (c.x.imm i.toNat 20)) s

/-- `SRD` (R253): to a scalar register, or lane by lane to a vector register. -/
def execSrd (d : BitVec 5) (v : Bool) (n : BitVec 8) (s : State) : Host.Outcome State Fault Refusal :=
  run (.srd d v n) (fun c =>
      if v then c.wv d.toNat c.g fun l => c.specialLane n.toNat l
      else .ok (c.ws d (c.special n.toNat))) s

/-- `SWR` (R253): `epc` only in a handler. -/
def execSwr (a : BitVec 5) (n : BitVec 8) (s : State) : Host.Outcome State Fault Refusal :=
  run (.swr a n) (fun c =>
      if n = 0x12 ∧ c.isHandler = false then raises cPRIV
      else .ok (c.setSpecial n.toNat (c.rs a))) s

end Sys2Proof.Machine
end

