-- ==== Sys2Proof/Machine/System.lean ====
section
/-! DEFINITION. Traps, the return from one and the clearing of causes (R392, R393), Level-mode control (R225, R226), trace marks, Hatch
reads and conditional breakpoints (R416, R417). -/
namespace Sys2Proof.Machine

/-- `TRAP` (R392). -/
def execTrap (c : BitVec 15) (s : State) : Host.Outcome State Fault Refusal :=
  run (.trap c) (fun x => .error (.trap { bits := causeBit cSWTRAP, cmask := some x.e.xm, code := c.setWidth 64 })) s

/-- `TRET` (R393). -/
def execTret (s : State) : Host.Outcome State Fault Refusal :=
  run .tret (tretBody) s

/-- `CCLR` (R392): bits 63:31 of the operand are ignored. -/
def execCclr (a : BitVec 5) (s : State) : Host.Outcome State Fault Refusal :=
  run (.cclr a) (fun c => .ok { c with w := { c.w with cause := c.w.cause &&& ~~~ (c.rs a &&& 0x7FFFFFFF) } }) s

/-- `RESV` (R225). -/
def execResv (d : BitVec 5) (s : State) : Host.Outcome State Fault Refusal :=
  run (.resv d) (fun c =>
      if c.b.level.isNone || c.b.task then raises cLEVEL
      else .ok (c.ws d (BitVec.ofNat 64 (c.b.blk.toNat * c.launch.kd.resv)))) s

/-- The quantum of the entity ends with this instruction (R226); nothing in a surrender wave or outside Level mode. -/
def Ctx.endQuantum (c : Ctx) : Ctx := if c.level then { c with e := { c.e with qended := true } } else c

/-- `LVQ` (R226). -/
def execLvq (s : State) : Host.Outcome State Fault Refusal :=
  run .lvq (fun c => .ok c.endQuantum) s

/-- `LVQ.seg` (R226): the block's segment closes at the boundary (R216). -/
def execLvqSeg (s : State) : Host.Outcome State Fault Refusal :=
  run .lvqSeg (fun c => .ok (if c.level then
        { c.endQuantum with b := { c.b with level := c.b.level.map fun lv => { lv with seg := true } } } else c)) s

/-- `MARK` (R416). -/
def execMark (d a b : BitVec 5) (s : State) : Host.Outcome State Fault Refusal :=
  run (.mark d a b) (fun c => .ok { c with pkts := [pktMark (d.toNat * 32 + b.toNat) (c.rs a)] }) s

/-- `HCTR` (R416). -/
def execHctr (d a : BitVec 5) (s : State) : Host.Outcome State Fault Refusal :=
  run (.hctr d a) (fun c =>
      let sel := (c.rs a).toNat
      let bin := sel % 16
      let cls := sel / 16 % 8
      let core := c.s.core c.core
      if core.dbg.hctlWr = false then raises cPRIV
      else if 6 ≤ cls then raises cBOUNDS
      else .ok (c.ws d ((tgetD core.hatch (if cls = 5 then 80 else 5 * bin + cls) 0#48).setWidth 64))) s

/-- The condition that a descriptor of `DBRK` arms for a block (R417). -/
def comparatorOf (blk : Nat) (x : Dword) : Comparator :=
  { blk := blk, sreg := x.getLsbD 3, reg := natBits x.toNat 9 4, all := x.getLsbD 10, cc := x.extractLsb' 11 4
    wmask := x.extractLsb' 16 16, imm := x.extractLsb' 32 32 }

/-- The status of a `DBRK`, the first that applies of 2, 3 and 1. -/
def dbrkStatus (c : Ctx) (k : Comparator) (arm : Bool) (cur : Option Comparator) : Nat :=
  if (c.s.core c.core).dbg.tenant = false then 2
  else if arm ∧ ((if k.sreg then 31 else 63) < k.reg ∨ 6 ≤ k.cc.toNat % 8) then 3
  else if cur.isSome ∧ cur.map (·.blk) ≠ some c.r.blk then 1 else 0

/-- `DBRK` (R417). -/
def execDbrk (d a : BitVec 5) (s : State) : Host.Outcome State Fault Refusal :=
  run (.dbrk d a) (fun c =>
      let x := c.rs a
      let n := x.toNat % 4
      let arm := x.getLsbD 2
      let k := comparatorOf c.r.blk x
      let core := c.s.core c.core
      let cur := (core.comps[n]?).getD none
      let st := dbrkStatus c k arm cur
      let set (q : Core) : Core :=
        { q with comps := q.comps.setIfInBounds n (if arm then some k else none), compsOld := q.compsOld.setIfInBounds n (c.s.now, cur) }
      let c := if st = 0 then { c with s := c.s.modCore c.core set } else c
      .ok (c.ws d (BitVec.ofNat 64 st))) s

end Sys2Proof.Machine
end

