-- ==== Sys2Proof/Machine/Task.lean ====
section
/-! DEFINITION. Tasks: `POST` (R201, R202, R297), and what becomes of its records (R203–R207). -/
namespace Sys2Proof.Machine

/-- The record of a lane (R201, R297). -/
def Ctx.recordOf (c : Ctx) (d : Reg6) (m : Bool) (l : Fin 32) : List Byte :=
  let bs := (List.range 8).flatMap fun j => leBytes ((c.rvn (d.toNat + j))[l]).toNat 4
  let flags : Byte := (bs.getD 2 0 &&& 1) ||| (if m then 1 else 0)
  bs.take 2 ++ [flags, 0, 0, 0, 0, 0] ++ bs.drop 8

def recordLocal (bs : List Byte) : Bool := (bs.getD 2 0).getLsbD 0
def recordData (bs : List Byte) : Dword := dwordOf ((bs.drop 8).take 8)

/-- A core by its module and its number. -/
def Ctx.coreCode (c : Ctx) : Nat := c.s.ownModule * 512 + c.core

/-- The destinations of the records of a `POST` (R202). -/
def Ctx.destinations (c : Ctx) (rs : List (Fin 32 × List Byte)) : Except Stop (Ctx × List (Nat × List Byte)) := do
  let away := rs.filter fun r => !recordLocal r.2 && decide (recordData r.2 ≠ 0)
  let (c, ps) ← c.reach .load false (away.map fun r => (r.1, recordData r.2))
  let core (l : Fin 32) : Nat :=
    match ps.find? fun p => p.lane = l with
    | some p => if inDram p.pa then homeOf p.pa else c.coreCode
    | none => c.coreCode
  .ok (c, rs.map fun r => (core r.1, r.2))

/-- The numbers of records by core, when shards and overflow ring have no room for them (R203). -/
def Ctx.fullShard (c : Ctx) (rs : List (Nat × List Byte)) : Option (List (Nat × Nat)) :=
  let recs := (rs.map (·.1)).eraseDups.map fun k => (k, (rs.filter fun q => q.1 = k).length)
  if c.s.mayPost recs then none else some recs

/-- `POST`'s effect (R297). -/
def postBody (d : Reg6) (m : Bool) (c : Ctx) : Except Stop Ctx := do
  match lowestLane c.g with
  | none => .ok c
  | some f =>
    let kslot (l : Fin 32) : Nat := ((c.rv d)[l]).toNat % 65536
    let bad := maskOf fun l => inMask c.g l && decide (kslot l ≠ kslot f)
    if bad ≠ 0 then raises cUNIFORM (some bad)
    if c.launch.kd.ntask ≤ kslot f then raises cBOUNDS
    let (c, rs) ← c.destinations ((lanesIn c.g).map fun l => (l, c.recordOf d m l))
    if c.level then .ok (rs.foldl (fun c r => c.hold (.record r.2 r.1)) c)
    else if c.stages then rs.foldlM (fun c r => c.stage (.record r.2 r.1)) c
    else match c.fullShard rs with
      | some recs => .error (.waitIn c.s (.post recs))
      | none => do
        let c ← c.release (if rs.any fun r => decide (r.1 / 512 ≠ c.s.ownModule) then 7 else 6)
        let new : List TaskRec := rs.map fun r => { bytes := r.2, core := r.1, launch := c.b.launch, ent := some c.r, cls := c.launch.cls }
        let s := c.s.modLaunch c.b.launch fun x => { x with tasks := x.tasks + new.length }
        let s := s.charge c.core c.launch.prio (32 * new.length)
        .ok { c with s := { s with records := s.records ++ new }, sends := c.sends ++ new.map fun r => r.core / 512 }

/-- `POST` (R297). -/
def execPost (d : BitVec 6) (m : Bool) (gd : Guard) (s : State) : Host.Outcome State Fault Refusal :=
  run (.post d m gd) (postBody d m) s

/-! ### Records on their way -/

/-- A record enters the shard of its core, at the next index (R203). DESIGN CHOICE (log 92): a shard's first record has the arrival count 0 (R204). -/
def State.enterShard (s : State) (core : Nat) (r : TaskRec) : State :=
  let i := (s.core core).shardCount
  let s := s.writeHome (Config.shardPa core (i % s.shardSize core) + 8) r.bytes
  (s.modCore core fun c =>
    { c with shard := c.shard ++ [{ idx := i, bytes := r.bytes, launch := r.launch, level := r.level }], shardCount := i + 1 }).shardHeader
    core i true

/-- Is the slot of the next index free? -/
def State.slotFree (s : State) (core : Nat) : Bool :=
  let c := s.core core
  let size := s.shardSize core
  !(c.shard.any fun r => r.idx % size = c.shardCount % size)

/-- A record goes into the overflow ring of a partition (R203). -/
def State.overflow (s : State) (part : Nat) (r : TaskRec) : Option State :=
  let p := s.part part
  (s.fillSlot p.ptovf p.ovfProd p.ovfWrap r.bytes).map fun s =>
    let n := ringNext p.ovfProd p.ovfWrap
    s.modPart part fun q =>
      { q with ovfProd := n.1, ovfWrap := n.2, held := q.held ++ [(ringSlot p.ptovf p.ovfProd.toNat, p.ovfProd, r)] }

/-- A record reaches its shard: into the next slot, or behind the records held for it, into the overflow ring (R203). One bound for
another module leaves this one (log 46). -/
def State.arriveRecord (s : State) (r : TaskRec) : Option State :=
  if r.core / 512 ≠ s.ownModule then (if (s.usablePorts (r.core / 512)).isEmpty then none else some s) else
  let core := r.core % 512
  let waiting := ((s.partOf core).map fun p => (s.part p).held.any fun h => h.2.2.core = r.core).getD false
  if !waiting && s.slotFree core then some (s.enterShard core r) else (s.partOf core).bind fun p => s.overflow p r

/-- `TASK_RECORD_ARRIVAL` (R203): records of one entity for one shard arrive in the order of their sending (R205). -/
def execTaskRecordArrival (pos : Nat) (s : State) : Host.Outcome State Fault Refusal :=
  event "TASK_RECORD_ARRIVAL" ((s.records[pos]?).bind fun r =>
      if (s.records.take pos).any fun q => q.core = r.core && q.ent = r.ent then none
      else { s with records := s.records.eraseIdx pos }.arriveRecord r)

/-- `OVERFLOW_RECORD_ENTRY` (R203): records for one shard enter it in the order of their arrival. -/
def execOverflowRecordEntry (part pos : Nat) (s : State) : Host.Outcome State Fault Refusal :=
  event "OVERFLOW_RECORD_ENTRY" (((s.part part).held[pos]?).bind fun h =>
      let core := h.2.2.core % 512
      if ((s.part part).held.take pos).any (fun q => q.2.2.core = h.2.2.core) || !s.slotFree core then none
      else
        let s := s.writeHome h.1 (leBytes (2 + ringPhase (s.part part).ptovf h.2.1.toNat) 8)
        some ((s.modPart part fun p => { p with held := p.held.eraseIdx pos }).enterShard core h.2.2))

/-- `TASK_DISPATCH` (R203): the head record of a core's shard starts as a block of one wave. -/
def execTaskDispatch (core q0 : Nat) (s : State) : Host.Outcome State Fault Refusal :=
  event "TASK_DISPATCH" (if core < 288 ∧ q0 < 4 then s.dispatchTask core q0 else none)

end Sys2Proof.Machine
end

