-- ==== Sys2Proof/Machine/Tile.lean ====
section
/-! DEFINITION. Tile instructions (R147–R159). -/
namespace Sys2Proof.Machine

/-- The size of a tile by the field TS of its leaf (R82). -/
def tileSize (ts : BitVec 2) : Nat := 4096 * 4 ^ ts.toNat

/-- The physical address at a tile address, and its leaf's state and TS. -/
def Ctx.tileAt (c : Ctx) (va : Dword) : Except Stop (Ctx × Nat × LeafState × BitVec 2) := do
  let (c, ps) ← c.reach .load true [(0, va)]
  match c.s.translate c.core c.asid va .load with
  | (.ok pa st ts, s) => .ok ({ c with s := s }, pa, st, ts)
  | _ => .ok (c, (ps.head?.map (·.pa)).getD 0, .normal, 0)

/-- The entries of a core's tile table (R148). -/
def State.tileTable (s : State) (core : Nat) : Nat :=
  (s.blocks.map fun p => if p.2.core = core then p.2.tiles.length else 0).sum

/-- A request is made (R147, R156): the wave waits for what the home directory decides; in Level mode it is queued at once and its
request enters the stage (R221). -/
def Ctx.request (c : Ctx) (d : Reg5) (q : TileReq) (va : Dword) : Ctx :=
  let n := c.s.nextReq
  let e : TileEntry :=
    { va := va, pa := q.pa, size := q.size, view := .pending, kind := q.kind, aoff := q.aoff, spc := q.spc }
  let c := { c with b := { c.b with tiles := c.b.tiles ++ [e] } }
  if c.level then
    let q := { q with direct := none, phase := .staged }
    let c := { c with s := { c.s with treqs := tset c.s.treqs n q, nextReq := n + 1 }, b := c.b.modTag q.tag Tag.start }
    (c.hold (.tacq n)).ws d 1
  else { c with s := { c.s with treqs := tset c.s.treqs n q, nextReq := n + 1 }, post := some .tile, sends := c.sends ++ [moduleOf q.pa] }

/-- The entry stays: it is not a refused or delivered one of the tile. -/
def TileEntry.doneAt (pa : Nat) (t : TileEntry) : Bool := decide (¬ (t.pa = pa ∧ (t.view = .refused ∨ t.view = .delivered)))

/-- `TACQ`'s effect (R156). -/
def tacqBody (d a : Reg5) (tag : Nat) (red : BitVec 2) (snap : Bool) (c : Ctx) : Except Stop Ctx := do
  let va := c.rs a
  let aoff := (c.rs (a + 1)).toNat
  let (c, pa, st, ts) ← c.tileAt va
  let size := tileSize ts
  if st ≠ .nclass then raises cNCLASS
  if va.toNat % size ≠ 0 then raises cALIGN
  if aoff % 64 ≠ 0 ∨ c.b.aslice.len < aoff + size then raises cBOUNDS
  if c.b.tags.length ≤ tag then raises cTAGERR
  -- a later request of the tile frees its refused or delivered entry (R159)
  let c := { c with b := { c.b with tiles := c.b.tiles.filter (TileEntry.doneAt pa) } }
  -- in Level mode `TACQ` always queues (R221). DEDUCED (log 87): a request that would be HELD or LIMIT outside it goes to its home
  if !c.level && (c.b.tile pa).isSome then .ok (c.ws d 4)
  else if !c.level && (decide (8 ≤ c.b.tiles.length) || decide (32 ≤ c.put.tileTable c.core)) then .ok (c.ws d 3)
  else if c.level && decide (255 ≤ (c.b.tags.getD tag {}).pending) then .error (.wait (.copySlot tag false))
  else .ok (c.request d { blk := c.r.blk, pa := pa, size := size, excl := !snap, kind := red, aoff := aoff, tag := tag, spc := c.rsc
                          direct := some (c.r, d), via := c.s.viaOf c.core c.asid va.toNat, cls := c.launch.cls } va)

/-- `TREL`'s effect (R157). -/
def trelBody (d a : Reg5) (c : Ctx) : Except Stop Ctx := do
  let (c, pa, _, _) ← c.tileAt (c.rs a)
  match c.b.heldTile pa with
  | none => .ok (c.ws d 5)
  | some t =>
    if c.level && c.heldSeen.any (fun h => match h with
        | .trel a _ => decide (a = pa)
        | _ => false) then .ok (c.ws d 5)
    else if c.level then .ok ((c.hold (.trel pa (c.s.viaOf c.core c.asid (c.rs a).toNat))).ws d 0)
    else if (c.b.sur.map (·.2.tile)) = some pa then .error (.wait .surrender)
    else do
      let c ← c.release 6
      -- it completes when the home has acknowledged the fold
      let c := c.onState fun s => s.releaseTile c.r.blk pa
      .ok { c.ws d 0 with post := if c.s.foldDue pa t.size then some (.fold pa t.size) else c.post, sends := c.sends ++ [moduleOf pa] }

/-- `TACQ` (R156). -/
def execTacq (d a : BitVec 5) (t : BitVec 6) (r : BitVec 2) (k : Bool) (s : State) : Host.Outcome State Fault Refusal :=
  run (.tacq d a t r k) (tacqBody d a t.toNat r k) s

/-- `TREL` (R157). -/
def execTrel (d a : BitVec 5) (s : State) : Host.Outcome State Fault Refusal :=
  run (.trel d a) (trelBody d a) s

/-- `CEDE` (R153). -/
def execCede (o : BitVec 2) (s : State) : Host.Outcome State Fault Refusal :=
  run (.cede o) (fun c =>
      if !c.isSurrender then raises cNCLASS
      else if c.s.outstanding c.core c.r.blk c.r.slot then .error (.wait .drain)
      else
        let s := c.put.etch c.r c.e.pc [pktEnd 0]
        .ok { c with s := s.cede c.r.blk o, gone := true }) s

/-- `TSTAT` (R159). -/
def execTstat (d a : BitVec 5) (s : State) : Host.Outcome State Fault Refusal :=
  run (.tstat d a) (fun c => do
      let (c, pa, _, _) ← c.tileAt (c.rs a)
      match c.b.tile pa with
      | none => .ok (c.ws d 0)
      | some t =>
        let st : Nat := match t.view with
          | .held => 1
          | .pending => 2
          | .refused => 3
          | .delivered => 4
        let held := decide (t.view = .held)
        let v := st + (if held then t.refusals * 8 + t.kind.toNat * 64 else 0)
        let keep := held || decide (t.view = .pending)
        let c := { c with b := { c.b with tiles := if keep then c.b.tiles else c.b.tiles.filter fun u => u.pa ≠ pa } }
        .ok (c.ws d (BitVec.ofNat 64 v))) s

end Sys2Proof.Machine
end

