-- ==== Sys2Proof/Machine/Vector.lean ====
section
/-! DEFINITION. Vector integer instructions (R256–R264): 32 bits modulo 2^32, lane by lane under the guard. -/
namespace Sys2Proof.Machine

/-- A two-source integer operation (Table 11.4). -/
def vecBin (d a b : Reg6) (f : Word → Word → Word) : Ctx → Except Stop Ctx :=
  vecOp d fun c l => f (c.rv a)[l] (c.rv b)[l]

/-- A one-source integer operation. -/
def vecUn (d a : Reg6) (f : Word → Word) : Ctx → Except Stop Ctx := vecOp d fun c l => f (c.rv a)[l]

/-- The high 32 bits of the signed product. -/
def mulHigh32 (x y : Word) : Word := BitVec.ofInt 32 (x.toInt * y.toInt / 2 ^ 32)

/-- The carry or borrow into a lane (R257). -/
def Ctx.carryIn (c : Ctx) (l : Fin 32) : Nat :=
  match c.x.vc with
  | some r => (c.rv r)[l].toNat % 2
  | none => 0

/-- Leading zeros of a word, 0–32. -/
def clz32 (x : Word) : Nat := if x = 0 then 32 else 31 - x.toNat.log2

/-- The number of one bits of a word. -/
def popc32 (x : Word) : Nat := maskCount x

/-- pos and w of a bit-field group (R261). -/
def Ctx.bitField (c : Ctx) : Nat × Nat :=
  let p := (c.x.imm 0 0).toNat
  (p % 32, min (p / 32 % 64) (32 - p % 32))

/-- A field of `w` bits extracted, zero- or sign-extended. -/
def extractField (signed : Bool) (x : Word) (pos w : Nat) : Word :=
  if w = 0 then 0
  else if signed then BitVec.ofInt 32 (sextInt (x.toNat / 2 ^ pos) w) else BitVec.ofNat 32 (x.toNat / 2 ^ pos % 2 ^ w)

/-- A field of `w` bits of `old` replaced by the low bits of x. -/
def insertField (old x : Word) (pos w : Nat) : Word :=
  if w = 0 then old else BitVec.ofNat 32 (natSet old.toNat (pos + w - 1) pos x.toNat)

/-- `VADD` (R256). -/
def execVadd (d a b : BitVec 6) (la lb : Bool) (gd : Guard) (s : State) : Host.Outcome State Fault Refusal :=
  run (.vadd d a b la lb gd) (vecBin d a b fun x y => x + y) s

/-- `VSUB` (R256). -/
def execVsub (d a b : BitVec 6) (la lb : Bool) (gd : Guard) (s : State) : Host.Outcome State Fault Refusal :=
  run (.vsub d a b la lb gd) (vecBin d a b fun x y => x - y) s

/-- `VMUL` (R256). -/
def execVmul (d a b : BitVec 6) (la lb : Bool) (gd : Guard) (s : State) : Host.Outcome State Fault Refusal :=
  run (.vmul d a b la lb gd) (vecBin d a b fun x y => x * y) s

/-- `VMULH` (R256). -/
def execVmulh (d a b : BitVec 6) (la lb : Bool) (gd : Guard) (s : State) : Host.Outcome State Fault Refusal :=
  run (.vmulh d a b la lb gd) (vecBin d a b mulHigh32) s

/-- `VAND` (R256). -/
def execVand (d a b : BitVec 6) (la lb : Bool) (gd : Guard) (s : State) : Host.Outcome State Fault Refusal :=
  run (.vand d a b la lb gd) (vecBin d a b fun x y => x &&& y) s

/-- `VOR` (R256). -/
def execVor (d a b : BitVec 6) (la lb : Bool) (gd : Guard) (s : State) : Host.Outcome State Fault Refusal :=
  run (.vor d a b la lb gd) (vecBin d a b fun x y => x ||| y) s

/-- `VXOR` (R256). -/
def execVxor (d a b : BitVec 6) (la lb : Bool) (gd : Guard) (s : State) : Host.Outcome State Fault Refusal :=
  run (.vxor d a b la lb gd) (vecBin d a b fun x y => x ^^^ y) s

/-- `VSHL` (R256). -/
def execVshl (d a b : BitVec 6) (la lb : Bool) (gd : Guard) (s : State) : Host.Outcome State Fault Refusal :=
  run (.vshl d a b la lb gd) (vecBin d a b fun x y => shl x y.toNat) s

/-- `VSHR` (R256). -/
def execVshr (d a b : BitVec 6) (la lb : Bool) (gd : Guard) (s : State) : Host.Outcome State Fault Refusal :=
  run (.vshr d a b la lb gd) (vecBin d a b fun x y => shr x y.toNat) s

/-- `VSAR` (R256). -/
def execVsar (d a b : BitVec 6) (la lb : Bool) (gd : Guard) (s : State) : Host.Outcome State Fault Refusal :=
  run (.vsar d a b la lb gd) (vecBin d a b fun x y => sar x y.toNat) s

/-- `VMIN` (R256). -/
def execVmin (d a b : BitVec 6) (la lb : Bool) (gd : Guard) (s : State) : Host.Outcome State Fault Refusal :=
  run (.vmin d a b la lb gd) (vecBin d a b (pick false false)) s

/-- `VMAX` (R256). -/
def execVmax (d a b : BitVec 6) (la lb : Bool) (gd : Guard) (s : State) : Host.Outcome State Fault Refusal :=
  run (.vmax d a b la lb gd) (vecBin d a b (pick false true)) s

/-- `VMINN` (R256). -/
def execVminn (d a b : BitVec 6) (la lb : Bool) (gd : Guard) (s : State) : Host.Outcome State Fault Refusal :=
  run (.vminn d a b la lb gd) (vecBin d a b (pick true false)) s

/-- `VMAXN` (R256). -/
def execVmaxn (d a b : BitVec 6) (la lb : Bool) (gd : Guard) (s : State) : Host.Outcome State Fault Refusal :=
  run (.vmaxn d a b la lb gd) (vecBin d a b (pick true true)) s

/-- `VADDC` (R257): the sum in d, the carry out in d + 1. -/
def execVaddc (d a b : BitVec 6) (la lb : Bool) (gd : Guard) (s : State) : Host.Outcome State Fault Refusal :=
  run (.vaddc d a b la lb gd) (vecOp2 d fun c l =>
      let t := (c.rv a)[l].toNat + (c.rv b)[l].toNat + c.carryIn l
      BitVec.ofNat 64 t) s

/-- `VSUBB` (R257): the difference in d, the borrow out in d + 1. -/
def execVsubb (d a b : BitVec 6) (la lb : Bool) (gd : Guard) (s : State) : Host.Outcome State Fault Refusal :=
  run (.vsubb d a b la lb gd) (vecOp2 d fun c l =>
      let A := (c.rv a)[l]
      let k := (c.rv b)[l].toNat + c.carryIn l
      (if A.toNat < k then 1#32 else 0#32) ++ (A - BitVec.ofNat 32 k)) s

/-- `VADDI` (R258). -/
def execVaddi (d a : BitVec 6) (i : BitVec 8) (gd : Guard) (s : State) : Host.Outcome State Fault Refusal :=
  run (.vaddi d a i gd) (vecOp d fun c l => (c.rv a)[l] + BitVec.ofInt 32 (c.x.imm i.toNat 8)) s

/-- `VSHLI` (R258). -/
def execVshli (d a : BitVec 6) (i : BitVec 8) (gd : Guard) (s : State) : Host.Outcome State Fault Refusal :=
  run (.vshli d a i gd) (vecUn d a fun x => shl x i.toNat) s

/-- `VSHRI` (R258). -/
def execVshri (d a : BitVec 6) (i : BitVec 8) (gd : Guard) (s : State) : Host.Outcome State Fault Refusal :=
  run (.vshri d a i gd) (vecUn d a fun x => shr x i.toNat) s

/-- `VSARI` (R258). -/
def execVsari (d a : BitVec 6) (i : BitVec 8) (gd : Guard) (s : State) : Host.Outcome State Fault Refusal :=
  run (.vsari d a i gd) (vecUn d a fun x => sar x i.toNat) s

/-- `VANDI` (R258). -/
def execVandi (d a : BitVec 6) (i : BitVec 8) (gd : Guard) (s : State) : Host.Outcome State Fault Refusal :=
  run (.vandi d a i gd) (vecOp d fun c l => (c.rv a)[l] &&& BitVec.ofInt 32 (c.x.imm i.toNat 8)) s

/-- `VMOVI` (R259). -/
def execVmovi (d : BitVec 6) (i : BitVec 14) (gd : Guard) (s : State) : Host.Outcome State Fault Refusal :=
  run (.vmovi d i gd) (vecOp d fun c _ => BitVec.ofInt 32 (c.x.imm i.toNat 14)) s

/-- `VNOT` (R260). -/
def execVnot (d a : BitVec 6) (la : Bool) (gd : Guard) (s : State) : Host.Outcome State Fault Refusal :=
  run (.vnot d a la gd) (vecUn d a fun x => ~~~ x) s

/-- `VNEG` (R260). -/
def execVneg (d a : BitVec 6) (la : Bool) (gd : Guard) (s : State) : Host.Outcome State Fault Refusal :=
  run (.vneg d a la gd) (vecUn d a fun x => 0 - x) s

/-- `VABS` (R260). -/
def execVabs (d a : BitVec 6) (la : Bool) (gd : Guard) (s : State) : Host.Outcome State Fault Refusal :=
  run (.vabs d a la gd) (vecUn d a fun x => if x.toInt < 0 then 0 - x else x) s

/-- `VCLZ` (R260). -/
def execVclz (d a : BitVec 6) (la : Bool) (gd : Guard) (s : State) : Host.Outcome State Fault Refusal :=
  run (.vclz d a la gd) (vecUn d a fun x => BitVec.ofNat 32 (clz32 x)) s

/-- `VPOPC` (R260). -/
def execVpopc (d a : BitVec 6) (la : Bool) (gd : Guard) (s : State) : Host.Outcome State Fault Refusal :=
  run (.vpopc d a la gd) (vecUn d a fun x => BitVec.ofNat 32 (popc32 x)) s

/-- `VMOV` (R260). -/
def execVmov (d a : BitVec 6) (la : Bool) (gd : Guard) (s : State) : Host.Outcome State Fault Refusal :=
  run (.vmov d a la gd) (vecUn d a id) s

/-- `VBFE` (R261). -/
def execVbfe (d a : BitVec 6) (la m : Bool) (gd : Guard) (s : State) : Host.Outcome State Fault Refusal :=
  run (.vbfe d a la m gd) (vecOp d fun c l => extractField m (c.rv a)[l] c.bitField.1 c.bitField.2) s

/-- `VBFI` (R261): the other bits of the destination are kept. -/
def execVbfi (d a : BitVec 6) (la : Bool) (gd : Guard) (s : State) : Host.Outcome State Fault Refusal :=
  run (.vbfi d a la gd) (vecOp d fun c l => insertField (c.rv d)[l] (c.rv a)[l] c.bitField.1 c.bitField.2) s

/-- `VSEL` (R262): the guard selects; every active lane writes. -/
def execVsel (d a b : BitVec 6) (la lb : Bool) (gd : Guard) (s : State) : Host.Outcome State Fault Refusal :=
  run (.vsel d a b la lb gd) (fun c => c.wv d.toNat c.e.xm fun l => if inMask c.g l then (c.rv a)[l] else (c.rv b)[l]) s

/-- `VMAD` (R263). -/
def execVmad (d a b : BitVec 6) (la lb : Bool) (gd : Guard) (s : State) : Host.Outcome State Fault Refusal :=
  run (.vmad d a b la lb gd) (vecOp d fun c l => (c.rv a)[l] * (c.rv b)[l] + (c.rv c.vcReg)[l]) s

/-- `VLEA` (R264). -/
def execVlea (d a : BitVec 6) (s : BitVec 5) (h : BitVec 3) (gd : Guard) (st : State) : Host.Outcome State Fault Refusal :=
  run (.vlea d a s h gd) (vecOp2 d fun c l => c.rs s + ((c.rv a)[l].signExtend 64 <<< h.toNat)) st

end Sys2Proof.Machine
end

