-- ==== Sys2Proof/Machine/Waiting.lean ====
section
/-! DEFINITION. Events that end waits: wake conditions (R178), grants of entries (R177), barriers (R293, R294) and naps (R292). -/
namespace Sys2Proof.Machine

/-- An entity with its block and wave. -/
def State.find (s : State) (r : EntRef) : Option (Block × Wave × Entity) :=
  (tget s.blocks r.blk).bind fun b => (b.wave r.slot).bind fun w => (w.entity r.frag).map fun e => (b, w, e)

/-- `WAKE_CONDITION_MET` (R178): the entity's group issues again. -/
def execWakeConditionMet (ent : EntRef) (s : State) : Host.Outcome State Fault Refusal :=
  event "WAKE_CONDITION_MET" ((s.find ent).bind fun x =>
      if (x.1.res = .resident ∨ ent.slot = 16) ∧ s.mayWake x.1 ent x.2.1 x.2.2 = true then some (s.modEntity ent fun e => { e with wait := none }) else none)

/-- `REGISTER_GRANT` (R177): to the entity that has waited longest with the oldest wave. -/
def execRegisterGrant (core quad : Nat) (s : State) : Host.Outcome State Fault Refusal :=
  event "REGISTER_GRANT" (if core < 288 ∧ quad < 4 then s.grantEntries core quad else none)

/-- `BARRIER_COMPLETION` (R293): every waiting wave goes on with its next word. -/
def execBarrierCompletion (blk : Nat) (s : State) : Host.Outcome State Fault Refusal :=
  event "BARRIER_COMPLETION" ((tget s.blocks blk).bind fun b =>
      s.blockBarrier blk b)

/-- `COHORT_BARRIER_COMPLETION` (R294): the waves of the member blocks go on. -/
def execCohortBarrierCompletion (launch cohort : Nat) (s : State) : Host.Outcome State Fault Refusal :=
  event "COHORT_BARRIER_COMPLETION" (if cohort < 256 then (s.cohortBarrier launch (BitVec.ofNat 8 cohort)).or (s.levelCohort launch (BitVec.ofNat 8 cohort)) else none)

/-- `NAP_EXPIRY` (R292): the entity may issue again. -/
def execNapExpiry (ent : EntRef) (s : State) : Host.Outcome State Fault Refusal :=
  event "NAP_EXPIRY" ((s.find ent).bind fun x =>
      if x.2.2.napEnd ≠ 0 ∧ x.2.2.napEnd ≤ s.now then some (s.modEntity ent fun e => { e with napEnd := 0 }) else none)

end Sys2Proof.Machine
end

