-- ==== Sys2Proof/Machine/Dispatch.lean ====
section
/-! DEFINITION. The dispatch of each instruction and event to its one meaning. -/
namespace Sys2Proof.Machine

/-- The meaning of an instruction or event at a state. -/
def exec (i : Instr) (s : State) : Host.Outcome State Fault Refusal :=
  match i with
  | .bra m k n o => Sys2Proof.Machine.execBra m k n o s
  | .call d im => Sys2Proof.Machine.execCall d im s
  | .jmps a => Sys2Proof.Machine.execJmps a s
  | .calls d a => Sys2Proof.Machine.execCalls d a s
  | .ret a => Sys2Proof.Machine.execRet a s
  | .exit => Sys2Proof.Machine.execExit s
  | .rejoin => Sys2Proof.Machine.execRejoin s
  | .isync => Sys2Proof.Machine.execIsync s
  | .nap a => Sys2Proof.Machine.execNap a s
  | .bar => Sys2Proof.Machine.execBar s
  | .cbar a => Sys2Proof.Machine.execCbar a s
  | .post d m gd => Sys2Proof.Machine.execPost d m gd s
  | .sadd d a b im => Sys2Proof.Machine.execSadd d a b im s
  | .ssub d a b im => Sys2Proof.Machine.execSsub d a b im s
  | .smul d a b im => Sys2Proof.Machine.execSmul d a b im s
  | .smulh d a b im u => Sys2Proof.Machine.execSmulh d a b im u s
  | .sand d a b im => Sys2Proof.Machine.execSand d a b im s
  | .sor d a b im => Sys2Proof.Machine.execSor d a b im s
  | .sxor d a b im => Sys2Proof.Machine.execSxor d a b im s
  | .sshl d a b im => Sys2Proof.Machine.execSshl d a b im s
  | .sshr d a b im => Sys2Proof.Machine.execSshr d a b im s
  | .ssar d a b im => Sys2Proof.Machine.execSsar d a b im s
  | .smin d a b im u => Sys2Proof.Machine.execSmin d a b im u s
  | .smax d a b im u => Sys2Proof.Machine.execSmax d a b im u s
  | .scmp d a b im c => Sys2Proof.Machine.execScmp d a b im c s
  | .ssel d a b im => Sys2Proof.Machine.execSsel d a b im s
  | .smov d a => Sys2Proof.Machine.execSmov d a s
  | .slea d a b im c => Sys2Proof.Machine.execSlea d a b im c s
  | .smovi d im => Sys2Proof.Machine.execSmovi d im s
  | .sld d a w p => Sys2Proof.Machine.execSld d a w p s
  | .sst a b w p => Sys2Proof.Machine.execSst a b w p s
  | .srd d v n => Sys2Proof.Machine.execSrd d v n s
  | .swr a n => Sys2Proof.Machine.execSwr a n s
  | .vadd d a b la lb gd => Sys2Proof.Machine.execVadd d a b la lb gd s
  | .vsub d a b la lb gd => Sys2Proof.Machine.execVsub d a b la lb gd s
  | .vmul d a b la lb gd => Sys2Proof.Machine.execVmul d a b la lb gd s
  | .vmulh d a b la lb gd => Sys2Proof.Machine.execVmulh d a b la lb gd s
  | .vand d a b la lb gd => Sys2Proof.Machine.execVand d a b la lb gd s
  | .vor d a b la lb gd => Sys2Proof.Machine.execVor d a b la lb gd s
  | .vxor d a b la lb gd => Sys2Proof.Machine.execVxor d a b la lb gd s
  | .vshl d a b la lb gd => Sys2Proof.Machine.execVshl d a b la lb gd s
  | .vshr d a b la lb gd => Sys2Proof.Machine.execVshr d a b la lb gd s
  | .vsar d a b la lb gd => Sys2Proof.Machine.execVsar d a b la lb gd s
  | .vmin d a b la lb gd => Sys2Proof.Machine.execVmin d a b la lb gd s
  | .vmax d a b la lb gd => Sys2Proof.Machine.execVmax d a b la lb gd s
  | .vminn d a b la lb gd => Sys2Proof.Machine.execVminn d a b la lb gd s
  | .vmaxn d a b la lb gd => Sys2Proof.Machine.execVmaxn d a b la lb gd s
  | .vaddc d a b la lb gd => Sys2Proof.Machine.execVaddc d a b la lb gd s
  | .vsubb d a b la lb gd => Sys2Proof.Machine.execVsubb d a b la lb gd s
  | .vaddi d a im gd => Sys2Proof.Machine.execVaddi d a im gd s
  | .vshli d a im gd => Sys2Proof.Machine.execVshli d a im gd s
  | .vshri d a im gd => Sys2Proof.Machine.execVshri d a im gd s
  | .vsari d a im gd => Sys2Proof.Machine.execVsari d a im gd s
  | .vandi d a im gd => Sys2Proof.Machine.execVandi d a im gd s
  | .vmovi d im gd => Sys2Proof.Machine.execVmovi d im gd s
  | .vnot d a la gd => Sys2Proof.Machine.execVnot d a la gd s
  | .vneg d a la gd => Sys2Proof.Machine.execVneg d a la gd s
  | .vabs d a la gd => Sys2Proof.Machine.execVabs d a la gd s
  | .vclz d a la gd => Sys2Proof.Machine.execVclz d a la gd s
  | .vpopc d a la gd => Sys2Proof.Machine.execVpopc d a la gd s
  | .vmov d a la gd => Sys2Proof.Machine.execVmov d a la gd s
  | .vbfe d a la m gd => Sys2Proof.Machine.execVbfe d a la m gd s
  | .vbfi d a la gd => Sys2Proof.Machine.execVbfi d a la gd s
  | .vsel d a b la lb gd => Sys2Proof.Machine.execVsel d a b la lb gd s
  | .vmad d a b la lb gd => Sys2Proof.Machine.execVmad d a b la lb gd s
  | .vlea d a sr h gd => Sys2Proof.Machine.execVlea d a sr h gd s
  | .vcmp k c a b gd => Sys2Proof.Machine.execVcmp k c a b gd s
  | .fcmp k c a b gd => Sys2Proof.Machine.execFcmp k c a b gd s
  | .pand d a b x gd => Sys2Proof.Machine.execPand d a b x gd s
  | .por d a b x gd => Sys2Proof.Machine.execPor d a b x gd s
  | .pxor d a b x gd => Sys2Proof.Machine.execPxor d a b x gd s
  | .pnot d a gd => Sys2Proof.Machine.execPnot d a gd s
  | .pset d x gd => Sys2Proof.Machine.execPset d x gd s
  | .ktov k r gd => Sys2Proof.Machine.execKtov k r gd s
  | .vtok k r gd => Sys2Proof.Machine.execVtok k r gd s
  | .ktos k r gd => Sys2Proof.Machine.execKtos k r gd s
  | .stok k r gd => Sys2Proof.Machine.execStok k r gd s
  | .pcnt k r gd => Sys2Proof.Machine.execPcnt k r gd s
  | .xmget r => Sys2Proof.Machine.execXmget r s
  | .xmset r => Sys2Proof.Machine.execXmset r s
  | .vmatch k c a gd => Sys2Proof.Machine.execVmatch k c a gd s
  | .fadd d a b la lb gd => Sys2Proof.Machine.execFadd d a b la lb gd s
  | .fsub d a b la lb gd => Sys2Proof.Machine.execFsub d a b la lb gd s
  | .fmul d a b la lb gd => Sys2Proof.Machine.execFmul d a b la lb gd s
  | .ffma d a b la lb gd => Sys2Proof.Machine.execFfma d a b la lb gd s
  | .fmin d a b la lb gd => Sys2Proof.Machine.execFmin d a b la lb gd s
  | .fmax d a b la lb gd => Sys2Proof.Machine.execFmax d a b la lb gd s
  | .fabs d a la m gd => Sys2Proof.Machine.execFabs d a la m gd s
  | .fneg d a la m gd => Sys2Proof.Machine.execFneg d a la m gd s
  | .frcp d a la m gd => Sys2Proof.Machine.execFrcp d a la m gd s
  | .frsq d a la m gd => Sys2Proof.Machine.execFrsq d a la m gd s
  | .fsqrt d a la m gd => Sys2Proof.Machine.execFsqrt d a la m gd s
  | .fexp2 d a la gd => Sys2Proof.Machine.execFexp2 d a la gd s
  | .flog2 d a la gd => Sys2Proof.Machine.execFlog2 d a la gd s
  | .fsin d a la gd => Sys2Proof.Machine.execFsin d a la gd s
  | .fcos d a la gd => Sys2Proof.Machine.execFcos d a la gd s
  | .frnd d a la m gd => Sys2Proof.Machine.execFrnd d a la m gd s
  | .fclass d a la m gd => Sys2Proof.Machine.execFclass d a la m gd s
  | .fdiv d a b la lb gd => Sys2Proof.Machine.execFdiv d a b la lb gd s
  | .hadd d a b la lb gd => Sys2Proof.Machine.execHadd d a b la lb gd s
  | .hsub d a b la lb gd => Sys2Proof.Machine.execHsub d a b la lb gd s
  | .hmul d a b la lb gd => Sys2Proof.Machine.execHmul d a b la lb gd s
  | .hfma d a b la lb gd => Sys2Proof.Machine.execHfma d a b la lb gd s
  | .hmin d a b la lb gd => Sys2Proof.Machine.execHmin d a b la lb gd s
  | .hmax d a b la lb gd => Sys2Proof.Machine.execHmax d a b la lb gd s
  | .badd d a b la lb gd => Sys2Proof.Machine.execBadd d a b la lb gd s
  | .bsub d a b la lb gd => Sys2Proof.Machine.execBsub d a b la lb gd s
  | .bmul d a b la lb gd => Sys2Proof.Machine.execBmul d a b la lb gd s
  | .bfma d a b la lb gd => Sys2Proof.Machine.execBfma d a b la lb gd s
  | .bmin d a b la lb gd => Sys2Proof.Machine.execBmin d a b la lb gd s
  | .bmax d a b la lb gd => Sys2Proof.Machine.execBmax d a b la lb gd s
  | .dadd d a b la lb gd => Sys2Proof.Machine.execDadd d a b la lb gd s
  | .dsub d a b la lb gd => Sys2Proof.Machine.execDsub d a b la lb gd s
  | .dmul d a b la lb gd => Sys2Proof.Machine.execDmul d a b la lb gd s
  | .dfma d a b la lb gd => Sys2Proof.Machine.execDfma d a b la lb gd s
  | .cvt d a c p la m gd => Sys2Proof.Machine.execCvt d a c p la m gd s
  | .cvts d a b la lb gd => Sys2Proof.Machine.execCvts d a b la lb gd s
  | .pack d a b la lb gd => Sys2Proof.Machine.execPack d a b la lb gd s
  | .unpk d a c p la gd => Sys2Proof.Machine.execUnpk d a c p la gd s
  | .rnd d a sr la m gd => Sys2Proof.Machine.execRnd d a sr la m gd s
  | .rslice d a w la m gd => Sys2Proof.Machine.execRslice d a w la m gd s
  | .rbern k c a b gd => Sys2Proof.Machine.execRbern k c a b gd s
  | .rkey a => Sys2Proof.Machine.execRkey a s
  | .shfl d a b la lb gd => Sys2Proof.Machine.execShfl d a b la lb gd s
  | .shfx d a im gd => Sys2Proof.Machine.execShfx d a im gd s
  | .shfu d a im gd => Sys2Proof.Machine.execShfu d a im gd s
  | .shfd d a im gd => Sys2Proof.Machine.execShfd d a im gd s
  | .bcst d a sr x gd => Sys2Proof.Machine.execBcst d a sr x gd s
  | .rdfl k a sr w gd => Sys2Proof.Machine.execRdfl k a sr w gd s
  | .vred d a f la gd => Sys2Proof.Machine.execVred d a f la gd s
  | .vscan d a f la e gd => Sys2Proof.Machine.execVscan d a f la e gd s
  | .ld d p q im sr w gd => Sys2Proof.Machine.execLd d p q im sr w gd s
  | .st d p q im sr w gd => Sys2Proof.Machine.execSt d p q im sr w gd s
  | .lda d p q im sr w gd => Sys2Proof.Machine.execLda d p q im sr w gd s
  | .sta d p q im sr w gd => Sys2Proof.Machine.execSta d p q im sr w gd s
  | .ldw d p q im sr w gd => Sys2Proof.Machine.execLdw d p q im sr w gd s
  | .stw d p q im sr w gd => Sys2Proof.Machine.execStw d p q im sr w gd s
  | .ldc d p q im sr w gd => Sys2Proof.Machine.execLdc d p q im sr w gd s
  | .stc d p q im sr w gd => Sys2Proof.Machine.execStc d p q im sr w gd s
  | .ldt d a sr w gd => Sys2Proof.Machine.execLdt d a sr w gd s
  | .stt d a sr w gd => Sys2Proof.Machine.execStt d a sr w gd s
  | .pref d p q im sr gd => Sys2Proof.Machine.execPref d p q im sr gd s
  | .cflush d p q im sr gd => Sys2Proof.Machine.execCflush d p q im sr gd s
  | .cinv d p q im sr gd => Sys2Proof.Machine.execCinv d p q im sr gd s
  | .tidset a t => Sys2Proof.Machine.execTidset a t s
  | .tidget a t => Sys2Proof.Machine.execTidget a t s
  | .tidinv t => Sys2Proof.Machine.execTidinv t s
  | .atom d a f t la m gd => Sys2Proof.Machine.execAtom d a f t la m gd s
  | .red d a f t la m gd => Sys2Proof.Machine.execRed d a f t la m gd s
  | .atoma d a f t la gd => Sys2Proof.Machine.execAtoma d a f t la gd s
  | .fence o sr => Sys2Proof.Machine.execFence o sr s
  | .bsrd d r => Sys2Proof.Machine.execBsrd d r s
  | .bswr a r => Sys2Proof.Machine.execBswr a r s
  | .bsxch d a r => Sys2Proof.Machine.execBsxch d a r s
  | .bsadd d a r => Sys2Proof.Machine.execBsadd d a r s
  | .cpy sr g => Sys2Proof.Machine.execCpy sr g s
  | .cpyt sr t g p r => Sys2Proof.Machine.execCpyt sr t g p r s
  | .tgwait a => Sys2Proof.Machine.execTgwait a s
  | .tgany a => Sys2Proof.Machine.execTgany a s
  | .tgfind d a => Sys2Proof.Machine.execTgfind d a s
  | .tgclr a => Sys2Proof.Machine.execTgclr a s
  | .tgtest d a e => Sys2Proof.Machine.execTgtest d a e s
  | .ridx d a b => Sys2Proof.Machine.execRidx d a b s
  | .rwait a b f p c => Sys2Proof.Machine.execRwait a b f p c s
  | .rflip a b f p c => Sys2Proof.Machine.execRflip a b f p c s
  | .tacq d a t r k => Sys2Proof.Machine.execTacq d a t r k s
  | .trel d a => Sys2Proof.Machine.execTrel d a s
  | .cede o => Sys2Proof.Machine.execCede o s
  | .tstat d a => Sys2Proof.Machine.execTstat d a s
  | .mld d r c sr gd => Sys2Proof.Machine.execMld d r c sr gd s
  | .mldA d r c sr gd => Sys2Proof.Machine.execMldA d r c sr gd s
  | .mst a sr gd => Sys2Proof.Machine.execMst a sr gd s
  | .mstA a sr gd => Sys2Proof.Machine.execMstA a sr gd s
  | .mmov d a gd => Sys2Proof.Machine.execMmov d a gd s
  | .mget im a j v gd => Sys2Proof.Machine.execMget im a j v gd s
  | .mset d im j v gd => Sys2Proof.Machine.execMset d im j v gd s
  | .mzero d r c gd => Sys2Proof.Machine.execMzero d r c gd s
  | .mident d r c gd => Sys2Proof.Machine.execMident d r c gd s
  | .mtrn d a gd => Sys2Proof.Machine.execMtrn d a gd s
  | .madd d a b gd => Sys2Proof.Machine.execMadd d a b gd s
  | .msub d a b gd => Sys2Proof.Machine.execMsub d a b gd s
  | .mscl d a v gd => Sys2Proof.Machine.execMscl d a v gd s
  | .mmul d a b gd => Sys2Proof.Machine.execMmul d a b gd s
  | .mmult d a b gd => Sys2Proof.Machine.execMmult d a b gd s
  | .mfma d a b c gd => Sys2Proof.Machine.execMfma d a b c gd s
  | .mchol d a gd => Sys2Proof.Machine.execMchol d a gd s
  | .mlu d a v gd => Sys2Proof.Machine.execMlu d a v gd s
  | .msolve d a b m gd => Sys2Proof.Machine.execMsolve d a b m gd s
  | .mflg m k gd => Sys2Proof.Machine.execMflg m k gd s
  | .gcmd d a b => Sys2Proof.Machine.execGcmd d a b s
  | .grdy => Sys2Proof.Machine.execGrdy s
  | .gfence d => Sys2Proof.Machine.execGfence d s
  | .gwait a => Sys2Proof.Machine.execGwait a s
  | .gwin a b => Sys2Proof.Machine.execGwin a b s
  | .gctr d a => Sys2Proof.Machine.execGctr d a s
  | .gclr a => Sys2Proof.Machine.execGclr a s
  | .gqry d b => Sys2Proof.Machine.execGqry d b s
  | .vapp d a la m gd => Sys2Proof.Machine.execVapp d a la m gd s
  | .vseal d a la gd => Sys2Proof.Machine.execVseal d a la gd s
  | .vconn d a la gd => Sys2Proof.Machine.execVconn d a la gd s
  | .vmerge d a la gd => Sys2Proof.Machine.execVmerge d a la gd s
  | .vrwt d a la gd => Sys2Proof.Machine.execVrwt d a la gd s
  | .vget d a la gd => Sys2Proof.Machine.execVget d a la gd s
  | .vref d a la gd => Sys2Proof.Machine.execVref d a la gd s
  | .vrel d a la gd => Sys2Proof.Machine.execVrel d a la gd s
  | .vgen d a la gd => Sys2Proof.Machine.execVgen d a la gd s
  | .trace d a la m gd => Sys2Proof.Machine.execTrace d a la m gd s
  | .traceAny d a la m gd => Sys2Proof.Machine.execTraceAny d a la m gd s
  | .hitget d a la gd => Sys2Proof.Machine.execHitget d a la gd s
  | .trap c => Sys2Proof.Machine.execTrap c s
  | .tret => Sys2Proof.Machine.execTret s
  | .cclr a => Sys2Proof.Machine.execCclr a s
  | .resv d => Sys2Proof.Machine.execResv d s
  | .lvq => Sys2Proof.Machine.execLvq s
  | .lvqSeg => Sys2Proof.Machine.execLvqSeg s
  | .mark d a b => Sys2Proof.Machine.execMark d a b s
  | .hctr d a => Sys2Proof.Machine.execHctr d a s
  | .dbrk d a => Sys2Proof.Machine.execDbrk d a s
  | .himm p => Sys2Proof.Machine.execHimm p s
  | .hold a b c => Sys2Proof.Machine.execHold a b c s
  | .hsrc v w sr t => Sys2Proof.Machine.execHsrc v w sr t s
  | .hmod r f c p o sr => Sys2Proof.Machine.execHmod r f c p o sr s
  | .hfree a b c => Sys2Proof.Machine.execHfree a b c s
  | .registerWrite off size val => Sys2Proof.Machine.execRegisterWrite off size val s
  | .freplyReplay plate group => Sys2Proof.Machine.execFreplyReplay plate group s
  | .freplyFatalXlate plate group => Sys2Proof.Machine.execFreplyFatalXlate plate group s
  | .freplyFatalWprot plate group => Sys2Proof.Machine.execFreplyFatalWprot plate group s
  | .freplyIgnored plate group => Sys2Proof.Machine.execFreplyIgnored plate group s
  | .shootdownStart control purge => Sys2Proof.Machine.execShootdownStart control purge s
  | .shootdownComplete control => Sys2Proof.Machine.execShootdownComplete control s
  | .firmwareDownload kind => Sys2Proof.Machine.execFirmwareDownload kind s
  | .firmwareDownloadDone sigOk lenOk => Sys2Proof.Machine.execFirmwareDownloadDone sigOk lenOk s
  | .attestationRequest addr => Sys2Proof.Machine.execAttestationRequest addr s
  | .attestationReport => Sys2Proof.Machine.execAttestationReport s
  | .partitionSwapOut part => Sys2Proof.Machine.execPartitionSwapOut part s
  | .partitionSwapIn part => Sys2Proof.Machine.execPartitionSwapIn part s
  | .partitionSwapDone part => Sys2Proof.Machine.execPartitionSwapDone part s
  | .hatchClear core => Sys2Proof.Machine.execHatchClear core s
  | .launchRingWordWrite part ring word => Sys2Proof.Machine.execLaunchRingWordWrite part ring word s
  | .modidWrite val => Sys2Proof.Machine.execModidWrite val s
  | .ptclWrite part val => Sys2Proof.Machine.execPtclWrite part val s
  | .xrteWrite module val => Sys2Proof.Machine.execXrteWrite module val s
  | .stippleEnable val => Sys2Proof.Machine.execStippleEnable val s
  | .launchRecordTake part ring => Sys2Proof.Machine.execLaunchRecordTake part ring s
  | .blockPlacement launch core q0 => Sys2Proof.Machine.execBlockPlacement launch core q0 s
  | .launchCompletion launch => Sys2Proof.Machine.execLaunchCompletion launch s
  | .blockEviction blk => Sys2Proof.Machine.execBlockEviction blk s
  | .registerDeadlockBreak core quad => Sys2Proof.Machine.execRegisterDeadlockBreak core quad s
  | .blockRestore blk q0 => Sys2Proof.Machine.execBlockRestore blk q0 s
  | .blockMigration blk core q0 => Sys2Proof.Machine.execBlockMigration blk core q0 s
  | .coreLeavesService core => Sys2Proof.Machine.execCoreLeavesService core s
  | .forwardedArrival core blk => Sys2Proof.Machine.execForwardedArrival core blk s
  | .forwardingEntryExpiry core blk => Sys2Proof.Machine.execForwardingEntryExpiry core blk s
  | .taskRecordArrival pos => Sys2Proof.Machine.execTaskRecordArrival pos s
  | .overflowRecordEntry part pos => Sys2Proof.Machine.execOverflowRecordEntry part pos s
  | .taskDispatch core q0 => Sys2Proof.Machine.execTaskDispatch core q0 s
  | .registerGrant core quad => Sys2Proof.Machine.execRegisterGrant core quad s
  | .wakeConditionMet ent => Sys2Proof.Machine.execWakeConditionMet ent s
  | .barrierCompletion blk => Sys2Proof.Machine.execBarrierCompletion blk s
  | .cohortBarrierCompletion launch cohort => Sys2Proof.Machine.execCohortBarrierCompletion launch cohort s
  | .napExpiry ent => Sys2Proof.Machine.execNapExpiry ent s
  | .pageWalk core asid va acc => Sys2Proof.Machine.execPageWalk core asid va acc s
  | .faultBufferEntry plate => Sys2Proof.Machine.execFaultBufferEntry plate s
  | .faultRecordWrite plate => Sys2Proof.Machine.execFaultRecordWrite plate s
  | .tagCompletion core cmd => Sys2Proof.Machine.execTagCompletion core cmd s
  | .loadReturn ent => Sys2Proof.Machine.execLoadReturn ent s
  | .atomicRequestArrival core seq => Sys2Proof.Machine.execAtomicRequestArrival core seq s
  | .atomicAcknowledgement core seq => Sys2Proof.Machine.execAtomicAcknowledgement core seq s
  | .replayAnswer core seq => Sys2Proof.Machine.execReplayAnswer core seq s
  | .retransmitTimeout core seq => Sys2Proof.Machine.execRetransmitTimeout core seq s
  | .linkCorrectableError core seq => Sys2Proof.Machine.execLinkCorrectableError core seq s
  | .sequenceWindowExpiry unit source seq => Sys2Proof.Machine.execSequenceWindowExpiry unit source seq s
  | .promotion core => Sys2Proof.Machine.execPromotion core s
  | .tileRequestArrival req => Sys2Proof.Machine.execTileRequestArrival req s
  | .recallArrival req => Sys2Proof.Machine.execRecallArrival req s
  | .recallResend req => Sys2Proof.Machine.execRecallResend req s
  | .surrenderWaveStart core => Sys2Proof.Machine.execSurrenderWaveStart core s
  | .surrenderBoundExpiry core => Sys2Proof.Machine.execSurrenderBoundExpiry core s
  | .tileDelivery req => Sys2Proof.Machine.execTileDelivery req s
  | .graverCommandStart blk slot => Sys2Proof.Machine.execGraverCommandStart blk slot s
  | .graverCommandComplete blk slot => Sys2Proof.Machine.execGraverCommandComplete blk slot s
  | .graverCommandFault blk slot kind iter => Sys2Proof.Machine.execGraverCommandFault blk slot kind iter s
  | .vertexRetirement plate slot => Sys2Proof.Machine.execVertexRetirement plate slot s
  | .traceCompletion core cmd => Sys2Proof.Machine.execTraceCompletion core cmd s
  | .handlerEntry blk => Sys2Proof.Machine.execHandlerEntry blk s
  | .fpWindowClose blk slot => Sys2Proof.Machine.execFpWindowClose blk slot s
  | .uncorrectableEccError ent => Sys2Proof.Machine.execUncorrectableEccError ent s
  | .quantumCountExpiry ent => Sys2Proof.Machine.execQuantumCountExpiry ent s
  | .quantumBoundaryCommit blk => Sys2Proof.Machine.execQuantumBoundaryCommit blk s
  | .notchSegmentRelease launch => Sys2Proof.Machine.execNotchSegmentRelease launch s
  | .sample core => Sys2Proof.Machine.execSample core s
  | .etchTs core => Sys2Proof.Machine.execEtchTs core s
  | .powerUp loaderOk recoveryOk => Sys2Proof.Machine.execPowerUp loaderOk recoveryOk s
  | .powerLimitThrottle watts => Sys2Proof.Machine.execPowerLimitThrottle watts s
  | .thermalHalt tj => Sys2Proof.Machine.execThermalHalt tj s
  | .failureRecovery routes ports x => Sys2Proof.Machine.execFailureRecovery routes ports x s
  | .fabricTrafficArrival msg => Sys2Proof.Machine.execFabricTrafficArrival msg s
  | .hostCxlStore hdm bytes => Sys2Proof.Machine.execHostCxlStore hdm bytes s
  | .hostCxlRead hdm len => Sys2Proof.Machine.execHostCxlRead hdm len s
  | .nonInstructionEncoding word => Sys2Proof.Machine.execNonInstructionEncoding word s
  | .storeArrivalAtHome core id => Sys2Proof.Machine.execStoreArrivalAtHome core id s
  | .storeAcknowledgement core id => Sys2Proof.Machine.execStoreAcknowledgement core id s
  | .engineAccessError core cmd ecc run => Sys2Proof.Machine.execEngineAccessError core cmd ecc run s
  | .stippleResultReturn ent errLanes => Sys2Proof.Machine.execStippleResultReturn ent errLanes s
  | .executiveEndsLaunch blk => Sys2Proof.Machine.execExecutiveEndsLaunch blk s
  | .registerPoolRepair core quad size => Sys2Proof.Machine.execRegisterPoolRepair core quad size s
  | .emptyIssueCycle core quad => Sys2Proof.Machine.execEmptyIssueCycle core quad s
  | .instructionFetchReturn ent => Sys2Proof.Machine.execInstructionFetchReturn ent s
  | .c0RequestAdmitted core id => Sys2Proof.Machine.execC0RequestAdmitted core id s
  | .exvosLinkStateChange port up => Sys2Proof.Machine.execExvosLinkStateChange port up s

end Sys2Proof.Machine
end

