-- ==== Sys2Proof/Machine/Step.lean ====
section
/-! DEFINITION. The step function: the next event of the agenda, or the issue slot of a quadrant (log 2); and the placing of an
instruction where the step fetches next (log 1). -/
namespace Sys2Proof.Machine

/-- One issue slot of a quadrant of a core: the chosen entity's word, executed; an empty cycle when none is ready (R193, R403). -/
def slotStep (core quad : Nat) (s : State) : Host.Outcome State Fault Refusal :=
  match s.issueSlot core quad with
  | none => execEmptyIssueCycle core quad s
  | some (.done t) => .next t
  | some (.word t i) => exec i t
  | some (.bad t w) => execNonInstructionEncoding w t

/-- One step of the machine. -/
def step (s : State) : Host.Outcome State Fault Refusal :=
  match s.agenda with
  | [] => slotStep s.focus.1 s.focus.2 s
  | .event i :: rest => exec i { s with agenda := rest }
  | .slot core quad :: rest => slotStep core quad { s with agenda := rest }

/-- The state with an instruction placed where its next step fetches: a launch of one block of one wave on the quadrant in focus,
whose pc is a page that the core's TLB maps to the memory the instruction stands in. -/
def State.withFetchWord (s : State) (nbits w : Nat) : State := s.placeProgram (wordBytes (BitVec.ofNat 32 (w % 2 ^ nbits)))

end Sys2Proof.Machine
end

