-- ==== Sys2Proof/Claims/Frame.lean ====
section
/-! DEFINITION. What the statements are made of: an entity that issues an instruction, what retiring it leaves, and what lies
elsewhere. -/
namespace Sys2Proof.Claims

open Machine

/-- The issuing entity of s is about to perform i, in the context c, and what comes before an instruction's own effect lets it:
its fields, guard and hints are in order, and the handler, role and whole-wave rules hold (R27–R42, R173, R188, R391). -/
abbrev Issues (s : State) (i : Instr) (c : Ctx) : Prop := s.issuer i = some c ∧ c.check = .ok ()

/-- The wave of an entity, and the entity. -/
def waveAt (s : State) (r : EntRef) : Option Wave := (tget s.blocks r.blk).bind fun b => b.wave r.slot
def entityAt (s : State) (r : EntRef) : Option Entity := (waveAt s r).bind fun w => w.entity r.frag

/-- A wave without its entities, and without what they may still find of each other's writes (R171, R312): its registers, its flags, its
causes, its windows. -/
def noEntities (w : Wave) : Wave := { w with parent := {}, frag := none, slog := [], mlog := [] }

/-- What lies outside the issuing wave is as it was: every register of the machine, every byte of memory and of the buffers, every
other block, and in the wave's block all but the wave; only the note of a quadrant's last free may be new. -/
structure Elsewhere (s t : State) : Prop where
  machine : { t with blocks := [], cores := [] } = { s with blocks := [], cores := [] }
  memory : ∀ a, memGet t.mem a = memGet s.mem a
  cores : ∀ n, { t.core n with freedAt := Vector.replicate 4 0 } = { s.core n with freedAt := Vector.replicate 4 0 }
  blocks : ∀ n, n ≠ s.cur.blk → tget t.blocks n = tget s.blocks n
  block : ∀ b, tget s.blocks s.cur.blk = some b →
    ∃ b', tget t.blocks s.cur.blk = some b' ∧ { b' with waves := [], sur := none } = { b with waves := [], sur := none } ∧
      ∀ n, n ≠ s.cur.slot → b'.wave n = b.wave n

/-- An entity that has retired a word and goes on at a pc: its hints are used up, it waits for nothing, and its masks and its stack
are as they were. -/
structure GoesOn (e e' : Entity) (pc : Dword) : Prop where
  pc : e'.pc = pc
  hints : e'.hints = []
  wait : e'.wait = none
  xm : e'.xm = e.xm
  arm : e'.arm = e.arm
  stack : e'.stack = e.stack
  stopped : e'.stopped = e.stopped
  halted : e'.halted = e.halted
  nap : e'.napEnd = e.napEnd
  held : e'.held = e.held
  qended : e'.qended = e.qended

/-- The issuing entity of s has retired its word and goes on at the next one; its wave is now w, the wave's other entity is as it was,
and so is everything elsewhere. -/
structure Retires (s : State) (c : Ctx) (t : State) (w : Wave) : Prop where
  wave : waveAt t s.cur = some w
  entity : ∃ e, w.entity s.cur.frag = some e ∧ GoesOn c.e e (c.e.pc + 4)
  other : w.entity (!s.cur.frag) = c.w0.entity (!s.cur.frag)
  elsewhere : Elsewhere s t

/-- The issuing entity of s has retired a word that may have produced trace packets (R412): its wave is now w, the entity e, the other
entity is as it was, and where nothing is traced so is everything elsewhere. -/
structure Leaves (s : State) (c : Ctx) (t : State) (w : Wave) (e : Entity) : Prop where
  wave : waveAt t s.cur = some w
  entity : w.entity s.cur.frag = some e
  other : w.entity (!s.cur.frag) = c.w0.entity (!s.cur.frag)
  elsewhere : s.traces c.b = false → Elsewhere s t

/-- The state in which the issuing entity has taken a cause (R383–R386): its bits, and the lanes or the code it reports. Nothing of
the instruction has happened. -/
def trapped (c : Ctx) (cause : Nat) (lanes : Option Mask := none) (code : Dword := 0) : State :=
  c.put.raise c.r { bits := causeBit cause, cmask := lanes, code := code } c.gpc c.npc

/-- The issuing wave with the names freed that its group frees (R30, R42). -/
def freed (i : Instr) (c : Ctx) : Wave := c.w0.release (c.freeNames (shape i))

/-- The number of names of a list that a wave has not mapped. -/
def unmapped (w : Wave) (ns : List Nat) : Nat := ns.countP fun n => if h : n < 64 then w.v[n].isNone else false

/-- A wave in the state w may take k more entries of the pool: within its cap, in a handler within its floor, and then what it holds
and is granted, its floor, or the part of the remainder that no entity before it is owed (R174–R177, R389). -/
abbrev MayTake (c : Ctx) (w : Wave) (k : Nat) : Prop :=
  w.footprint + k ≤ c.w0.cap ∧ (c.isHandler = true → w.footprint + k ≤ c.w0.floor) ∧
   (w.footprint + k ≤ c.w0.footprint + c.e.grant ∨ w.footprint + k + c.otherGrant ≤ c.w0.floor ∨
    w.footprint + k + c.otherGrant - c.w0.floor + c.owed ≤ c.s.remainder c.core c.quad c.r.blk c.r.slot)

/-- A wave in the state w has room for k more entries, which it may need not at all. -/
abbrev RoomIn (c : Ctx) (w : Wave) (k : Nat) : Prop := k = 0 ∨ MayTake c w k

/-- The names of a list are mapped once the group's frees are done, or the wave may take the entries it lacks. -/
abbrev HasRoom (i : Instr) (c : Ctx) (ns : List Nat) : Prop := RoomIn c (freed i c) (unmapped (freed i c) ns)

/-- Requests of the entity for these modules leave its core: no route that carries old traffic holds them (R423), and the rate of C0 requests
admits them (R422). -/
abbrev Admitted (c : Ctx) (modules : List Nat) : Prop :=
  (∀ m ∈ modules, c.s.draining m = false) ∧ (modules ≠ [] → c.launch.prio = 0 → c.s.admits c.core = true)

/-- The machine once the entity has tried to send to these modules and must wait: for the route of one, or for the rate of C0 requests (R422,
R423). -/
def heldBack (c : Ctx) (modules : List Nat) : State :=
  match modules.find? fun m => c.s.draining m with
  | some m => { c with s := c.s.drainRoute m }.waitHere (.route m)
  | none => c.waitHere .c0

/-- Vector registers after lanes of some were written: each write is a name, lanes and their values. -/
def writeV (v : Vector (Option (Lanes Word)) 64) (ws : List (Nat × Mask × (Fin 32 → Word))) : Vector (Option (Lanes Word)) 64 :=
  ws.foldl (fun v w =>
    Vector.ofFn fun n => if n.val = w.1 then
      some (Vector.ofFn fun l => if inMask w.2.1 l then w.2.2 l else ((v[n]).getD zeroLanes)[l]) else v[n]) v

/-- Predicate registers after bits of one were written. -/
def writeK (k : Vector Mask 12) (d : Reg4) (lanes : Mask) (f : Fin 32 → Bool) : Vector Mask 12 :=
  Vector.ofFn fun n => if n.val = d.toNat then
    maskOf fun l => if inMask lanes l then f l else inMask (k[n]) l else k[n]

end Sys2Proof.Claims
end

