-- ==== Sys2Proof/Claims/Scalar.lean ====
section
/-! DEFINITION. The results of scalar instructions as the spec's tables give them (R250–R255, R267). -/
namespace Sys2Proof.Claims

open Machine

/-- A relation of Table 11.4; bit 3 of the code makes it unsigned. -/
def holds (cc : BitVec 4) {n : Nat} (a b : BitVec n) : Bool :=
  let lt := if cc.getLsbD 3 then a.ult b else a.slt b
  let le := if cc.getLsbD 3 then a.ule b else a.sle b
  match cc.toNat % 8 with
  | 0 => a == b
  | 1 => !(a == b)
  | 2 => lt
  | 3 => le
  | 4 => !le
  | _ => !lt

/-- The B operand of a scalar instruction (R251): S[b], or with i = 1 the value that the `HIMM` words of the group make. -/
def operandB (c : Ctx) (b : Reg5) (i : Bool) : Dword :=
  if i then
    match c.x.himm with
    | [] => 0
    | [p] => p.signExtend 64
    | p :: q :: _ => (p ++ q).signExtend 64
  else c.rs b

/-- The scalar register that an instruction of the scalar group, `SRD` or a predicate transfer writes, and its value (R250–R253,
R267). -/
def scalarResult (i : Instr) (c : Ctx) : Option (Reg5 × Dword) :=
  let S (r : Reg5) : Dword := c.rs r
  match i with
  | .sadd d a b i => some (d, S a + operandB c b i)
  | .ssub d a b i => some (d, S a - operandB c b i)
  | .smul d a b i => some (d, S a * operandB c b i)
  | .smulh d a b i u => some (d,
      if u then ((S a).setWidth 128 * (operandB c b i).setWidth 128).extractLsb' 64 64
      else ((S a).signExtend 128 * (operandB c b i).signExtend 128).extractLsb' 64 64)
  | .sand d a b i => some (d, S a &&& operandB c b i)
  | .sor d a b i => some (d, S a ||| operandB c b i)
  | .sxor d a b i => some (d, S a ^^^ operandB c b i)
  | .sshl d a b i => some (d, if 64 ≤ (operandB c b i).toNat then 0 else S a <<< (operandB c b i).toNat)
  | .sshr d a b i => some (d, if 64 ≤ (operandB c b i).toNat then 0 else S a >>> (operandB c b i).toNat)
  | .ssar d a b i => some (d,
      if 64 ≤ (operandB c b i).toNat then (if (S a).msb then BitVec.allOnes 64 else 0) else (S a).sshiftRight (operandB c b i).toNat)
  | .smin d a b i u => some (d, if (if u then (S a).ult (operandB c b i) else (S a).slt (operandB c b i)) then S a else operandB c b i)
  | .smax d a b i u => some (d, if (if u then (S a).ult (operandB c b i) else (S a).slt (operandB c b i)) then operandB c b i else S a)
  | .scmp d a b i cc => some (d, if holds cc (S a) (operandB c b i) then 1 else 0)
  | .ssel d a b i => some (d, if S (c.x.sc.getD 0) = 0 then operandB c b i else S a)
  | .smov d a => some (d, S a)
  | .slea d a b i k => some (d, S a + operandB c b i <<< k.toNat)
  | .smovi d v => some (d, match c.x.himm with
      | [] => v.signExtend 64
      | [p] => (p ++ v).signExtend 64
      | p :: q :: _ => (p ++ q ++ v).signExtend 64)
  | .srd d false n => some (d, c.special n.toNat)
  | .ktos k r _ => some (r.setWidth 5, (c.rk k &&& c.g).setWidth 64)
  | .pcnt k r _ => some (r.setWidth 5, BitVec.ofNat 64 ((List.finRange 32).countP fun l => inMask (c.rk k) l && inMask c.g l))
  | .xmget r => some (r.setWidth 5, c.e.xm.setWidth 64)
  | _ => none

end Sys2Proof.Claims
end

