-- ==== Sys2Proof/Claims/Control.lean ====
section
/-! DEFINITION. Where branches and splits go (R166–R170, R283–R292). -/
namespace Sys2Proof.Claims

open Machine

/-- The byte offset of a branch or call (R38, R283, R285): four times the immediate value. -/
def offset (c : Ctx) {n : Nat} (v : BitVec n) : Dword :=
  4 * match c.x.himm with
    | [] => v.signExtend 64
    | [p] => (p ++ v).signExtend 64
    | p :: q :: _ => (p ++ q ++ v).signExtend 64

/-- The lanes that a branch's condition selects (R283). -/
def condition (c : Ctx) (k : Reg4) (n : Bool) : Mask := c.e.xm &&& (if n then ~~~ c.rk k else c.rk k)

/-- Is a uniform branch taken (R283)? -/
def taken (c : Ctx) (m : BitVec 3) (k : Reg4) (n : Bool) : Bool :=
  if m = 0 then true
  else if m = 1 then decide (condition c k n ≠ 0)
  else if m = 2 then decide (condition c k n = c.e.xm)
  else decide (condition c k n = 0)

/-- An arm of a split: its lanes and its next pc. -/
structure Side where
  lanes : Mask
  pc : Dword

def count (m : Mask) : Nat := (List.finRange 32).countP fun l => inMask m l

/-- R168: the arm that detaches as the fragment has fewer lanes, on a tie the higher next pc. -/
def detaches (x y : Side) : Prop :=
  count x.lanes < count y.lanes ∨ (count x.lanes = count y.lanes ∧ y.pc.toNat < x.pc.toNat)

/-- R169: the arm that runs first in a nested split has more lanes, on a tie the lower next pc. -/
def runsFirst (x y : Side) : Prop :=
  count y.lanes < count x.lanes ∨ (count x.lanes = count y.lanes ∧ x.pc.toNat < y.pc.toNat)

/-- The lanes of the entity's arm that software has cleared stay with the arm that goes on (R166). -/
def armOf (c : Ctx) (x : Side) : Mask := x.lanes ||| (c.e.arm &&& ~~~ c.e.xm)

end Sys2Proof.Claims
end

