-- ==== Sys2Proof/Claims/Vector.lean ====
section
/-! DEFINITION. The results of vector integer, cross-lane, transfer and predicate instructions as the spec's tables give them
(R246–R248, R253, R256–R269, R277–R280). -/
namespace Sys2Proof.Claims

open Machine

/-- A lane of a vector register as the issuing wave reads it: 0 where the name is not mapped (R175). -/
def V (c : Ctx) (r : Reg6) (l : Fin 32) : Word := (readV c.w0 r.toNat)[l]

/-- The immediate of a vector instruction of field width n (R38): its low 32 bits. -/
def imm32 (c : Ctx) {n : Nat} (v : BitVec n) : Word :=
  match c.x.himm with
  | [] => v.signExtend 32
  | [p] => (p ++ v).signExtend 32
  | p :: q :: _ => (p ++ q ++ v).signExtend 32

/-- pos and w of a bit-field instruction (R261). -/
def fieldPos (c : Ctx) : Nat := (c.x.imm 0 0).toNat % 32
def fieldLen (c : Ctx) : Nat := min ((c.x.imm 0 0).toNat / 32 % 64) (32 - fieldPos c)

/-- The value of lane j of a register as lane l reads it: its own where j is no active lane (R277). -/
def laneOf (c : Ctx) (a : Reg6) (j : Nat) (l : Fin 32) : Word :=
  if h : j < 32 then (if inMask c.e.xm ⟨j, h⟩ then V c a ⟨j, h⟩ else V c a l) else V c a l

/-- One write: every lane that takes part, into one register. -/
def one (c : Ctx) (d : Reg6) (f : Fin 32 → Word) : Option (List (Nat × Mask × (Fin 32 → Word))) := some [(d.toNat, c.g, f)]

/-- The vector registers that an instruction writes: names, lanes and values. -/
def vectorResult (i : Instr) (c : Ctx) : Option (List (Nat × Mask × (Fin 32 → Word))) :=
  match i with
  | .vadd d a b _ _ _ => one c d fun l => V c a l + V c b l
  | .vsub d a b _ _ _ => one c d fun l => V c a l - V c b l
  | .vmul d a b _ _ _ => one c d fun l => V c a l * V c b l
  | .vmulh d a b _ _ _ => one c d fun l => ((V c a l).signExtend 64 * (V c b l).signExtend 64).extractLsb' 32 32
  | .vand d a b _ _ _ => one c d fun l => V c a l &&& V c b l
  | .vor d a b _ _ _ => one c d fun l => V c a l ||| V c b l
  | .vxor d a b _ _ _ => one c d fun l => V c a l ^^^ V c b l
  | .vshl d a b _ _ _ => one c d fun l => if (V c b l).toNat < 32 then V c a l <<< (V c b l).toNat else 0
  | .vshr d a b _ _ _ => one c d fun l => if (V c b l).toNat < 32 then V c a l >>> (V c b l).toNat else 0
  | .vsar d a b _ _ _ => one c d fun l => (V c a l).sshiftRight (if (V c b l).toNat < 32 then (V c b l).toNat else 31)
  | .vmin d a b _ _ _ => one c d fun l => if (V c a l).slt (V c b l) then V c a l else V c b l
  | .vmax d a b _ _ _ => one c d fun l => if (V c a l).slt (V c b l) then V c b l else V c a l
  | .vminn d a b _ _ _ => one c d fun l => if (V c a l).ult (V c b l) then V c a l else V c b l
  | .vmaxn d a b _ _ _ => one c d fun l => if (V c a l).ult (V c b l) then V c b l else V c a l
  | .vaddc d a b _ _ _ =>
    let cin (l : Fin 32) : Nat := match c.x.vc with
      | some r => (V c r l).toNat % 2
      | none => 0
    some [(d.toNat, c.g, fun l => V c a l + V c b l + BitVec.ofNat 32 (cin l)),
      (d.toNat + 1, c.g, fun l => if 2 ^ 32 ≤ (V c a l).toNat + (V c b l).toNat + cin l then 1 else 0)]
  | .vsubb d a b _ _ _ =>
    let cin (l : Fin 32) : Nat := match c.x.vc with
      | some r => (V c r l).toNat % 2
      | none => 0
    some [(d.toNat, c.g, fun l => V c a l - V c b l - BitVec.ofNat 32 (cin l)),
      (d.toNat + 1, c.g, fun l => if (V c a l).toNat < (V c b l).toNat + cin l then 1 else 0)]
  | .vaddi d a v _ => one c d fun l => V c a l + imm32 c v
  | .vandi d a v _ => one c d fun l => V c a l &&& imm32 c v
  | .vmovi d v _ => one c d fun _ => imm32 c v
  | .vshli d a v _ => one c d fun l => if v.toNat < 32 then V c a l <<< v.toNat else 0
  | .vshri d a v _ => one c d fun l => if v.toNat < 32 then V c a l >>> v.toNat else 0
  | .vsari d a v _ => one c d fun l => (V c a l).sshiftRight (if v.toNat < 32 then v.toNat else 31)
  | .vnot d a _ _ => one c d fun l => ~~~ V c a l
  | .vneg d a _ _ => one c d fun l => - V c a l
  | .vabs d a _ _ => one c d fun l => if (V c a l).msb then - V c a l else V c a l
  | .vclz d a _ _ => one c d fun l => (V c a l).clz
  | .vpopc d a _ _ => one c d fun l => BitVec.ofNat 32 ((List.finRange 32).countP fun j => (V c a l).getLsbD j.val)
  | .vmov d a _ _ => one c d fun l => V c a l
  | .vbfe d a _ m _ => one c d fun l =>
    let x := V c a l <<< (32 - fieldPos c - fieldLen c)
    if fieldLen c = 0 then 0 else if m then x.sshiftRight (32 - fieldLen c) else x >>> (32 - fieldLen c)
  | .vbfi d a _ _ => one c d fun l =>
    let mask : Word := BitVec.ofNat 32 (2 ^ fieldLen c - 1) <<< fieldPos c
    (V c d l &&& ~~~ mask) ||| (V c a l <<< fieldPos c &&& mask)
  | .vsel d a b _ _ _ => some [(d.toNat, c.e.xm, fun l => if inMask c.g l then V c a l else V c b l)]
  | .vmad d a b _ _ _ => one c d fun l => V c a l * V c b l + V c (c.x.vc.getD 0) l
  | .vlea d a s h _ =>
    let x (l : Fin 32) : Dword := c.rs s + (V c a l).signExtend 64 <<< h.toNat
    some [(d.toNat, c.g, fun l => (x l).extractLsb' 0 32), (d.toNat + 1, c.g, fun l => (x l).extractLsb' 32 32)]
  | .srd d true n => some [(d.toNat, c.g, fun l =>
      if n = 0 then BitVec.ofNat 32 l.val else if n = 0x16 then c.w0.mf[l] else (c.special n.toNat).setWidth 32)]
  | .ktov k r _ => some [((r.setWidth 6).toNat, c.g, fun l => if inMask (c.rk k) l then 1 else 0)]
  | .shfl d a b _ _ _ => one c d fun l => laneOf c a ((V c b l).toNat % 32) l
  | .shfx d a v _ => one c d fun l => laneOf c a (l.val ^^^ v.toNat) l
  | .shfu d a v _ => one c d fun l => if v.toNat ≤ l.val then laneOf c a (l.val - v.toNat) l else V c a l
  | .shfd d a v _ => one c d fun l => laneOf c a (l.val + v.toNat) l
  | .bcst d a s x _ => one c d fun l =>
    if x = 0 then laneOf c a ((c.rs s).toNat % 32) l
    else match (List.finRange 32).find? (fun j => inMask c.g j) with
      | some j => laneOf c a j.val l
      | none => V c a l
  | .fclass d a _ m _ => one c d fun l =>
    BitVec.ofNat 32 (if m then fmt64.classMask (c.rd a.toNat l).toNat else fmt32.classMask (V c a l).toNat)
  | .pack d a b _ _ _ => one c d fun l => (V c b l).setWidth 16 ++ (V c a l).setWidth 16
  | .rnd d a s _ m _ =>
    let step (l : Fin 32) : Word :=
      if m then (match c.x.himm with
        | [] => a.setWidth 32
        | _ => imm32 c a)
      else V c a l
    let draw (l : Fin 32) : List Word := rocker c.keyWords ((c.rs s).setWidth 32) (c.globalLane l) (step l)
    some [(d.toNat, c.g, fun l => (draw l).getD 0 0), (d.toNat + 1, c.g, fun l => (draw l).getD 1 0),
      (d.toNat + 2, c.g, fun l => (draw l).getD 2 0), (d.toNat + 3, c.g, fun l => (draw l).getD 3 0)]
  | .rslice d a w _ m _ => one c d fun l =>
    let D : BitVec 128 := V c (a + 3) l ++ V c (a + 2) l ++ V c (a + 1) l ++ V c a l
    let ctl := c.rs (c.x.sc.getD 0)
    let n := sliceWidth w
    let x := ((D.rotateRight (ctl.extractLsb' 8 7).toNat) >>> ((ctl.extractLsb' 0 7).toNat % (128 / n) * n)).toNat % 2 ^ n
    BitVec.ofNat 32 (if m then (fmt32.ofFV .rtz false (.fin false x (2 ^ n))).1 else x)
  | _ => none

/-- The predicate register that an instruction writes, and the bits of the lanes that take part. -/
def predicateResult (i : Instr) (c : Ctx) : Option (Reg4 × (Fin 32 → Bool)) :=
  let K (k : Reg4) (l : Fin 32) : Bool := inMask (c.rk k) l
  match i with
  | .vcmp k cc a b _ => some (k, fun l => holds cc (V c a l) (V c b l))
  | .pand d a b x _ => some (d, fun l => (K a l ^^ x.getLsbD 0) && (K b l ^^ x.getLsbD 1))
  | .por d a b x _ => some (d, fun l => (K a l ^^ x.getLsbD 0) || (K b l ^^ x.getLsbD 1))
  | .pxor d a b x _ => some (d, fun l => (K a l ^^ x.getLsbD 0) ^^ (K b l ^^ x.getLsbD 1))
  | .pnot d a _ => some (d, fun l => !K a l)
  | .pset d x _ => some (d, fun _ => x)
  | .vtok k r _ => some (k, fun l => V c (r.setWidth 6) l != 0)
  | .stok k r _ => some (k, fun l => (c.rs (r.setWidth 5)).getLsbD l.val)
  | .rbern k o a b _ => some (k, fun l => (V c (a + o.setWidth 6) l).ult (V c b l))
  | .vmatch k o a _ =>
    some (k, fun l =>
      if o = 0 then (List.finRange 32).any fun j => inMask c.g j && j != l && V c a j == V c a l
      else if o = 1 then (List.finRange 32).all fun j => !inMask c.g j || V c a j == V c a l
      else (List.finRange 32).all fun j => !(inMask c.g j && decide (j < l)) || V c a j != V c a l)
  | _ => none

end Sys2Proof.Claims
end

