-- ==== Sys2Proof/Claims/Float.lean ====
section
/-! DEFINITION. The outcomes of floating-point, conversion, reduction and matrix instructions: registers, flags, saturation counts
and matrix flags (R235, R236, R242–R245, R255, R265, R270–R275, R281, R282, R309–R324). The single roundings are those of
Machine/Float; which operands meet in which lane, what is written and which flags gather where stands here. -/
namespace Sys2Proof.Claims

open Machine

/-- What an instruction of arithmetic leaves in its wave. -/
structure Outcome where
  /-- vector registers: names, lanes, values -/
  vs : List (Nat × Mask × (Fin 32 → Word)) := []
  /-- a predicate register, in the lanes that take part -/
  pred : Option (Reg4 × (Fin 32 → Bool)) := none
  /-- a matrix register, its new shape and the elements of the lanes that take part -/
  mat : Option (Reg3 × Nat × Nat × (Fin 32 → List Word)) := none
  /-- FP flags, counted saturations and `mf` of the lanes that take part -/
  flags : Fin 32 → FFlags := fun _ => 0
  sat : Fin 32 → Bool := fun _ => false
  mf : Option (Fin 32 → Word) := none

/-- The flags of the lanes of a mask, gathered. -/
def gathered (m : Mask) (f : Fin 32 → FFlags) : FFlags := ((List.finRange 32).filter (inMask m)).foldl (fun acc l => acc ||| f l) 0

/-- The elements of a lane of a matrix register: +0 where the name is not mapped (R309). -/
def elements (m : MReg) (l : Fin 32) : List Word :=
  match m.data with
  | some d => d[l]
  | none => List.replicate (m.rows * m.cols) 0

/-- A matrix register written in a shape: other lanes keep their elements, or hold +0 in a new shape (R309, R312). -/
def writeM (m : MReg) (rows cols : Nat) (lanes : Mask) (f : Fin 32 → List Word) : MReg :=
  let kept (l : Fin 32) : List Word :=
    match m.data with
    | some d => if m.rows = rows ∧ m.cols = cols then d[l] else List.replicate (rows * cols) 0
    | none => List.replicate (rows * cols) 0
  { rows := rows, cols := cols, data := some (Vector.ofFn fun l => if inMask lanes l then f l else kept l) }

/-- The wave as an outcome leaves it. -/
def after (i : Instr) (c : Ctx) (o : Outcome) : Wave :=
  let w := freed i c
  { w with
    v := writeV w.v o.vs
    k := match o.pred with
      | some (d, f) => writeK w.k d c.g f
      | none => w.k
    m := match o.mat with
      | some (d, r, k, f) => w.m.set d.toNat (writeM w.m[d.toNat] r k c.g f)
      | none => w.m
    fpf := w.fpf ||| (gathered c.g o.flags).setWidth 64
    satc := BitVec.ofNat 32 (min (w.satc.toNat + ((List.finRange 32).filter (inMask c.g)).countP o.sat) 0xFFFFFFFF)
    mf := match o.mf with
      | some f => Vector.ofFn fun l => if inMask c.g l then f l else w.mf[l]
      | none => w.mf }

/-- The matrix register of an outcome when its old entries have been given back because its shape changes (R312). -/
def dropped (w : Wave) (o : Outcome) : Wave :=
  match o.mat with
  | some (d, r, k, _) =>
    if w.m[d.toNat].rows = r ∧ w.m[d.toNat].cols = k then w
    else { w with m := w.m.set d.toNat { w.m[d.toNat] with data := none } }
  | none => w

/-- Is the matrix register of an outcome mapped in its shape already? -/
abbrev keepsShape (w : Wave) (o : Outcome) : Prop :=
  ∀ d r k f, o.mat = some (d, r, k, f) → w.m[d.toNat].data.isSome ∧ w.m[d.toNat].rows = r ∧ w.m[d.toNat].cols = k

/-- The entries that an outcome takes anew. -/
def takes (i : Instr) (c : Ctx) (o : Outcome) : Nat :=
  unmapped (freed i c) (o.vs.map (·.1)) +
  match o.mat with
  | some (d, r, k, _) =>
    if (freed i c).m[d.toNat].data.isSome ∧ (freed i c).m[d.toNat].rows = r ∧ (freed i c).m[d.toNat].cols = k then 0 else r * k
  | none => 0

/-- An outcome's registers are mapped, or the wave may take the entries it lacks. -/
abbrev OutcomeRoom (i : Instr) (c : Ctx) (o : Outcome) : Prop :=
  (takes i c o = 0 ∧ keepsShape (freed i c) o) ∨ MayTake c (dropped (freed i c) o) (takes i c o)

/-- The causes that an outcome's flags raise where `fpx` enables them, FP causes 8–12 and MATSING 13, and the lanes that flagged one
(R255, R315). -/
def raised (c : Ctx) (o : Outcome) : Dword :=
  ((gathered c.g o.flags &&& c.w0.fpx.setWidth 5).setWidth 64 <<< 8) |||
  match o.mf with
  | some f => if c.w0.fpx.getLsbD 5 && (List.finRange 32).any (fun l => inMask c.g l && decide ((f l).toNat % 16 ≠ 0)) then causeBit 13 else 0
  | none => 0
def raisedLanes (c : Ctx) (o : Outcome) : Mask :=
  maskOf fun l => inMask c.g l && (decide (o.flags l &&& c.w0.fpx.setWidth 5 ≠ 0) ||
    match o.mf with
    | some f => c.w0.fpx.getLsbD 5 && decide ((f l).toNat % 16 ≠ 0)
    | none => false)

/-! ### Floating point -/

/-- A result of 32 bits, and one of 64 in a pair, lane by lane with its flags. -/
def res32 (c : Ctx) (d : Reg6) (f : Fin 32 → Nat × FFlags) : Option Outcome :=
  some { vs := [(d.toNat, c.g, fun l => BitVec.ofNat 32 (f l).1)], flags := fun l => (f l).2 }
def res64 (c : Ctx) (d : Reg6) (f : Fin 32 → Nat × FFlags) : Option Outcome :=
  some { vs := [(d.toNat, c.g, fun l => BitVec.ofNat 32 (f l).1), (d.toNat + 1, c.g, fun l => BitVec.ofNat 32 ((f l).1 / 2 ^ 32))]
         flags := fun l => (f l).2 }

/-- The operands of a lane as the formats take them. -/
def x32 (c : Ctx) (r : Reg6) (l : Fin 32) : Nat := (V c r l).toNat
def x64 (c : Ctx) (r : Reg6) (l : Fin 32) : Nat := (c.rd r.toNat l).toNat

/-- Both halves of packed operands (R270). -/
def halves (f : Nat → Nat → Nat × FFlags) (x y : Nat) : Nat × FFlags :=
  let lo := f (x % 65536) (y % 65536)
  let hi := f (x / 65536) (y / 65536)
  (hi.1 * 65536 + lo.1, lo.2 ||| hi.2)
def halves3 (f : Nat → Nat → Nat → Nat × FFlags) (x y z : Nat) : Nat × FFlags :=
  let lo := f (x % 65536) (y % 65536) (z % 65536)
  let hi := f (x / 65536) (y / 65536) (z / 65536)
  (hi.1 * 65536 + lo.1, lo.2 ||| hi.2)

/-- A one-source function of FP32, or of FP64 pairs with m = 1. -/
def unary (c : Ctx) (d a : Reg6) (m : Bool) (f : Fmt → Nat → Nat × FFlags) : Option Outcome :=
  if m then res64 c d fun l => f fmt64 (x64 c a l) else res32 c d fun l => f fmt32 (x32 c a l)

/-- The outcome of an instruction of the floating-point families. -/
def floatOutcome (i : Instr) (c : Ctx) : Option Outcome :=
  let rm := c.rmode
  let z := c.x.ftz
  let C := c.x.vc.getD 0
  match i with
  | .fadd d a b _ _ _ => res32 c d fun l => fmt32.add rm z (x32 c a l) (x32 c b l)
  | .fsub d a b _ _ _ => res32 c d fun l => fmt32.sub rm z (x32 c a l) (x32 c b l)
  | .fmul d a b _ _ _ => res32 c d fun l => fmt32.mul rm z (x32 c a l) (x32 c b l)
  | .fdiv d a b _ _ _ => res32 c d fun l => fmt32.div rm z (x32 c a l) (x32 c b l)
  | .ffma d a b _ _ _ => res32 c d fun l => fmt32.fma rm z (x32 c a l) (x32 c b l) (x32 c C l)
  | .fmin d a b _ _ _ => res32 c d fun l => fmt32.minMax false z (x32 c a l) (x32 c b l)
  | .fmax d a b _ _ _ => res32 c d fun l => fmt32.minMax true z (x32 c a l) (x32 c b l)
  | .hadd d a b _ _ _ => res32 c d fun l => halves (fmt16.add rm z) (x32 c a l) (x32 c b l)
  | .hsub d a b _ _ _ => res32 c d fun l => halves (fmt16.sub rm z) (x32 c a l) (x32 c b l)
  | .hmul d a b _ _ _ => res32 c d fun l => halves (fmt16.mul rm z) (x32 c a l) (x32 c b l)
  | .hfma d a b _ _ _ => res32 c d fun l => halves3 (fmt16.fma rm z) (x32 c a l) (x32 c b l) (x32 c C l)
  | .hmin d a b _ _ _ => res32 c d fun l => halves (fmt16.minMax false z) (x32 c a l) (x32 c b l)
  | .hmax d a b _ _ _ => res32 c d fun l => halves (fmt16.minMax true z) (x32 c a l) (x32 c b l)
  | .badd d a b _ _ _ => res32 c d fun l => halves (fmtB16.add rm z) (x32 c a l) (x32 c b l)
  | .bsub d a b _ _ _ => res32 c d fun l => halves (fmtB16.sub rm z) (x32 c a l) (x32 c b l)
  | .bmul d a b _ _ _ => res32 c d fun l => halves (fmtB16.mul rm z) (x32 c a l) (x32 c b l)
  | .bfma d a b _ _ _ => res32 c d fun l => halves3 (fmtB16.fma rm z) (x32 c a l) (x32 c b l) (x32 c C l)
  | .bmin d a b _ _ _ => res32 c d fun l => halves (fmtB16.minMax false z) (x32 c a l) (x32 c b l)
  | .bmax d a b _ _ _ => res32 c d fun l => halves (fmtB16.minMax true z) (x32 c a l) (x32 c b l)
  | .dadd d a b _ _ _ => res64 c d fun l => fmt64.add rm z (x64 c a l) (x64 c b l)
  | .dsub d a b _ _ _ => res64 c d fun l => fmt64.sub rm z (x64 c a l) (x64 c b l)
  | .dmul d a b _ _ _ => res64 c d fun l => fmt64.mul rm z (x64 c a l) (x64 c b l)
  | .dfma d a b _ _ _ => res64 c d fun l => fmt64.fma rm z (x64 c a l) (x64 c b l) (x64 c C l)
  | .fabs d a _ m _ => unary c d a m fun f x => f.setSign z (fun _ => false) x
  | .fneg d a _ m _ => unary c d a m fun f x => f.setSign z (fun s => !s) x
  | .frcp d a _ m _ => unary c d a m fun f x => f.rcp z x
  | .frsq d a _ m _ => unary c d a m fun f x => f.rsq z x
  | .fsqrt d a _ m _ => unary c d a m fun f x => f.sqrt rm z x
  | .frnd d a _ m _ => unary c d a m fun f x => f.rint rm z x
  | .fexp2 d a _ _ => res32 c d fun l => fexp2 z (x32 c a l)
  | .flog2 d a _ _ => res32 c d fun l => flog2 z (x32 c a l)
  | .fsin d a _ _ => res32 c d fun l => ftrig 0 z (x32 c a l)
  | .fcos d a _ _ => res32 c d fun l => ftrig 1 z (x32 c a l)
  | .fcmp k cc a b _ =>
    let r (l : Fin 32) : Bool × FFlags :=
      if cc.getLsbD 3 then fmt64.cmp (cc.toNat % 8) z (x64 c a l) (x64 c b l) else fmt32.cmp (cc.toNat % 8) z (x32 c a l) (x32 c b l)
    some { pred := some (k, fun l => (r l).1), flags := fun l => (r l).2 }
  | _ => none

/-! ### Conversions -/

/-- A narrow result of n bits in part p of a register, the other bits kept. -/
def part (old : Word) (n p code : Nat) : Word :=
  let mask : Word := BitVec.ofNat 32 (2 ^ n - 1) <<< (n * p)
  (old &&& ~~~ mask) ||| (BitVec.ofNat 32 code <<< (n * p) &&& mask)

def narrow (i : Instr) (c : Ctx) (d : Reg6) (n p : Nat) (r : Fin 32 → Conv) : Option Outcome :=
  some { vs := [(d.toNat, c.g, fun l => part (readV (freed i c) d.toNat)[l] n p (r l).code)]
         flags := fun l => (r l).flags, sat := fun l => (r l).counted }
def wide (c : Ctx) (d : Reg6) (r : Fin 32 → Conv) : Option Outcome :=
  some { vs := [(d.toNat, c.g, fun l => BitVec.ofNat 32 (r l).code)], flags := fun l => (r l).flags, sat := fun l => (r l).counted }
def wide2 (c : Ctx) (d : Reg6) (r : Fin 32 → Conv) : Option Outcome :=
  some { vs := [(d.toNat, c.g, fun l => BitVec.ofNat 32 (r l).code), (d.toNat + 1, c.g, fun l => BitVec.ofNat 32 ((r l).code / 2 ^ 32))]
         flags := fun l => (r l).flags, sat := fun l => (r l).counted }

/-- The outcome of a conversion; none for a `CVTS` whose control word is not one of Table 10.6. -/
def conversionOutcome (i : Instr) (c : Ctx) : Option Outcome :=
  match i with
  | .cvt d a cc p _ m _ =>
    let sat := if c.x.cv = 0 then m else decide (c.x.cv = 1)
    let r (l : Fin 32) : Conv := cvtOne cc c.rmode c.x.ftz sat (c.cvtSource a cc l)
    if cc.toNat ≤ 1 then narrow i c d 16 p.toNat r
    else if cc.toNat ≤ 5 then narrow i c d 8 p.toNat r
    else if cc = 10 ∨ cc = 13 then wide2 c d r else wide c d r
  | .cvts d a b _ _ _ =>
    match cvtsControl (c.rs (c.x.sc.getD 0)) with
    | none => none
    | some (e, p, sat) =>
      narrow i c d (8 * e.size) p fun l => stochastic e c.x.ftz sat (fmt32.valueZ c.x.ftz (x32 c a l)) (x32 c b l)
  | .unpk d a cc p _ _ =>
    let n := if cc.toNat ≤ 1 then 16 else 8
    wide c d fun l => unpackOne cc c.rmode c.x.ftz (x32 c a l / 2 ^ (n * p.toNat) % 2 ^ n)
  | _ => none

/-! ### Reductions and scans -/

/-- The outcome of `VRED` and `VSCAN`: the flags of every step stand for every lane that takes part (R282). -/
def reductionOutcome (i : Instr) (c : Ctx) : Option Outcome :=
  match i with
  | .vred d a f _ _ =>
    if f.toNat < 11 then
      let r := c.reduce a f
      some { vs := [(d.toNat, c.g, fun _ => BitVec.ofNat 32 ((r.map (·.1)).getD 0))], flags := fun _ => (r.map (·.2)).getD 0 }
    else
      let r := c.argBest a f
      some {
        vs := [(d.toNat, c.g, fun _ => BitVec.ofNat 32 ((r.map (·.1)).getD 0)),
          (d.toNat + 1, c.g, fun _ => BitVec.ofNat 32 ((r.map (·.2.val)).getD 0))]
        flags := fun _ => gathered c.g fun l => (redLeaf false (V c a l)).2 }
  | .vscan d a f _ e _ =>
    let leaf (l : Fin 32) : Nat × FFlags := if 8 ≤ f.toNat then redLeaf c.x.ftz (V c a l) else (x32 c a l, 0)
    let r := scanGo (redOp f c.rmode c.x.ftz) leaf e (redIdentity f).toNat ((List.finRange 32).filter (inMask c.g)) none 0
    some { vs := [(d.toNat, c.g, fun l => BitVec.ofNat 32 (((r.1.find? fun p => p.1 = l).map (·.2)).getD 0))], flags := fun _ => r.2 }
  | _ => none

/-! ### Matrices -/

/-- Element (i, j) of a row-major list, and the list of an r×k matrix given element by element with the steps' flags. -/
def el (x : List Word) (cols i j : Nat) : Word := x.getD (i * cols + j) 0
def build (r k : Nat) (f : Nat → Nat → Word) : List Word := (List.range r).flatMap fun i => (List.range k).map fun j => f i j

/-- An arithmetic matrix instruction (R320). -/
def arith (d : Reg3) (r k : Nat) (f : Fin 32 → Nat → Nat → Word × FFlags) : Option Outcome :=
  some { mat := some (d, r, k, fun l => build r k fun i j => (f l i j).1)
         flags := fun l => ((List.range r).flatMap fun i => (List.range k).map fun j => (f l i j).2).foldl (fun a b => a ||| b) 0 }
/-- A move (R319). -/
def move (d : Reg3) (r k : Nat) (f : Fin 32 → List Word) : Option Outcome := some { mat := some (d, r, k, f) }

/-- The outcome of a matrix instruction; none where the shapes or indices do not meet the instruction's entry (R311). -/
def matrixOutcome (i : Instr) (c : Ctx) : Option Outcome :=
  let M (r : Reg3) : MReg := c.rm r
  let E (r : Reg3) (l : Fin 32) (i j : Nat) : Word := el (elements (M r) l) (M r).cols i j
  match i with
  | .mmov d a _ => move d (M a).rows (M a).cols (elements (M a))
  | .mget p a q v _ =>
    if p.toNat < (M a).rows ∧ q.toNat < (M a).cols then some { vs := [(v.toNat, c.g, fun l => E a l p.toNat q.toNat)] } else none
  | .mset d p q v _ =>
    let m := (freed i c).m[d.toNat]
    if p.toNat < m.rows ∧ q.toNat < m.cols then
      move d m.rows m.cols fun l => (elements m l).set (p.toNat * m.cols + q.toNat) (readV c.w0 v.toNat)[l]
    else none
  | .mzero d r k _ => move d (r.toNat + 1) (k.toNat + 1) fun _ => List.replicate ((r.toNat + 1) * (k.toNat + 1)) 0
  | .mident d r k _ => move d (r.toNat + 1) (k.toNat + 1) fun _ =>
    build (r.toNat + 1) (k.toNat + 1) fun i j => if i = j then 0x3F800000 else 0
  | .mtrn d a _ => move d (M a).cols (M a).rows fun l => build (M a).cols (M a).rows fun i j => E a l j i
  | .madd d a b _ =>
    if (M a).rows = (M b).rows ∧ (M a).cols = (M b).cols then
      arith d (M a).rows (M a).cols fun l i j => fadd32 (E a l i j) (E b l i j) else none
  | .msub d a b _ =>
    if (M a).rows = (M b).rows ∧ (M a).cols = (M b).cols then
      arith d (M a).rows (M a).cols fun l i j => fsub32 (E a l i j) (E b l i j) else none
  | .mscl d a v _ => arith d (M a).rows (M a).cols fun l i j => fmul32 (E a l i j) (readV c.w0 v.toNat)[l]
  | .mmul d a b _ =>
    if (M a).cols = (M b).rows then
      arith d (M a).rows (M b).cols fun l i j => dotSteps (fun k => E a l i k) (fun k => E b l k j) none (M a).cols else none
  | .mmult d a b _ =>
    if (M a).rows = (M b).rows then
      arith d (M a).cols (M b).cols fun l i j => dotSteps (fun k => E a l k i) (fun k => E b l k j) none (M a).rows else none
  | .mfma d a b k _ =>
    if (M a).cols = (M b).rows ∧ (M k).rows = (M a).rows ∧ (M k).cols = (M b).cols then
      arith d (M a).rows (M b).cols fun l i j =>
        dotSteps (fun k => E a l i k) (fun k => E b l k j) (some (E k l i j)) (M a).cols
    else none
  | .mchol d a _ =>
    if (M a).rows = (M a).cols then
      some { mat := some (d, (M a).rows, (M a).rows, fun l => (cholesky (M a).rows (elements (M a) l)).1)
             mf := some fun l => (cholesky (M a).rows (elements (M a) l)).2 }
    else none
  | .mlu d a v _ =>
    if (M a).rows = (M a).cols then
      some { mat := some (d, (M a).rows, (M a).rows, fun l => (luFactor (M a).rows (elements (M a) l)).1)
             vs := [(v.toNat, c.g, fun l => (luFactor (M a).rows (elements (M a) l)).2.1)]
             mf := some fun l => (luFactor (M a).rows (elements (M a) l)).2.2 }
    else none
  | .msolve d a b m _ =>
    if (M a).rows = (M a).cols ∧ (M b).rows = (M a).rows then
      let r (l : Fin 32) := solve m (M a).rows (M b).cols (elements (M a) l) (elements (M b) l) (V c (c.x.vc.getD 0) l)
      some { mat := some (d, (M a).rows, (M b).cols, fun l => (r l).1), mf := some fun l => (r l).2 }
    else none
  | .mflg m k _ => some { pred := some (k, fun l => decide ((c.w0.mf[l]).toNat % 16 &&& m.toNat ≠ 0)) }
  | _ => none

end Sys2Proof.Claims
end

