-- ==== Sys2Proof/Claims/Memory.lean ====
section
/-! DEFINITION. What the statements about memory are made of: the address of a lane (R66), the byte that a core sees at a physical
address through its caches (R62–R65), and the bytes of a lane's register group (R67). -/
namespace Sys2Proof.Claims

open Machine

/-- The context of an instruction once the frees of its group are done, which come before its effect (R30). -/
def begun (i : Instr) (c : Ctx) : Ctx := c.freeReads (shape i)

/-- The address or offset of a lane (R66). -/
def address (c : Ctx) (global p q : Bool) (v : BitVec 4) (r : Reg5) (l : Fin 32) : Dword :=
  operandB c 0 true + (if p then c.rs r else 0) +
    (if q then
      if global && !p then (readV c.w0 (2 * v.toNat + 1))[l] ++ (readV c.w0 (2 * v.toNat))[l]
      else ((readV c.w0 v.toNat)[l]).signExtend 64
     else 0)

/-- The lanes that take part, ascending, each with its address. -/
def addresses (c : Ctx) (f : Fin 32 → Dword) : List (Fin 32 × Dword) :=
  ((List.finRange 32).filter (inMask c.g)).map fun l => (l, f l)

/-- The lanes whose address has a property. -/
def lanesThat (as_ : List (Fin 32 × Dword)) (f : Dword → Bool) : Mask := maskOf fun l => as_.any fun a => decide (a.1 = l) && f a.2

/-- The registers of a load or store of a width code, named from d on (R67). -/
def group (d : Reg6) (w : BitVec 3) : List Nat := (List.range (widthRegs w)).map (d.toNat + ·)

/-- The writes of a load: the words that the bytes of each lane make, in the lanes of a mask. -/
def loadWrites (d : Reg6) (w : BitVec 3) (lanes : Mask) (bytes : Fin 32 → List Byte) : List (Nat × Mask × (Fin 32 → Word)) :=
  (List.range (widthRegs w)).map fun j => (d.toNat + j, lanes, fun l => (loadWords w (bytes l)).getD j 0)

/-- The bytes that a lane stores: the low ones of its group (R67). -/
def storeData (c : Ctx) (d : Reg6) (w : BitVec 3) (l : Fin 32) : List Byte :=
  ((group d w).flatMap fun n => leBytes ((readV c.w0 n)[l]).toNat 4).take (widthBytes w)

/-- The first address of a lane's matrix of n elements (R318). -/
def matrixAddress (c : Ctx) (a : Reg5) (n : Nat) (l : Fin 32) : Dword :=
  c.rs a + operandB c 0 true + BitVec.ofNat 64 l.val * match c.x.sc with
    | some r => c.rs r
    | none => BitVec.ofNat 64 (4 * n)

/-- The addresses of all elements of the lanes that take part, row by row, 4 bytes apart. -/
def matrixAddresses (c : Ctx) (a : Reg5) (n : Nat) : List (Fin 32 × Dword) :=
  ((List.finRange 32).filter (inMask c.g)).flatMap fun l => (List.range n).map fun j => (l, matrixAddress c a n l + BitVec.ofNat 64 (4 * j))

/-! ### What a core sees -/

/-- The byte below a core's L1: a valid byte of its cluster's cache for a line of a remote home, else the byte at home (R64). -/
def below (s : State) (core a : Nat) : Byte :=
  match (if s.remoteHome core a then tget s.clu (cluKey core (lineOf a)) else none) with
  | some l => if l.valid.getLsbD (a % 128) then l.bytes.getD (a % 128) 0 else memGet s.mem a
  | none => memGet s.mem a

/-- The byte that a plain load of a core sees: a valid byte of its L1, else the one below (R62). -/
def sees (s : State) (core a : Nat) : Byte :=
  match tget (s.core core).l1d (lineOf a) with
  | some l => if l.valid.getLsbD (a % 128) then l.bytes.getD (a % 128) 0 else below s core a
  | none => below s core a

/-- The byte that a load past the L1 sees: a dirty byte of the core's L1 or its cluster's cache, else the one at home (R103). -/
def seesPast (s : State) (core a : Nat) : Byte :=
  let home := match (if s.remoteHome core a then tget s.clu (cluKey core (lineOf a)) else none) with
    | some l => if l.dirty.getLsbD (a % 128) then l.bytes.getD (a % 128) 0 else memGet s.mem a
    | none => memGet s.mem a
  match tget (s.core core).l1d (lineOf a) with
  | some l => if l.dirty.getLsbD (a % 128) then l.bytes.getD (a % 128) 0 else home
  | none => home

/-- The byte that a load by a path sees. -/
def seesBy (s : State) (p : Path) (core a : Nat) : Byte :=
  match p with
  | .l1 => sees s core a
  | .past => seesPast s core a
  | .home => memGet s.mem a

/-- No store and no atomic request on its way comes before the entity's accesses: none of its own, none of its wave from before a split
(R105). -/
abbrev Settled (s : State) (core : Nat) (r : EntRef) : Prop :=
  (∀ p ∈ (s.core core).stores, comesBefore p.ent p.both r = false) ∧ (∀ q ∈ (s.core core).atoms, comesBefore q.ent q.both r = false)

/-- A core's L1 data cache of 256 KiB and its cluster's cache of 24 MiB take n more lines of 128 bytes and give up none (R62, R64). -/
abbrev CachesTake (s : State) (core n : Nat) : Prop :=
  (s.core core).l1d.length + n ≤ 256 * 1024 / 128 ∧ (s.cluKeys core).length + n ≤ 24 * 1024 * 1024 / 128

/-- Two states differ in lines of data caches only. -/
def SameButCaches (s t : State) : Prop :=
  { t with cores := [], clu := [] } = { s with cores := [], clu := [] } ∧
  ∀ n, { t.core n with l1d := [], c0used := 0, c0start := 0 } = { s.core n with l1d := [], c0used := 0, c0start := 0 }

/-- The byte that the lanes of a store write at an address: that of the last lane, in ascending order, whose bytes hold it (R70). -/
def storedByte (ps : List Place) (f : Fin 32 → List Byte) (a : Nat) : Option Byte :=
  (ps.reverse.find? fun p => decide (p.pa ≤ a) && decide (a < p.pa + (f p.lane).length)).map fun p => (f p.lane).getD (a - p.pa) 0

/-! ### Typed buffers -/

/-- The lanes of a typed-buffer access are aligned, within the slice and, for the C-buffer, within the wave's window (R52, R54,
R68). -/
abbrev BufferReady (c : Ctx) (space n : Nat) (as_ : List (Fin 32 × Dword)) : Prop :=
  (space = 4 → c.w0.grav.win = none) ∧
  ∀ a ∈ as_, a.2.toNat % n = 0 ∧ a.2.toNat + n ≤ (c.b.slice space).len ∧
    (space = 4 → c.w0.cwb ≤ a.2.toNat / 512 ∧ a.2.toNat / 512 < c.w0.cwl)

/-- The bytes of a slice from an offset on. -/
def sliceBytes (s : State) (b : Block) (space off n : Nat) : List Byte :=
  (List.range n).map fun j => s.bufByte b.core space ((b.slice space).base + off + j)

/-- No command of the Graver is in flight. -/
abbrev GraverIdle (s : State) : Prop := s.anyGraver (fun _ _ => true) = false

/-- The machine after a wave's store to its block's slice while no command of the Graver is in flight: the bytes are there, and where a
MATRIX wave runs in the cluster what they replaced is noted (R123). -/
def bufferStored (c : Ctx) (space : Nat) (s : State) (off : Nat) (bytes : List Byte) : State :=
  let at_ := (c.b.slice space).base + off
  let noted : State :=
    if s.matrixNear c.core then
      { s.modCore c.core fun k =>
          { k with late := { id := s.nextReq, wave := (c.r.blk, c.r.slot), space := space, off := at_
                             old := s.bufRead c.core space at_ bytes.length } :: k.late } with
        nextReq := s.nextReq + 1 }
    else s
  noted.bufWrite c.core space at_ bytes

/-- The wave's next context with a group of block state changes held in Level mode: an entity's held effects with one more. -/
def heldMore (c : Ctx) (hs : List Held) (e : Entity) : Prop := e.held = c.e.held ++ hs.map fun h => ((c.gpc, c.e.qcount), h)

end Sys2Proof.Claims
end

