-- ==== Sys2Proof/Claims/Atomic.lean ====
section
/-! DEFINITION. The operations of atomics as Table 5.14 gives them, and the elements of tensors as `LDT` and `STT` move them (R72). -/
namespace Sys2Proof.Claims

open Machine

/-- The new value of a location of 32 or 64 bits (Table 5.14, R127). -/
def newValue {n : Nat} (fop : BitVec 3) (signed : Bool) (old v k : BitVec n) : BitVec n :=
  let less (a b : BitVec n) : Bool := if signed then a.slt b else a.ult b
  match fop.toNat with
  | 0 => old + v
  | 1 => if less v old then v else old
  | 2 => if less old v then v else old
  | 3 => old &&& v
  | 4 => old ||| v
  | 5 => old ^^^ v
  | 6 => v
  | _ => if old = k then v else old

/-- The same for `.f32` (R127): `add` rounds to nearest even and keeps subnormals, `min` and `max` as `FMIN` and `FMAX`. -/
def newFloat (fop : BitVec 3) (old v : Word) : Word :=
  BitVec.ofNat 32 (if fop = 0 then fmt32.add .rne false old.toNat v.toNat
    else fmt32.minMax (decide (fop = 2)) false old.toNat v.toNat).1

/-- The bytes that an atomic of a type reads and writes. -/
def typeSize (ty : BitVec 3) : Nat := if ty = 2 ∨ ty = 3 then 8 else 4

/-- The new value of the location, as its bytes hold it. -/
def atomicValue (fop ty : BitVec 3) (old v k : Dword) : Dword :=
  if ty = 4 then (newFloat fop (old.setWidth 32) (v.setWidth 32)).setWidth 64
  else if ty = 2 ∨ ty = 3 then newValue fop (decide (ty = 2)) old v k
  else (newValue fop (decide (ty = 0)) (old.setWidth 32) (v.setWidth 32) (k.setWidth 32)).setWidth 64

/-- The operand of a lane: a register, or a pair for a 64-bit type. -/
def atomOperand (c : Ctx) (r : Reg6) (ty : BitVec 3) (l : Fin 32) : Dword :=
  if typeSize ty = 8 then c.rd r.toNat l else (V c r l).setWidth 64

/-- The address of a lane of `ATOM` and `RED`, and the A offset of one of `ATOMA` (R126). -/
def atomAddress (c : Ctx) (a : Reg6) (m : Bool) (l : Fin 32) : Dword :=
  if m then c.rs (c.x.sc.getD 0) + (V c a l).signExtend 64 else c.rd a.toNat l
def atomOffset (c : Ctx) (a : Reg6) (l : Fin 32) : Dword :=
  (V c a l).signExtend 64 + match c.x.sc with
    | some r => c.rs r
    | none => 0

/-- The request that a lane sends (R118, R119), from the core's sequence number on. -/
def requestOf (s : State) (c : Ctx) (fop ty : BitVec 3) (d : Reg6) (returns : Bool) (first : BitVec 24) (n : Nat) (p : Place) :
    AtomReq :=
  { seq := first + BitVec.ofNat 24 n, ent := s.cur, lane := p.lane.val, pa := p.pa, fop := fop, ty := ty
    val := atomOperand c d ty p.lane, cmp := atomOperand c (c.x.vc.getD 0) ty p.lane
    dst := if returns then some d else none
    via := p.via, cls := BitVec.ofNat 2 c.launch.prio
    tagged := (decide (c.ord = 4) || decide (c.ord = 5)) && decide (c.scope true ≤ 4)
    acq := if c.ord = 2 ∨ c.ord = 3 ∨ c.ord = 5 then c.scope true else 0
    racq := decide (c.ord = 3), grp := first, sent := s.now }

/-- The issuing wave with the names freed that its group frees, those of a list of names that the instruction turns out to read among
them (R42). -/
def freedWith (i : Instr) (c : Ctx) (ns : List Nat) : Wave :=
  if c.isSplit then freed i c else (freed i c).release (c.x.free.filter fun n => n ∈ ns)

/-- The names of a list are mapped in a wave, or it may take the entries it lacks. -/
abbrev RoomWith (c : Ctx) (w : Wave) (ns : List Nat) : Prop := RoomIn c w (unmapped w ns)

/-- A TID image as an entry keeps it: the reserved bits 127:90, 703:688 and 1023:768 of Table 3.4 are zero (R8). -/
def keptImage (im : List Byte) : List Byte :=
  (List.range 128).map fun j =>
    if j = 11 then im.getD j 0 &&& 3 else if (12 ≤ j ∧ j ≤ 15) ∨ j = 86 ∨ j = 87 ∨ 96 ≤ j then 0 else im.getD j 0

/-- A block after a write of a block-shared register: it holds x, and outside Level mode the write is noted beside those of the last 4
cycles (R116, R117). -/
def bregWritten (x : Dword) (n : BregWrite) (b : Block) : Block :=
  { b with breg := b.breg.set n.reg.toNat x (by omega)
           bregLog := if b.isLevel then b.bregLog else n :: b.bregLog.filter fun y => decide (n.at_ < y.at_ + 4) }

/-- A block after an entry was written outside Level mode: the old one may be found until the next barrier (R76). -/
def tidWritten (c : Ctx) (n : Nat) (entry : Option (List Byte)) (b : Block) : Block :=
  { b with tids := b.tids.set n entry
           tidLog := if b.isLevel then b.tidLog else (n, c.r.slot, (b.tids[n]?).getD none) :: b.tidLog }

/-- The coordinates of a lane's element, and whether they lie within the extents (R72). -/
def coordinates (c : Ctx) (t : Tid) (a : Reg6) (l : Fin 32) : List Nat :=
  (List.range t.rank).map fun j => ((readV c.w0 (a.toNat + j))[l]).toNat
abbrev Within (c : Ctx) (t : Tid) (a : Reg6) : Prop :=
  ∀ l, inMask c.g l = true → ∀ j, j < t.rank → ((readV c.w0 (a.toNat + j))[l]).toNat < t.ext.getD j 0

/-- An element's address (R61): base + Σ coordinate × stride. -/
def elementAddress (c : Ctx) (t : Tid) (a : Reg6) (l : Fin 32) : Dword :=
  t.base + ((List.range t.rank).map fun j => ((readV c.w0 (a.toNat + j))[l]).setWidth 64 * t.stride.getD j 0).sum

/-- The conversion of an element to FP32 (R72): its value times the scale, rounded once; and from FP32 to the element. -/
def loadedElement (t : Tid) (code : Nat) (scale : Option Nat) : Conv :=
  fmt32.convert t.mode false t.conv (match scale with
    | none => t.elem.value code
    | some x => (t.elem.value code).mul (fmt32.value x))
def storedElement (t : Tid) (x : Word) : Conv := t.elem.convert t.mode false t.conv (fmt32.value x.toNat)

/-- The register `fpf` and the count `satc` once conversions of the lanes have added theirs (R237). -/
def flaggedBy (c : Ctx) (w : Wave) (f : Fin 32 → Conv) : Wave :=
  { w with fpf := w.fpf ||| (gathered c.g fun l => (f l).flags).setWidth 64
           satc := BitVec.ofNat 32 (min (w.satc.toNat + ((List.finRange 32).filter (inMask c.g)).countP fun l => (f l).counted) 0xFFFFFFFF) }

/-! ### The causes of an access -/

/-- An access as its causes are looked for (R68, R89, R384): whether it is made once for the wave, the lanes that have each cause, in their
order, and the global addresses that it then translates. -/
structure Access where
  whole  : Bool
  causes : List (Nat × Mask)
  acc    : AccKind := .load
  as_    : List (Fin 32 × Dword) := []

/-- Of global memory: lanes that are misaligned, and others given that raise BOUNDS. -/
def globalAccess (whole : Bool) (acc : AccKind) (n : Nat) (as_ : List (Fin 32 × Dword)) (more : Mask := 0) : Access :=
  { whole := whole, causes := [(1, lanesThat as_ fun e => decide (e.toNat % n ≠ 0)), (2, more)], acc := acc, as_ := as_ }

/-- Of the block's slice (R52, R54): misaligned, outside the slice, outside the wave's window of the C-buffer. -/
def sliceAccess (c : Ctx) (whole : Bool) (space n : Nat) (as_ : List (Fin 32 × Dword)) (more : Mask := 0) : Access :=
  { whole := whole
    causes := [(1, lanesThat as_ fun e => decide (e.toNat % n ≠ 0)),
      (2, more ||| lanesThat as_ fun e => decide ((c.b.slice space).len < e.toNat + n)),
      (3, if space = 4 then lanesThat as_ fun e => decide (e.toNat / 512 < c.w0.cwb) || decide (c.w0.cwl ≤ e.toNat / 512) else 0)] }

/-- Of a buffer of the cluster (R55): misaligned, at no core of the cluster, outside the buffer. -/
def clusterAccess (rc n : Nat) (as_ : List (Fin 32 × Dword)) (more : Mask := 0) : Access :=
  { whole := false
    causes := [(1, lanesThat as_ fun e => decide (e.toNat % n ≠ 0)),
      (2, more ||| lanesThat as_ fun e => decide (12 ≤ rc) || decide (0x200000 < e.toNat + n))] }

/-- Of an element of a TID (R57, R72): an index without a valid entry raises BOUNDS once for the wave, as a store to a buffer of the cluster
does; lanes beyond the extents raise it with those outside the space. None where the word is ILLOP or waits. -/
def elementAccess (i : Instr) (c : Ctx) (store : Bool) (d a : Reg6) (r : Reg5) (cv : Bool) : Option Access :=
  let none' : Access := { whole := true, causes := [(2, BitVec.allOnes 32)] }
  match (begun i c).tidImage ((c.rs r).toNat % 256) with
  | none => some none'
  | some im =>
    let t := tidOf im
    let ok : Bool := decide (a.toNat + t.rank ≤ 64) && (cv || decide (t.esize ≠ 8) || decide (d.toNat % 2 = 0))
    if ok = false then none
    else if store && t.isRemote then some none'
    else if c.armOwes (names a t.rank ++ names d (t.regs cv)) then none
    else
      let as_ := addresses c (elementAddress c t a)
      let beyond := maskOf fun l => inMask c.g l && (List.range t.rank).any fun j =>
        decide (t.ext.getD j 0 ≤ ((readV c.w0 (a.toNat + j))[l]).toNat)
      some (if t.space = 1 then
          { globalAccess false (if store then .store else .load) t.esize as_ beyond with
            as_ := as_ ++ if !store && cv && decide (t.smode ≠ 0) then c.scaleAddrs t a else [] }
        else if t.isRemote then clusterAccess t.rcore t.esize as_ beyond
        else sliceAccess c false t.space t.esize as_ beyond)

/-- The access of an instruction, as its causes are looked for. -/
def accessOf (i : Instr) (c : Ctx) : Option Access :=
  let lanes (global p q : Bool) (v : BitVec 4) (r : Reg5) : List (Fin 32 × Dword) := addresses c (address c global p q v r)
  let load (space : Nat) (p q : Bool) (v : BitVec 4) (r : Reg5) (w : BitVec 3) : Option Access :=
    match c.x.sc with
    | none => some (sliceAccess c false space (widthBytes w) (lanes false p q v r))
    | some sc => if c.ord = 0 ∧ c.x.scp = 0 then some (clusterAccess ((c.rs sc).toNat % 16) (widthBytes w) (lanes false p q v r)) else none
  let scalar (a : Reg5) (n : Nat) (p : BitVec 2) (acc : AccKind) : Access :=
    let as_ : List (Fin 32 × Dword) := [(0, c.rs a + operandB c 0 true)]
    if p = 0 then globalAccess true acc n as_ else sliceAccess c true (p.toNat + 1) n as_
  match i with
  | .ld _ p q v r w _ => some (globalAccess false .load (widthBytes w) (lanes true p q v r))
  | .st _ p q v r w _ => some (globalAccess false .store (widthBytes w) (lanes true p q v r))
  | .lda _ p q v r w _ => load 3 p q v r w
  | .ldw _ p q v r w _ => load 2 p q v r w
  | .ldc _ p q v r w _ | .stc _ p q v r w _ => some (sliceAccess c false 4 (widthBytes w) (lanes false p q v r))
  | .sta _ p q v r w _ => some (sliceAccess c false 3 (widthBytes w) (lanes false p q v r))
  | .stw _ p q v r w _ => some (sliceAccess c false 2 (widthBytes w) (lanes false p q v r))
  | .sld _ a w p => some (scalar a (2 ^ (w.toNat % 4)) p .load)
  | .sst a _ w p => some (scalar a (2 ^ w.toNat) p .store)
  | .ldt d a r cv _ => elementAccess i c false d a r cv
  | .stt d a r cv _ => elementAccess i c true d a r cv
  | .mld _ r k a _ => some (globalAccess false .load 4 (matrixAddresses c a ((r.toNat + 1) * (k.toNat + 1))))
  | .mst a r _ => some (globalAccess false .store 4 (matrixAddresses c r ((c.rm a).rows * (c.rm a).cols)))
  | .mldA _ r k a _ => some (sliceAccess c false 3 4 (matrixAddresses c a ((r.toNat + 1) * (k.toNat + 1))))
  | .mstA a r _ => some (sliceAccess c false 3 4 (matrixAddresses c r ((c.rm a).rows * (c.rm a).cols)))
  | .atom _ a _ ty _ m _ | .red _ a _ ty _ m _ => some (globalAccess false .atomic (typeSize ty) (addresses c (atomAddress c a m)))
  | .atoma _ a _ ty _ _ => some (sliceAccess c false 3 (typeSize ty) (addresses c (atomOffset c a)))
  | _ => none

end Sys2Proof.Claims
end

