-- ==== Sys2Proof/Claims/Blocks.lean ====
section
/-! DEFINITION. What the statements about blocks are made of: a wave as it starts (R19, R162, R189, R204), waves that pass a barrier
(R293, R294), and records of `POST` (R201, R297). -/
namespace Sys2Proof.Claims

open Machine

/-- A wave as it starts: at the entry, all its lanes active, s0 its arguments and s1 the constant base, every other register zero or
unmapped, and no cause. -/
structure Started (kd : Kd) (args : Dword) (slot : Nat) (lanes : Mask) (w : Wave) : Prop where
  present : w.present = lanes
  exited : w.exited = 0
  pc : w.parent.pc = kd.entry
  xm : w.parent.xm = lanes
  arm : w.parent.arm = lanes
  stack : w.parent.stack = []
  wait : w.parent.wait = none
  frag : w.frag = none
  role : w.role = BitVec.ofNat 2 (natBits kd.rolemap.toNat (2 * slot + 1) (2 * slot))
  s0 : w.s[0] = args
  s1 : w.s[1] = kd.cbase
  s : ∀ n : Fin 32, 2 ≤ n.val → w.s[n] = 0
  v : w.v = Vector.replicate 64 none
  m : w.m = Vector.replicate 8 {}
  k : w.k = Vector.replicate 12 0
  cause : w.cause = 0
  fpx : w.fpx = 0
  fpf : w.fpf = 0

/-- The lanes of a wave of a launch block: all, but for the last wave's first lastl (R162). -/
def lanesOfWave (kd : Kd) (slot : Nat) : Mask := if slot + 1 = kd.wpb then BitVec.ofNat 32 (2 ^ kd.lastl - 1) else BitVec.allOnes 32

/-- Every wave of a block that has not exited has passed a barrier. -/
def Passed (b b' : Block) : Prop :=
  ∀ n w, tget b.waves n = some w → ∃ w', tget b'.waves n = some w' ∧
    (w.live = 0 → w' = w) ∧
    (w.live ≠ 0 → GoesOn w.parent w'.parent (w.parent.pc + 4) ∧ w'.frag = w.frag ∧ w'.s = w.s ∧ w'.v = w.v ∧ w'.k = w.k ∧ w'.m = w.m ∧
      (w.grav.win = none → w'.cwb = w.cwb ∧ w'.cwl = w.cwl) ∧
      (∀ lo hi, w.grav.win = some (lo, hi) → (∃ w0, tget b.waves 0 = some w0 ∧ w0.live ≠ 0) → w'.cwb = lo ∧ w'.cwl = hi ∧ w'.grav.win = none))

/-- The record of a lane (R201, R297): kslot, LOCAL, data and two arguments from eight registers. -/
def record (c : Ctx) (d : Reg6) (local_ : Bool) (l : Fin 32) : List Byte :=
  let w (j : Nat) : Word := (readV c.w0 (d.toNat + j))[l]
  [(w 0).setWidth 8, (w 0).extractLsb' 8 8, (((w 0).extractLsb' 16 1).setWidth 8) ||| (if local_ then 1 else 0), 0, 0, 0, 0, 0] ++
    ((List.range 6).flatMap fun j => leBytes (w (j + 2)).toNat 4)

/-- The task slot of a lane of `POST`. -/
def kslot (c : Ctx) (d : Reg6) (l : Fin 32) : Nat := (V c d l).toNat % 65536

/-- A core's head record may be dispatched (R203): it is not parked, its core is of a partition, and no saved block of its class or one
before it waits for the core. -/
structure MayDispatch (s : State) (core : Nat) (r : ShardRec) : Prop where
  head : (s.core core).headRecord = some r
  parked : s.isParked (.task core r.idx) = false
  owner : (s.partOf core).isSome = true
  partition : s.swapped (s.launch r.launch).part = false
  first : s.restoreFirst (s.launch r.launch).part (s.launch r.launch).prio = false

end Sys2Proof.Claims
end

