-- ==== Sys2Proof/Claims/Level.lean ====
section
/-! DEFINITION. What the statements about Level mode are made of (R211–R220): a block's held effects in commit order, what each does to the
block, its core's buffers and its stage, and what a released entry does to memory. -/
namespace Sys2Proof.Claims

open Machine

/-- The held effects of a block in commit order (R212), each with its entity: by wave, the parent before its fragment, in program order; those
of a fragment that has ended are its wave's. -/
def commitOrder (blk : Nat) (b : Block) : List (EntRef × Held) :=
  b.waves.flatMap fun p =>
    (p.2.parent.held ++ p.2.fragHeld).map (fun h => ({ blk := blk, slot := p.1, frag := false }, h.2)) ++
      ((p.2.frag.map (·.held)).getD []).map fun h => ({ blk := blk, slot := p.1, frag := true }, h.2)

/-- The effects of the held and staged classes of Table 9.1 and those on tiles: all but a Graver command and a held instruction. -/
def isPlain (h : Held) : Bool :=
  match h with
  | .gcmd .. | .instr .. => false
  | _ => true

/-- A block, the buffers of its core, and what has entered its stage. -/
structure Committing where
  block : Block
  state : State
  entries : List StageEntry := []

/-- After a plain held effect of an entity: one on the block's own state takes place, and the others enter the stage; the release of a
tile that the block holds enters with the block's copy, and the block holds it no more. -/
def committing (x : Committing) (r : EntRef) (h : Held) : Committing :=
  match h with
  | .buf space off bytes => { x with state := x.state.bufWrite x.block.core space ((x.block.slice space).base + off) bytes }
  | .breg n v => { x with block := { x.block with breg := x.block.breg.set n.toNat v (by omega) } }
  | .tid t im => { x with block := { x.block with tids := x.block.tids.set t im } }
  | .key k => { x with block := { x.block with key := k } }
  | .store pa bytes via lane => { x with entries := x.entries ++ [.store pa bytes via r lane] }
  | .red fop ty pa v via lane => { x with entries := x.entries ++ [.red fop ty pa v via r lane] }
  | .record bytes core => { x with entries := x.entries ++ [.record bytes core] }
  | .tacq q => { x with entries := x.entries ++ [.tacq q] }
  | .trel pa via =>
    match x.block.tiles.find? fun t => t.pa = pa && t.view = .held with
    | none => x
    | some t =>
      { x with
        block := { x.block with tiles := x.block.tiles.filter fun u => !(u.pa = pa && u.view = .held) }
        entries := x.entries ++ [.trel pa t.kind (sliceBytes x.state x.block 3 t.aoff t.size) via] }
  | .gcmd .. | .instr .. => x

/-- Memory after the Notch has released a store or a reduction (R215). -/
def released (m : List Host.Cell) (x : StageEntry) : List Host.Cell :=
  match x with
  | .store pa bytes .. => memWrite m pa bytes
  | .red fop ty pa v .. =>
    memWrite m pa (leBytes (atomicValue fop ty (BitVec.ofNat 64 (leNat (memRead m pa (typeSize ty)))) v 0).toNat (typeSize ty))
  | _ => m

/-- An entry that the Notch applies to memory, on a module that can be reached. -/
def Landing (s : State) (x : StageEntry) : Prop :=
  match x with
  | .store pa .. => s.reachable pa = true
  | .red fop ty pa .. => s.reachable pa = true ∧ (ty = 4 → fop.toNat < 3)
  | _ => False

/-- A level block that may come to a quantum boundary, with no commit in progress. -/
structure AtBoundary (b : Block) (lv : BlockLevel) : Prop where
  level : b.level = some lv
  halt : b.halt = none
  ended : b.ended = false
  here : b.res ≠ .swapped
  reported : b.reported = false
  waves : b.waves ≠ []
  idle : lv.committing = false
  traps : lv.traps = []

/-- A level block of one wave, at a boundary that closes no segment, with one held effect, that of the instruction at a pc; it awaits
nothing. -/
structure OneHeld (s : State) (blk : Nat) (b : Block) (lv : BlockLevel) (slot : Nat) (w : Wave) (pc : Dword) (h : Held) : Prop where
  here : tget s.blocks blk = some b
  boundary : AtBoundary b lv
  opened : lv.waitKey = none ∧ lv.cbarSeg = none ∧ lv.seg = false
  one : b.waves = [(slot, w)]
  wave : slot < 16 ∧ w.atEnd = true ∧ w.live ≠ 0 ∧ w.frag = none ∧ w.fragHeld = [] ∧ w.saved = none ∧ w.pending = none ∧ w.window = none ∧
    w.parent.wait = none
  held : ∃ n, w.parent.held = [((pc, n), h)]
  results : ∀ q ∈ (s.core b.core).stip, q.ent.blk ≠ blk

/-- What the commit performs of a held Graver command or instruction of an entity: the effect of the command, or of the instruction as it read
its registers, its hints and its mask at its issue, on the machine as it stands. -/
def heldEffect (s : State) (r : EntRef) (h : Held) : Option (Except Stop Ctx) :=
  match h with
  | .gcmd q ring => (s.commitCtx r .grdy).map fun c => c.gcmdEnter q ring
  | .instr i hints pc xm regs v k places =>
    (s.commitCtx r i).bind fun c => (heldBody i places).map fun body => body (c.asIssued hints pc xm regs v k)
  | _ => none

/-- The instructions whose effects wait whole for the commit (Table 9.1), but for `ATOM`, which translates at its issue, and `GFENCE`, which
writes its number then. -/
def isHeldWhole (i : Instr) : Bool :=
  match i with
  | .atoma .. | .bsxch .. | .bsadd .. | .cpy .. | .cpyt .. | .grdy | .trace .. | .traceAny .. | .vapp .. | .vseal .. | .vconn .. | .vmerge ..
  | .vrwt .. | .vget .. | .vref .. | .vrel .. | .vgen .. => true
  | _ => false
/-- Those that end the quantum (Table 9.1). -/
def endsQuantum (i : Instr) : Bool :=
  match i with
  | .atoma .. | .bsxch .. | .bsadd .. | .vapp .. | .vconn .. | .vmerge .. | .vrwt .. | .vget .. => true
  | _ => false

/-- The registers of a wave that are mapped, or that another state of it has mapped, the new ones as zero. -/
def mappedLike (v x : Vector (Option (Lanes Word)) 64) : Vector (Option (Lanes Word)) 64 :=
  Vector.ofFn fun n => if v[n].isNone && x[n].isSome then some zeroLanes else v[n]

/-- The addend of an `ATOM.add` as an exact number (R220). -/
def addend (ty : BitVec 3) (v : Dword) : Int :=
  if ty = 0 ∨ ty = 2 then sextInt v.toNat (8 * typeSize ty) else ((v.toNat % 2 ^ (8 * typeSize ty) : Nat) : Int)

/-- Reservations of a block at locations, one after another (R220): a slot of 8 for each location, whose count after an addend lies from 0 to
RESV; the counts before each, and the slots afterwards. None where one fails. -/
def reserved (resv : Nat) : List (Nat × Int) → List (Nat × Int) → Option (List Int × List (Nat × Int))
  | slots, [] => some ([], slots)
  | slots, (pa, x) :: rest =>
    match slots.find? fun y => y.1 = pa with
    | some (_, n) =>
      if n + x < 0 ∨ (resv : Int) < n + x then none
      else (reserved resv (slots.map fun y => if y.1 = pa then (pa, n + x) else y) rest).map fun z => (n :: z.1, z.2)
    | none =>
      if 8 ≤ slots.length ∨ x < 0 ∨ (resv : Int) < x then none
      else (reserved resv (slots ++ [(pa, x)]) rest).map fun z => (0 :: z.1, z.2)

/-- An entity that starts its next quantum, when it waits for nothing. -/
def Begins (e e' : Entity) : Prop :=
  e'.held = [] ∧ (e.wait = none → e.stopped = false → e'.qended = false ∧ e'.qcount = 0 ∧ e'.pc = e.pc ∧ e'.xm = e.xm ∧ e'.stack = e.stack)

end Sys2Proof.Claims
end

