-- ==== Sys2Proof/Claims/Stipple.lean ====
section
/-! DEFINITION. The Stipple's instructions as the statements see them: their sources and what they order (Table 18.7, R365), the vertices
that may be named (R355), and the weights of R358. -/
namespace Sys2Proof.Claims

open Machine

/-- What a Stipple instruction takes: its source registers, whether it seals (a release), whether it reads records (an acquire), and
the multiplicity that it carries. -/
structure StippleForm where
  src : List Nat
  seals : Bool
  reads : Bool
  m : Word := 0

/-- The form of a Stipple instruction (Table 18.7, R365); `VRWT`'s multiplicity is bits 31:0 of S[sc] as FP32 (R369). -/
def stippleForm (i : Instr) (c : Ctx) : Option StippleForm :=
  let regs (a : Reg6) (n : Nat) : List Nat := (List.range n).map (a.toNat + ·)
  match i with
  | .vapp _ a _ m _ => some { src := regs a 16, seals := m, reads := true }
  | .vseal _ a _ _ => some { src := [a.toNat], seals := true, reads := false }
  | .vconn _ a _ _ => some { src := regs a 4, seals := false, reads := true }
  | .vmerge _ a _ _ => some { src := regs a 4, seals := false, reads := true }
  | .vrwt _ a _ _ => some { src := regs a 4, seals := false, reads := true,
                            m := rne32 (.fin false ((c.rs (c.x.sc.getD 0)).toNat % 2 ^ 32) 1) }
  | .vget _ a _ _ => some { src := [a.toNat], seals := false, reads := true }
  | .vref _ a _ _ => some { src := [a.toNat], seals := false, reads := false }
  | .vrel _ a _ _ => some { src := [a.toNat], seals := false, reads := false }
  | .vgen _ a _ _ => some { src := [a.toNat], seals := false, reads := false }
  | _ => none

/-- The registers that it writes. -/
def stippleDest (i : Instr) : List Nat :=
  let regs (d : Reg6) (n : Nat) : List Nat := (List.range n).map (d.toNat + ·)
  match i with
  | .vapp d .. | .vconn d .. | .vrwt d .. => regs d 2
  | .vseal d .. | .vref d .. | .vrel d .. | .vgen d .. => regs d 1
  | .vmerge d .. => regs d 9
  | .vget d .. => regs d 16
  | _ => []

/-- An identifier that names a live vertex which cannot retire now (R355, R363). -/
structure Named (s : State) (id : Word) : Prop where
  slot : idSlot id < 2 ^ s.hub.stip.ncap.toNat
  some : id ≠ 0xFFFFFFFF
  live : (tget (s.stipPlate (idPlate id)).live (idSlot id)).isSome = true
  gen : rGen (s.record id) % 8 = idGen id
  kept : s.eligible (idPlate id) (idSlot id) = false

/-- An identifier that is in order but stale (R355). -/
abbrev Stale (s : State) (id : Word) : Prop :=
  idSlot id < 2 ^ s.hub.stip.ncap.toNat ∧ id ≠ 0xFFFFFFFF ∧
  ((tget (s.stipPlate (idPlate id)).live (idSlot id)) = none ∨ rGen (s.record id) % 8 ≠ idGen id)

/-- The heuristic ρ (Table 18.2), and D of R358. -/
def heuristic (s : State) (x : Word) : Word := if s.hub.stip.heur then mul32 x x else x
def connectionSum (s : State) (E Λ : Nat) (re rl : Word) : Word :=
  let term (rx : Word) (X : Nat) : Word :=
    mul32 (heuristic s (div32 rx (rPdfFwd X))) (add32 (if rPconn X then 0x3F800000 else 0) (rL X))
  add32 (add32 0x3F800000 (term rl Λ)) (term re E)

/-- A density ratio of a connection, or ρ of one, is beyond the format (R358). -/
def Overflows (s : State) (E Λ : Nat) (re rl : Word) : Prop :=
  ∃ x ∈ [heuristic s (div32 rl (rPdfFwd Λ)), heuristic s (div32 re (rPdfFwd E))], ∀ neg n (d : Nat), fv32 x ≠ .fin neg n d

/-- The records of two identifiers lie apart. -/
abbrev Apart (s : State) (x y : Word) : Prop :=
  let a := s.recordAt (idPlate x) (idSlot x)
  let b := s.recordAt (idPlate y) (idSlot y)
  a + 64 ≤ b ∨ b + 64 ≤ a

end Sys2Proof.Claims
end

