-- ==== Sys2Proof/Certificates/Slice0/Obligations.lean ====
section
/-! DEFINITION. The statements, one definition each, over the vocabulary and the result tables of Sys2Proof/Claims. -/
section
open Sys2Proof Sys2Proof.Machine Sys2Proof.Claims

/-! ### Registers -/

/-- R250–R253, R265, R266, R269 and the scalar and predicate results of R248 and R267: a scalar instruction writes its value into S[d]; an
instruction that writes a predicate writes its bits in the lanes that take part. Nothing else changes. `SMOVI` traps ILLOP with an `HSRC` or `HMOD` in its group.
A scalar register is read as it stands; in a split wave outside Level mode, as it stands or as it stood before a write of the wave's other
entity (R171).
The model's own choices and readings here: log 78. -/
def Obligations.ScalarAndPredicateResults : Prop :=
  (∀ s d v c, s.issuer (.smovi d v) = some c → c.armBusy = false → (c.x.vc ≠ none ∨ c.x.sc ≠ none ∨ c.x.hasMod = true) →
    exec (.smovi d v) s = .next (trapped c 0)) ∧
  decode 0x12C00001 = .ok (.smovi 12 1) ∧
  (∀ s i c d x, Issues s i c → scalarResult i c = some (d, x) →
    ∃ t w, exec i s = .next t ∧ Retires s c t w ∧
      noEntities w = noEntities { freed i c with s := c.w0.s.set d.toNat x (by omega) }) ∧
  (∀ s i c d f, Issues s i c → predicateResult i c = some (d, f) →
    ∃ t w, exec i s = .next t ∧ Retires s c t w ∧
      noEntities w = noEntities { freed i c with k := writeK c.w0.k d c.g f }) ∧
  (∀ (c : Ctx) r,
    c.rs r ∈ c.w0.s[r.toNat] :: (c.w0.slog.filter fun x => x.1 = r && decide (x.2.1 ≠ c.r.frag)).map (·.2.2) ∧
    (c.w0.frag = none ∨ c.b.isLevel = true → c.rs r = c.w0.s[r.toNat]))

/-- R256–R264, R277–R279 and the vector results of R246, R247, R253, R267 and R276: in the lanes that take part a vector
instruction writes its values, other lanes and other registers keep theirs. `VMAD` without a third source traps ILLOP. -/
def Obligations.VectorResults : Prop :=
  (∀ s i c ws, Issues s i c → vectorResult i c = some ws → HasRoom i c (ws.map (·.1)) →
    ∃ t w, exec i s = .next t ∧ Retires s c t w ∧
      noEntities w = noEntities { freed i c with v := writeV (freed i c).v ws }) ∧
  (∀ s d a b la lb gd c, s.issuer (.vmad d a b la lb gd) = some c → c.armBusy = false → c.x.vc = none →
    exec (.vmad d a b la lb gd) s = .next (trapped c 0))

/-- R270–R276, R242–R245, R281, R282, R309–R324 and `FCMP` of R265: the registers, matrix elements and shape, flags, `mf` and saturation
count that a floating-point, conversion, reduction or matrix instruction leaves, when it flags no exception that `fpx` enables.
The model's own choices and readings here: log 10, 20, 35, 36, 37, 70 and 102. -/
def Obligations.ArithmeticResults : Prop :=
  ∀ s i c o, Issues s i c →
    (floatOutcome i c = some o ∨ conversionOutcome i c = some o ∨ reductionOutcome i c = some o ∨ matrixOutcome i c = some o) →
    OutcomeRoom i c o → raised c o = 0 →
    ∃ t w, exec i s = .next t ∧ Retires s c t w ∧ noEntities w = noEntities (after i c o)

/-- R390: an enabled exception that an instruction flags opens the wave's collection window, or joins the open one; the registers
are written all the same, and the entity goes on.
The model's own choices and readings here: log 10, 20, 35, 36, 37, 70 and 102. -/
def Obligations.FlaggedExceptions : Prop :=
  ∀ s i c o, Issues s i c →
    (floatOutcome i c = some o ∨ conversionOutcome i c = some o ∨ reductionOutcome i c = some o ∨ matrixOutcome i c = some o) →
    OutcomeRoom i c o → raised c o ≠ 0 → c.isHandler = false → c.isSurrender = false → c.b.halt = none →
    ∃ t w e, exec i s = .next t ∧ waveAt t s.cur = some w ∧ w.entity s.cur.frag = some e ∧ GoesOn c.e e (c.e.pc + 4) ∧
      Elsewhere s t ∧
      { noEntities w with window := none } = { noEntities (after i c o) with window := none } ∧
      w.window = some (match c.w0.window with
        | none =>
          { opened := s.now
            report := { pc := c.gpc, causes := raised c o, byFrag := s.cur.frag
                        lane := ((List.finRange 32).find? fun l => inMask (raisedLanes c o) l).map (·.val) }
            cmask := raisedLanes c o }
        | some f => { f with report := { f.report with causes := f.report.causes ||| raised c o } })

/-- R166, R253, R267, R280 with Table 11.2: `SWR` writes `fpx`, `fpf`, `satc` and, in a handler, `epc`, reserved bits reading as zero;
outside a handler a write of `epc` traps PRIV and writes nothing. `XMSET` sets the entity's mask within its arm. `RDFL` writes S[s] with the
value of the lowest lane that takes part and the predicate of the lanes that hold it, and writes nothing when no lane takes part. -/
def Obligations.SpecialRegisterWrites : Prop :=
  (∀ s a n c, Issues s (.swr a n) c →
     (¬ (n = 0x12 ∧ c.isHandler = false) →
       ∃ t w, exec (.swr a n) s = .next t ∧ Retires s c t w ∧
         noEntities w = noEntities (
           let x : Dword := c.rs a
           if n = 0x12 then { freed (.swr a n) c with epc := x }
           else if n = 0x14 then { freed (.swr a n) c with fpx := x &&& 0x3F }
           else if n = 0x15 then { freed (.swr a n) c with fpf := x &&& 0x1F }
           else if n = 0x1A then { freed (.swr a n) c with satc := x.setWidth 32 }
           else freed (.swr a n) c)) ∧
     (n = 0x12 → c.isHandler = false →
       exec (.swr a n) s = .next (c.put.raise s.cur { bits := causeBit 29 } c.gpc (c.e.pc + 4)))) ∧
  (∀ s r c, Issues s (.xmset r) c →
    ∃ t w e, exec (.xmset r) s = .next t ∧ waveAt t s.cur = some w ∧ w.entity s.cur.frag = some e ∧
      GoesOn { c.e with xm := (c.rs (r.setWidth 5)).setWidth 32 &&& c.e.arm } e (c.e.pc + 4) ∧
      noEntities w = noEntities (freed (.xmset r) c) ∧ Elsewhere s t) ∧
  (∀ s k a r m gd c, Issues s (.rdfl k a r m gd) c →
    ∃ t w, exec (.rdfl k a r m gd) s = .next t ∧ Retires s c t w ∧
      noEntities w = noEntities (
        let v (l : Fin 32) : Dword := if m then c.rd a.toNat l else (V c a l).setWidth 64
        match (List.finRange 32).find? fun l => inMask c.g l with
        | none => freed (.rdfl k a r m gd) c
        | some f => { freed (.rdfl k a r m gd) c with
            s := c.w0.s.set r.toNat (v f) (by omega)
            k := writeK c.w0.k (k.setWidth 4) c.g fun l => v l == v f }))
/-! ### Control -/

/-- R283, R285, R304, R292: a uniform branch goes to its target where its condition holds, else to the next word; `CALL` writes the
return address and goes, and traps ILLOP with an `HSRC` or `HMOD` in its group; `ISYNC` drops what was fetched; `NAP` sleeps for its clamped number of cycles. -/
def Obligations.Transfers : Prop :=
  (∀ s d v c, s.issuer (.call d v) = some c → c.armBusy = false → (c.x.vc ≠ none ∨ c.x.sc ≠ none ∨ c.x.hasMod = true) →
    exec (.call d v) s = .next (trapped c 0)) ∧
  decode 0x05E0000C = .ok (.call 30 12) ∧
  (∀ s m k n o c, Issues s (.bra m k n o) c → m.toNat < 4 →
    ∃ t w e, exec (.bra m k n o) s = .next t ∧ Leaves s c t w e ∧ noEntities w = noEntities (freed (.bra m k n o) c) ∧
      GoesOn c.e e (if taken c m k n then c.e.pc + offset c o else c.e.pc + 4)) ∧
  (∀ s d v c, Issues s (.call d v) c →
    ∃ t w e, exec (.call d v) s = .next t ∧ Leaves s c t w e ∧ GoesOn c.e e (c.e.pc + offset c v) ∧
      noEntities w = noEntities { freed (.call d v) c with s := c.w0.s.set d.toNat (c.e.pc + 4) (by omega) }) ∧
  (∀ s c, Issues s .isync c →
    ∃ t w e, exec .isync s = .next t ∧ Leaves s c t w e ∧ GoesOn c.e e (c.e.pc + 4) ∧ e.fetched = [] ∧ e.loop = none ∧
      noEntities w = noEntities (freed .isync c)) ∧
  (∀ s a c, Issues s (.nap a) c →
    ∃ t w e, exec (.nap a) s = .next t ∧ Leaves s c t w e ∧ noEntities w = noEntities (freed (.nap a) c) ∧
      GoesOn { c.e with napEnd := s.now + max 1 (min (c.rs a).toNat 65536) } e (c.e.pc + 4))

/-- R287: a register transfer goes to S[a], and `CALLS` links; a target that is not a multiple of 4 traps ALIGN, one of 2^57 or more
XLATE, and then there is neither a transfer nor a link. -/
def Obligations.RegisterTransfers : Prop :=
  ∀ s i a link c, Issues s i c →
    ((i = .jmps a ∧ link = none) ∨ (i = .ret a ∧ link = none) ∨ (∃ d, i = .calls d a ∧ link = some d)) →
    ((c.rs a).toNat % 4 ≠ 0 → exec i s = .next (trapped c 1)) ∧
    ((c.rs a).toNat % 4 = 0 → 2 ^ 57 ≤ (c.rs a).toNat → exec i s = .next (trapped c 4)) ∧
    ((c.rs a).toNat % 4 = 0 → (c.rs a).toNat < 2 ^ 57 →
      ∃ t w e, exec i s = .next t ∧ Leaves s c t w e ∧ GoesOn c.e e (c.rs a) ∧
        noEntities w = noEntities { freed i c with
          s := match link with
            | some d => c.w0.s.set d.toNat (c.e.pc + 4) (by omega)
            | none => c.w0.s })

/-- R168, R169, R283: `BRA.div` falls through where no lane takes the branch and goes where every lane does; else it splits: an unsplit
wave into parent and fragment, a split one onto the entity's mask stack.
The model's own choices and readings here: log 38 and 83. -/
def Obligations.DivergentBranches : Prop :=
  ∀ s k n o c, Issues s (.bra 4 k n o) c →
    let C := condition c k n
    let x : Side := { lanes := C, pc := c.e.pc + offset c o }
    let y : Side := { lanes := c.e.xm &&& ~~~ C, pc := c.e.pc + 4 }
    ∃ t w e, exec (.bra 4 k n o) s = .next t ∧ waveAt t s.cur = some w ∧ w.entity s.cur.frag = some e ∧
      { noEntities w with frag := none } = noEntities (freed (.bra 4 k n o) c) ∧
      (s.traces c.b = false →
        Elsewhere (if C ≠ 0 ∧ C ≠ c.e.xm ∧ c.w0.frag = none ∧ c.e.stack = [] then s.markBoth c.core s.cur else s) t) ∧
      (C = 0 → GoesOn c.e e (c.e.pc + 4) ∧ w.entity (!s.cur.frag) = c.w0.entity (!s.cur.frag)) ∧
      (C ≠ 0 → C = c.e.xm → GoesOn c.e e x.pc ∧ w.entity (!s.cur.frag) = c.w0.entity (!s.cur.frag)) ∧
      (C ≠ 0 → C ≠ c.e.xm → c.w0.frag = none → c.e.stack = [] →
        ∃ f, w.frag = some f ∧ f.stack = [] ∧ f.hints = [] ∧ f.wait = none ∧
          (∀ p q : Side, ((p = x ∧ q = y) ∨ (p = y ∧ q = x)) → detaches p q →
            f.pc = p.pc ∧ f.xm = p.lanes ∧ f.arm = p.lanes ∧
              GoesOn { c.e with xm := q.lanes, arm := armOf c q } e q.pc)) ∧
      (C ≠ 0 → C ≠ c.e.xm → ¬ (c.w0.frag = none ∧ c.e.stack = []) →
        w.entity (!s.cur.frag) = c.w0.entity (!s.cur.frag) ∧
        ∀ p q : Side, ((p = x ∧ q = y) ∨ (p = y ∧ q = x)) → runsFirst p q →
          GoesOn { c.e with xm := p.lanes, arm := armOf c p
                            stack := { arm := q.lanes, xm := q.lanes, pc := q.pc } :: c.e.stack } e p.pc)

/-- R170, R289, R290: `REJOIN` pairs with the innermost open split of the entity's stack, or with the wave's other entity. The lanes of an
exiting arm have exited: an entity with an open split goes on with the other arm; one of two entities of a wave ends and leaves the wave
to the other; the exit of a wave's last entity waits for earlier requests, and then the wave is gone while the other waves of its
block stand as they were.
The model's own choices and readings here: log 31 and 38. -/
def Obligations.RejoinsAndExits : Prop :=
  (∀ s c, Issues s .rejoin c →
    (∀ u rest, c.e.stack = u :: rest →
      (u.partner = false → u.stopped = true → c.e.pc ≠ u.pc → exec .rejoin s = .next (trapped c 7 (some c.e.arm))) ∧
      (¬ (u.partner = false ∧ u.stopped = true ∧ c.e.pc ≠ u.pc) →
        ∃ t w e, exec .rejoin s = .next t ∧ Leaves s c t w e ∧ noEntities w = noEntities (freed .rejoin c) ∧
          (u.partner = true → GoesOn { c.e with stack := rest } e (c.e.pc + 4)) ∧
          (u.partner = false → u.stopped = false →
            GoesOn { c.e with stack := { arm := c.e.arm, xm := c.e.xm, pc := c.e.pc, stopped := true } :: rest, arm := u.arm, xm := u.xm }
              e u.pc) ∧
          (u.partner = false → u.stopped = true → c.e.pc = u.pc →
            GoesOn { c.e with stack := rest, arm := c.e.arm ||| u.arm, xm := (c.e.xm ||| u.xm) &&& ~~~ c.w0.exited } e (c.e.pc + 4)))) ∧
    (c.e.stack = [] → c.w0.frag = none →
      ∃ t w e, exec .rejoin s = .next t ∧ Leaves s c t w e ∧ GoesOn c.e e (c.e.pc + 4) ∧
        noEntities w = noEntities (freed .rejoin c)) ∧
    (∀ o, c.e.stack = [] → c.w0.frag.isSome = true → c.w0.entity (!s.cur.frag) = some o →
      (o.stopped = false →
        ∃ t w e, exec .rejoin s = .next t ∧ Leaves s c t w e ∧ noEntities w = noEntities (freed .rejoin c) ∧
          GoesOn { c.e with stopped := true, qended := c.b.isLevel || c.e.qended } e c.e.pc) ∧
      (o.stopped = true → o.pc ≠ c.e.pc → exec .rejoin s = .next (trapped c 7 (some c.e.arm))) ∧
      (o.stopped = true → o.pc = c.e.pc →
        ∃ t w, exec .rejoin s = .next t ∧ waveAt t s.cur = some w ∧ w.frag = none ∧
          noEntities w = noEntities (freed .rejoin c) ∧ w.parent.pc = c.e.pc + 4 ∧ w.parent.hints = [] ∧
          w.parent.arm = c.e.arm ||| o.arm ∧ w.parent.xm = (c.e.xm ||| o.xm) &&& ~~~ c.w0.exited))) ∧
  (∀ s c, Issues s .exit c →
    (∀ u rest, c.e.stack = u :: rest → (u.stopped = true ∨ u.partner = false) →
      ∃ t w e, exec .exit s = .next t ∧ Leaves s c t w e ∧
        noEntities w = noEntities { freed .exit c with exited := c.w0.exited ||| c.e.arm } ∧
        (u.stopped = true → GoesOn { c.e with arm := u.arm, xm := u.xm, stack := rest, qended := c.level || c.e.qended } e (u.pc + 4)) ∧
        (u.stopped = false →
          GoesOn { c.e with arm := u.arm, xm := u.xm, stack := { u with partner := true } :: rest, qended := c.level || c.e.qended } e u.pc)) ∧
    (∀ o, c.e.stack = [] → c.w0.frag.isSome = true → c.w0.entity (!s.cur.frag) = some o →
      ∃ t w, exec .exit s = .next t ∧ waveAt t s.cur = some w ∧ w.frag = none ∧ w.exited = c.w0.exited ||| c.e.arm ∧
        w.s = c.w0.s ∧ w.k = c.w0.k ∧ w.parent.xm = o.xm ∧ w.parent.arm = o.arm ∧
        w.parent.pc = (if o.stopped then o.pc + 4 else o.pc) ∧ w.parent.stopped = false) ∧
    (c.e.stack = [] → c.w0.frag = none → s.outstanding c.core s.cur.blk s.cur.slot = true →
      ∃ t w e, exec .exit s = .next t ∧ waveAt t s.cur = some w ∧ w.entity s.cur.frag = some e ∧ e.wait = some .drain ∧
        e.pc = c.gpc ∧ noEntities w = noEntities c.w0) ∧
    (c.e.stack = [] → c.w0.frag = none → s.outstanding c.core s.cur.blk s.cur.slot = false →
      (∀ q ∈ c.w0.grav.queue, q.done = true) → c.b.level = none → tsorted c.b.waves = true →
      (∃ n w, n ≠ s.cur.slot ∧ tget c.b.waves n = some w) → (∃ c1, (begun .exit c).putRetire = .ok c1) →
      ∃ t b, exec .exit s = .next t ∧ waveAt t s.cur = none ∧ tget t.blocks s.cur.blk = some b ∧
        ∀ n, n ≠ s.cur.slot → b.wave n = c.b.wave n))

/-! ### Memory -/

/-- R66–R70: `LD` once its lanes have translated. The registers of its group receive the words of the loaded bytes, now, or when the
data arrive from a remote home; a `.racq` that meets release tags waits for the promotions they ask for (R114). A load that needs the fabric
waits while its requests are held at their source, by the rate of C0 requests (R422) or a route that drains (R423).
The model's own choices and readings here: log 9, 33 and 34. -/
def Obligations.GlobalLoads : Prop :=
  ∀ s d p q v r w gd c c1 ps, Issues s (.ld d p q v r w gd) c →
    let i : Instr := .ld d p q v r w gd
    (begun i c).globalLanes .load false (widthBytes w) (addresses c (address c true p q v r)) = .ok (c1, ps) →
    HasRoom i c (group d w) →
    let x := c1.loadAll (widthBytes w) ps
    let promotes : Prop := c.ord = 3 ∧ x.2.taggers (ps.map (·.pa)) ≠ []
    (¬ Admitted c x.2.sends → exec i s = .next (heldBack c x.2.sends)) ∧
    (Admitted c x.2.sends → ∃ t w' e, exec i s = .next t ∧ waveAt t s.cur = some w' ∧ w'.entity s.cur.frag = some e ∧
      w'.entity (!s.cur.frag) = c.w0.entity (!s.cur.frag) ∧
      { noEntities w' with racq := [], racqFull := false } = { noEntities (freed i c) with
          v := writeV (freed i c).v (loadWrites d w (if x.1.far then 0 else c.g) x.1.at), racq := [], racqFull := false } ∧
      GoesOn c.e { e with wait := none } (c.e.pc + 4) ∧
      (x.1.far = true → e.wait = some .data ∧
        ∃ l ∈ (t.core c.core).loads, l.ent = s.cur ∧ l.sreg = none ∧ l.mreg = none ∧
          l.vregs = (List.range (widthRegs w)).map fun j =>
            (BitVec.ofNat 6 (d.toNat + j), c.g, lanesOf fun n => (loadWords w (x.1.at n)).getD j 0)) ∧
      (x.1.far = false → promotes → e.wait = some .promote) ∧
      (x.1.far = false → ¬ promotes → e.wait = none ∧
        Elsewhere (if c.ord = 2 ∨ c.ord = 3 then x.2.s.acquireCaches c.core (c.scope true) else x.2.s) t))

/-- R73: `SLD` from global memory, once its address has translated, writes S[d] with the zero- or sign-extended bytes, now or when they
arrive from a remote home; it waits while its requests are held at their source (R422, R423).
The model's own choices and readings here: log 9, 33 and 34. -/
def Obligations.ScalarLoads : Prop :=
  ∀ s d a w c c1 ps, Issues s (.sld d a w 0) c →
    let i : Instr := .sld d a w 0
    let n := 2 ^ (w.toNat % 4)
    (begun i c).globalLanes .load true n [(0, c.rs a + operandB c 0 true)] = .ok (c1, ps) →
    let x := c1.loadAll n ps
    let promotes : Prop := c.ord = 3 ∧ x.2.taggers (ps.map (·.pa)) ≠ []
    let val : Dword := if w.toNat < 4 then BitVec.ofNat 64 (leNat (x.1.at 0)) else (BitVec.ofNat (8 * n) (leNat (x.1.at 0))).signExtend 64
    (¬ Admitted c x.2.sends → exec i s = .next (heldBack c x.2.sends)) ∧
    (Admitted c x.2.sends → ∃ t w' e, exec i s = .next t ∧ waveAt t s.cur = some w' ∧ w'.entity s.cur.frag = some e ∧
      w'.entity (!s.cur.frag) = c.w0.entity (!s.cur.frag) ∧
      { noEntities w' with racq := [], racqFull := false } = { noEntities (freed i c) with
          s := if x.1.far then c.w0.s else c.w0.s.set d.toNat val (by omega), racq := [], racqFull := false } ∧
      GoesOn c.e { e with wait := none } (c.e.pc + 4) ∧
      (x.1.far = true → e.wait = some .data ∧
        ∃ l ∈ (t.core c.core).loads, l.ent = s.cur ∧ l.vregs = [] ∧ l.sreg = some (d, val)) ∧
      (x.1.far = false → promotes → e.wait = some .promote) ∧
      (x.1.far = false → ¬ promotes → e.wait = none ∧
        Elsewhere (if c.ord = 2 ∨ c.ord = 3 then x.2.s.acquireCaches c.core (c.scope true) else x.2.s) t))

/-- R62–R65, R77, R103: the bytes that the lanes of a load receive are those its core sees by the load's path, under what the block's
stage holds in Level mode (R213); what any core sees, and memory, stay as they are.
The model's own choices and readings here: log 8, 25 and 52. -/
def Obligations.LoadedBytes : Prop :=
  ∀ (c : Ctx) n ps, n ∈ [1, 2, 4, 8, 16] → (∀ p ∈ ps, p.pa % n = 0 ∧ p.pa < 2 ^ 52) → (ps.map (·.lane)).Nodup → Settled c.s c.core c.r → CachesTake c.s c.core ps.length →
    let x := c.loadAll n ps
    x.1.lost = false →
    (∀ p ∈ ps, x.1.at p.lane =
      c.overlay p.pa ((List.range n).map fun j => seesBy c.s (c.loadPath p.st) c.core (p.pa + j))) ∧
    x.2 = { c with s := x.2.s, sends := x.2.sends } ∧ SameButCaches c.s x.2.s ∧
    ∀ core a, a < 2 ^ 52 → sees x.2.s core a = sees c.s core a

/-- R70, R73: `ST` and `SST`, once their lanes have translated and, for a release, the wave has nothing on its way, perform the lanes'
stores and change no register; in Level mode the stores are held (R213). Stores that go to their home at once wait while requests are held
at their source (R422, R423).
The model's own choices and readings here: log 9, 33 and 43. -/
def Obligations.GlobalStores : Prop :=
  ∀ s i c c1 ps n (whole : Bool) as_ (f : Fin 32 → List Byte), Issues s i c →
    ((∃ d p q v r w gd, i = .st d p q v r w gd ∧ n = widthBytes w ∧ whole = false ∧
        as_ = addresses c (address c true p q v r) ∧ f = storeData c d w) ∨
     (∃ a b w, i = .sst a b w 0 ∧ n = 2 ^ w.toNat ∧ whole = true ∧ as_ = [(0, c.rs a + operandB c 0 true)] ∧
        f = fun _ => leBytes (c.rs b).toNat n)) →
    (begun i c).globalLanes .store whole n as_ = .ok (c1, ps) →
    (c.ord = 4 → s.outstanding c.core s.cur.blk s.cur.slot = false) →
    let c2 : Ctx := if c.ord = 4 then { c1 with s := c1.s.releaseCaches c.core (c.scope true) } else c1
    (c.b.isLevel = false →
      ∃ c3, c2.storeAll c.ord (c.scope true) ps f = .ok c3 ∧
        (¬ Admitted c c3.sends → exec i s = .next (heldBack c c3.sends)) ∧
        (Admitted c c3.sends → ∃ t w, exec i s = .next t ∧ Retires c3.s c t w ∧ noEntities w = noEntities (freed i c))) ∧
    (c.level = true →
      ∃ t w e, exec i s = .next t ∧ waveAt t s.cur = some w ∧ w.entity s.cur.frag = some e ∧
        heldMore c (ps.flatMap fun p => (pieces p.pa (f p.lane)).map fun x => .store x.1 x.2 p.via p.lane.val) e ∧
        GoesOn { c.e with held := e.held } e (c.e.pc + 4) ∧ w.entity (!s.cur.frag) = c.w0.entity (!s.cur.frag) ∧
        noEntities w = noEntities (freed i c) ∧ Elsewhere c2.s t)

/-- R62, R65, R70, R77, R103: plain stores through the L1 change what their own core sees at the bytes stored, and nothing else: neither
memory nor what another core sees. A strong store, or one to an UNCACHED page, changes neither memory nor caches when it issues: it is on
its way to its home, in naturally aligned pieces of at most 8 bytes.
The model's own choices and readings here: log 8 and 43. -/
def Obligations.StoredBytes : Prop :=
  (∀ (c : Ctx) n ps (f : Fin 32 → List Byte), n ∈ [1, 2, 4, 8, 16] → (∀ p ∈ ps, p.pa % n = 0 ∧ (f p.lane).length = n ∧ p.st ≠ .uncached) →
     c.b.isLevel = false → c.x.cp ≠ 2 → Settled c.s c.core c.r → CachesTake c.s c.core ps.length →
     ∃ c', c.storeAll 0 6 ps f = .ok c' ∧ c' = { c with s := c'.s } ∧
       c'.s.mem = c.s.mem ∧
       (∀ a, sees c'.s c.core a = (storedByte ps f a).getD (sees c.s c.core a)) ∧
       (∀ core a, core ≠ c.core → sees c'.s core a = sees c.s core a)) ∧
  (∀ (c : Ctx) ord scope p (bs : List Byte), c.b.isLevel = false → (ord ≠ 0 ∨ p.st = .uncached) →
     Settled c.s c.core c.r →
     ∃ c', c.storeAt ord scope p bs = .ok c' ∧ c' = { c with s := c'.s, sends := c.sends ++ [moduleOf p.pa] } ∧ c'.s.mem = c.s.mem ∧ c'.s.clu = c.s.clu ∧
       (∀ core, (c'.s.core core).l1d = (c.s.core core).l1d) ∧
       ∃ ids : List Nat, (c'.s.core c.core).stores = (c.s.core c.core).stores ++
         ((pieces p.pa bs).zip ids).map (fun x =>
           ({ id := x.2, ent := c.r, lane := p.lane.val, pa := x.1.1, bytes := x.1.2
              via := p.via, cls := BitVec.ofNat 2 c.launch.prio
              tagged := decide (ord = 4) && decide (scope ≤ 4) } : PendStore)) ∧
         ids.length = (pieces p.pa bs).length)

/-- R52–R55, R71, R73: loads from the block's slices and from those of the cluster, the offset of every lane in order.
The model's own choices and readings here: log 7 and 52. -/
def Obligations.BufferLoads : Prop :=
  ∀ s i c space d p q v r w gd, Issues s i c →
    ((i = .lda d p q v r w gd ∧ space = 3) ∨ (i = .ldw d p q v r w gd ∧ space = 2) ∨ (i = .ldc d p q v r w gd ∧ space = 4)) →
    HasRoom i c (group d w) →
    let as_ := addresses c (address c false p q v r)
    let c1 := (begun i c).settle
    (c.x.sc = none → BufferReady c space (widthBytes w) as_ →
      ∃ t w', exec i s = .next t ∧ Retires c1.s c t w' ∧
        noEntities w' = noEntities { freed i c with
          v := writeV (freed i c).v (loadWrites d w c.g fun l => c1.bufLoad space (address c false p q v r l).toNat (widthBytes w)) }) ∧
    (∀ sc, c.x.sc = some sc → c.ord = 0 → c.x.scp = 0 → (c.rs sc).toNat % 16 < 12 →
      (∀ a ∈ as_, a.2.toNat % widthBytes w = 0 ∧ a.2.toNat + widthBytes w ≤ 0x200000) →
      let core := c.core / 12 * 12 + (c.rs sc).toNat % 16
      let bytes (l : Fin 32) : List Byte := (c1.remoteLoad space ((c.rs sc).toNat % 16) (address c false p q v r l).toNat (widthBytes w)).1
      (core = c.core ∨ as_ = [] →
        ∃ t w', exec i s = .next t ∧ Retires c1.s c t w' ∧
          noEntities w' = noEntities { freed i c with v := writeV (freed i c).v (loadWrites d w c.g bytes) }) ∧
      (core ≠ c.core → as_ ≠ [] →
        ∃ t w' e, exec i s = .next t ∧ waveAt t s.cur = some w' ∧ w'.entity s.cur.frag = some e ∧ e.wait = some .data ∧
          GoesOn c.e { e with wait := none } (c.e.pc + 4) ∧
          noEntities w' = noEntities { freed i c with v := writeV (freed i c).v (loadWrites d w 0 bytes) } ∧
          t.mem = c1.s.mem ∧
          ∃ l ∈ (t.core c.core).loads, l.ent = s.cur ∧
            l.vregs = (List.range (widthRegs w)).map fun j =>
              (BitVec.ofNat 6 (d.toNat + j), c.g, lanesOf fun n => (loadWords w (bytes n)).getD j 0)))

/-- R52, R54, R71, R73: `STA`, `STW`, `STC` and the buffer forms of `SLD` and `SST`.
The model's own choices and readings here: log 52 and 80. -/
def Obligations.BufferStores : Prop :=
  (∀ s i c space d p q v r w gd, Issues s i c →
    ((i = .sta d p q v r w gd ∧ space = 3) ∨ (i = .stw d p q v r w gd ∧ space = 2) ∨ (i = .stc d p q v r w gd ∧ space = 4)) →
    let as_ := addresses c (address c false p q v r)
    BufferReady c space (widthBytes w) as_ → (c.ord = 4 → s.outstanding c.core s.cur.blk s.cur.slot = false) → GraverIdle s →
    let c1 := (begun i c).settle
    (c.level = false →
      ∃ t w', exec i s = .next t ∧
        Retires (as_.foldl (fun s a => bufferStored c space s a.2.toNat (storeData c d w a.1)) c1.s) c t w' ∧
        noEntities w' = noEntities (freed i c)) ∧
    (c.level = true →
      ∃ t w' e, exec i s = .next t ∧ waveAt t s.cur = some w' ∧ w'.entity s.cur.frag = some e ∧
        heldMore c (as_.map fun a => .buf space a.2.toNat (storeData c d w a.1)) e ∧
        GoesOn { c.e with held := e.held } e (c.e.pc + 4) ∧ w'.entity (!s.cur.frag) = c.w0.entity (!s.cur.frag) ∧
        noEntities w' = noEntities (freed i c) ∧ Elsewhere c1.s t)) ∧
  (∀ s d a w p c, Issues s (.sld d a w p) c → p ≠ 0 →
    let i : Instr := .sld d a w p
    let n := 2 ^ (w.toNat % 4)
    let e : Dword := c.rs a + operandB c 0 true
    BufferReady c (p.toNat + 1) n [(0, e)] →
    let c1 := (begun i c).settle
    let bs := c1.bufLoad (p.toNat + 1) e.toNat n
    ∃ t w', exec i s = .next t ∧ Retires c1.s c t w' ∧
      noEntities w' = noEntities { freed i c with
        s := c.w0.s.set d.toNat (if w.toNat < 4 then BitVec.ofNat 64 (leNat bs) else (BitVec.ofNat (8 * n) (leNat bs)).signExtend 64)
          (by omega) }) ∧
  (∀ s a b w p c, Issues s (.sst a b w p) c → p ≠ 0 →
    let i : Instr := .sst a b w p
    let n := 2 ^ w.toNat
    let e : Dword := c.rs a + operandB c 0 true
    BufferReady c (p.toNat + 1) n [(0, e)] → (c.ord = 4 → s.outstanding c.core s.cur.blk s.cur.slot = false) → GraverIdle s →
    c.level = false →
    ∃ t w', exec i s = .next t ∧
      Retires (bufferStored c (p.toNat + 1) (begun i c).settle.s e.toNat (leBytes (c.rs b).toNat n)) c t w' ∧
      noEntities w' = noEntities (freed i c))

/-- R50–R52, R77: a typed buffer's byte reads as last written; the bytes beside those that are written keep their values; an unwritten
byte of a slice is a free value of its block (R51).
The model's own choices and readings here: log 7. -/
def Obligations.BufferBytes : Prop :=
  (∀ (s : State) core space off (bs : List Byte) a, space ∈ [2, 3, 4] →
    (s.bufWrite core space off bs).bufByte core space a =
      if off ≤ a ∧ a < off + bs.length then bs.getD (a - off) 0 else s.bufByte core space a) ∧
  (∀ (s : State) core space off (bs : List Byte) core' space' a, space ∈ [2, 3, 4] → space' ∈ [2, 3, 4] → (core, space) ≠ (core', space') →
    (s.bufWrite core space off bs).bufByte core' space' a = s.bufByte core' space' a) ∧
  (∀ (c : Ctx) space off n, c.level = false → GraverIdle c.s →
    c.bufLoad space off n = (List.range n).map fun j => c.s.bufByte c.core space ((c.b.slice space).base + off + j))

/-- R52, R54, R55, R57, R68, R72, R89, R384: of the causes of an access, in the order ALIGN, BOUNDS, CWIN, the first that a lane has is
raised, whether the access loads or stores vector, scalar, matrix or tensor elements, of global memory, of the block's slices or of the
cluster's buffers, or is an atomic. `cmask` holds the lanes that raised it, and stays where the access is made once for the wave. Where no lane
has one, a global address beyond the space raises XLATE.
The model's own choices and readings here: log 40. -/
def Obligations.AccessCauses : Prop :=
  ∀ s i c x, Issues s i c → accessOf i c = some x → c.w0.grav.win = none →
    (∀ n m, x.causes.find? (fun y => decide (y.2 ≠ 0)) = some (n, m) → exec i s = .next (trapped c n (if x.whole then none else some m))) ∧
    ((∀ y ∈ x.causes, y.2 = 0) → lanesThat x.as_ (fun e => decide (2 ^ 57 ≤ e.toNat)) ≠ 0 →
      ∃ m, (∀ l, inMask (lanesThat x.as_ fun e => decide (2 ^ 57 ≤ e.toNat)) l = true → inMask m l = true) ∧
        exec i s = .next ({ c with s := ((begun i c).translateAll x.acc x.as_).s }.put.raise s.cur
          { bits := causeBit 4, cmask := if x.whole then none else some m } c.gpc c.npc))

/-- R57, R61, R72, R235, R236: `LDT` of an entry of the block, once its lanes are within the extents and its elements have been read; the
conversion of a `.f32` form sets its flags in `fpf`. It waits for registers that the wave's other entity has yet to write (R44), and while its
requests are held at their source (R422, R423).
The model's own choices and readings here: log 9, 41 and 82. -/
def Obligations.ElementLoads : Prop :=
  ∀ s d a r (cv : Bool) gd c im x y c1, Issues s (.ldt d a r cv gd) c →
    let i : Instr := .ldt d a r cv gd
    let t := tidOf im
    (begun i c).tidImage ((c.rs r).toNat % 256) = some im → a.toNat + t.rank ≤ 64 →
    (cv = false → t.esize = 8 → d.toNat % 2 = 0) →
    (c.armOwes (names a t.rank ++ names d (t.regs cv)) = true → exec i s = .next (c.waitHere .arm)) ∧
    (c.armOwes (names a t.rank ++ names d (t.regs cv)) = false →
    ((begun i c).freeAlso (names a t.rank)).loadElements t a (cv && decide (t.smode ≠ 0)) = .ok (x, y, c1) → Admitted c c1.sends →
    let w0 := freedWith i c (names a t.rank)
    let k := if cv = false ∧ t.esize = 8 then 2 else 1
    let ds := (List.range k).map (d.toNat + ·)
    let conv (l : Fin 32) : Conv := loadedElement t (leNat (x.at l)) (if t.smode = 0 then none else some (leNat (y.at l)))
    let word (j : Nat) (l : Fin 32) : Word :=
      if cv then BitVec.ofNat 32 (conv l).code else BitVec.ofNat 32 (leNat (x.at l) / 2 ^ (32 * j))
    let far := x.far || (cv && y.far)
    let w1 : Wave := { w0 with v := writeV w0.v ((List.range k).map fun j => (d.toNat + j, if far then 0 else c.g, word j)) }
    RoomWith c w0 ds →
    ∃ u w e, exec i s = .next u ∧ waveAt u s.cur = some w ∧ w.entity s.cur.frag = some e ∧
      w.entity (!s.cur.frag) = c.w0.entity (!s.cur.frag) ∧ GoesOn c.e { e with wait := none } (c.e.pc + 4) ∧
      noEntities w = noEntities (if cv then flaggedBy c w1 conv else w1) ∧
      (far = false → e.wait = none ∧ Elsewhere c1.s u) ∧
      (far = true → e.wait = some .data ∧ ∃ l ∈ (u.core c.core).loads, l.ent = s.cur ∧
        l.vregs = (List.range k).map fun j => (BitVec.ofNat 6 (d.toNat + j), c.g, lanesOf (word j))))

/-- R57, R61, R72, R235, R236: `STT` of an entry of the block; a store to a remote space traps BOUNDS; the conversion of a `.f32` form sets its
flags in `fpf`.
The model's own choices and readings here: log 9, 41, 52, 80 and 82. -/
def Obligations.ElementStores : Prop :=
  ∀ s d a r (cv : Bool) gd c im, Issues s (.stt d a r cv gd) c → c.b.isLevel = false →
    let i : Instr := .stt d a r cv gd
    let t := tidOf im
    (begun i c).tidImage ((c.rs r).toNat % 256) = some im → a.toNat + t.rank ≤ 64 →
    (cv = false → t.esize = 8 → d.toNat % 2 = 0) →
    (t.space = 5 ∨ t.space = 6 → exec i s = .next (trapped c 2)) ∧
    (t.space ≠ 5 → t.space ≠ 6 → c.armOwes (names a t.rank ++ names d (t.regs cv)) = false → Within c t a → (∀ l, inMask c.g l = true → (elementAddress c t a l).toNat % t.esize = 0) →
      let as_ := addresses c (elementAddress c t a)
      let conv (l : Fin 32) : Conv := storedElement t (V c d l)
      let code (l : Fin 32) : Nat :=
        if cv then (conv l).code else (V c d l).toNat + (if t.esize = 8 then ((readV c.w0 (d.toNat + 1))[l]).toNat * 2 ^ 32 else 0)
      let w0 := freedWith i c (names a t.rank ++ if cv = false ∧ t.esize = 8 then names d 2 else [])
      let w1 : Wave := if cv then flaggedBy c w0 conv else w0
      (t.space = 1 → ∀ c1 ps, (begun i c).reach .store false as_ = .ok (c1, ps) →
        ∃ c2, c1.storeAll 0 6 ps (fun l => leBytes (code l) t.esize) = .ok c2 ∧
          (Admitted c c2.sends → ∃ u w, exec i s = .next u ∧ Retires c2.s c u w ∧ noEntities w = noEntities w1)) ∧
      (t.space ≠ 1 → BufferReady c t.space t.esize as_ → GraverIdle s →
        ∃ u w, exec i s = .next u ∧
          Retires (as_.foldl (fun s x => bufferStored c t.space s x.2.toNat (leBytes (code x.1) t.esize)) (begun i c).settle.s) c u w ∧
          noEntities w = noEntities w1))

/-- R74: cache instructions never fault and write no register; `PREF` changes nothing that a core sees; `CFLUSH` and `CINV` write back the
dirty bytes of the named lines and no other byte; invalidated lines leave the cache.
The model's own choices and readings here: log 8. -/
def Obligations.CacheInstructions : Prop :=
  ∀ s i c d p q v r gd, Issues s i c →
    (i = .pref d p q v r gd ∨ i = .cflush d p q v r gd ∨ i = .cinv d p q v r gd) →
    let lines := ((begun i c).namedLines (addresses c (address c true p q v r))).map (·.1)
    ∃ t w e, exec i s = .next t ∧ waveAt t s.cur = some w ∧ w.entity s.cur.frag = some e ∧ GoesOn c.e e (c.e.pc + 4) ∧
      noEntities w = noEntities (freed i c) ∧ (∀ n, n ≠ s.cur.blk → tget t.blocks n = tget s.blocks n) ∧ { t.hub with xrte := s.hub.xrte } = s.hub ∧
      (CachesTake s c.core lines.length → t.hub = s.hub) ∧
      (i = .pref d p q v r gd → CachesTake s c.core lines.length → t.mem = s.mem ∧ ∀ core a, a < 2 ^ 52 → sees t core a = sees s core a) ∧
      (i = .cflush d p q v r gd ∨ (i = .cinv d p q v r gd ∧ d = 0) →
        (CachesTake s c.core lines.length → ∀ a, lineOf a ∉ lines → memGet t.mem a = memGet s.mem a) ∧
        (∀ a, lineOf a ∈ lines → s.remoteHome c.core (lineOf a * 128) = false → memGet t.mem a =
          match tget (s.core c.core).l1d (lineOf a) with
          | some l => if l.dirty.getLsbD (a % 128) then l.bytes.getD (a % 128) 0 else memGet s.mem a
          | none => memGet s.mem a) ∧
        (∀ n ∈ lines, ∀ l, tget (t.core c.core).l1d n = some l → l.dirty = 0)) ∧
      ((i = .cflush d p q v r gd ∧ d = 1) ∨ (i = .cinv d p q v r gd ∧ d = 0) →
        ∀ n ∈ lines, tget (t.core c.core).l1d n = none) ∧
      (i = .cinv d p q v r gd → d = 1 → t.mem = s.mem ∧ ∀ n ∈ lines, tget (t.core c.core).l1i n = none)

/-- R57, R75, R76: `TIDSET` writes the entry from its image, or marks it invalid; `TIDGET` stores it as it stands; `TIDINV` marks it
invalid.
The model's own choices and readings here: log 26 and 33. -/
def Obligations.TidEntries : Prop :=
  (∀ s a n c c1 ps, Issues s (.tidset a n) c → c.level = false → (c.rs a).toNat % 8 = 0 → n.toNat < c.b.tids.length →
    let i : Instr := .tidset a n
    (begun i c).reach .load true ((List.range 16).map fun j => (0, c.rs a + BitVec.ofNat 64 (8 * j))) = .ok (c1, ps) →
    let x := c1.loadAll 8 ps
    let im := x.1.vals.flatMap (·.2)
    x.1.lost = false → Admitted c x.2.sends →
    let entry : Option (List Byte) := if (tidOf im).space = 0 then none else some (keptImage im)
    ((tidOf im).space = 0 ∨ (tidOf im).malformed = false →
      ∃ t w e, exec i s = .next t ∧ waveAt t s.cur = some w ∧ w.entity s.cur.frag = some e ∧
        noEntities w = noEntities (freed i c) ∧ GoesOn c.e { e with wait := none } (c.e.pc + 4) ∧
        (tget t.blocks s.cur.blk).map (·.tids) = some (c.b.tids.set n.toNat entry) ∧
        (x.1.far = true → e.wait = some .data) ∧
        (x.1.far = false → e.wait = none ∧ Elsewhere (x.2.s.modBlock s.cur.blk (tidWritten c n.toNat entry)) t)) ∧
    ((tidOf im).space ≠ 0 → (tidOf im).malformed = true →
      exec i s = .next ({ c with s := x.2.s }.put.raise s.cur { bits := causeBit 2 } c.gpc (c.e.pc + 4)))) ∧
  (∀ s a n c c1 ps, Issues s (.tidget a n) c → c.b.isLevel = false → (c.rs a).toNat % 8 = 0 → n.toNat < c.b.tids.length →
    let i : Instr := .tidget a n
    (begun i c).reach .store true ((List.range 16).map fun j => (0, c.rs a + BitVec.ofNat 64 (8 * j))) = .ok (c1, ps) →
    let im := ((begun i c).tidImage n.toNat).getD (List.replicate 128 0)
    ∃ c2, ps.zipIdx.foldlM (fun c p => c.storeAt 0 6 p.1 ((im.drop (8 * p.2)).take 8)) c1 = .ok c2 ∧
      (Admitted c c2.sends → ∃ t w, exec i s = .next t ∧ Retires c2.s c t w ∧ noEntities w = noEntities (freed i c))) ∧
  (∀ s n c, Issues s (.tidinv n) c → c.level = false →
    (n.toNat < c.b.tids.length →
      ∃ t w, exec (.tidinv n) s = .next t ∧ noEntities w = noEntities (freed (.tidinv n) c) ∧
        Retires (s.modBlock s.cur.blk (tidWritten c n.toNat none)) c t w) ∧
    (c.b.tids.length ≤ n.toNat → exec (.tidinv n) s = .next (trapped c 2))) ∧
  (∀ (c : Ctx) n, c.level = false →
    let others := c.b.tidLog.filter fun x => x.1 = n
    ((∀ x ∈ others, x.2.1 = c.r.slot) → c.tidImage n = (c.b.tids[n]?).getD none) ∧
    c.tidImage n ∈ (c.b.tids[n]?).getD none :: others.map (·.2.2))

/-- R118–R120, R126–R128: outside Level mode `ATOM` and `RED` send one request for each lane that takes part, in ascending lane order;
memory is as before, but for what the core's caches hold dirty of the locations, which goes home first; `ATOM` maps its destination and waits
for the answers. The requests wait while they are held at their source (R422, R423).
The model's own choices and readings here: log 9. -/
def Obligations.AtomicRequests : Prop :=
  ∀ s i c c1 ps d a f ty la m gd (returns : Bool), Issues s i c → c.b.isLevel = false →
    ((i = .atom d a f ty la m gd ∧ returns = true) ∨ (i = .red d a f ty la m gd ∧ returns = false)) →
    (begun i c).globalLanes .atomic false (typeSize ty) (addresses c (atomAddress c a m)) = .ok (c1, ps) →
    (c.ord = 4 ∨ c.ord = 5 → s.outstanding c.core s.cur.blk s.cur.slot = false) → Settled s c.core s.cur →
    ps.Pairwise (fun p q => p.pa + typeSize ty ≤ q.pa ∨ q.pa + typeSize ty ≤ p.pa) →
    let names := if returns then (List.range (typeSize ty / 4)).map (d.toNat + ·) else []
    HasRoom i c names →
    let modules := ps.map fun p => moduleOf p.pa
    (¬ Admitted c modules → exec i s = .next (heldBack c modules)) ∧
    (Admitted c modules → ∃ t w e, exec i s = .next t ∧ waveAt t s.cur = some w ∧ w.entity s.cur.frag = some e ∧
      w.entity (!s.cur.frag) = c.w0.entity (!s.cur.frag) ∧ GoesOn c.e { e with wait := none } (c.e.pc + 4) ∧
      e.wait = (if returns = true ∧ ps ≠ [] then some .data else none) ∧
      noEntities w = noEntities { freed i c with v := writeV (freed i c).v (names.map fun n => (n, 0, fun _ => 0)) } ∧
      t.mem = (ps.foldl (fun s p => s.cleanLine c.core p.pa)
        (if c.ord = 4 ∨ c.ord = 5 then c1.s.releaseCaches c.core (c.scope true) else c1.s)).mem ∧
      (t.core c.core).atoms = (c1.s.core c.core).atoms ++
        ps.zipIdx.map fun x => requestOf s c f ty d returns (s.core c.core).seq x.2 x.1)

/-- R118, R119, R127: a request that reaches its home unit for the first time is applied there once: the location takes the new value, the
old one is the answer, every other byte of memory stays. One that the home unit holds is answered without being applied, and a
retransmission that it no longer holds is answered REPLAY.
The model's own choices and readings here: log 24. -/
def Obligations.AtomicsAtHome : Prop :=
  ∀ s core n q, s.req core n = some q → q.st = .sent → s.draining (moduleOf q.pa) = false → s.reachable q.pa = true →
    (q.ty = 4 → q.fop.toNat < 3) →
    let answer (t : State) : Option ReqState := (t.req core n).map (·.st)
    (s.keptSeq (homeOf q.pa) (s.source core) n = none → q.replayBit = false → q.tagged = false →
      let old := BitVec.ofNat 64 (leNat (memRead s.mem q.pa (typeSize q.ty)))
      ∃ t, exec (.atomicRequestArrival core n) s = .next t ∧ answer t = some (.answered old) ∧
        memRead t.mem q.pa (typeSize q.ty) = leBytes (atomicValue q.fop q.ty old q.val q.cmp).toNat (typeSize q.ty) ∧
        (∀ x, x < q.pa ∨ q.pa + typeSize q.ty ≤ x → memGet t.mem x = memGet s.mem x) ∧
        t.keptSeq (homeOf q.pa) (s.source core) n = some old) ∧
    (∀ v, s.keptSeq (homeOf q.pa) (s.source core) n = some v →
      ∃ t, exec (.atomicRequestArrival core n) s = .next t ∧ answer t = some (.answered v) ∧ t.mem = s.mem) ∧
    (s.keptSeq (homeOf q.pa) (s.source core) n = none → q.replayBit = true →
      ∃ t, exec (.atomicRequestArrival core n) s = .next t ∧ answer t = some .replay ∧ t.mem = s.mem)

/-- R126, R127: `ATOMA` outside Level mode: each lane's location of the A slice takes its new value and the lane the old one; shown for
lanes that name different locations. -/
def Obligations.BufferAtomics : Prop :=
  ∀ s d a f ty la gd c, Issues s (.atoma d a f ty la gd) c → c.level = false → GraverIdle s →
    let i : Instr := .atoma d a f ty la gd
    let as_ := addresses c (atomOffset c a)
    let n := typeSize ty
    BufferReady c 3 n as_ → (∀ x ∈ as_, ∀ y ∈ as_, x.1 ≠ y.1 → x.2 ≠ y.2) →
    (c.ord = 4 ∨ c.ord = 5 → s.outstanding c.core s.cur.blk s.cur.slot = false) →
    let names := (List.range (n / 4)).map (d.toNat + ·)
    HasRoom i c names →
    let c1 := (begun i c).settle
    let old (l : Fin 32) : Dword := BitVec.ofNat 64 (leNat (sliceBytes c1.s c.b 3 (atomOffset c a l).toNat n))
    ∃ t w, exec i s = .next t ∧
      noEntities w = noEntities { freed i c with
        v := writeV (freed i c).v ((List.range (n / 4)).map fun j => (d.toNat + j, c.g, fun l => (old l >>> (32 * j)).setWidth 32)) } ∧
      Retires (as_.foldl (fun s x => bufferStored c 3 s x.2.toNat
        (leBytes (atomicValue f ty (old x.1) (atomOperand c d ty x.1) (atomOperand c (c.x.vc.getD 0) ty x.1)).toNat n)) c1.s) c t w

/-- R104, R115, R129: `FENCE`: a release waits for the wave's earlier requests, then writes back what its scope asks for; an acquire
invalidates; `.racq` promotes the cores that tags have named and forgets them.
The model's own choices and readings here: log 8 and 34. -/
def Obligations.Fences : Prop :=
  ∀ s o sc c, Issues s (.fence o sc) c →
    let i : Instr := .fence o sc
    let scope := if sc = 0 then 6 else sc.toNat
    let rel := o = 4 ∨ o = 5
    let waits := s.outstanding c.core s.cur.blk s.cur.slot
    let s1 := (if rel then { begun i c with s := s.releaseCaches c.core scope } else begun i c).settle.s
    (rel → waits = true → ∃ t e, exec i s = .next t ∧ entityAt t s.cur = some e ∧ e.wait = some .drain ∧ e.pc = c.gpc) ∧
    ((rel → waits = false) → o ≠ 3 →
      ∃ t w, exec i s = .next t ∧ noEntities w = noEntities (freed i c) ∧
        Retires (if o = 2 ∨ o = 5 then s1.acquireCaches c.core scope else s1) c t w) ∧
    (o = 3 → c.w0.racqFull = false →
      ∃ t w e, exec i s = .next t ∧ waveAt t s.cur = some w ∧ w.entity s.cur.frag = some e ∧ w.racq = [] ∧
        GoesOn c.e { e with wait := none } (c.e.pc + 4) ∧
        (c.w0.racq = [] → e.wait = none ∧ Elsewhere (s1.acquireCaches c.core scope) t) ∧
        (c.w0.racq ≠ [] → e.wait = some .promote ∧
          t.promos = s1.promos ++ c.w0.racq.map fun k => (k, max scope 6, s.cur, scope)))

/-- R56, R116, R117, R130, R241: block-shared registers and the block key, outside Level mode. A read gives the register's value, or where
other waves' writes are less than 4 cycles old and no write of its own is newer one that such a write replaced, and the write that it found
is noted. Writes of one cycle take the ascending order of their waves: one that comes before another is followed by it, and reads of the
cycle that found that one return what it now leaves. As a wave's next access issues, what its reads found, what its read-modify-writes left,
and at a release what it wrote, may be missed no more (R104, R111, R112).
The model's own choices and readings here: log 26 and 104. -/
def Obligations.BlockShared : Prop :=
  (∀ s i c, Issues s i c → c.level = false → (c.ord = 4 ∨ c.ord = 5 → s.outstanding c.core s.cur.blk s.cur.slot = false) →
    Settled s c.core s.cur →
    let young (r : BitVec 4) : List BregWrite := c.b.bregLog.filter fun x => x.reg = r && decide (s.now < x.at_ + 4)
    let first (r : BitVec 4) : Prop := ∀ x ∈ c.b.bregLog, x.reg = r → x.at_ = s.now → x.slot ≤ s.cur.slot
    let note (r : BitVec 4) (add : Bool) (v : Dword) (d : Option Reg5) : BregWrite :=
      { at_ := s.now, slot := s.cur.slot, reg := r, add := add, val := v, before := c.b.breg[r.toNat], dst := d }
    let breg (x : Dword) (n : BregWrite) : State := s.modBlock s.cur.blk (bregWritten x n)
    (∀ d r, i = .bsrd d r →
      ∃ t w v k log, exec i s = .next t ∧ Retires (s.modBlock s.cur.blk fun b => { b with bregLog := log }) c t w ∧
        noEntities w = noEntities { freed i c with s := c.w0.s.set d.toNat v (by omega) } ∧
        (c.b.breg[r.toNat] :: (young r).map (·.before))[k]? = some v ∧ (∀ x ∈ (young r).take k, x.slot ≠ s.cur.slot) ∧
        log.map (fun x => { x with found := [] }) = c.b.bregLog.map (fun x => { x with found := [] }) ∧
        ∀ n x, (log.filter fun x => x.reg = r)[n]? = some x →
          (x.found.any fun f => f = { slot := s.cur.slot, at_ := s.now, dst := d }) = true ∨ n ≠ k) ∧
    (∀ a r, i = .bswr a r → first r →
      ∃ t w, exec i s = .next t ∧ Retires (breg (c.rs a) (note r false (c.rs a) none)) c t w ∧
        noEntities w = noEntities (freed i c)) ∧
    (∀ d a r, i = .bsxch d a r → first r →
      ∃ t w, exec i s = .next t ∧ Retires (breg (c.rs a) (note r false (c.rs a) (some d))) c t w ∧
        noEntities w = noEntities { freed i c with s := c.w0.s.set d.toNat (c.b.breg[r.toNat]) (by omega) }) ∧
    (∀ d a r, i = .bsadd d a r → first r →
      ∃ t w, exec i s = .next t ∧ Retires (breg (c.b.breg[r.toNat] + c.rs a) (note r true (c.rs a) (some d))) c t w ∧
        noEntities w = noEntities { freed i c with s := c.w0.s.set d.toNat (c.b.breg[r.toNat]) (by omega) }) ∧
    (∀ a, i = .rkey a →
      let key := (List.range 4).flatMap fun j =>
        let x : Dword := c.rs (a + BitVec.ofNat 5 j)
        [x.setWidth 32, x.extractLsb' 32 32]
      ∃ t w, exec i s = .next t ∧ noEntities w = noEntities (freed i c) ∧
        Retires (s.modBlock s.cur.blk fun b =>
          { b with key := key, keyLog := if b.isLevel then b.keyLog else (s.cur.slot, b.key) :: b.keyLog }) c t w)) ∧
  (∀ (b : Block) (x y : BregWrite), b.bregLog = [y] → y.reg = x.reg → y.at_ = x.at_ → x.slot < y.slot →
    let mid := if x.add then y.before + x.val else x.val
    let last := if y.add then mid + y.val else y.val
    (b.bregWrite x).1 = y.before ∧ (b.bregWrite x).2.breg[x.reg.toNat] = last ∧
    (∀ d w, y.dst = some d → y.found = [] → b.wave y.slot = some w → ((b.bregWrite x).2.wave y.slot).map (fun w => w.s[d.toNat]) = some mid) ∧
    (∀ f w, y.dst = none → y.found = [f] → f.at_ = x.at_ → b.wave f.slot = some w →
      ((b.bregWrite x).2.wave f.slot).map (fun w => w.s[f.dst.toNat]) = some last)) ∧
  (∀ (b : Block) slot i ord (r : BitVec 4), makesAccess i = true →
    let shows (x : BregWrite) : Bool := (x.found.any fun f => decide (f.slot = slot)) ||
      (decide (x.slot = slot) && (x.dst.isSome || b.releases slot i ord))
    (b.bregShow slot i ord).bregLog.filter (fun x => x.reg = r) =
      (b.bregLog.filter fun x => x.reg = r).takeWhile fun x => !shows x)

/-! ### Barriers, tasks and launches -/

/-- R293, R294: a wave that arrives at `BAR` or `CBAR` waits; a mixed barrier traps CONVERGE, a cohort that the block does not belong to
BOUNDS; earlier requests are waited for first (R121); a block of one wave passes its `BAR` at once. When every wave of the block, or of
every member block of the cohort, that has not exited waits at the barrier, it completes, and each goes on at its next word; windows that
`GWIN` set apply when wave 0 is among them (R340). -/
def Obligations.Barriers : Prop :=
  (∀ s c, Issues s .bar c →
    let mixed := c.others.any fun w => w.atCbar.isSome
    let busy := s.outstanding c.core s.cur.blk s.cur.slot
    (mixed = true → exec .bar s = .next (trapped c 7 (some c.w0.live))) ∧
    (mixed = false → busy = true → exec .bar s = .next (c.waitHere .arrive)) ∧
    (mixed = false → busy = false → c.others = [] → c.level = false →
      ∃ t w, exec .bar s = .next t ∧ Retires (s.modBlock s.cur.blk fun b => { b with tidLog := [], keyLog := [] }) c t w ∧ noEntities w = noEntities (freed .bar c)) ∧
    (mixed = false → busy = false → ¬ (c.others = [] ∧ c.level = false) →
      ∃ t w e, exec .bar s = .next t ∧ waveAt t s.cur = some w ∧ w.entity s.cur.frag = some e ∧ e.wait = some .bar ∧ e.pc = c.gpc ∧
        noEntities w = noEntities c.w0 ∧ Elsewhere s t)) ∧
  (∀ s a c, Issues s (.cbar a) c →
    let id : BitVec 8 := (c.rs a).setWidth 8
    let unknown : Prop := (id = 255 ∧ c.b.task = true) ∨ (id ≠ 255 ∧ id ∉ c.b.coh)
    let mixed := c.others.any fun w => w.atBar || (w.atCbar.isSome && decide (w.atCbar ≠ some id))
    let busy := s.outstanding c.core s.cur.blk s.cur.slot
    (unknown → exec (.cbar a) s = .next (trapped c 2)) ∧
    (¬ unknown → mixed = true → exec (.cbar a) s = .next (trapped c 7 (some c.w0.live))) ∧
    (¬ unknown → mixed = false → busy = true → exec (.cbar a) s = .next (c.waitHere .arrive)) ∧
    (¬ unknown → mixed = false → busy = false →
      ∃ t w e, exec (.cbar a) s = .next t ∧ waveAt t s.cur = some w ∧ w.entity s.cur.frag = some e ∧ e.wait = some (.cbar id) ∧
        e.pc = c.gpc ∧ noEntities w = noEntities c.w0 ∧ Elsewhere s t)) ∧
  (∀ s blk b, tget s.blocks blk = some b → b.isLevel = false → b.atBar = true →
    ∃ t b', exec (.barrierCompletion blk) s = .next t ∧ tget t.blocks blk = some b' ∧ Passed b b' ∧
      t.mem = s.mem ∧ t.hub = s.hub ∧ ∀ n, n ≠ blk → tget t.blocks n = tget s.blocks n) ∧
  (∀ (s : State) launch cohort, cohort < 256 → (s.launch launch).kd.level = false →
    let id : BitVec 8 := BitVec.ofNat 8 cohort
    let ms := s.members launch id
    ms ≠ [] → (ms.map (·.1)).Nodup → (s.launch launch).allPlaced id = true → (∀ m ∈ ms, m.2.atCbar id = true) →
    (∀ m ∈ ms, tget s.blocks m.1 = some m.2) →
    ∃ t, exec (.cohortBarrierCompletion launch cohort) s = .next t ∧ { t.hub with xrte := s.hub.xrte } = s.hub ∧
      (∀ m ∈ ms, ∃ b', tget t.blocks m.1 = some b' ∧ Passed m.2 b') ∧
      (∀ n, n ∉ ms.map (·.1) → tget t.blocks n = tget s.blocks n))

/-- R201, R202, R206, R297: `POST` forms a record for each lane that takes part. Lanes that name different task slots trap UNIFORM, a slot
beyond the table BOUNDS. The records leave for their cores after a release; where a shard has no room, or they are held at their source (R422,
R423), the instruction waits. A record with LOCAL set or data = 0 runs on the posting core, any other on the home core of its data's
translated address.
The model's own choices and readings here: log 9 and 33. -/
def Obligations.Posts : Prop :=
  (∀ s d m gd c, Issues s (.post d m gd) c →
     let i : Instr := .post d m gd
     let lanes := (List.finRange 32).filter (inMask c.g)
     (lanes = [] → ∃ t w, exec i s = .next t ∧ Retires s c t w ∧ noEntities w = noEntities (freed i c)) ∧
     (∀ f, lanes.head? = some f →
       let bad := maskOf fun l => inMask c.g l && decide (kslot c d l ≠ kslot c d f)
       (bad ≠ 0 → exec i s = .next (trapped c 6 (some bad))) ∧
       (bad = 0 → c.launch.kd.ntask ≤ kslot c d f → exec i s = .next (trapped c 2)) ∧
       (bad = 0 → kslot c d f < c.launch.kd.ntask → ∀ c1 rs,
         (begun i c).destinations (lanes.map fun l => (l, record c d m l)) = .ok (c1, rs) →
         (c.b.isLevel = false → s.outstanding c.core s.cur.blk s.cur.slot = false →
           (∀ x, c1.fullShard rs = some x →
             ∃ t e, exec i s = .next t ∧ entityAt t s.cur = some e ∧ e.wait = some (.post x) ∧ e.pc = c.gpc) ∧
           (c1.fullShard rs = none →
             let s1 := c1.s.releaseCaches c.core (if rs.any fun r => decide (r.1 / 512 ≠ s.ownModule) then 7 else 6)
             let s2 := (s1.modLaunch c.b.launch fun x => { x with tasks := x.tasks + rs.length }).charge c.core c.launch.prio (32 * rs.length)
             let modules := rs.map fun r => r.1 / 512
             (¬ Admitted c modules → exec i s = .next (heldBack c modules)) ∧
             (Admitted c modules → ∃ t w, exec i s = .next t ∧ noEntities w = noEntities (freed i c) ∧
               Retires { s2 with records := s2.records ++
                 (rs.map fun r => ({ bytes := r.2, core := r.1, launch := c.b.launch, ent := some s.cur, cls := BitVec.ofNat 2 c.launch.prio } :
                   TaskRec)) } c t w))) ∧
         (c.level = true →
           ∃ t w e, exec i s = .next t ∧ waveAt t s.cur = some w ∧ w.entity s.cur.frag = some e ∧
             heldMore c (rs.map fun r => .record r.2 r.1) e ∧ GoesOn { c.e with held := e.held } e (c.e.pc + 4) ∧
             noEntities w = noEntities (freed i c) ∧ Elsewhere c1.s t)))) ∧
  (∀ (c : Ctx) rs,
     let own := c.s.ownModule * 512 + c.core
     let stays (r : Fin 32 × List Byte) : Prop := (r.2.getD 2 0).getLsbD 0 = true ∨ BitVec.ofNat 64 (leNat ((r.2.drop 8).take 8)) = (0 : Dword)
     ((∀ r ∈ rs, stays r) → c.destinations rs = .ok (c, rs.map fun r => (own, r.2))) ∧
     (∀ l bs pa st ts s', rs = [(l, bs)] → ¬ stays (l, bs) →
       c.s.translate c.core c.asid (BitVec.ofNat 64 (leNat ((bs.drop 8).take 8))) .load = (.ok pa st ts, s') →
       c.destinations rs = .ok ({ c with s := s' }, [(if pa % 2 ^ 45 < 0x3000000000 then
         pa / 2 ^ 46 % 64 * 512 + (pa / 2 ^ 45 % 2 * 144 + homeIndex (pa % 2 ^ 45)) else own, bs)])))

/-- R203, R205: a record enters the next slot of its core's shard, behind what is held for it, with its bytes at bytes 8–39 of the slot;
while the slot is in use, or records are held for the core, it goes to the partition's overflow ring and is not lost.
The model's own choices and readings here: log 17. -/
def Obligations.TaskRecords : Prop :=
  (∀ (s : State) pos r, s.records[pos]? = some r → (∀ q ∈ s.records.take pos, ¬ (q.core = r.core ∧ q.ent = r.ent)) →
    r.core / 512 = s.ownModule →
    let core := r.core % 512
    let held := ((s.partOf core).map fun p => (s.part p).held.any fun h => h.2.2.core = r.core).getD false
    (held = false → s.slotFree core = true →
      ∃ t, exec (.taskRecordArrival pos) s = .next t ∧ t.records = s.records.eraseIdx pos ∧
        (t.core core).shard = (s.core core).shard ++
          [{ idx := (s.core core).shardCount, bytes := r.bytes, launch := r.launch, level := r.level }] ∧
        (t.core core).shardCount = (s.core core).shardCount + 1 ∧
        memRead t.mem (Config.shardPa core ((s.core core).shardCount % s.shardSize core) + 8) r.bytes.length = r.bytes) ∧
    (∀ p t1, (held = true ∨ s.slotFree core = false) → s.partOf core = some p →
      ({ s with records := s.records.eraseIdx pos } : State).overflow p r = some t1 →
      exec (.taskRecordArrival pos) s = .next t1 ∧ t1.records = s.records.eraseIdx pos ∧
        ∃ at_, (t1.part p).held = (s.part p).held ++ [(at_, (s.part p).ovfProd, r)])) ∧
  (∀ (s : State) part pos h, (s.part part).held[pos]? = some h → part < 8 →
    (∀ q ∈ (s.part part).held.take pos, q.2.2.core ≠ h.2.2.core) → s.slotFree (h.2.2.core % 512) = true →
    ∃ t, exec (.overflowRecordEntry part pos) s = .next t ∧ (t.part part).held = (s.part part).held.eraseIdx pos ∧
      (t.core (h.2.2.core % 512)).shard = (s.core (h.2.2.core % 512)).shard ++
        [{ idx := (s.core (h.2.2.core % 512)).shardCount, bytes := h.2.2.bytes, launch := h.2.2.launch, level := h.2.2.level }])

/-- R203, R204, R207: `TASK_DISPATCH` completes: where a shard's head record is not parked and may go first, and its task descriptor reads and
fits, it starts a block of one wave of 32 lanes on that core, whose s0 holds the record's address in its slot. A descriptor that is
malformed or fits no core removes its records and gives the launch its status.
The model's own choices and readings here: log 16 and 17. -/
def Obligations.TaskDispatches : Prop :=
  (∀ (s : State) core q0 r k s', core < 288 → q0 < 4 → MayDispatch s core r →
    (taskKd (s.launch r.launch) r.bytes).run.run s = (.ok k, s') → s'.fitsSome (s.launch r.launch).part (k.shape true) = true →
    s'.fits core q0 (k.shape true) = true →
    ∃ t b w, exec (.taskDispatch core q0) s = .next t ∧ tget t.blocks s'.nextBlock = some b ∧
      b.task = true ∧ b.launch = r.launch ∧ b.core = core ∧ b.q0 = q0 ∧ b.blk = r.blkNo ∧ b.coh = [] ∧ b.waves = [(0, w)] ∧
      Started k (Config.shardVa core (r.idx % s'.shardSize core) + 8) 0 (BitVec.allOnes 32) w ∧
      (∀ x ∈ (t.core core).shard, x.idx = r.idx → x.running = true)) ∧
  (∀ (s : State) core q0 r, core < 288 → q0 < 4 → MayDispatch s core r →
    ((∃ st n s', (taskKd (s.launch r.launch) r.bytes).run.run s = (.error (.refuse st n), s')) ∨
      ∃ k s', (taskKd (s.launch r.launch) r.bytes).run.run s = (.ok k, s') ∧
        s'.fitsSome (s.launch r.launch).part (k.shape true) = false) →
    ∃ t, exec (.taskDispatch core q0) s = .next t ∧
      ∀ x ∈ (t.core core).shard, ¬ (x.running = false ∧ x.launch = r.launch ∧ x.bytes.take 2 = r.bytes.take 2))

/-! ### Engines, tags, rings and tiles -/

/-- R131–R134, R138, R139: `CPY` and `CPYT` outside Level mode: the causes in their order; where none holds, nothing earlier is outstanding and
the engine and the tag have a place, each completes: the command starts on its tag with what the engine captures.
The model's own choices and readings here: log 40. -/
def Obligations.CopyIssues : Prop :=
  (∀ s r g c q, Issues s (.cpy r g) c → c.level = false →
    let i : Instr := .cpy r g
    let off := (c.rs r).toNat
    let k := s.core c.core
    g.toNat < c.b.tags.length → off % 64 = 0 → off + 192 ≤ c.b.aslice.len →
    copyOf c g.toNat off ((begun i c).bufLoad 3 off 192) = some q → c.copyLeaves q = false →
    s.outstanding c.core s.cur.blk s.cur.slot = false → k.copies.length < 128 → (c.b.tags.getD g.toNat {}).pending < 255 →
    ∃ t w, exec i s = .next t ∧ noEntities w = noEntities (freed i c) ∧
      Retires ((s.setCore c.core { k with copies := tset k.copies k.nextCmd (c.absolute q), nextCmd := k.nextCmd + 1 }).modBlock
        s.cur.blk fun b => b.modTag g.toNat Tag.start) c t w) ∧
  (∀ s r g c, Issues s (.cpy r g) c → c.level = false →
    let i : Instr := .cpy r g
    let off := (c.rs r).toNat
    let q? := copyOf c g.toNat off ((begun i c).bufLoad 3 off 192)
    (c.b.tags.length ≤ g.toNat → exec i s = .next (trapped c 18)) ∧
    (g.toNat < c.b.tags.length → off % 64 ≠ 0 → exec i s = .next (trapped c 1)) ∧
    (g.toNat < c.b.tags.length → off % 64 = 0 → c.b.aslice.len < off + 192 → exec i s = .next (trapped c 2)) ∧
    (g.toNat < c.b.tags.length → off % 64 = 0 → off + 192 ≤ c.b.aslice.len → q? = none → exec i s = .next (trapped c 2)) ∧
    (∀ q, g.toNat < c.b.tags.length → off % 64 = 0 → off + 192 ≤ c.b.aslice.len → q? = some q →
      (c.copyLeaves q = true → exec i s = .next (trapped c 2)) ∧
      (c.copyLeaves q = false → s.outstanding c.core s.cur.blk s.cur.slot = false →
        (128 ≤ (s.core c.core).copies.length ∨ 255 ≤ (c.b.tags.getD g.toNat {}).pending) →
        exec i s = .next (c.waitHere (.copySlot g.toNat true))))) ∧
  (∀ s r n g p put c im, Issues s (.cpyt r n g p put) c → c.level = false → g.toNat < c.b.tags.length →
    let i : Instr := .cpyt r n g p put
    (begun i c).tidImage n.toNat = some im →
    let t := tidOf im
    let dims := List.range 5
    let tile := dims.map fun j => if j < t.rank then t.tile.getD j 1 else 1
    let grid := dims.map fun j => if j < t.rank then (t.ext.getD j 1 + t.tile.getD j 1 - 1) / t.tile.getD j 1 else 1
    let index := (c.rs (c.x.sc.getD 0)).toNat
    let loc := c.rs r
    let space := p.toNat + 1
    let origin := ((ivAt index grid).zip tile).map fun x => x.1 * x.2
    let ext := dims.map fun j => if j < t.rank then min (tile.getD j 1) (t.ext.getD j 1 - origin.getD j 0) else 1
    let ts := dims.map fun j => if j < t.rank then t.stride.getD j 0 else 0
    let dense := dims.map fun j => BitVec.ofNat 64 (t.esize * (tile.take j).foldl (· * ·) 1)
    let box (m : List Nat) : List (List (Nat × Nat)) := [m.map fun k => (0, k - 1)]
    (grid.foldl (· * ·) 1 ≤ index → exec i s = .next (trapped c 2)) ∧
    (put = true → (t.space = 5 ∨ t.space = 6) → exec i s = .next (trapped c 2)) ∧
    (index < grid.foldl (· * ·) 1 → (put = true → t.space ≠ 5 ∧ t.space ≠ 6) → loc.toNat % t.esize ≠ 0 → exec i s = .next (trapped c 1)) ∧
    (index < grid.foldl (· * ·) 1 → (put = true → t.space ≠ 5 ∧ t.space ≠ 6) → loc.toNat % t.esize = 0 →
      (2 ≤ t.space → leaves (box ext) ((t.base.toNat : Int) + dotInt (origin.take t.rank) t.stride) ts t.esize (c.spaceLimit t.space) = false ∧
        ((t.space = 5 ∨ t.space = 6) → t.rcore < 12)) →
      (2 ≤ space → leaves (box (if put then ext else tile)) loc.toNat dense t.esize (c.spaceLimit space) = false) →
      s.outstanding c.core s.cur.blk s.cur.slot = false → (s.core c.core).copies.length < 128 → (c.b.tags.getD g.toNat {}).pending < 255 →
      ∃ u w q, exec i s = .next u ∧ noEntities w = noEntities (freed i c) ∧
        Retires ((s.setCore c.core { s.core c.core with copies := tset (s.core c.core).copies (s.core c.core).nextCmd (c.absolute q),
                                                        nextCmd := (s.core c.core).nextCmd + 1 }).modBlock
          s.cur.blk fun b => b.modTag g.toNat Tag.start) c u w ∧
        q.run = t.esize ∧ q.n = tile ∧ q.iv = [0, 0, 0, 0, 0] ∧ q.ext = some ext ∧ q.put = put ∧ q.tag = g.toNat ∧ q.blk = s.cur.blk ∧
        (put = false → q.src = t.addr origin ∧ q.dst = loc ∧ q.sspc = t.space ∧ q.dspc = space ∧ q.ss = ts ∧ q.ds = dense) ∧
        (put = true → q.src = loc ∧ q.dst = t.addr origin ∧ q.sspc = space ∧ q.dspc = t.space ∧ q.ss = dense ∧ q.ds = ts)))

/-- R133, R135, R139, R140: a command of the copy engine performs its remaining runs in their order and then counts down its tag; at 0 the
tag is ready; of a tag that `TGCLR` cleared in the cycle only the count changes (R141). One that an error ends performs the runs before it,
leaves the cause and the vector of the failing run in its descriptor, and marks the tag. A run between typed buffers moves its bytes.
The model's own choices and readings here: log 9, 44, 52, 86, 90 and 91. -/
def Obligations.CopyRuns : Prop :=
  (∀ (s : State) core cmd q b, tget (s.core core).copies cmd = some q → q.parked = false → s.heldAt core q.cls = false →
    tget s.blocks q.blk = some b → q.tag < b.tags.length → b.ended = false →
    (∀ q' s', s.copyRuns core q q.left = (.ok (), q', s') →
      ∃ t, exec (.tagCompletion core cmd) s = .next t ∧ tget (t.core core).copies cmd = none ∧ t.mem = s'.mem ∧
        (tget t.blocks q.blk).map (fun b => b.tags[q.tag]?) = (tget s'.blocks q.blk).map fun b =>
          (b.tags[q.tag]?).map fun x => { x with ready := x.ready || decide (x.pending ≤ 1 ∧ x.cleared ≠ some s.now), pending := x.pending - 1 }) ∧
    (∀ n q' s', n < q.left → s.copyRuns core q n = (.ok (), q', s') →
      ∃ t, exec (.engineAccessError core cmd true n) s = .next t ∧ tget (t.core core).copies cmd = none ∧ t.mem = s'.mem ∧
        (tget t.blocks q.blk).map (fun b => (b.tags[q.tag]?).map (·.error)) =
          (tget s'.blocks q.blk).map (fun b => (b.tags[q.tag]?).map fun x => x.error || decide (x.cleared ≠ some s.now)) ∧
        (∀ off b', q.desc = some off → tget s'.blocks q.blk = some b' →
          (List.range 2).map (fun j => t.bufByte b'.core 3 (b'.aslice.base + off + 18 + j)) = leBytes 25 2 ∧
          (List.range (4 * q'.iv.length)).map (fun j => t.bufByte b'.core 3 (b'.aslice.base + off + 44 + j)) =
            q'.iv.flatMap fun x => leBytes x 4))) ∧
  (∀ (s : State) core (q : Copy), q.ext = none → q.put = false → q.sspc ∈ [2, 3, 4] → q.dspc ∈ [2, 3, 4] → q.sspc ≠ q.dspc →
    q.moved = none → GraverIdle s →
    ∃ t, s.copyRun core q = (.ok (), t) ∧ t.mem = s.mem ∧
      ∀ a, t.bufByte core q.dspc a =
        if (q.dstAt q.iv).toNat ≤ a ∧ a < (q.dstAt q.iv).toNat + q.run then
          s.bufByte core q.sspc ((q.srcAt q.iv).toNat + (a - (q.dstAt q.iv).toNat))
        else s.bufByte core q.dspc a)

/-- R139–R141: tag instructions outside Level mode. `TGCLR` notes its cycle, in which a completion comes before it. -/
def Obligations.TagInstructions : Prop :=
  (∀ (b : Block) n, b.tags.length ≤ 64 → n < 64 → b.tgb.getLsbD n = ((b.tags[n]?).map (·.ready)).getD false ∧
    b.tgerr.getLsbD n = ((b.tags[n]?).map (·.error)).getD false) ∧
  (∀ s i a c, Issues s i c → c.level = false →
    ((∃ d, i = .tgfind d a) ∨ (∃ d e, i = .tgtest d a e) ∨ i = .tgwait a ∨ i = .tgany a ∨ i = .tgclr a) →
    let m := c.rs a
    (m.toNat / 2 ^ c.b.tags.length ≠ 0 → exec i s = .next (trapped c 18)) ∧
    (m.toNat / 2 ^ c.b.tags.length = 0 →
      (i = .tgwait a →
        (c.b.tgb &&& m ≠ m → exec i s = .next (c.waitHere (.tags m false))) ∧
        (∀ n, c.b.tgb &&& m = m → c.b.tagFault m = some n → exec i s = .next (trapped c n)) ∧
        (c.b.tgb &&& m = m → c.b.tagFault m = none →
          ∃ t w, exec i s = .next t ∧ Retires s c t w ∧ noEntities w = noEntities (freed i c))) ∧
      (i = .tgany a →
        (m = 0 → exec i s = .next (trapped c 18)) ∧
        (m ≠ 0 → c.b.tgb &&& m = 0 → exec i s = .next (c.waitHere (.tags m true))) ∧
        (∀ n, c.b.tgb &&& m ≠ 0 → c.b.tagFault m = some n → exec i s = .next (trapped c n)) ∧
        (c.b.tgb &&& m ≠ 0 → c.b.tagFault m = none →
          ∃ t w, exec i s = .next t ∧ Retires s c t w ∧ noEntities w = noEntities (freed i c))) ∧
      (∀ d e, i = .tgtest d a e →
        ∃ t w, exec i s = .next t ∧ Retires s c t w ∧
          noEntities w = noEntities { freed i c with s := c.w0.s.set d.toNat ((if e then c.b.tgerr else c.b.tgb) &&& m) (by omega) }) ∧
      (∀ d, i = .tgfind d a →
        let n := ((List.range 64).find? fun j => (c.b.tgb &&& m).getLsbD j).getD 64
        let bad := (c.b.tags[n]?).bind fun x => if x.error then some x.cause else none
        (∀ k, bad = some k → exec i s = .next (trapped c k)) ∧
        (bad = none → ∃ t w, exec i s = .next t ∧ Retires s c t w ∧
          noEntities w = noEntities { freed i c with s := c.w0.s.set d.toNat (BitVec.ofNat 64 (if n < c.b.tags.length then n else 64)) (by omega) })) ∧
      (i = .tgclr a →
        let clear := fun (x : Tag × Nat) => if m.getLsbD x.2 then
          { x.1 with ready := false, error := false, cause := 0, cleared := some s.now } else x.1
        ∃ t w, exec i s = .next t ∧ noEntities w = noEntities (freed i c) ∧
          Retires (s.modBlock s.cur.blk fun b => { b with tags := b.tags.zipIdx.map clear }) c t w)))

/-- R142–R145: `RIDX` of a legal ring word completes with a slot's header location and phase. `RWAIT` outside Level mode completes when the
aligned header, read and met, is there, else it waits; `RFLIP` outside Level mode, with nothing earlier outstanding, releases, writes the
header and completes. Each traps RINGERR for an illegal word or a misaligned header. The cores that a strong header read's release tags name
are remembered for a later `FENCE.racq` (R115). Requests wait while they are held at their source (R422, R423).
The model's own choices and readings here: log 9, 25, 33, 52 and 80. -/
def Obligations.Rings : Prop :=
  (∀ s d a b c, Issues s (.ridx d a b) c →
    let i : Instr := .ridx d a b
    let w := (c.rs a).toNat
    let n := (c.rs b).toNat % 2 ^ 32
    let k := w % 32
    let z := w / 2 ^ 58 % 16
    let legal : Prop := (k ≤ 16 ∧ z ≤ 10 ∧ w / 2 ^ 57 % 2 = 0 ∧ w / 2 ^ 62 = 0)
    (¬ legal → exec i s = .next (trapped c 19)) ∧
    let header : Dword := BitVec.ofNat 64 (w / 64 % 2 ^ 51 * 64 + n % 2 ^ k * (64 * 2 ^ z))
    let phase : Dword := BitVec.ofNat 64 (n / 2 ^ k % 2 + (if n < 2 ^ k then 2 else 0))
    (legal → ∃ t w', exec i s = .next t ∧ Retires s c t w' ∧
      noEntities w' = noEntities { freed i c with s := (c.w0.s.set d.toNat header (by omega)).set (d + 1).toNat phase (by omega) })) ∧
  (∀ s a b f p sc c, Issues s (.rwait a b f p sc) c → c.b.isLevel = false →
    let i : Instr := .rwait a b f p sc
    let loc := c.rs a
    let ph : Nat := if (c.rs b).getLsbD 0 then 1 else 0
    let want : Dword := BitVec.ofNat 64 (if f then (if (c.rs b).getLsbD 1 then 1 else 2 + (1 - ph)) else ph)
    let met (h : Dword) : Prop := h = want
    (loc.toNat % 64 ≠ 0 → exec i s = .next (trapped c 19)) ∧
    (loc.toNat % 64 = 0 → p = true → BufferReady c 3 8 [(0, loc)] →
      let c1 := (begun i c).settle
      let h : Dword := BitVec.ofNat 64 (leNat (c1.bufLoad 3 loc.toNat 8))
      (met h → ∃ t w, exec i s = .next t ∧ Retires c1.s c t w ∧ noEntities w = noEntities (freed i c)) ∧
      (¬ met h → exec i s = .next (c.waitHere (.ring false loc.toNat h want {})))) ∧
    (∀ c1 q, loc.toNat % 64 = 0 → p = false → (begun i c).reach .load true [(0, loc)] = .ok (c1, [q]) → Settled c1.s c.core s.cur →
      let scope := if sc = 0 then 6 else sc.toNat
      let path : Path := if q.st = .uncached then .home else if scope ≤ 3 then .l1 else .past
      let r := c1.readAt path true q.pa 8
      let h : Dword := BitVec.ofNat 64 (leNat r.1.bytes)
      (r.1.lost = false → CachesTake c1.s c.core 1 → r.1.bytes = (List.range 8).map fun j => seesBy c1.s path c.core (q.pa + j)) ∧
      (met h → r.1.lost = false → ¬ Admitted c r.2.sends → exec i s = .next (heldBack c r.2.sends)) ∧
      (met h → r.1.lost = false → r.1.far = false → Admitted c r.2.sends →
        ∃ t w, exec i s = .next t ∧ Retires (r.2.s.acquireCaches c.core scope) c t w ∧
          { noEntities w with racq := [], racqFull := false } = { noEntities (freed i c) with racq := [], racqFull := false } ∧
          (∀ k, k ∈ c.w0.racq ∨ k ∈ r.2.taggers [q.pa] → k ∈ w.racq ∨ w.racqFull = true)) ∧
      (met h → r.1.lost = false → r.1.far = true → Admitted c r.2.sends →
        ∃ t e, exec i s = .next t ∧ entityAt t s.cur = some e ∧ e.wait = some .data ∧ e.pc = c.e.pc + 4) ∧
      (¬ met h → r.1.lost = false →
        ∃ t e, exec i s = .next t ∧ entityAt t s.cur = some e ∧ e.wait = some (.ring true q.pa h want q.via) ∧ e.pc = c.gpc))) ∧
  (∀ s a b f p sc c, Issues s (.rflip a b f p sc) c → c.b.isLevel = false → s.outstanding c.core s.cur.blk s.cur.slot = false →
    let i : Instr := .rflip a b f p sc
    let loc := c.rs a
    let ph : Nat := if (c.rs b).getLsbD 0 then 1 else 0
    let bytes := leBytes (if f then 2 + ph else ph) 8
    let ascope := if sc = 0 then 2 else sc.toNat
    (loc.toNat % 64 ≠ 0 → exec i s = .next (trapped c 19)) ∧
    (loc.toNat % 64 = 0 → p = true → BufferReady c 3 8 [(0, loc)] → GraverIdle s →
      ∃ t w, exec i s = .next t ∧ noEntities w = noEntities (freed i c) ∧
        Retires (bufferStored c 3 ((begun i c).settle.s.releaseCaches c.core ascope) loc.toNat bytes) c t w) ∧
    (∀ c1 q, loc.toNat % 64 = 0 → p = false → (begun i c).reach .store true [(0, loc)] = .ok (c1, [q]) →
      let scope := if sc = 0 then 6 else sc.toNat
      let released : Ctx := { c1 with s := c1.s.releaseCaches c.core scope }
      ∃ c2, released.storeAt 4 scope q bytes = .ok c2 ∧
        (¬ Admitted c c2.sends → exec i s = .next (heldBack c c2.sends)) ∧
        (Admitted c c2.sends → ∃ t w, exec i s = .next t ∧ Retires c2.s c t w ∧ noEntities w = noEntities (freed i c))))

/-- R146–R148, R153, R156–R159: tile instructions outside Level mode, once the tile's address has translated. A `TREL` completes when the tile's
home has acknowledged its fold; requests wait while they are held at their source (R422, R423).
The model's own choices and readings here: log 9, 27, 33, 71 and 87. -/
def Obligations.TileInstructions : Prop :=
  (∀ s d a n red snap c c1 pa st ts, Issues s (.tacq d a n red snap) c → c.level = false →
    let i : Instr := .tacq d a n red snap
    let va := c.rs a
    let aoff := (c.rs (a + 1)).toNat
    let size := 4096 * 4 ^ ts.toNat
    (begun i c).tileAt va = .ok (c1, pa, st, ts) →
    let tiles := c.b.tiles.filter fun x => decide (¬ (x.pa = pa ∧ (x.view = .refused ∨ x.view = .delivered)))
    let onCore := (c1.s.setBlock s.cur.blk { c.b with tiles := tiles }).tileTable c.core
    let q : TileReq :=
      { blk := s.cur.blk, pa := pa, size := size, excl := !snap, kind := red, aoff := aoff, tag := n.toNat
        spc := c.rs (c.x.sc.getD 0), direct := some (s.cur, d)
        via := c1.s.viaOf c.core c.asid va.toNat, cls := BitVec.ofNat 2 c.launch.prio }
    let status (x : Dword) : Prop := ∃ t w, exec i s = .next t ∧
      Retires (c1.s.modBlock s.cur.blk fun b => { b with tiles := tiles }) c t w ∧
      noEntities w = noEntities { freed i c with s := c.w0.s.set d.toNat x (by omega) }
    (st ≠ .nclass → exec i s = .next (trapped c 20)) ∧
    (st = .nclass → va.toNat % size ≠ 0 → exec i s = .next (trapped c 1)) ∧
    (st = .nclass → va.toNat % size = 0 → (aoff % 64 ≠ 0 ∨ c.b.aslice.len < aoff + size) → exec i s = .next (trapped c 2)) ∧
    (st = .nclass → va.toNat % size = 0 → aoff % 64 = 0 → aoff + size ≤ c.b.aslice.len →
      (c.b.tags.length ≤ n.toNat → exec i s = .next (trapped c 18)) ∧
      (n.toNat < c.b.tags.length →
        ((∃ x ∈ tiles, x.pa = pa) → status 4) ∧
        ((∀ x ∈ tiles, x.pa ≠ pa) → (8 ≤ tiles.length ∨ 32 ≤ onCore) → status 3) ∧
        ((∀ x ∈ tiles, x.pa ≠ pa) → tiles.length < 8 → onCore < 32 → ¬ Admitted c [moduleOf pa] →
          exec i s = .next (heldBack c [moduleOf pa])) ∧
        ((∀ x ∈ tiles, x.pa ≠ pa) → tiles.length < 8 → onCore < 32 → Admitted c [moduleOf pa] →
          ∃ t w e, exec i s = .next t ∧ waveAt t s.cur = some w ∧ w.entity s.cur.frag = some e ∧ e.wait = some .tile ∧
            noEntities w = noEntities (freed i c) ∧
            (tget t.blocks s.cur.blk).map (·.tiles) = some (tiles ++
              [{ va := va, pa := pa, size := size, view := .pending, kind := red, aoff := aoff, spc := c.rs (c.x.sc.getD 0) }]) ∧
            tget t.treqs c1.s.nextReq = some q)))) ∧
  (∀ s d a c c1 pa st ts, Issues s (.trel d a) c → c.b.isLevel = false →
    let i : Instr := .trel d a
    (begun i c).tileAt (c.rs a) = .ok (c1, pa, st, ts) →
    (c.b.heldTile pa = none → ∃ t w, exec i s = .next t ∧ Retires c1.s c t w ∧
      noEntities w = noEntities { freed i c with s := c.w0.s.set d.toNat 5 (by omega) }) ∧
    (∀ x, c.b.heldTile pa = some x → c.b.sur = none → s.outstanding c.core s.cur.blk s.cur.slot = false → Admitted c [moduleOf pa] →
      ∃ t w e, exec i s = .next t ∧ waveAt t s.cur = some w ∧ w.entity s.cur.frag = some e ∧ e.pc = c.e.pc + 4 ∧
        e.wait = (if t.foldDue pa x.size then some (.fold pa x.size) else none) ∧
        noEntities w = noEntities { freed i c with s := c.w0.s.set d.toNat 0 (by omega) } ∧
        tget t.tiles pa = none ∧ (tget t.blocks s.cur.blk).map (·.heldTile pa) = some none ∧
        (c1.s.reachable pa = true → (∀ p ∈ (c1.s.core c.core).l1d, p.2.dirty = 0) → (∀ p ∈ c1.s.clu, p.2.dirty = 0) →
          (x.kind = 0 → memRead t.mem pa x.size = c1.s.tileCopy c.b x.aoff x.size) ∧
          (x.kind ≠ 0 → ∀ j, j < x.size / 4 → dwordOf (memRead t.mem (pa + 4 * j) 4) =
            atomicValue (if x.kind = 3 then 2 else 0) (if x.kind = 2 then 0 else 4) (dwordOf (memRead c1.s.mem (pa + 4 * j) 4))
              (dwordOf (((c1.s.tileCopy c.b x.aoff x.size).drop (4 * j)).take 4)) 0)))) ∧
  (∀ s d a c c1 pa st ts, Issues s (.tstat d a) c →
    let i : Instr := .tstat d a
    (begun i c).tileAt (c.rs a) = .ok (c1, pa, st, ts) →
    (c.b.tile pa = none → ∃ t w, exec i s = .next t ∧ Retires c1.s c t w ∧
      noEntities w = noEntities { freed i c with s := c.w0.s.set d.toNat 0 (by omega) }) ∧
    (∀ x, c.b.tile pa = some x →
      let v : Nat := match x.view with
        | .held => 1 + 8 * x.refusals + 64 * x.kind.toNat
        | .pending => 2
        | .refused => 3
        | .delivered => 4
      let tiles := if x.view = .held ∨ x.view = .pending then c.b.tiles else c.b.tiles.filter fun y => y.pa ≠ pa
      ∃ t w, exec i s = .next t ∧ Retires (c1.s.modBlock s.cur.blk fun b => { b with tiles := tiles }) c t w ∧
        noEntities w = noEntities { freed i c with s := c.w0.s.set d.toNat (BitVec.ofNat 64 v) (by omega) })) ∧
  (∀ s o c, Issues s (.cede o) c →
    (c.isSurrender = false → exec (.cede o) s = .next (trapped c 20)) ∧
    (∀ w0 q, c.b.sur = some (w0, q) → c.isSurrender = true → c.b.isLevel = false → c.b.ended = false →
      s.outstanding c.core s.cur.blk s.cur.slot = false → s.traces c.b = false →
      ∃ t b', exec (.cede o) s = .next t ∧ tget t.blocks s.cur.blk = some b' ∧ b'.sur = none ∧
        (∀ x, o = 2 → c.b.heldTile q.tile = some x → x.refusals < c.b.lim → q.cancelled = false →
          (b'.heldTile q.tile).map (·.refusals) = some (x.refusals + 1) ∧ t.mem = s.mem ∧
          (∀ r, tget s.treqs q.req = some r → (tget t.treqs q.req).map (·.phase) = some .refused)) ∧
        (∀ x r, o = 0 → c.b.heldTile q.tile = some x → q.cancelled = false → tget s.treqs q.req = some r → r.pa = q.tile →
          b'.heldTile q.tile = none ∧
          (r.excl = true → (tget t.tiles q.tile).map (fun y => (y.holder, y.kind)) = some (r.blk, r.kind)) ∧
          (r.excl = false → tget t.tiles q.tile = none)) ∧
        (∀ x r, o = 1 → c.b.heldTile q.tile = some x → q.cancelled = false → tget s.treqs q.req = some r → r.pa = q.tile → r.excl = false →
          x.kind ≠ 0 →
          b'.heldTile q.tile = some x ∧ t.tiles = s.tiles ∧
          (tget t.treqs q.req).map (·.phase) = some (if t.foldDue q.tile r.size then .folding false
            else .delivering (memRead t.mem q.tile r.size) false))))

/-- R147–R153, R155, R156: tile requests on their way. A request for a free tile is granted; one for a held tile becomes a recall to the
holder's core, where recalls of one tile arrive in the order of their sending. The surrender wave starts with the registers of R150; past its
bound it ends, and OVERRUN is set in the holder's waves; a delivery leaves its image in the A slice. Where elements of a fold are still on
their way, an image waits for them (R153).
The model's own choices and readings here: log 27. -/
def Obligations.TileRequests : Prop :=
  (∀ s n q, tget s.treqs n = some q → q.phase = .toHome →
    (tget s.tiles q.pa = none →
      ∃ t, exec (.tileRequestArrival n) s = .next t ∧ t.mem = s.mem ∧
        (q.excl = true → (tget t.tiles q.pa).map (fun x => (x.holder, x.kind)) = some (q.blk, q.kind) ∧
          (tget t.treqs n).map (·.phase) = some (if s.foldDue q.pa q.size then .folding true
            else .delivering (if q.kind = 0 then memRead s.mem q.pa q.size else identityImage q.kind q.size) true)) ∧
        (q.excl = false → t.tiles = s.tiles ∧
          (tget t.treqs n).map (·.phase) = some (if s.foldDue q.pa q.size then .folding false else .delivering (memRead s.mem q.pa q.size) false))) ∧
    (∀ d h, tget s.tiles q.pa = some d → tget s.blocks d.holder = some h →
      (∀ b, q.direct ≠ none → tget s.blocks q.blk = some b → (b.tags.getD q.tag {}).pending < 255) →
      ∃ t, exec (.tileRequestArrival n) s = .next t ∧ (tget t.treqs n).map (·.phase) = some (.recall h.core) ∧
        (tget t.treqs n).bind (·.direct) = none ∧ t.tiles = s.tiles)) ∧
  (∀ s n q d h, tget s.treqs n = some q → tget s.tiles q.pa = some d → tget s.blocks d.holder = some h →
    (q.phase = .recall h.core → q.fwd = none →
      (∀ x ∈ s.treqs, x.2.pa = q.pa → x.2.sent < q.sent →
        (∀ k, x.2.phase ≠ .recall k) ∧ ∀ k, x.2.phase = .queued k → k = h.core) →
      (s.core h.core).recalls.length < 16 →
      ∃ t, exec (.recallArrival n) s = .next t ∧ (tget t.treqs n).map (·.phase) = some (.queued h.core) ∧
        (q.key = none → (t.core h.core).recalls = (s.core h.core).recalls ++ [n])) ∧
    (q.phase = .resend → ∃ t, exec (.recallResend n) s = .next t ∧ (tget t.treqs n).map (·.phase) = some (.recall h.core))) ∧
  (∀ s core n q d h x, (∀ p ∈ s.blocks, ¬ (p.2.core = core ∧ p.2.sur.isSome = true)) → (s.core core).recalls.head? = some n →
    tget s.treqs n = some q → tget s.tiles q.pa = some d → tget s.blocks d.holder = some h → h.heldTile q.pa = some x →
    h.core = core → h.isLevel = false → x.spc.toNat % 4 = 0 →
    ∃ t w y, exec (.surrenderWaveStart core) s = .next t ∧ (tget t.blocks d.holder).bind (·.sur) = some (w, y) ∧
      y.req = n ∧ y.tile = q.pa ∧ y.issued = 0 ∧ w.parent.pc = x.spc ∧ w.parent.xm = BitVec.allOnes 32 ∧ w.role = 0 ∧ w.floor = 64 ∧ w.cap = 512 ∧
      w.s[0] = x.va ∧ w.s[1] = BitVec.ofNat 64 x.aoff ∧ w.s[2] = (if q.excl then 0 else 1) ∧
      (∀ r, tget s.blocks q.blk = some r → w.s[3] = r.blk.setWidth 64) ∧ w.s[4] = BitVec.ofNat 64 x.refusals ∧ w.s[5] = x.kind.setWidth 64 ∧
      (∀ n : Fin 32, 6 ≤ n.val → w.s[n] = 0) ∧ w.k = Vector.replicate 12 0 ∧ w.v = Vector.replicate 64 none) ∧
  (∀ s core p w q, s.blocks.find? (fun p => p.2.core = core && p.2.sur.isSome) = some p → tget s.blocks p.1 = some p.2 →
    p.2.sur = some (w, q) → p.2.bnd ≤ q.issued → s.outstanding core p.1 16 = false → p.2.isLevel = false → p.2.ended = false →
    ∃ t b', exec (.surrenderBoundExpiry core) s = .next t ∧ tget t.blocks p.1 = some b' ∧ b'.sur = none ∧ b'.heldTile q.tile = none ∧
      ∀ n w, tget b'.waves n = some w → w.cause.getLsbD 21 = true) ∧
  (∀ s n q b image tenure, tget s.treqs n = some q → tget s.blocks q.blk = some b → GraverIdle s →
    (q.phase = .delivering image tenure ∨ (q.phase = .folding tenure ∧ s.foldDue q.pa q.size = false ∧
      image = if tenure = true ∧ q.kind ≠ 0 then identityImage q.kind q.size else memRead s.mem q.pa q.size)) →
    ∃ t b', exec (.tileDelivery n) s = .next t ∧ tget t.treqs n = none ∧ tget t.blocks q.blk = some b' ∧
      (∀ j, j < image.length → t.bufByte b.core 3 (b.aslice.base + q.aoff + j) = image.getD j 0) ∧
      (∀ x, b.tiles = [x] → x.pa = q.pa → x.view = .pending →
        (tenure = true → b'.tiles = [{ x with view := .held }]) ∧
        (tenure = false → q.direct = none → b'.tiles = [{ x with view := .delivered }]) ∧
        (tenure = false → q.direct ≠ none → b'.tiles = [])) ∧
      (∀ r d w e, q.direct = some (r, d) → waveAt s r = some w → w.entity r.frag = some e → e.wait = some .tile →
        ∃ w' e', waveAt t r = some w' ∧ w'.s = w.s.set d.toNat 0 (by omega) ∧ w'.entity r.frag = some e' ∧ e'.wait = none))
/-! ### Matrix memory, the Graver and Stipple -/

/-- R317, R318: `MLD` writes a matrix in the lanes that take part, element by element as its lanes' bytes hold them, now or when they
arrive from a remote home; `MST` stores the elements. A matrix register is read as it stands; in a split wave outside Level mode, as it stands or
as it stood before a write of the wave's other entity (R312). Requests wait while they are held at their source (R422, R423).
The model's own choices and readings here: log 9, 33, 52, 78 and 80. -/
def Obligations.MatrixMemory : Prop :=
  (∀ s d r k a gd c c1 ps, Issues s (.mld d r k a gd) c →
    let i : Instr := .mld d r k a gd
    let n := (r.toNat + 1) * (k.toNat + 1)
    (begun i c).globalLanes .load false 4 (matrixAddresses c a n) = .ok (c1, ps) →
    let x := c1.loadAll 4 ps
    let o : Outcome := { mat := some (d, r.toNat + 1, k.toNat + 1, fun l => (x.1.vals.filter fun v => v.1 = l).map fun v => wordOf v.2) }
    OutcomeRoom i c o →
    (¬ Admitted c x.2.sends → exec i s = .next (heldBack c x.2.sends)) ∧
    (Admitted c x.2.sends → x.1.far = false → ∃ t w, exec i s = .next t ∧ Retires x.2.s c t w ∧ noEntities w = noEntities (after i c o)) ∧
    (Admitted c x.2.sends → x.1.far = true → ∃ t w e, exec i s = .next t ∧ waveAt t s.cur = some w ∧ w.entity s.cur.frag = some e ∧ e.wait = some .data ∧
      GoesOn c.e { e with wait := none } (c.e.pc + 4) ∧
      noEntities w = noEntities { freed i c with
        m := (freed i c).m.set d.toNat (writeM (freed i c).m[d.toNat] (r.toNat + 1) (k.toNat + 1) 0 fun _ => []) } ∧
      ∃ p ∈ (t.core c.core).loads, p.ent = s.cur ∧ p.vregs = [] ∧ p.sreg = none ∧
        p.mreg.map (fun m => (m.1, m.2.1, m.2.2.rows, m.2.2.cols)) = some (d, c.g, r.toNat + 1, k.toNat + 1) ∧
        ∀ l, p.mreg.map (fun m => elements m.2.2 l) = some ((x.1.vals.filter fun v => v.1 = l).map fun v => wordOf v.2))) ∧
  (∀ s d r k a gd c, Issues s (.mldA d r k a gd) c →
    let i : Instr := .mldA d r k a gd
    let n := (r.toNat + 1) * (k.toNat + 1)
    let c1 := (begun i c).settle
    let o : Outcome := { mat := some (d, r.toNat + 1, k.toNat + 1, fun l =>
      (List.range n).map fun j => wordOf (c1.bufLoad 3 ((matrixAddress c a n l).toNat + 4 * j) 4)) }
    BufferReady c 3 4 (matrixAddresses c a n) → OutcomeRoom i c o →
    ∃ t w, exec i s = .next t ∧ Retires c1.s c t w ∧ noEntities w = noEntities (after i c o)) ∧
  (∀ s a b gd c c1 ps, Issues s (.mst a b gd) c →
    let i : Instr := .mst a b gd
    let m := c.rm a
    let n := m.rows * m.cols
    let element (l : Fin 32) (j : Nat) : List Byte := leBytes ((elements m l).getD j 0).toNat 4
    (begun i c).globalLanes .store false 4 (matrixAddresses c b n) = .ok (c1, ps) →
    (c.b.isLevel = false →
      ∃ c3, ps.zipIdx.foldlM (fun c p => c.storeAt 0 6 p.1 (element p.1.lane (p.2 % n))) c1 = .ok c3 ∧
        (¬ Admitted c c3.sends → exec i s = .next (heldBack c c3.sends)) ∧
        (Admitted c c3.sends → ∃ t w, exec i s = .next t ∧ Retires c3.s c t w ∧ noEntities w = noEntities (freed i c))) ∧
    (c.level = true →
      ∃ t w e, exec i s = .next t ∧ waveAt t s.cur = some w ∧ w.entity s.cur.frag = some e ∧
        heldMore c (ps.zipIdx.map fun p => .store p.1.pa (element p.1.lane (p.2 % n)) p.1.via p.1.lane.val) e ∧
        GoesOn { c.e with held := e.held } e (c.e.pc + 4) ∧ noEntities w = noEntities (freed i c) ∧ Elsewhere c1.s t)) ∧
  (∀ s a b gd c, Issues s (.mstA a b gd) c →
    let i : Instr := .mstA a b gd
    let m := c.rm a
    let n := m.rows * m.cols
    let element (l : Fin 32) (j : Nat) : List Byte := leBytes ((elements m l).getD j 0).toNat 4
    let as_ := (matrixAddresses c b n).zipIdx
    let c1 := (begun i c).settle
    BufferReady c 3 4 (matrixAddresses c b n) → GraverIdle s →
    (c.level = false →
      ∃ t w, exec i s = .next t ∧ noEntities w = noEntities (freed i c) ∧
        Retires (as_.foldl (fun s x => bufferStored c 3 s x.1.2.toNat (element x.1.1 (x.2 % n))) c1.s) c t w) ∧
    (c.level = true →
      ∃ t w e, exec i s = .next t ∧ waveAt t s.cur = some w ∧ w.entity s.cur.frag = some e ∧
        heldMore c (as_.map fun x => .buf 3 x.1.2.toNat (element x.1.1 (x.2 % n))) e ∧
        GoesOn { c.e with held := e.held } e (c.e.pc + 4) ∧ noEntities w = noEntities (freed i c) ∧ Elsewhere c1.s t)) ∧
  (∀ (c : Ctx) r,
    c.rm r ∈ c.w0.m[r.toNat] :: (c.w0.mlog.filter fun x => x.1 = r && decide (x.2.1 ≠ c.r.frag)).map (·.2.2) ∧
    (c.w0.frag = none ∨ c.b.isLevel = true → c.rm r = c.w0.m[r.toNat]))

/-- R328, R330, R337–R340, R347–R350: the Graver's instructions outside Level mode.
The model's own choices and readings here: log 48, 51 and 52. -/
def Obligations.GraverInstructions : Prop :=
  (∀ s d a b c, Issues s (.gcmd d a b) c → c.level = false →
    let i : Instr := .gcmd d a b
    let w := c.rs b
    let g := c.w0.grav
    let n := c.commandOf a
    let same := decide (g.ring.map (·.word) = some w)
    let sound : Prop := ringOk w = true ∧ w.getLsbD 5 = true ∧ ringZ w = 1 ∧ (same = true ∨ g.outstanding = 0)
    let image (k : Nat) : List Byte := ((begun i c).tidImage k).getD []
    let ia := if gKind n = 1 then [] else image (gTida n)
    let ib := if gKind n = 0 then image (gTidb n) else []
    let iters := gIters n (gFirst n)
    let fits : Prop := (gKind n ≠ 1 → ((begun i c).tidImage (gTida n)).isSome = true) ∧
      (gKind n = 0 → ((begun i c).tidImage (gTidb n)).isSome = true) ∧ gMalformed n = false ∧
      gOperandsOk n (tidOf ia) (tidOf ib) = true ∧ ∀ iv ∈ iters, gIterOk c.b n (tidOf ia) (tidOf ib) iv = true
    let win := (begun i c).window
    let ring : GravRing := if same then g.ring.getD { word := w } else { word := w }
    let off := ringBase w + ring.prod.toNat % 2 ^ ringK w * 128
    let phase := ring.prod.toNat / 2 ^ ringK w % 2
    let header := dwordOf (win.2.bufLoad 3 off 8)
    let free : Prop := header.toNat = if ring.prod.toNat < 2 ^ ringK w ∧ ring.wrap = false then 1 else 2 + (1 - phase)
    let slot := c.b.aslice.base + off
    (¬ sound → exec i s = .next (trapped c 19)) ∧
    (sound → (c.b.aslice.len < ringBase w + 128 * 2 ^ ringK w ∨ ¬ fits) → exec i s = .next (trapped c 2)) ∧
    (sound → ringBase w + 128 * 2 ^ ringK w ≤ c.b.aslice.len → fits →
      ((∃ iv ∈ iters, gWindowOk n win.1 iv = false) → exec i s = .next (trapped c 3)) ∧
      ((∀ iv ∈ iters, gWindowOk n win.1 iv = true) →
        (¬ free → exec i s = .next (c.waitHere (.gslot off header))) ∧
        (free → s.outstanding c.core s.cur.blk s.cur.slot = false →
          ∃ t w', exec i s = .next t ∧
            Retires ((win.2.s.bufWrite c.core 3 (slot + 8) (leBytes (n / 2 ^ 64) 120)).bufWrite c.core 3 slot (leBytes phase 8)) c t w' ∧
            noEntities w' = noEntities { freed i c with
              s := c.w0.s.set d.toNat (ring.prod.setWidth 64) (by omega)
              grav := { g with
                ring := some { word := w, prod := ring.prod + 1, wrap := ring.wrap || decide (ring.prod = 0xFFFFFFFF) }
                queue := g.queue ++ [{ idx := ring.prod, slot := slot, cmd := n, tida := ia, tidb := ib, iv := gFirst n
                                       wave := (s.cur.blk, s.cur.slot), ready := g.ready, cls := c.launch.cls }]
                opened := g.opened + 1 } })))) ∧
  (∀ s c, Issues s .grdy c → c.level = false →
    let s1 := (begun .grdy c).settle.s
    ∃ t w, exec .grdy s = .next t ∧ Retires { s1 with cores := t.cores } c t w ∧
      noEntities w = noEntities { freed .grdy c with grav := { c.w0.grav with ready := s1.nextReq } } ∧
      ∀ n, { t.core n with late := [], freedAt := Vector.replicate 4 0 } = { s1.core n with late := [], freedAt := Vector.replicate 4 0 } ∧
        (t.core n).late = if n / 12 = c.core / 12 then (s1.core n).late.filter fun x => decide (s1.lateFrom c.core s.cur ≤ x.id)
          else (s1.core n).late) ∧
  (∀ s d c, Issues s (.gfence d) c → c.level = false →
    let i : Instr := .gfence d
    let g := c.w0.grav
    let n := g.gbat + 1
    (32767 ≤ g.out.length → exec i s = .next (c.waitHere (.batch (g.last + 1)))) ∧
    (g.out.length < 32767 →
      ∃ t w, exec i s = .next t ∧ Retires s c t w ∧
        noEntities w = noEntities { freed i c with s := c.w0.s.set d.toNat (n.setWidth 64) (by omega), grav := w.grav } ∧
        w.grav.gbat = n ∧ w.grav.opened = 0 ∧ w.grav.openErr = false ∧ w.grav.ring = g.ring ∧ w.grav.faulted = g.faulted ∧
        w.grav.queue = g.queue.map (fun q => { q with batch := some (q.batch.getD n) }) ∧
        (g.out = [] → (∃ q ∈ g.queue, q.done = false ∧ q.batch = none) →
          w.grav.out = [{ num := n, size := g.opened, err := g.openErr }] ∧ w.grav.last = g.last) ∧
        (g.out = [] → (∀ q ∈ g.queue, q.done = false → q.batch ≠ none ∧ q.batch ≠ some n) →
          w.grav.out = [] ∧ w.grav.last = n ∧ w.grav.failed = if g.openErr then g.failed ++ [n] else g.failed))) ∧
  (∀ s a c, Issues s (.gwait a) c → c.level = false →
    let i : Instr := .gwait a
    let g := c.w0.grav
    let n : BitVec 16 := (c.rs a).setWidth 16
    let upTo (m : BitVec 16) : Bool := decide ((g.gbat - n).toNat ≤ (g.gbat - m).toNat)
    (2 ^ 15 ≤ (g.gbat - n).toNat → exec i s = .next (trapped c 2)) ∧
    ((g.gbat - n).toNat < 2 ^ 15 →
      ((g.gbat - n).toNat < (g.gbat - g.last).toNat → exec i s = .next (c.waitHere (.batch n))) ∧
      ((g.gbat - g.last).toNat ≤ (g.gbat - n).toNat →
        ((∃ m ∈ g.failed, upTo m = true) →
          let w : Wave := { freed i c with grav := { g with failed := g.failed.filter fun m => !upTo m, faulted := false } }
          exec i s = .next (trapped { begun i c with w := w } 26 (some c.e.xm))) ∧
        ((∀ m ∈ g.failed, upTo m = false) →
          ∃ t w, exec i s = .next t ∧ Retires s c t w ∧
            noEntities w = noEntities { freed i c with grav := { g with
              queue := g.queue.filter fun q => !q.done || !(q.batch.map upTo).getD false } })))) ∧
  (∀ s a b c, Issues s (.gwin a b) c →
    let i : Instr := .gwin a b
    let k := (c.rs a).toNat % 16
    let base := (c.rs b).toNat % 2 ^ 12
    let lim := (c.rs b).toNat / 2 ^ 16 % 2 ^ 12
    let bad : Prop := (if c.b.task then 1 else c.launch.kd.wpb) ≤ k ∨ lim < base ∨ c.b.cslice.len / 512 < lim
    (s.cur.slot ≠ 0 → exec i s = .next (trapped c 17)) ∧
    (s.cur.slot = 0 → bad → exec i s = .next (trapped c 2)) ∧
    (s.cur.slot = 0 → ¬ bad → k = 0 →
      ∃ t w, exec i s = .next t ∧ Retires s c t w ∧
        noEntities w = noEntities { freed i c with cwb := base, cwl := lim, grav := { c.w0.grav with win := none } }) ∧
    (∀ wk, s.cur.slot = 0 → ¬ bad → k ≠ 0 → c.b.wave k = some wk →
      ∃ t w, exec i s = .next t ∧ noEntities w = noEntities (freed i c) ∧
        Retires (s.modBlock s.cur.blk fun b => b.setWave k { wk with grav := { wk.grav with win := some (base, lim) } }) c t w)) ∧
  (∀ s d a c, Issues s (.gctr d a) c →
    let i : Instr := .gctr d a
    let row := (c.rs a).toNat
    let tile := (c.b.cslice.base / 512 + row) / 128
    let k := tgetD (s.core c.core).ctiles tile (0, 0, 0)
    let f := s.flightAdds c.core tile
    (c.b.cslice.len ≤ row * 512 → exec i s = .next (trapped c 2)) ∧
    (row * 512 < c.b.cslice.len →
      ∃ t w x y z, exec i s = .next t ∧ Retires { s with fresh := t.fresh } c t w ∧ x ≤ f.1 ∧ y ≤ f.2.1 ∧ z ≤ f.2.2 ∧
        w.s = (c.w0.s.set d.toNat (BitVec.ofNat 64 (k.1.toNat - x + (k.2.1.toNat - y) * 2 ^ 32)) (by omega)).set (d + 1).toNat
          (BitVec.ofNat 64 (k.2.2.toNat - z)) (by omega) ∧
        noEntities w = noEntities { freed i c with s := w.s })) ∧
  (∀ s a c, Issues s (.gclr a) c →
    let i : Instr := .gclr a
    let row := (c.rs a).toNat
    let tile := (c.b.cslice.base / 512 + row) / 128
    (c.b.cslice.len ≤ row * 512 → exec i s = .next (trapped c 2)) ∧
    (row * 512 < c.b.cslice.len →
      ∃ t, exec i s = .next t ∧ t.mem = s.mem ∧
        (∀ n, tgetD (t.core c.core).ctiles n (0, 0, 0) = if n = tile then (0, 0, 0) else tgetD (s.core c.core).ctiles n (0, 0, 0)) ∧
        (GraverIdle s → ∃ w, noEntities w = noEntities (freed i c) ∧
          Retires (s.modCore c.core fun k => { k with ctiles := tdel k.ctiles tile }) c t w))) ∧
  (∀ s d b c, Issues s (.gqry d b) c →
    let i : Instr := .gqry d b
    let g := c.w0.grav
    let f : GravFault := g.fault.getD { kind := 0, iv := [], idx := 0, rem := none }
    let v : Nat :=
      if b = 0 then g.last.toNat + g.gbat.toNat * 2 ^ 16 + (g.opened + (g.out.map (·.size)).sum + c.heldCmds) % 2 ^ 16 * 2 ^ 32 +
        (if g.faulted then 2 ^ 48 else 0) + f.kind.toNat * 2 ^ 49
      else if b = 1 then f.iv.getD 0 0 + f.iv.getD 1 0 * 2 ^ 16 + f.iv.getD 2 0 * 2 ^ 32 + f.iv.getD 3 0 * 2 ^ 48
      else f.iv.getD 4 0 + f.idx.toNat * 2 ^ 16 + f.rem.getD 15 * 2 ^ 48
    ∃ t w, exec i s = .next t ∧ Retires s c t w ∧
      noEntities w = noEntities { freed i c with s := c.w0.s.set d.toNat (BitVec.ofNat 64 v) (by omega) })

/-- R329, R331–R333, R337, R344: the Graver takes a wave's commands in ring order; one that completes performs its iterations, frees its
slot with 2 + p and, as the last of a closed batch, completes the batch; a failing one has performed the iterations before, and the
wave is faulted with its record. What an iteration of FILL, of SCALE without conversion and of INT8 GEMM leaves in a C element.
The model's own choices and readings here: log 51 and 52. -/
def Obligations.GraverCommands : Prop :=
  (∀ s blk slot b w q, s.gHead blk slot = some (b, w, q) → q.started = false →
    (w.grav.faulted = false → ∃ t, exec (.graverCommandStart blk slot) s = .next t ∧ t.mem = s.mem ∧
      (t.gHead blk slot).map (·.2.2) = some { q with started := true }) ∧
    (w.grav.faulted = true → ∃ t b' w', exec (.graverCommandStart blk slot) s = .next t ∧ t.mem = s.mem ∧
      tget t.blocks blk = some b' ∧ b'.wave slot = some w' ∧
      (∀ x ∈ w'.grav.queue, x.idx = q.idx → x.done = true) ∧
      (List.range 8).map (fun j => t.bufByte b.core 3 (q.slot + j)) =
        leBytes (2 + q.idx.toNat / 2 ^ ringK ((w.grav.ring.map (·.word)).getD 0) % 2) 8)) ∧
  (∀ s blk slot b w q s' q' b' w', s.gHead blk slot = some (b, w, q) → q.started = true → q.parked = false → s.heldAt b.core q.cls = false →
    s.gBeside b blk slot = false →
    tget s'.blocks blk = some b' → b'.wave slot = some w' →
    let asid := (s.launch b.launch).asid
    let slotFreed (t : State) : Prop := (List.range 8).map (fun j => t.bufByte b'.core 3 (q'.slot + j)) =
      leBytes (2 + q'.idx.toNat / 2 ^ ringK ((w'.grav.ring.map (·.word)).getD 0) % 2) 8
    let ended := w'.grav.queue.map fun x => if x.idx = q'.idx ∧ x.done = false then { q' with done := true } else x
    (s.gRun blk slot asid q q.left = (.ok (), s', q') →
      ∃ t b2 w2, exec (.graverCommandComplete blk slot) s = .next t ∧ t.mem = s'.mem ∧ tget t.blocks blk = some b2 ∧
        b2.wave slot = some w2 ∧ slotFreed t ∧ w2.grav.queue = ended ∧ w2.grav.faulted = w'.grav.faulted ∧
        (∀ x, w'.grav.out = [x] → (∀ y ∈ ended, y.batch = some x.num → y.done = true) →
          w2.grav.last = x.num ∧ w2.grav.out = [] ∧ w2.grav.failed = if x.err then w'.grav.failed ++ [x.num] else w'.grav.failed)) ∧
    (∀ (kind : BitVec 3) iter, kind ∈ [2, 3, 4] → iter < q.left → (q.el = 0 ∨ 0 < iter) → gFaultFits s b q kind.toNat = true →
      s.gRun blk slot asid q iter = (.ok (), s', q') →
      ∃ t b2 w2 f, exec (.graverCommandFault blk slot kind iter) s = .next t ∧ t.mem = s'.mem ∧ tget t.blocks blk = some b2 ∧
        b2.wave slot = some w2 ∧ slotFreed t ∧ w2.grav.queue = ended ∧ w2.grav.faulted = true ∧ w2.grav.fault = some f ∧
        f.kind = kind ∧ f.iv = q'.iv ∧ f.idx = q'.idx ∧ (kind ≠ 3 → f.rem = none) ∧
        (q'.batch = none → w2.grav.openErr = true))) ∧
  (∀ (s : State) b asid (q : GravCmd) r j,
    let n := q.cmd
    let a := tidOf q.tida
    let row := (gW n q.iv).toNat + r
    let old := s.gAcc b q row j
    r < gM n → j < gN n →
    (gKind n = 1 → ∃ us, s.gIteration b asid q = (.ok us, s) ∧
      us.filter (fun u => u.row = row ∧ u.at_ = 4 * j) ≠ [] ∧
      ∀ u ∈ us, u.row = row → u.at_ = 4 * j → u.bytes = leBytes (gFval n) 4) ∧
    (gKind n = 2 → gCvt n = 0 →
      let k := (if gCol n then gC n q.iv else gR n q.iv).toNat + (if gCol n then j else r)
      let scale := s.gElem b q a (a.offset2 k 0)
      ∃ us, s.gIteration b asid q = (.ok us, s) ∧
        (k < a.ext.getD 0 0 → us.filter (fun u => u.row = row ∧ u.at_ = 4 * j) ≠ []) ∧
        ∀ u ∈ us, u.row = row → u.at_ = 4 * j →
          u.bytes = leBytes (fmt32.mul .rne false old scale).1 4) ∧
    (gKind n = 0 → a.format = 1 → (tidOf q.tidb).format = 1 → a.smode = 0 → (tidOf q.tidb).smode = 0 →
      let b' := tidOf q.tidb
      let x := (gR n q.iv).toNat + r
      let y := (gC n q.iv).toNat + j
      let ks := groupPositions a (a.ext.getD 0 0) (gG n q.iv).toNat
      let new : Int := sextInt old 32 + (ks.map fun k => sextInt (s.gElem b q a (a.offset2 k x)) 8 * sextInt (s.gElem b q b' (b'.offset2 y k)) 8).sum
      ∃ us, s.gIteration b asid q = (.ok us, s) ∧
        (x < a.ext.getD 1 0 → y < b'.ext.getD 0 0 → us.filter (fun u => u.row = row ∧ u.at_ = 4 * j) ≠ []) ∧
        ∀ u ∈ us, u.row = row → u.at_ = 4 * j → u.bytes = leBytes (BitVec.ofInt 32 new).toNat 4)) ∧
  (∀ (s : State) b blk slot (q : GravCmd) us a, q.spoiled = false →
    let t := (s.gApply b blk slot q us).1
    t.mem = s.mem ∧ t.bufByte b.core 4 a =
      ((us.reverse.find? fun u => decide (b.cslice.base + 512 * u.row + u.at_ ≤ a) &&
          decide (a < b.cslice.base + 512 * u.row + u.at_ + u.bytes.length)).map fun u =>
        u.bytes.getD (a - (b.cslice.base + 512 * u.row + u.at_)) 0).getD (s.bufByte b.core 4 a))

/-- R355–R374: Stipple instructions outside Level mode map their destinations and wait for their results, which the Stipple's engine
returns: what each answers and what it does to the records. Requests wait while they are held at their source (R422, R423).
The model's own choices and readings here: log 9 and 53. -/
def Obligations.StippleInstructions : Prop :=
  (∀ s i c f, Issues s i c → stippleForm i c = some f → c.level = false →
    (∀ d a la gd, i = .vgen d a la gd → c.g = 0 →
      ∃ t w, exec i s = .next t ∧ Retires s c t w ∧ noEntities w = noEntities (freed i c)) ∧
    (∀ d a la gd l, i = .vgen d a la gd → lowestLane c.g = some l →
      let other := maskOf fun n => inMask c.g n && decide (V c a n ≠ V c a l)
      other ≠ 0 → exec i s = .next (trapped c 6 (some other))) ∧
    (∀ d a la gd, i = .vrwt d a la gd →
      let m := (c.rs (c.x.sc.getD 0)).toNat % 2 ^ 32
      (m = 0 ∨ 2 ^ 24 < m) → exec i s = .next (trapped c 2)) ∧
    ((∀ d a la gd, i = .vgen d a la gd → c.g ≠ 0 ∧ ∀ n l, inMask c.g n = true → inMask c.g l = true → V c a n = V c a l) →
     (∀ d a la gd, i = .vrwt d a la gd → let m := (c.rs (c.x.sc.getD 0)).toNat % 2 ^ 32; 0 < m ∧ m ≤ 2 ^ 24) →
      (f.seals = true → s.outstanding c.core s.cur.blk s.cur.slot = false) → HasRoom i c (stippleDest i) →
      let s1 := if f.seals then s.releaseCaches c.core 6 else s
      let mapped : Wave := { freed i c with v := writeV (freed i c).v ((stippleDest i).map fun n => (n, 0, fun _ => 0)) }
      (c.g = 0 → ∃ t w, exec i s = .next t ∧ Retires s1 c t w ∧ noEntities w = noEntities mapped) ∧
      (c.g ≠ 0 → ¬ Admitted c [s.ownModule] → exec i s = .next (heldBack c [s.ownModule])) ∧
      (c.g ≠ 0 → Admitted c [s.ownModule] →
        ∃ t w e, exec i s = .next t ∧ waveAt t s.cur = some w ∧ w.entity s.cur.frag = some e ∧ e.wait = some .stipple ∧
        GoesOn c.e { e with wait := none } (c.e.pc + 4) ∧ w.entity (!s.cur.frag) = c.w0.entity (!s.cur.frag) ∧
        noEntities w = noEntities mapped ∧ t.mem = s1.mem ∧ t.hub = s1.hub ∧
        (t.core c.core).stip = (s.core c.core).stip ++
          [{ ent := s.cur, gpc := c.gpc, i := i, lanes := c.g, src := f.src.map (readV c.w0), m := f.m, acq := f.reads
             cls := BitVec.ofNat 2 c.launch.prio }]))) ∧
  (∀ s r b w e q, s.stipFirst r = some (b, w, e, q) → r.slot ≠ 16 → stippleDest q.i ≠ [] →
    (∀ rs u, s.hub.stip.en = true → s.stipPerform b.core q 0 = (rs, u) →
      ∃ t w' e', exec (.stippleResultReturn r 0) s = .next t ∧ t.mem = u.mem ∧ t.hub = u.hub ∧ waveAt t r = some w' ∧
        noEntities w' = noEntities { w with v := writeV w.v ((stippleDest q.i).zipIdx.map fun n => (n.1, q.lanes, fun l => (rs[l]).getD n.2 0)) } ∧
        w'.entity r.frag = some e' ∧ { e' with wait := none } = { e with wait := none } ∧
        ((s.core b.core).stip = [q] → e.wait = some .stipple → e'.wait = none) ∧ (t.core b.core).stip = (s.core b.core).stip.erase q) ∧
    (∀ err, (s.hub.stip.en = false ∧ err = 0 ∧ q.lanes ≠ 0 ∨ s.hub.stip.en = true ∧ err ≠ 0 ∧ err &&& ~~~ q.lanes = 0) →
      ∃ t w', exec (.stippleResultReturn r err) s = .next t ∧ waveAt t r = some w' ∧ w'.cause.getLsbD 27 = true)) ∧
  (∀ (s : State) core q l, q.lanes = maskOf (fun n => decide (n = l)) → (∀ d a la gd, q.i ≠ .vgen d a la gd) →
    (s.stipPerform core q 0).1[l] = (s.stipLane core q.i q.m (q.src.map fun v => v[l])).1 ∧
    (s.stipPerform core q 0).2 = (s.stipLane core q.i q.m (q.src.map fun v => v[l])).2) ∧
  (∀ (s : State) x,
    (s.hub.stip.gen.setWidth 32 = x → (s.vgen x).1 = (s.hub.stip.gen + 1).setWidth 32 ∧ (s.vgen x).2.hub.stip.gen = s.hub.stip.gen + 1 ∧
      (∀ p, ((s.vgen x).2.stipPlate p).merge = []) ∧ (s.vgen x).2.mem = s.mem) ∧
    (s.hub.stip.gen.setWidth 32 ≠ x → s.vgen x = (s.hub.stip.gen.setWidth 32, s))) ∧
  (∀ p slot s, p < 2 → slot < 2 ^ 28 → s.hub.stip.en = true → s.eligible p slot = true →
    let id : Word := BitVec.ofNat 32 (p * 2 ^ 31 + slot)
    let par := rParent (s.record id)
    ∃ t, exec (.vertexRetirement p slot) s = .next t ∧ tget (t.stipPlate p).live slot = none ∧
      (par = 0xFFFFFFFF ∨ Apart s id par → rLive (t.record id) = false) ∧
      (par ≠ 0xFFFFFFFF → Apart s id par → rRefs (t.record par) = rRefs (s.record par) - 1))

/-- R355, R357–R360, R362, R367–R372: what `VAPP`, `VSEAL`, `VCONN`, `VRWT`, `VMERGE`, `VGET`, `VREF` and `VREL` answer for a lane, with the status of
each failure in its order, and what they leave in the records.
The model's own choices and readings here: log 53, 54, 55, 88 and 97. -/
def Obligations.VertexRecords : Prop :=
  (∀ (s : State) core seals (ws : List Word), core < 288 → ws.length = 16 → s.hub.stip.ncap.toNat ≤ 28 →
    let par := ws.getD 10 0
    let P := s.record par
    let delta := (ws.getD 6 0).getLsbD 18
    let light := (ws.getD 6 0).getLsbD 16
    let root : Prop := par = 0xFFFFFFFF
    let sound : Prop := (ws.getD 6 0).toNat / 2 ^ 23 = 0 ∧ positive (ws.getD 7 0) = true ∧
      (¬ root → nonNeg (ws.getD 8 0) = true ∧ light = rLight P ∧ rDepth P ≠ 65535)
    let fails (n : Nat) : Prop := s.vapp core seals ws = ([0xFFFFFFFF, BitVec.ofNat 32 n], s)
    let p := corePlate core
    let slots := if p = 1 ∧ s.hub.stip.gen.toNat % 8 = 7 ∧ s.hub.stip.ncap.toNat = 28 then 2 ^ 28 - 1 else 2 ^ s.hub.stip.ncap.toNat
    let used := ((s.stipPlate p).live.filter fun x => decide (x.1 < slots)).length
    (¬ root → 2 ^ s.hub.stip.ncap.toNat ≤ idSlot par → fails 8) ∧
    (¬ root → Stale s par → fails 2) ∧
    (¬ root → Named s par → rSealed P = false → fails 1) ∧
    ((root ∨ Named s par ∧ rSealed P = true) →
      (¬ sound → fails 6) ∧
      (sound → ¬ root → rRefs P = 65535 → fails 4) ∧
      (sound → (root ∨ rRefs P ≠ 65535) → used = slots →
        (∀ x ∈ (s.stipPlate p).live, s.eligible p x.1 = false) → fails 3) ∧
      (sound → (root ∨ rRefs P ≠ 65535) → used < slots → tsorted (s.stipPlate p).live = true →
        ∃ id t, s.vapp core seals ws = ([id, 0], t) ∧ id ≠ 0xFFFFFFFF ∧ idPlate id = p ∧ idSlot id < slots ∧
          idGen id = s.hub.stip.gen.toNat % 8 ∧ tget (s.stipPlate p).live (idSlot id) = none ∧
          (tget (t.stipPlate p).live (idSlot id)).isSome = true ∧
          (¬ root → Apart s id par → rRefs (t.record par) = rRefs P + 1) ∧
          (root ∨ Apart s id par →
            let r := t.record id
            let ratio := heuristic s (div32 (ws.getD 8 0) (rPdfFwd P))
            let one (b : Bool) : Word := if b then 0x3F800000 else 0
            (∀ j, j ∈ [0, 1, 2, 3, 4, 5, 7, 10, 11, 13] → rWord r j = ws.getD j 0) ∧
            natBits r 207 192 = (ws.getD 6 0).toNat % 65536 ∧ natBits r 415 408 = (ws.getD 12 0).toNat / 2 ^ 24 ∧
            rDepth r = (if par = 0xFFFFFFFF then 0 else rDepth P + 1) ∧ rGen r = s.hub.stip.gen.toNat % 256 ∧ rRefs r = 0 ∧ rLive r = true ∧
            rSealed r = seals ∧ rLight r = light ∧ rDelta r = delta ∧ (rEndp r = true ↔ root) ∧
            rMerge r = ((ws.getD 6 0).getLsbD 20 && light && !delta && decide (par ≠ 0xFFFFFFFF)) ∧
            rPdfRev r = (if par = 0xFFFFFFFF then 0 else ws.getD 8 0) ∧
            (rPconn r = if par = 0xFFFFFFFF then !delta else rConn P) ∧
            rL r = (if par = 0xFFFFFFFF then 0 else mul32 ratio (add32 (one (rConn P && rPconn P)) (rL P))) ∧
            rM r = (if par = 0xFFFFFFFF then 0 else mul32 ratio (add32 (one (rMerge P)) (rM P))))))) ∧
  (∀ (s : State) id, Named s id → s.hub.stip.ncap.toNat ≤ 28 →
    let r := s.record id
    let status (n : Nat) : List Word := [BitVec.ofNat 32 n]
    (rSealed r = true → s.vseal id = (status 0, s)) ∧
    (rSealed r = false → ∃ t, s.vseal id = (status 0, t) ∧ rSealed (t.record id) = true ∧
      (t.stipPlate (idPlate id)).merge = (s.stipPlate (idPlate id)).merge ++
        (if rMerge r = true ∧ rGen r = s.hub.stip.gen.toNat % 256 then [id] else [])) ∧
    (rSealed r = false → s.vref true id = (status 1, s) ∧ s.vref false id = (status 1, s) ∧
      s.vget id = (List.replicate 15 0 ++ status (rRefs r + 65536), s)) ∧
    (rSealed r = true → s.vget id = ((List.range 15).map (rWord r) ++ status (rRefs r), s) ∧
      (rRefs r = 65535 → s.vref true id = (status 4, s)) ∧ (rRefs r = 0 → s.vref false id = (status 7, s)) ∧
      (rRefs r ≠ 65535 → ∃ t, s.vref true id = (status 0, t) ∧ rRefs (t.record id) = rRefs r + 1) ∧
      (rRefs r ≠ 0 → ∃ t, s.vref false id = (status 0, t) ∧ rRefs (t.record id) = rRefs r - 1))) ∧
  (∀ (s : State) e l re rl m, Named s e → Named s l →
    let E := s.record e
    let L := s.record l
    let ok : Prop := rLight E = false ∧ rLight L = true ∧ nonNeg re = true ∧ nonNeg rl = true
    ((rSealed E = false ∨ rSealed L = false) → s.connect m [e, l, re, rl] = ([0, 1], s)) ∧
    (rSealed E = true → rSealed L = true →
      (¬ ok → s.connect m [e, l, re, rl] = ([0, 6], s)) ∧
      (ok → (rConn E = false ∨ rConn L = false) → s.connect m [e, l, re, rl] = ([0, 0], s)) ∧
      (ok → rConn E = true → rConn L = true →
        (Overflows s E L re rl → (m = none ∨ rEndp E = true ∧ rEndp L = true) → s.connect m [e, l, re, rl] = ([0, 0], s)) ∧
        (¬ Overflows s E L re rl → m = none → s.connect m [e, l, re, rl] = ([div32 0x3F800000 (connectionSum s E L re rl), 0], s)) ∧
        (∀ x, ¬ Overflows s E L re rl → m = some x → rEndp E = true → rEndp L = true →
          let hit (X : Nat) (rx : Word) : Word := if rDelta X then 0 else heuristic s (div32 rx (rPdfFwd X))
          let d := add32 (connectionSum s E L re rl)
            (mul32 (sub32 (heuristic s (div32 0x3F800000 x)) 0x3F800000) (add32 (hit L rl) (hit E re)))
          s.connect m [e, l, re, rl] = ([div32 0x3F800000 (if x = 0x3F800000 then connectionSum s E L re rl else d), 0], s))))) ∧
  (∀ (s : State) x y z r,
    let qualifies (id : Word) : Prop :=
      let p := s.record id
      (id ∈ (s.stipPlate 0).merge ∨ id ∈ (s.stipPlate 1).merge) ∧ (tget (s.stipPlate (idPlate id)).live (idSlot id)).isSome = true ∧
      (∀ j, j < 3 → (fv32 (rWord p j)).isNan = false) ∧ fle32 (distance2 [x, y, z] [rWord p 0, rWord p 1, rWord p 2]) (mul32 r r) = true
    let ok : Prop := (fv32 x).isNan = false ∧ (fv32 y).isNan = false ∧ (fv32 z).isNan = false ∧ nonNeg r = true ∧
      fle32 r (s.stipPlate 0).cell = true ∧ fle32 r (s.stipPlate 1).cell = true
    (¬ ok → s.vmerge [x, y, z, r] = List.replicate 8 0xFFFFFFFF ++ [0x600]) ∧
    (ok → ∃ ids : List Word, (∀ id ∈ ids, qualifies id) ∧ ids.length ≤ 8 ∧
      (s.vmerge [x, y, z, r]).take 8 = ids ++ List.replicate (8 - ids.length) 0xFFFFFFFF ∧
      (ids.length < 8 → s.vmerge [x, y, z, r] = ids ++ List.replicate (8 - ids.length) 0xFFFFFFFF ++ [BitVec.ofNat 32 ids.length] ∧
        ∀ id, qualifies id → id ∈ ids)))

/-! ### Rays, traps and handlers -/

/-- R375–R378: `TRACE` and `HITGET` outside Level mode, and a command's completion, which stores its hit records and sets its tag.
The model's own choices and readings here: log 56. -/
def Obligations.Traces : Prop :=
  (∀ s i d a la m gd any c, Issues s i c → (i = .trace d a la m gd ∧ any = false ∨ i = .traceAny d a la m gd ∧ any = true) → c.level = false →
    let tagOk : Prop := d.toNat < c.b.tags.length ∧ (c.b.tags.getD d.toNat {}).pending = 0
    let t? := ((begun i c).tidImage ((c.rs (c.x.sc.getD 0)).toNat % 256)).map tidOf
    let tree (t : Tid) : Prop := t.space = 1 ∧ t.format = 7 ∧ t.rank = 1 ∧ t.stride.getD 0 0 = 4 ∧ t.base.toNat % 64 = 0
    let off (l : Fin 32) : Nat := (V c a l).toNat
    let crooked := maskOf fun l => inMask c.g l && decide (off l % 16 ≠ 0)
    let beyond := maskOf fun l => inMask c.g l && decide (c.b.aslice.len < off l + 32)
    let c1 := if m then (begun i c).settle else begun i c
    let ray (l : Fin 32) : List Word :=
      if m then (if inMask c.g l then (List.range 8).map fun j => wordOf (c1.bufLoad 3 (off l + 4 * j) 4) else [])
      else (List.range 8).map fun j => (readV c.w0 (a.toNat + j))[l]
    (¬ tagOk → exec i s = .next (trapped c 18)) ∧
    (tagOk → (t? = none ∨ ∃ t, t? = some t ∧ ¬ tree t) → exec i s = .next (trapped c 2)) ∧
    (∀ t, tagOk → t? = some t → tree t →
      (m = true → crooked ≠ 0 → exec i s = .next (trapped c 1 (some crooked))) ∧
      (m = true → crooked = 0 → beyond ≠ 0 → exec i s = .next (trapped c 2 (some beyond))) ∧
      ((m = true → crooked = 0 ∧ beyond = 0) → s.outstanding c.core s.cur.blk s.cur.slot = false →
        let k := c1.s.core c.core
        let q : Trace := { blk := s.cur.blk, tag := d.toNat, asid := c.asid, lid := c.launch.lid, cls := c.launch.cls, any := any, base := t.base
                           len := 4 * t.ext.getD 0 0, lanes := c.g, rays := lanesOf ray }
        ∃ u w, exec i s = .next u ∧ noEntities w = noEntities (freed i c) ∧
          Retires ((c1.s.setCore c.core { k with traces := tset k.traces k.nextCmd q, nextCmd := k.nextCmd + 1 }).modBlock s.cur.blk
            fun b => b.modTag d.toNat Tag.start) c u w))) ∧
  (∀ s d a la gd c, Issues s (.hitget d a la gd) c → c.level = false →
    let i : Instr := .hitget d a la gd
    let tag := c.b.tags.getD a.toNat {}
    let record (l : Fin 32) : List Word :=
      match tget c.b.hits a.toNat with
      | some h => if inMask h.lanes l then h.recs[l] else [0x7F800000, 0xFFFFFFFF, 0, 0]
      | none => [0x7F800000, 0xFFFFFFFF, 0, 0]
    (c.b.tags.length ≤ a.toNat → exec i s = .next (trapped c 18)) ∧
    (a.toNat < c.b.tags.length →
      (tag.ready = false → exec i s = .next (c.waitHere (.hit a.toNat))) ∧
      (tag.ready = true → tag.error = true → exec i s = .next (trapped c tag.cause)) ∧
      (tag.ready = true → tag.error = false → HasRoom i c ((List.range 4).map (d.toNat + ·)) →
        ∃ t w, exec i s = .next t ∧ Retires s c t w ∧
          noEntities w = noEntities { freed i c with
            v := writeV (freed i c).v ((List.range 4).map fun j => (d.toNat + j, c.g, fun l => (record l).getD j 0)) }))) ∧
  (∀ (s : State) core cmd q b, tget (s.core core).traces cmd = some q → q.parked = false → s.heldAt core q.cls = false →
    tget s.blocks q.blk = some b → b.ended = false → q.tag < b.tags.length → (b.tags.getD q.tag {}).cleared ≠ some s.now →
    (∀ rs s', s.traceRun core q = (.ok rs, s') → q.spoiled = false →
      ∃ t b', exec (.traceCompletion core cmd) s = .next t ∧ t.mem = s'.mem ∧ tget (t.core core).traces cmd = none ∧
        tget t.blocks q.blk = some b' ∧ tget b'.hits q.tag = some { lanes := q.lanes, recs := rs } ∧
        (b'.tags.getD q.tag {}).ready = ((b.tags.getD q.tag {}).ready || decide ((b.tags.getD q.tag {}).pending ≤ 1)) ∧
        (b'.tags.getD q.tag {}).error = (b.tags.getD q.tag {}).error ∧
        (b'.tags.getD q.tag {}).pending = (b.tags.getD q.tag {}).pending - 1) ∧
    (∀ s', s.traceRun core q = (.error .bounds, s') → (b.tags.getD q.tag {}).error = false →
      ∃ t b', exec (.traceCompletion core cmd) s = .next t ∧ t.mem = s'.mem ∧ tget (t.core core).traces cmd = none ∧
        tget t.blocks q.blk = some b' ∧ (b'.tags.getD q.tag {}).error = true ∧ (b'.tags.getD q.tag {}).cause = 2)) ∧
  (∀ (s : State) core q h r, rayMisses r = true → s.traceRay core q h r = (.ok [0x7F800000, 0xFFFFFFFF, 0, 0], s)) ∧
  (∀ (s : State) core q rs s', s.traceRun core q = (.ok rs, s') →
    s'.blocks = s.blocks ∧ (∀ n space a, s'.bufByte n space a = s.bufByte n space a) ∧
    ∀ l, inMask q.lanes l = false → rs[l] = [0x7F800000, 0xFFFFFFFF, 0, 0])

/-- R27–R42, R151, R173, R188, R291, R383–R386, R391, R392: a word whose fields, guard or hints are not in order takes ILLOP; the handler's, the
surrender wave's, the role's and the whole-wave restrictions come next, in this order. What taking a cause leaves: the cause bits and
lanes, the report for the handler, the pc at the raising group or after it as Table 20.1 says, and a halted block whose registers and
other waves are as they were; in a handler the Executive is told, and a surrender wave ends.
The model's own choices and readings here: log 39, 40, 42 and 84. -/
def Obligations.TrapsTaken : Prop :=
  (∀ s i c, (encode? i).isSome = true → isHint i = false → s.issuer i = some c → c.armBusy = false →
    let sound : Prop := fieldsOk i = true ∧ (∀ g, (shape i).guard = some g → guardOk g = true) ∧ modsOk i (shape i) c.x = true
    let absent := c.w0.live &&& ~~~ c.e.xm
    (¬ sound → exec i s = .next (trapped c 0)) ∧
    (sound →
      (c.w0.saved.isSome = true → isHandlerFault i = true → exec i s = .next (trapped c 29)) ∧
      (c.w0.saved.isSome = false → s.cur.slot = 16 →
        (isGraver i = true → exec i s = .next (trapped c 17)) ∧ (isSurrenderBarred i = true → exec i s = .next (trapped c 20))) ∧
      (c.w0.saved.isSome = false → s.cur.slot ≠ 16 →
        (isGraver i = true → c.w0.role ≠ 2 → exec i s = .next (trapped c 17)) ∧
        ((isGraver i = true → c.w0.role = 2) → isCollective i = true → (c.isSplit = true ∨ absent ≠ 0) →
          exec i s = .next (trapped c 7 (some absent)))))) ∧
  (∀ s n c, Issues s (.trap n) c → exec (.trap n) s = .next (trapped c 16 (some c.e.xm) (n.setWidth 64))) ∧
  (∀ (s : State) (r : EntRef) b w e (t : Trap) gpc npc, tget s.blocks r.blk = some b → b.wave r.slot = some w → w.entity r.frag = some e →
    let u := s.raise r t gpc npc
    (r.slot ≠ 16 → w.saved = none → w.window = none →
      ∃ b' w' e' rep, tget u.blocks r.blk = some b' ∧ b'.halt.isSome = true ∧ b'.wave r.slot = some w' ∧ w'.entity r.frag = some e' ∧
        w'.cause = w.cause ||| t.bits ∧ w'.cmask = t.cmask.getD e.xm ∧ w'.pending = some rep ∧
        (w.pending = none → rep.pc = gpc ∧ rep.causes = t.bits ∧ rep.code = t.code ∧ rep.byFrag = r.frag) ∧
        e'.pc = (if t.bits &&& 0x09013F00 = 0 then gpc else npc) ∧ e'.hints = [] ∧ e'.wait = none ∧ e'.halted = true ∧
        w'.s = w.s ∧ w'.v = w.v ∧ w'.k = w.k ∧ w'.m = w.m ∧ w'.fpf = w.fpf ∧ w'.fpx = w.fpx ∧ w'.mf = w.mf ∧
        (∀ n v, n ≠ r.slot → b.wave n = some v → v.window = none →
          ∃ v', b'.wave n = some v' ∧ v'.cause = v.cause ∧ v'.cmask = v.cmask ∧ v'.s = v.s ∧ v'.v = v.v ∧ v'.k = v.k ∧ v'.m = v.m) ∧
        { u with blocks := [] } = { s with blocks := [] } ∧ ∀ n, n ≠ r.blk → tget u.blocks n = tget s.blocks n) ∧
    (r.slot ≠ 16 → w.saved.isSome = true →
      ∃ b' w', tget u.blocks r.blk = some b' ∧ b'.reported = true ∧ b'.halt = b.halt ∧ b'.wave r.slot = some w' ∧
        w'.cause = w.cause ||| t.bits ∧ u.hub.reports = s.hub.reports ++ [(r.blk, t.bits.toNat)] ∧ u.mem = s.mem) ∧
    (r.slot = 16 → b.ended = false →
      ∃ b', tget u.blocks r.blk = some b' ∧ b'.sur = none ∧
        ∀ n v, tget b'.waves n = some v → v.cause &&& (t.bits ||| causeBit 21) = t.bits ||| causeBit 21))

/-- R386–R393: the handler that starts for the pending wave of lowest `wslot` once every entity has stopped, with the registers of Table 20.3;
what `CCLR` clears; what `TRET` restores, and the block it resumes; the close of a collection window; an ECC error in a register.
The model's own choices and readings here: log 39 and 42. -/
def Obligations.Handlers : Prop :=
  (∀ (s : State) blk b slot w rep, tget s.blocks blk = some b → b.firstPending = some slot → tget b.waves slot = some w → w.pending = some rep →
    slot < 16 → b.halt.isSome = true → b.handling = false → b.reported = false → b.res = .resident → s.resultsDue b blk = false →
    b.swap = false → (b.level.map (·.committing)).getD false = false →
    let part := s.part (s.launch b.launch).part
    (b.frozen = true → s.shadowRoom b.core (s.launch b.launch).part w.footprint 1 = true →
      ∃ t w', exec (.handlerEntry blk) s = .next t ∧ t.mem = s.mem ∧ waveAt t { blk := blk, slot := slot, frag := false } = some w' ∧
        w'.s[0] = part.trhdata ∧ w'.s[1] = s.wid b slot ∧ w'.s[2] = rep.pc ∧ w'.s[3] = rep.causes ∧ w'.s[4] = w.cmask.setWidth 64 ∧
        w'.s[5] = (match rep.lane with
          | some l => BitVec.ofNat 64 l
          | none => 0xFF) ∧
        w'.s[6] = (match w.frag with
          | some f => f.pc
          | none => BitVec.allOnes 64) ∧
        w'.s[7] = rep.code ∧ w'.s[8] = (if rep.byFrag then 1 else 0) ∧ (∀ n : Fin 32, 9 ≤ n.val → w'.s[n] = 0) ∧
        w'.v = Vector.replicate 64 none ∧ w'.m = Vector.replicate 8 {} ∧ w'.k = Vector.replicate 12 0 ∧
        w'.parent.pc = part.trhvec ∧ w'.parent.xm = w.live ∧ w'.parent.arm = w.live ∧ w'.parent.stack = [] ∧ w'.parent.hints = [] ∧
        w'.parent.halted = false ∧ w'.frag = none ∧
        w'.saved = some { parent := w.parent, frag := w.frag, s := w.s, v := w.v, m := w.m, k := w.k } ∧
        w'.cause = w.cause ∧ w'.epc = w.epc ∧ w'.skid = w.skid) ∧
    (b.frozen = false → (∀ p ∈ b.waves, p.2.saved = none) → s.shadowRoom b.core (s.launch b.launch).part w.footprint 1 = true →
      s.traces b = false →
      ∃ t b', exec (.handlerEntry blk) s = .next t ∧ tget t.blocks blk = some b' ∧ b'.frozen = true ∧
        ∀ n v, n < 16 → tget b.waves n = some v → ∃ v', tget b'.waves n = some v' ∧ v'.epc = v.parent.resumeAt ∧
          (v.pending.isSome = true → v'.cause = v.cause) ∧ (v.pending = none → v'.cause = v.cause ||| causeBit 30) ∧
          (n ≠ slot → v'.parent.halted = true ∧ v'.parent.pc = v.parent.resumeAt ∧ v'.parent.wait = none ∧ v'.s = v.s ∧ v'.v = v.v ∧
            v'.frag.map (fun e => (e.halted, e.pc, e.wait)) = v.frag.map fun e => (true, e.resumeAt, none)))) ∧
  (∀ s a c, Issues s (.cclr a) c →
    ∃ t w, exec (.cclr a) s = .next t ∧ Retires s c t w ∧
      noEntities w = noEntities { freed (.cclr a) c with cause := c.w0.cause &&& ~~~ (c.rs a &&& 0x7FFFFFFF) }) ∧
  (∀ s c, Issues s .tret c →
    (c.w0.saved = none → exec .tret s = .next (trapped c 29)) ∧
    (∀ k, c.w0.saved = some k →
      (c.w0.epc.toNat % 4 ≠ 0 → exec .tret s = .next (trapped c 1)) ∧
      (c.w0.epc.toNat % 4 = 0 → s.outstanding c.core s.cur.blk s.cur.slot = false →
        let n := mapFootprint k.v k.m
        let fits : Prop := n ≤ c.w0.floor ∨ n - c.w0.floor + s.owed c.core c.quad s.cur ≤ s.remainder c.core c.quad s.cur.blk s.cur.slot
        (¬ fits → exec .tret s = .next (c.waitHere .restore)) ∧
        (fits → s.cur.slot ≠ 16 → c.b.swap = false → c.b.waves.filter (fun p => p.2.pending.isSome) = [(s.cur.slot, c.w0)] →
          ∃ t b' w', exec .tret s = .next t ∧ (s.traces c.b = false → t.mem = s.mem) ∧ tget t.blocks s.cur.blk = some b' ∧
            b'.halt = none ∧ b'.frozen = false ∧ b'.wave s.cur.slot = some w' ∧ w'.saved = none ∧ w'.pending = none ∧
            w'.s = k.s ∧ w'.v = k.v ∧ w'.m = k.m ∧ w'.k = k.k ∧ w'.cause = c.w0.cause ∧ w'.parent.pc = c.w0.epc ∧
            w'.parent.xm = k.parent.xm ∧ w'.parent.arm = k.parent.arm ∧ w'.parent.stack = k.parent.stack ∧ w'.parent.halted = false ∧
            w'.frag.map (fun e => (e.pc, e.xm, e.stack, e.halted)) = k.frag.map fun e => (e.pc, e.xm, e.stack, false))))) ∧
  (∀ (s : State) blk slot b w f, tget s.blocks blk = some b → tget b.waves slot = some w → w.window = some f → slot < 16 →
    (s.now < f.opened + 8 → exec (.fpWindowClose blk slot) s = .refused (.notEnabled "FP_WINDOW_CLOSE")) ∧
    (f.opened + 8 ≤ s.now →
      ∃ t b' w', exec (.fpWindowClose blk slot) s = .next t ∧ t.mem = (s.settleBarrier blk).mem ∧ tget t.blocks blk = some b' ∧ b'.halt.isSome = true ∧
        tget b'.waves slot = some w' ∧ w'.window = none ∧ w'.cause = w.cause ||| f.report.causes ∧ w'.cmask = f.cmask ∧
        w'.parent.halted = true ∧ w'.s = w.s ∧ w'.v = w.v ∧ (w.pending = none → w'.pending = some f.report))) ∧
  (∀ (s : State) (r : EntRef) b w e, tget s.blocks r.blk = some b → b.wave r.slot = some w → w.entity r.frag = some e → s.ready b r w e = true →
    exec (.uncorrectableEccError r) s = .next (s.raise r { bits := causeBit 25 } e.resumeAt e.resumeAt))

/-- R34, R36–R42, R225, R226, R403, R404, R416, R417: hints, Level control, trace marks, Hatch reads and conditional comparators.
The model's own choices and readings here: log 29 and 77. -/
def Obligations.SystemInstructions : Prop :=
  (∀ s i c, isHint i = true → s.issuer i = some c →
    let k (h : Instr) : Nat := hintKind h
    let fits : Prop := fieldsOk i = true ∧ c.e.hints.length < 3 ∧
      (c.e.hints.filter fun h => k h = k i).length < (if k i = 0 then 2 else 1)
    (¬ fits → exec i s = .next (trapped c 0)) ∧
    (fits → ∃ t w e, exec i s = .next t ∧ waveAt t s.cur = some w ∧ w.entity s.cur.frag = some e ∧ e.hints = c.e.hints ++ [i] ∧
      e.gpc = (if c.e.hints = [] then c.e.pc else c.e.gpc) ∧ GoesOn { c.e with wait := none } { e with hints := [], wait := none } (c.e.pc + 4) ∧
      noEntities w = noEntities c.w0 ∧ w.entity (!s.cur.frag) = c.w0.entity (!s.cur.frag) ∧ Elsewhere s t)) ∧
  (∀ s d c, Issues s (.resv d) c →
    ((c.b.isLevel = false ∨ c.b.task = true) → exec (.resv d) s = .next (trapped c 28)) ∧
    (c.b.isLevel = true → c.b.task = false → ∃ t w, exec (.resv d) s = .next t ∧ Retires s c t w ∧
      noEntities w = noEntities { freed (.resv d) c with
        s := c.w0.s.set d.toNat (BitVec.ofNat 64 (c.b.blk.toNat * c.launch.kd.resv)) (by omega) })) ∧
  (∀ s i c, Issues s i c → (i = .lvq ∨ i = .lvqSeg) →
    (c.level = false → ∃ t w, exec i s = .next t ∧ Retires s c t w ∧ noEntities w = noEntities (freed i c)) ∧
    (c.level = true → ∃ t w e b', exec i s = .next t ∧ waveAt t s.cur = some w ∧ w.entity s.cur.frag = some e ∧ e.qended = true ∧
      GoesOn { c.e with qended := true } e (c.e.pc + 4) ∧ noEntities w = noEntities (freed i c) ∧ t.mem = s.mem ∧
      tget t.blocks s.cur.blk = some b' ∧ b'.level = if i = .lvqSeg then c.b.level.map (fun lv => { lv with seg := true }) else c.b.level)) ∧
  (∀ s d a b c, Issues s (.mark d a b) c →
    ∃ t w e, exec (.mark d a b) s = .next t ∧ Leaves s c t w e ∧ GoesOn c.e e (c.e.pc + 4) ∧ noEntities w = noEntities (freed (.mark d a b) c)) ∧
  (∀ s d a c, Issues s (.hctr d a) c →
    let i : Instr := .hctr d a
    let sel := (c.rs a).toNat
    let k := s.core c.core
    (k.dbg.hctlWr = false → exec i s = .next (trapped c 29)) ∧
    (k.dbg.hctlWr = true → 6 ≤ sel / 16 % 8 → exec i s = .next (trapped c 2)) ∧
    let count := tgetD k.hatch (if sel / 16 % 8 = 5 then 80 else 5 * (sel % 16) + sel / 16 % 8) 0#48
    (k.dbg.hctlWr = true → sel / 16 % 8 < 6 → ∃ t w, exec i s = .next t ∧ Retires s c t w ∧
      noEntities w = noEntities { freed i c with s := c.w0.s.set d.toNat (count.setWidth 64) (by omega) })) ∧
  (∀ s d a c, Issues s (.dbrk d a) c →
    let i : Instr := .dbrk d a
    let x := c.rs a
    let n := x.toNat % 4
    let arm := x.getLsbD 2
    let q : Comparator := { blk := s.cur.blk, sreg := x.getLsbD 3, reg := x.toNat / 16 % 64, all := x.getLsbD 10, cc := x.extractLsb' 11 4
                            wmask := x.extractLsb' 16 16, imm := x.extractLsb' 32 32 }
    let k := s.core c.core
    let cur := (k.comps[n]?).getD none
    let bad : Prop := arm = true ∧ ((q.sreg = true ∧ 31 < q.reg) ∨ 6 ≤ q.cc.toNat % 8)
    let other : Prop := ∃ y, cur = some y ∧ y.blk ≠ s.cur.blk
    let answers (st : Nat) (base : State) : Prop := ∃ t w, exec i s = .next t ∧ Retires base c t w ∧
      noEntities w = noEntities { freed i c with s := c.w0.s.set d.toNat (BitVec.ofNat 64 st) (by omega) }
    (k.dbg.tenant = false → answers 2 s) ∧
    (k.dbg.tenant = true → bad → answers 3 s) ∧
    (k.dbg.tenant = true → ¬ bad → other → answers 1 s) ∧
    (k.dbg.tenant = true → ¬ bad → ¬ other → answers 0 (s.setCore c.core
      { k with comps := k.comps.setIfInBounds n (if arm then some q else none), compsOld := k.compsOld.setIfInBounds n (s.now, cur) })))

/-! ### Waits, translation, requests in flight -/

/-- R44, R177, R178, R292, R302, R403, R406, R422, R423: outside Level mode an entity whose wake condition holds issues again, and one whose nap has ended;
freed entries go to the surrender wave, else to the entity of the oldest block; a prefetched word enters the fetched state as the
instruction cache gives it; the slot of a quadrant without a ready entity passes; at the end of a cycle each quadrant that issued no word
counts 32 positions, and each wave that issued none a stall.
The model's own choices and readings here: log 3, 9, 23, 25, 32 and 72. -/
def Obligations.Wakes : Prop :=
  (∀ (s : State) (r : EntRef) b w e, s.find r = some (b, w, e) → (b.res = .resident ∨ r.slot = 16) → (b.isLevel = false ∨ r.slot = 16) →
    ((∃ m, e.wait = some (.tags m false) ∧ b.tgb &&& m = m) ∨ (∃ m, e.wait = some (.tags m true) ∧ b.tgb &&& m ≠ 0) ∨
      (∃ n, e.wait = some (.hit n) ∧ (b.tags.getD n {}).ready = true) ∨
      (∃ off old want via, e.wait = some (.ring false off old want via) ∧ dwordOf (sliceBytes s b 3 off 8) ≠ old) ∨
      (∃ pa old want via, e.wait = some (.ring true pa old want via) ∧
        (dwordOf (memRead s.mem pa 8) ≠ old ∨ dwordOf (s.l1View b.core pa) ≠ old)) ∨
      (∃ m, e.wait = some (.idle m) ∧ ∀ n, n < b.tags.length → m.getLsbD n = true → (b.tags.getD n {}).pending = 0) ∨
      (∃ off old, e.wait = some (.gslot off old) ∧ dwordOf (sliceBytes s b 3 off 8) ≠ old) ∨
      (∃ n, e.wait = some (.copySlot n false) ∧ (b.tags.getD n {}).pending < 255) ∨
      (∃ pa n, e.wait = some (.fold pa n) ∧ s.foldDue pa n = false) ∨
      (e.wait = some .graver ∧ ∀ q ∈ w.grav.queue, q.done = true) ∨
      (e.wait = some .c0 ∧ s.admits b.core = true) ∨ (∃ m, e.wait = some (.route m)) ∨
      (∃ n, e.wait = some (.batch n) ∧ (w.grav.gbat - w.grav.last).toNat ≤ (w.grav.gbat - n).toNat) ∨
      (∃ n, e.wait = some (.copySlot n true) ∧ (b.tags.getD n {}).pending < 255 ∧ (s.core b.core).copies.length < 128) ∨
      (e.wait = some .arm ∧ (∀ p ∈ (s.core b.core).loads, p.ent ≠ { r with frag := !r.frag }) ∧
        (∀ p ∈ (s.core b.core).stip, p.ent ≠ { r with frag := !r.frag }) ∧
        ∀ q ∈ (s.core b.core).atoms, q.ent = { r with frag := !r.frag } → q.dst = none) ∨
      ((e.wait = some .drain ∨ e.wait = some .arrive) ∧ s.outstanding b.core r.blk r.slot = false) ∨
      (e.wait = some .surrender ∧ b.sur = none)) →
    exec (.wakeConditionMet r) s = .next (s.modEntity r fun e => { e with wait := none })) ∧
  (∀ (s : State) (r : EntRef) b w e, s.find r = some (b, w, e) → e.napEnd ≠ 0 →
    (s.now < e.napEnd → exec (.napExpiry r) s = .refused (.notEnabled "NAP_EXPIRY")) ∧
    (e.napEnd ≤ s.now → exec (.napExpiry r) s = .next (s.modEntity r fun e => { e with napEnd := 0 }))) ∧
  (∀ (s : State) core quad (r : EntRef) w n, core < 288 → quad < 4 → s.firstWaiter core quad = some (r, w, n) →
    let need := w.footprint + w.parent.grant + ((w.frag.map (·.grant)).getD 0) + n - w.floor
    (need ≤ s.remainder core quad r.blk r.slot →
      exec (.registerGrant core quad) s = .next (s.modEntity r fun e => { e with wait := none, grant := n })) ∧
    (s.remainder core quad r.blk r.slot < need →
      exec (.registerGrant core quad) s = .refused (.notEnabled "REGISTER_GRANT")) ∧
    (r.slot ≠ 16 → ∃ b, (r.blk, b) ∈ s.blocks ∧ ∀ p ∈ s.blocks, p.2.core = core → ∀ x ∈ p.2.here p.1, p.2.quad x.1.slot = quad →
      x.2.2.regWait.isSome = true → x.1.slot ≠ 16 ∧ b.placed ≤ p.2.placed)) ∧
  (∀ (s : State) (r : EntRef) b w e n pa st ts s1, s.find r = some (b, w, e) → b.res = .resident → e.halted = false → n < 16 → e.loop = none →
    let at_ (m : Nat) : Dword := e.pc + BitVec.ofNat 64 (4 * m)
    (∀ m, m < n → e.fetched.any (fun p => p.1 = at_ m) = true) → e.fetched.any (fun p => p.1 = at_ n) = false →
    s.translate b.core (s.launch b.launch).asid (at_ n) .fetch = (.ok pa st ts, s1) →
    exec (.instructionFetchReturn r) s =
      .next ((s1.l1iFetch b.core pa st).2.modEntity r fun e => { e with fetched := e.fetched ++ [(at_ n, (s1.l1iFetch b.core pa st).1)] })) ∧
  (∀ (s : State) core quad, core < 288 → quad < 4 →
    let s0 := s.openSlot core quad
    (∀ p ∈ s0.blocks, p.2.core = core → ∀ x ∈ p.2.here p.1, p.2.quad x.1.slot = quad → s0.ready p.2 x.1 x.2.1 x.2.2 = false) →
    exec (.emptyIssueCycle core quad) s = .next { s0 with used := s0.used ++ [{ core := core, quad := quad }] } ∧
      s0.now = s.now + (if s.used.any (fun u => decide (u.core = core) && decide (u.quad = quad)) then 1 else 0)) ∧
  (∀ (s : State) core,
    let t := s.endCycle
    let silent (quad : Nat) : Bool := !s.used.any fun u => decide (u.core = core) && decide (u.quad = quad) && u.word.isSome
    ((s.core core).dbg.hctlEn = true → tgetD (t.core core).hatch 80 0#48 =
      BitVec.ofNat 48 (min ((tgetD (s.core core).hatch 80 0#48).toNat + 32 * (List.range 4).countP silent) (2 ^ 48 - 1))) ∧
    (∀ blk b slot w, tget s.blocks blk = some b → tget b.waves slot = some w →
      ∃ b', tget t.blocks blk = some b' ∧ tget b'.waves slot = some (
        if s.used.any (fun u => (u.word.map fun x => decide (x.ent.blk = blk) && decide (x.ent.slot = slot)).getD false) then w
        else w.stallOne b)))

/-- R84–R87, R91–R93, R95, R98, R99: a walk sets A, and D for a write, before its translation is installed, and one that faults is
held by no TLB; a found translation allows its access; a held access enters the buffer as its key says; one record is written for each
group; an answer closes its group and replays or ends its accesses, and one with action 3, or for no open group, does nothing; a
shootdown runs once at a time, and at its completion no cache holds what it names.
The model's own choices and readings here: log 8, 58, 59, 63, 75 and 76. -/
def Obligations.Translation : Prop :=
  (∀ (s : State) core asid (va : Dword) acc, core < 288 → va.toNat < 2 ^ 57 → s.needsWalk core asid va.toNat acc = true →
    (∀ t path, walk s asid va.toNat acc (some (corePlate core)) = .ok t path →
      ∃ u, exec (.pageWalk core asid va acc) s = .next u ∧
        leNat (memRead u.mem t.leaf 8) = leNat (memRead s.mem t.leaf 8) ||| (if accWrites acc then 0xC0 else 0x40) ∧
        (∀ a, a < t.leaf ∨ t.leaf + 8 ≤ a → memGet u.mem a = memGet s.mem a) ∧
        (u.core core).tlb.head? = some { t with d := t.d || accWrites acc } ∧ (∀ n, n ≠ core → u.core n = s.core n) ∧
        u.blocks = s.blocks ∧ { u.hub with plates := s.hub.plates } = s.hub ∧
        (∀ p, { u.hub.plate p with walker := [] } = { s.hub.plate p with walker := [] }) ∧
        ((s.hub.plate (corePlate core)).walker.length + path.length ≤ 512 →
          ∀ e ∈ path, e ∈ (u.hub.plate (corePlate core)).walker)) ∧
    (∀ k l p, walk s asid va.toNat acc (some (corePlate core)) = .fault k l p →
      ∃ u, exec (.pageWalk core asid va acc) s = .next u ∧ u.mem = s.mem ∧ (∀ t ∈ (u.core core).tlb, t.covers asid va.toNat = false) ∧
        (∀ n, n ≠ core → u.core n = s.core n) ∧ u.blocks = s.blocks ∧ { u.hub with plates := s.hub.plates } = s.hub ∧
        (∀ p, { u.hub.plate p with walker := [] } = { s.hub.plate p with walker := [] }) ∧
        ∀ e ∈ (u.hub.plate (corePlate core)).walker, e.covers asid va.toNat = false)) ∧
  (∀ s asid va acc p t path, walk s asid va acc p = .ok t path →
    (accWrites acc = true → t.w = true ∧ t.st ≠ .rdup) ∧ (acc = .fetch → t.x = true) ∧ (t.bits = 12 ∨ t.bits = 16 ∨ t.bits = 21 ∨ t.bits = 30) ∧
    t.asid = asid ∧ t.va ≤ va ∧ va < t.va + 2 ^ t.bits ∧ t.va % 2 ^ t.bits = 0 ∧ t.pa % 4096 = 0) ∧
  (∀ (s : State) plate a rest, plate < 2 → (s.hub.plate plate).waiting = a :: rest →
    let p := s.hub.plate plate
    (p.freeEntry = none → exec (.faultBufferEntry plate) s = .refused (.notEnabled "FAULT_BUFFER_ENTRY")) ∧
    (∀ i, p.freeEntry = some i → i < 4096 ∧ tget p.buffer i = none ∧ tget p.groups i = none ∧
      (∀ g, p.groups.find? (fun g => g.2.first.sameKey a) = some g → exec (.faultBufferEntry plate) s =
        .next (s.modPlate plate fun p => { p with buffer := tset p.buffer i (a, g.1), waiting := rest })) ∧
      ((∀ g ∈ p.groups, g.2.first.sameKey a = false) → exec (.faultBufferEntry plate) s =
        .next (s.modPlate plate fun p =>
          { p with buffer := tset p.buffer i (a, i), groups := tset p.groups i { first := a }, waiting := rest })))) ∧
  (∀ (s : State) plate, plate < 2 →
    let p := s.hub.plate plate
    let k := p.frctl.toNat % 32
    p.frctl.getLsbD 8 = true → k ≤ 16 → (p.frprod - p.frcons).toNat < 2 ^ k → (∀ q ∈ p.groups, tget p.groups q.1 = some q.2) →
    (∃ q ∈ p.groups, q.2.recorded = false) →
    let at_ := p.frbase.toNat + p.frprod.toNat % 2 ^ k * 64
    ∃ g grp u, exec (.faultRecordWrite plate) s = .next u ∧ tget p.groups g = some grp ∧ grp.recorded = false ∧
      memRead u.mem at_ 64 = grp.first.record g (p.frprod.toNat / 2 ^ k % 2) ∧
      (∀ a, a < at_ ∨ at_ + 64 ≤ a → memGet u.mem a = memGet s.mem a) ∧
      (u.hub.plate plate).frprod = p.frprod + 1 ∧ (u.hub.plate plate).groups = tset p.groups g { grp with recorded := true } ∧
      (u.hub.plate plate).buffer = p.buffer ∧ u.hub.reports.length = s.hub.reports.length + 1 ∧ u.blocks = s.blocks ∧ u.cores = s.cores) ∧
  (∀ (a : Parked) g ph, g < 4096 → ph < 2 → a.kind < 16 → a.level < 4 → a.core < 512 →
    let n := leNat (a.record g ph)
    (a.record g ph).length = 64 ∧ natBits n 0 0 = ph ∧ natBits n 3 1 = 0 ∧ natBits n 7 4 = a.kind ∧ natBits n 10 8 = accCode a.acc ∧
    natBits n 12 11 = a.level ∧ natBits n 21 13 = a.asid.toNat ∧ natBits n 33 22 = g ∧ natBits n 42 34 = a.core ∧
    natBit n 43 = a.eng ∧ natBits n 63 44 = 0 ∧ natBits n 127 64 = a.va.toNat ∧ natBits n 191 128 = a.pte.toNat ∧
    natBits n 255 192 = a.who.toNat ∧ natBits n 287 256 = a.lid.toNat ∧ natBits n 511 288 = 0) ∧
  (∀ (s : State) plate (g : BitVec 12), plate < 2 →
    let p := s.hub.plate plate
    let s1 := s.modPlate plate fun p => { p with buffer := p.buffer.filter fun e => e.2.2 ≠ g.toNat, groups := tdel p.groups g.toNat }
    exec (.freplyIgnored plate g) s = .next s ∧
    (tget p.groups g.toNat = none →
      exec (.freplyReplay plate g) s = .next s ∧ exec (.freplyFatalXlate plate g) s = .next s ∧ exec (.freplyFatalWprot plate g) s = .next s) ∧
    (tget p.groups g.toNat ≠ none → (∀ e ∈ p.buffer, e.2.2 = g.toNat → ∃ r, e.2.1.by_ = .wave r) →
      ∃ u, exec (.freplyReplay plate g) s = .next u ∧ u.hub = s1.hub ∧ u.mem = s.mem ∧ u.cores = s.cores ∧
        ∀ (r : EntRef) b w e, s.find r = some (b, w, e) →
          let parked : Bool := match e.wait with
            | some (.parked _) => true
            | _ => false
          entityAt u r = some (if p.buffer.any (fun x => decide (x.2.2 = g.toNat) && decide (x.2.1.by_ = .wave r)) && !s.haltFreed r && parked
            then { e with wait := none } else e)) ∧
    (∀ i (a : Parked) (r : EntRef) b w e, tget p.groups g.toNat ≠ none → p.buffer.filter (fun e => e.2.2 = g.toNat) = [(i, a, g.toNat)] →
      a.by_ = .wave r → s.find r = some (b, w, e) → (b.level.map (·.committing)).getD false = false →
      exec (.freplyFatalXlate plate g) s = .next (s1.raise r { bits := causeBit 4, cmask := some a.lanes } e.resumeAt e.resumeAt) ∧
      exec (.freplyFatalWprot plate g) s = .next (s1.raise r { bits := causeBit 5, cmask := some a.lanes } e.resumeAt e.resumeAt))) ∧
  (∀ (s : State) c purge, c < 8 →
    let x := s.hub.shoot c
    (x.run.isSome = true → exec (.shootdownStart c purge) s = .next s) ∧
    (x.run = none → exec (.shootdownStart c purge) s = .next (s.modHub fun h => h.setShoot c
      { x with purge := purge
               run := some { asid := x.asid, va := x.va, len := x.len, mod_ := x.mod_, pa := x.pa, purge := purge } }))) ∧
  (∀ (s : State) c x, c < 8 → (s.hub.shoot c).run = some x →
    (x.ownsUp s.ownModule = true → (∀ k ∈ s.cores, k.2.settledFor x = true) ∧ (∀ p ∈ s.blocks, p.2.settledFor x = true) ∧
      ∀ q ∈ s.treqs, q.2.settledFor x = true) →
    ∃ u, exec (.shootdownComplete c) s = .next u ∧
      { u.hub with plates := s.hub.plates, xrte := s.hub.xrte } = s.hub.setShoot c { s.hub.shoot c with run := none, done := true } ∧
      (x.purge = false → u.mem = s.mem ∧ u.hub.xrte = s.hub.xrte) ∧ (x.ownsUp s.ownModule = false → u.blocks = s.blocks) ∧
      (∀ (r : EntRef) b w e, s.find r = some (b, w, e) →
        ∃ w', waveAt u r = some w' ∧ noEntities w' = noEntities w ∧ w'.entity r.frag = some (
          if x.ownsUp s.ownModule && (match e.wait with
            | some (.ring true _ _ _ v) => x.through v
            | _ => false) then { e with wait := none } else e)) ∧
      (x.ownsUp s.ownModule = true →
        (∀ n, (u.core n).tlb = (s.core n).tlb.filter fun t => !x.covers t) ∧
        (∀ p, (u.hub.plate p).walker = (s.hub.plate p).walker.filter fun e => !x.walks e) ∧
        (∀ n, (∀ l ∈ (u.core n).l1d, x.purges l.1 = false) ∧ ∀ l ∈ (u.core n).l1i, x.purges l.1 = false) ∧
        (∀ l ∈ u.clu, x.purges (l.1 % 2 ^ 45) = false)))

/-- R44, R113, R114, R119, R120, R178, R395, R422, R423: a load's data is written to its registers and its wait ends; a strong store is
performed at its home, or lost where nothing leads there, and then acknowledged or reported REPLAY; an acknowledged request is in flight
no more, its value in the lane's register; one not acknowledged is sent again, at once on a link error and else after 8 µs, three times,
and then reported; a home drops a number after 32 µs; a core asked for a promotion writes its dirty lines back; bytes of C0 requests
count against a rate of 1 GB/s each in intervals of 1 µs, and an entity whose request the rate holds goes on when the rate admits it.
The model's own choices and readings here: log 9 and 24. -/
def Obligations.Transport : Prop :=
  (∀ (s : State) (r : EntRef) b w e p, s.find r = some (b, w, e) → (s.core b.core).loads.find? (fun p => p.ent = r) = some p →
    (p.lost = false → p.mreg = none →
      ∃ u w' e', exec (.loadReturn r) s = .next u ∧ u.mem = s.mem ∧ u.hub = s.hub ∧ (u.core b.core).loads = (s.core b.core).loads.erase p ∧
        waveAt u r = some w' ∧ w'.entity r.frag = some e' ∧
        noEntities w' = noEntities { w with
          v := writeV w.v (p.vregs.map fun x => (x.1.toNat, x.2.1, fun l => x.2.2[l]))
          s := match p.sreg with
            | some x => w.s.set x.1.toNat x.2 (by omega)
            | none => w.s } ∧
        { e' with wait := none } = { e with wait := none } ∧
        (((s.core b.core).loads.erase p).any (fun q => q.ent = r) = false → e.wait = some .data →
          e'.wait = if s.promos.any fun q => q.2.2.1 = r then some .promote else none)) ∧
    (p.lost = true → r.slot ≠ 16 → w.saved = none → w.window = none →
      ∃ u w', exec (.loadReturn r) s = .next u ∧ (b.atBar = false → b.barrier = none → u.mem = s.mem) ∧ waveAt u r = some w' ∧
        w'.cause = w.cause ||| causeBit 24 ∧ w'.pending.isSome = true ∧ (p.mreg = none → p.sreg = none → w'.v = writeV w.v (p.vregs.map fun x =>
          (x.1.toNat, x.2.1, fun _ => (Config.freeValue s.fresh).setWidth 32))))) ∧
  (∀ (s : State) core n p, (s.core core).stores.find? (fun p => p.id = n) = some p →
    let mark (f : PendStore → PendStore) : List PendStore := (s.core core).stores.map fun q => if q.id = n then f q else q
    (p.arrived = false → p.lost = false → s.draining (moduleOf p.pa) = true →
      exec (.storeArrivalAtHome core n) s = .next (s.drainRoute (moduleOf p.pa))) ∧
    (p.arrived = false → p.lost = false → s.draining (moduleOf p.pa) = false → s.reachable p.pa = true → p.tagged = false →
      ∃ u, exec (.storeArrivalAtHome core n) s = .next u ∧ (u.core core).stores = mark (fun q => { q with arrived := true }) ∧
        memRead u.mem p.pa p.bytes.length = p.bytes ∧
        (∀ a, a < p.pa ∨ p.pa + p.bytes.length ≤ a → memGet u.mem a = memGet s.mem a) ∧ u.blocks = s.blocks ∧ u.hub = s.hub) ∧
    (p.arrived = false → p.lost = false → s.draining (moduleOf p.pa) = false → s.reachable p.pa = false →
      ∃ u, exec (.storeArrivalAtHome core n) s = .next u ∧ (u.core core).stores = mark (fun q => { q with lost := true }) ∧ u.mem = s.mem) ∧
    (p.arrived = true ∨ p.lost = true →
      exec (.storeArrivalAtHome core n) s = .refused (.notEnabled "STORE_ARRIVAL_AT_HOME") ∧
      exec (.storeAcknowledgement core n) s = .next (
        let s1 := s.modCore core fun c => { c with stores := c.stores.filter fun q => q.id ≠ n }
        if p.lost then s1.reportReplay p.ent (1#32 <<< p.lane) else s1)) ∧
    (p.arrived = false → p.lost = false → exec (.storeAcknowledgement core n) s = .refused (.notEnabled "STORE_ACKNOWLEDGEMENT"))) ∧
  (∀ (s : State) core n q v b w e, s.req core n = some q → q.st = .answered v → q.tagger = none → q.lane < 32 →
    s.find q.ent = some (b, w, e) → (∀ d, q.dst = some d → d.toNat + typeSize q.ty / 4 ≤ 64) →
    ∃ u w' e', exec (.atomicAcknowledgement core n) s = .next u ∧
      (u.core core).atoms = (s.core core).atoms.filter (fun x => x.seq ≠ q.seq) ∧ u.hub = s.hub ∧
      waveAt u q.ent = some w' ∧ w'.entity q.ent.frag = some e' ∧
      noEntities w' = noEntities { w with v := match q.dst with
        | some d => writeV w.v ((List.range (typeSize q.ty / 4)).map fun j => (d.toNat + j, 1#32 <<< q.lane, fun _ => v.extractLsb' (32 * j) 32))
        | none => w.v } ∧
      { e' with wait := none } = { e with wait := none } ∧ (q.dst = none → e' = e) ∧
      (q.dst.isSome = true → ((s.core core).atoms.any fun x => x.grp = q.grp && x.ent = q.ent && decide (x.seq ≠ q.seq)) = false →
        e.wait = some .data → e'.wait = if s.promos.any fun x => x.2.2.1 = q.ent then some .promote else none)) ∧
  (∀ (s : State) core n q, s.req core n = some q →
    let again : State := s.setReq core n fun r => { r with st := .sent, tries := r.tries + 1, sent := s.now, replayBit := true }
    (q.st = .replay →
      exec (.replayAnswer core n) s = .next (s.reportReq core q) ∧
      exec (.retransmitTimeout core n) s = .refused (.notEnabled "RETRANSMIT_TIMEOUT") ∧
      exec (.linkCorrectableError core n) s = .refused (.notEnabled "LINK_CORRECTABLE_ERROR")) ∧
    (q.st ≠ .replay →
      exec (.replayAnswer core n) s = .refused (.notEnabled "REPLAY_ANSWER") ∧
      (s.now < q.sent + 8800 → exec (.retransmitTimeout core n) s = .refused (.notEnabled "RETRANSMIT_TIMEOUT")) ∧
      (q.tries < 3 → q.sent + 8800 ≤ s.now → exec (.retransmitTimeout core n) s = .next again) ∧
      (q.tries < 3 → exec (.linkCorrectableError core n) s = .next again) ∧
      (3 ≤ q.tries → q.sent + 8800 ≤ s.now → exec (.retransmitTimeout core n) s = .next (s.reportReq core q)) ∧
      (3 ≤ q.tries → exec (.linkCorrectableError core n) s = .next (s.reportReq core q))) ∧
    (∀ b w e, s.find q.ent = some (b, w, e) → q.tagger = none → q.ent.slot ≠ 16 → w.saved = none → w.window = none →
      ∃ w', waveAt (s.reportReq core q) q.ent = some w' ∧ w'.cause = w.cause ||| causeBit 24 ∧ w'.pending.isSome = true ∧
        w'.cmask &&& (1#32 <<< q.lane) = 1#32 <<< q.lane ∧
        ((s.reportReq core q).core core).atoms = (s.core core).atoms.filter (fun x => x.seq ≠ q.seq))) ∧
  (∀ (s : State) unit src n, (∃ k ∈ (s.home unit).kept, k.src = src ∧ k.seq = n ∧ k.at_ + 35200 ≤ s.now) →
    exec (.sequenceWindowExpiry unit src n) s = .next (s.setHome unit
      { s.home unit with kept := (s.home unit).kept.filter fun k => !(k.src = src && k.seq = n) })) ∧
  (∀ (s : State) unit src n, (∀ k ∈ (s.home unit).kept, k.src = src → k.seq = n → k.at_ + 35200 ≤ s.now) → s.keptSeq unit src n = none) ∧
  (∀ (s : State) core, (s.promos.any fun p => p.1 = core) = true →
    ∃ u, exec (.promotion core) s = .next u ∧ u.promos = s.promos.filter (fun p => p.1 ≠ core) ∧
      { u.hub with xrte := s.hub.xrte } = s.hub ∧
      (∀ c k r a b w e, s.promos = [(c, k, r, a)] → c = core → s.find r = some (b, w, e) →
        entityAt u r = some (if e.wait = some .promote then { e with wait := none } else e) ∧
        (4 ≤ k → ∀ n l, tget (u.core core).l1d n = some l → l.dirty = 0) ∧
        ∀ blk, blk ≠ r.blk → tget u.blocks blk = tget s.blocks blk)) ∧
  (∀ (s : State) (r : EntRef) b w e, s.find r = some (b, w, e) → e.wait = some .c0 → r.slot < 32 →
    let k := s.core b.core
    let rate := (tgetD s.hub.xadm b.core 8#16).toNat
    let used := k.c0used - (s.now - k.c0start) / 1100 * (rate * 1000)
    let id := 64 * r.blk + 2 * r.slot + (if r.frag then 1 else 0)
    (rate * 1000 ≤ used → exec (.c0RequestAdmitted b.core id) s = .refused (.notEnabled "C0_REQUEST_ADMITTED")) ∧
    (used < rate * 1000 → exec (.c0RequestAdmitted b.core id) s = .next (s.modEntity r fun e => { e with wait := none }))) ∧
  (∀ (s : State) core bytes, let rate := (tgetD s.hub.xadm core 8#16).toNat
    let k := s.core core
    let n := (s.now - k.c0start) / 1100
    (∀ prio, prio ≠ 0 ∨ bytes = 0 → s.charge core prio bytes = s) ∧
    (bytes ≠ 0 → s.charge core 0 bytes =
      s.setCore core { k with c0used := k.c0used - n * (rate * 1000) + bytes, c0start := k.c0start + n * 1100 }))

/-! ### Launches, residence, Level mode -/

/-- R181–R183, R185, R187, R189–R192, R391: a ring word makes its ring ready anew; a full slot is read, freed and checked; a launch on a
partition without clusters is refused; the next block of the launch in turn starts on a core that it fits, or the launch is refused with
NOFIT; a launch that is over writes its completion record; the Executive ends a launch with status ABORTED.
The model's own choices and readings here: log 11–15 and 45. -/
def Obligations.Launches : Prop :=
  (∀ (s : State) part ring word, part < 8 → ring < 64 →
    exec (.launchRingWordWrite part ring word) s = .next (s.modPart part fun p => { p with rings := tset p.rings ring { word := word } })) ∧
  (∀ (s : State) part ring r, part < 8 → ring < 64 → s.hub.stage ≠ 4 → tget (s.part part).rings ring = some r →
    let i := r.cons.toNat
    let at_ := ringSlot r.word i
    let n := leNat (memRead s.mem at_ 64)
    let d (lo : Nat) : Dword := BitVec.ofNat 64 (natBits n (lo + 63) lo)
    (ringEnabled r.word = false ∨ leNat (memRead s.mem at_ 8) ≠ ringPhase r.word i →
      exec (.launchRecordTake part ring) s = .refused (.notEnabled "LAUNCH_RECORD_TAKE")) ∧
    (ringEnabled r.word = true → ringZ r.word = 0 → leNat (memRead s.mem at_ 8) = ringPhase r.word i →
      ∃ (s1 : State) (x : Launch), exec (.launchRecordTake part ring) s = .next (s1.checkLaunch s.nextLaunch) ∧ tget s1.launches s.nextLaunch = some x ∧
        s1.nextLaunch = s.nextLaunch + 1 ∧ leNat (memRead s1.mem at_ 8) = 2 + ringPhase r.word i ∧
        (∀ a, a < at_ ∨ at_ + 8 ≤ a → memGet s1.mem a = memGet s.mem a) ∧
        (tget (s1.part part).rings ring).map (fun q => (q.word, q.cons)) = some (r.word, r.cons + 1) ∧
        x.part = part ∧ x.ring = ring ∧ x.kdva = d 64 ∧ x.args = d 128 ∧ x.done = d 192 ∧ x.dval = d 256 ∧ x.prof = d 320 ∧
        x.asid.toNat = (part * 64 + natBits n 389 384) % 512 ∧ x.prio = natBits n 399 392 ∧ x.after = natBit n 400 ∧
        x.etch = natBit n 401 ∧ x.lid.toNat = natBits n 447 416 ∧ x.ready = false ∧ x.nextBlk = 0)) ∧
  (∀ (s : State) l x, tget s.launches l = some x →
    let p := s.part x.part
    (p.ptcl = 0 → s.checkLaunch l = s.refuseLaunch l 0x29 0) ∧
    (p.ptcl ≠ 0 → (x.kdva.toNat % 256 ≠ 0 ∨ x.done.toNat % 16 ≠ 0) → s.checkLaunch l = s.refuseLaunch l 0x28 0xFFFFFFFF) ∧
    (∀ k cs s1, (launchChecks x p).run.run s = (.ok (k, cs), s1) →
      k.malformed false = false ∧ (∀ c ∈ cs, c.malformed k.nblk = false) ∧
      let y := (s.checkLaunch l).launch l
      y.ready = true ∧ y.kd = k ∧ y.cohorts = cs ∧ y.prio = (if x.prio ≤ 3 then x.prio else k.prio) ∧ y.status = x.status) ∧
    (∀ st f, x.done = 0 → (s.refuseLaunch l st f).launch l =
      { x with stopped := true, status := st, failing := f, completed := true })) ∧
  (∀ (s : State) l core q0 x, tget s.launches l = some x → s.isHead x = true → s.swapped x.part = false →
    (x.nextBlk = 0 → s.fitsSome x.part (x.kd.shape false) = false → exec (.blockPlacement l core q0) s = .next (s.refuseLaunch l 0x29 0)) ∧
    ((x.nextBlk = 0 → s.fitsSome x.part (x.kd.shape false) = true) → s.restoreFirst x.part x.prio = false → s.taskFirst core x.prio = false →
      s.placedFirst x = false → core ∈ s.partCores x.part → pinsMet x.cohorts core x.nextBlk = true →
      s.fits core q0 (x.kd.shape false) = true →
      ∃ t b, exec (.blockPlacement l core q0) s = .next t ∧ tget t.blocks s.nextBlock = some b ∧ b.launch = l ∧ b.core = core ∧ b.q0 = q0 ∧
        b.task = false ∧ b.blk = BitVec.ofNat 32 x.nextBlk ∧ b.coh = cohortsAt x.cohorts x.nextBlk ∧ b.res = .resident ∧
        b.waves.map (·.1) = List.range x.kd.wpb ∧
        (∀ n w, tget b.waves n = some w → Started x.kd x.args n (lanesOfWave x.kd n) w) ∧
        b.tids = List.replicate x.kd.tids none ∧ b.tags = List.replicate x.kd.tags {} ∧
        (∀ space foot, (space, foot) ∈ [(2, x.kd.wfp), (3, x.kd.afp), (4, x.kd.cfp)] →
          let z := b.slice space
          z.len = sliceLen space foot ∧ z.base + z.len ≤ bufSize space ∧ z.base % sliceGranule space = 0 ∧
          (∀ p ∈ s.blocks, p.2.core = core → z.len = 0 ∨ (p.2.slice space).len = 0 ∨
            z.base + z.len ≤ (p.2.slice space).base ∨ (p.2.slice space).base + (p.2.slice space).len ≤ z.base) ∧
          ∀ a, z.base ≤ a → a < z.base + z.len → tget ((t.core core).buf space) a = none) ∧
        (t.launch l).nextBlk = x.nextBlk + 1 ∧ ∀ n, n ≠ s.nextBlock → tget t.blocks n = tget s.blocks n)) ∧
  (∀ (s : State) l x, tget s.launches l = some x → s.launchOver l = true →
    let s0 := s.cores.foldl (fun s c => s.releaseCaches c.1 8) s
    (∀ p ∈ s.blocks, p.2.launch ≠ l) ∧ x.tasks = 0 ∧
    (x.done = 0 → ∃ u, exec (.launchCompletion l) s = .next u ∧ u.mem = s0.mem ∧ u.launch l = { x with completed := true }) ∧
    (∀ pa st ts s1, x.done ≠ 0 → x.done.toNat % 16 = 0 → s0.translateHub x.asid x.done .engineWrite = (.ok pa st ts, s1) →
      ∃ u, exec (.launchCompletion l) s = .next u ∧ u.launch l = { x with completed := true } ∧
        memRead u.mem pa 16 = leBytes x.dval.toNat 8 ++ leBytes x.status 4 ++ leBytes x.failing.toNat 4 ∧
        ∀ a, a < pa ∨ pa + 16 ≤ a → memGet u.mem a = memGet s1.mem a) ∧
    (∀ s1, x.done ≠ 0 → x.done.toNat % 16 = 0 → s0.translateHub x.asid x.done .engineWrite = (.xlate, s1) →
      ∃ u, exec (.launchCompletion l) s = .next u ∧ u.launch l = { x with completed := true } ∧ u.mem = s1.mem ∧
        u.hub.reports.length = s1.hub.reports.length + 1)) ∧
  (∀ (s : State) blk b, tget s.blocks blk = some b → (s.launch b.launch).completed = false →
    (b.halt = none → b.reported = false → exec (.executiveEndsLaunch blk) s = .refused (.notEnabled "EXECUTIVE_ENDS_LAUNCH")) ∧
    ((b.halt.isSome = true ∨ b.reported = true) → ∃ u, exec (.executiveEndsLaunch blk) s = .next u ∧
      (u.launch b.launch).stopped = true ∧ (u.launch b.launch).status = 0x2E ∧ (u.launch b.launch).failing = b.blk ∧
      (∀ r ∈ u.records, r.launch ≠ b.launch) ∧
      ∀ n y, tget u.blocks n = some y → y.launch = b.launch → y.ended = true))

/-- R177, R179, R180, R195–R200, R395, R396: an evicted block keeps its registers, masks, stacks and waits, and its core's dirty lines are
written back; the deadlock break selects the block that was placed or restored most recently; a restored block stands on its core as it was; one that moves keeps its waves
and the bytes of its slices, and its old core forwards what still arrives, until nothing can; cores and banks that leave service.
The model's own choices and readings here: log 11, 18, 19, 21 and 47. -/
def Obligations.Residence : Prop :=
  (∀ (s : State) blk b, tget s.blocks blk = some b → b.res = .resident → b.ended = false →
    (s.blockBlocked blk b = false ∨ s.drained blk b = false ∨ (s.part (s.launch b.launch).part).swBusy = true → exec (.blockEviction blk) s = .refused (.notEnabled "BLOCK_EVICTION")) ∧
    (s.blockBlocked blk b = true → s.drained blk b = true → (s.part (s.launch b.launch).part).swBusy = false →
      s.shadowRoom b.core (s.launch b.launch).part (b.liveWaves.map fun p => p.2.footprint).sum b.liveWaves.length = true →
      ((s.core b.core).selected.contains blk = true ∨ (s.evictable blk b = true ∧ s.evictedFirst blk b = false)) →
      ∃ u b', exec (.blockEviction blk) s = .next u ∧ tget u.blocks blk = some b' ∧ b'.res = .evicted s.now ∧
        { b' with res := .resident, waves := [] } = { b with bregLog := [], waves := [] } ∧
        (∀ n w, tget b.waves n = some w → ∃ w', tget b'.waves n = some w' ∧
          noEntities { w' with evicted := w.evicted, away := w.away } = noEntities w ∧ w'.evicted = true ∧
          w'.parent = { w.parent with loop := none, fetched := [], grant := 0 } ∧
          w'.frag = w.frag.map fun e => { e with loop := none, fetched := [], grant := 0 }) ∧
        (∀ n l, tget (u.core b.core).l1d n = some l → l.dirty = 0) ∧ (∀ n, n ≠ blk → tget u.blocks n = tget s.blocks n)) ∧
    (s.evictable blk b = true → ∃ t, b.blockedSince = some t ∧ t + (s.part (s.launch b.launch).part).evd * 110 ≤ s.now ∧ b.sur = none)) ∧
  (∀ (s : State) core quad (r : EntRef) w n t, core < 288 → quad < 4 →
    let old := (s.waiters core quad).filter fun x => x.2.1.slot ≠ 16
    firstByKey (if old.isEmpty then s.waiters core quad else old) = some (r, w, n) →
    ((s.core core).stuckAt[quad]?).getD none = some t →
    let mine (p : Nat × Block) : Prop := p.2.core = core ∧ p.1 ≠ r.blk ∧ p.2.res = .resident ∧ (s.core core).selected.contains p.1 = false ∧
      ∃ x ∈ p.2.liveWaves, p.2.quad x.1 = quad
    (r.slot ≠ 16 → ∃ b, (r.blk, b) ∈ s.blocks ∧ ∀ p ∈ s.blocks, p.2.core = core → ∀ x ∈ p.2.here p.1, p.2.quad x.1.slot = quad →
      x.2.2.regWait.isSome = true → x.1.slot = 16 ∨ b.placed ≤ p.2.placed) ∧
    (s.now < t + 64 → exec (.registerDeadlockBreak core quad) s = .refused (.notEnabled "REGISTER_DEADLOCK_BREAK")) ∧
    (s.quadStuck core quad = true → t + 64 ≤ s.now → ((s.core core).freedAt[quad]?).getD 0 + 64 ≤ s.now → (∃ p ∈ s.blocks, mine p) →
      ∃ p ∈ s.blocks, mine p ∧ (∀ q ∈ s.blocks, mine q → q.2.restored ≤ p.2.restored) ∧
        exec (.registerDeadlockBreak core quad) s = .next (s.modCore core fun c => { c with selected := c.selected ++ [p.1] }))) ∧
  (∀ (s : State) blk q0 b n, tget s.blocks blk = some b → b.res = .evicted n → s.swapped (s.launch b.launch).part = false →
    s.restorable blk b = true → s.restoreFits b q0 = true → s.restoredFirst blk b = false → (b.sur.isSome = true → q0 % 4 = b.q0 % 4) →
    ∃ u b', exec (.blockRestore blk q0) s = .next u ∧ u.mem = s.mem ∧ tget u.blocks blk = some b' ∧ b'.res = .resident ∧ b'.q0 = q0 ∧
      b'.restored = s.nextPlace ∧ b'.placed = b.placed ∧ b'.breg = b.breg ∧ b'.tids = b.tids ∧ b'.tags = b.tags ∧ b'.tiles = b.tiles ∧ b'.halt = b.halt ∧
      ∀ m w, tget b.waves m = some w → ∃ w', tget b'.waves m = some w' ∧
        noEntities { w' with cslot := w.cslot, away := w.away } = noEntities w ∧ w'.away = none ∧
        w'.parent = { w.parent with lastIssue := s.now, sync := false, wait := w'.parent.wait } ∧
        ((∀ p, w.parent.wait ≠ some (.parked p)) → w'.parent.wait = w.parent.wait) ∧
        (∀ p, w.parent.wait = some (.parked p) → w'.parent.wait = none) ∧
        ∀ e, w.frag = some e → ∃ e', w'.frag = some e' ∧ { e' with wait := none } = { e with lastIssue := s.now, sync := false, wait := none }) ∧
  (∀ (s : State) blk core q0 b n, tget s.blocks blk = some b → b.res = .evicted n → core ≠ b.core →
    let l := s.launch b.launch
    (s.heldToCore blk b = true → exec (.blockMigration blk core q0) s = .refused (.notEnabled "BLOCK_MIGRATION")) ∧
    (s.heldToCore blk b = false → core ∈ s.partCores l.part → (b.task = true ∨ pinsMet l.cohorts core b.blk.toNat = true) →
      (s.coreTakes b = false ∨ (s.part l.part).mig < s.queuedWork b.core) → s.fits core q0 b.savedShape = true →
      ∃ u b', exec (.blockMigration blk core q0) s = .next u ∧ u.mem = s.mem ∧ tget u.blocks blk = some b' ∧ b'.core = core ∧
        b'.res = b.res ∧ b'.waves = b.waves ∧ b'.tids = b.tids ∧ b'.tags = b.tags ∧ b'.breg = b.breg ∧ b'.key = b.key ∧ b'.tiles = b.tiles ∧
        (∀ space, space = 2 ∨ space = 3 ∨ space = 4 → (b'.slice space).len = (b.slice space).len ∧
          (tsorted ((s.core b.core).buf space) = true → ∀ off v, off < (b.slice space).len →
            tget ((s.core b.core).buf space) ((b.slice space).base + off) = some v →
            tget ((u.core core).buf space) ((b'.slice space).base + off) = some v)) ∧
        ∃ f, (u.core b.core).forwards = (s.core b.core).forwards ++ [f] ∧ f.blk = blk ∧ f.dest = core ∧ f.since = s.now)) ∧
  (∀ (s : State) core blk f, (s.core core).forwards.find? (fun f => f.blk = blk) = some f → f.dest ≠ core →
    (∀ p, (s.core core).loads.find? (fun p => p.ent.blk = blk) = some p →
      ∃ u, exec (.forwardedArrival core blk) s = .next u ∧ (u.core core).loads = (s.core core).loads.erase p ∧
        (u.core f.dest).loads = (s.core f.dest).loads ++ [p] ∧ u.mem = s.mem ∧ u.blocks = s.blocks ∧ u.hub = s.hub) ∧
    (s.now < f.since + 70400 → exec (.forwardingEntryExpiry core blk) s = .refused (.notEnabled "FORWARDING_ENTRY_EXPIRY")) ∧
    (f.since + 70400 ≤ s.now → (∀ p ∈ (s.core core).loads, p.ent.blk ≠ blk) → (∀ p ∈ (s.core core).copies, p.2.blk ≠ blk) →
      (∀ p ∈ (s.core core).traces, p.2.blk ≠ blk) → s.treqs = [] →
      exec (.forwardingEntryExpiry core blk) s = .next (s.modCore core fun c =>
        { c with forwards := c.forwards.filter fun x => !(x.blk = blk && x.since = f.since) }))) ∧
  (∀ (s : State) core quad size, core < 288 → quad < 4 → (∀ p ∈ s.blocks, p.2.isEvicted = false) →
    let old := ((s.core core).pool[quad]?).getD 0
    ((s.core core).inService = true → (∀ p ∈ s.blocks, p.2.core = core → p.2.ended = true) →
      ∃ u, exec (.coreLeavesService core) s = .next u ∧ (u.core core).inService = false ∧ u.blocks = s.blocks ∧ u.mem = s.mem) ∧
    ((∃ p ∈ s.blocks, p.2.core = core ∧ p.2.ended = false) →
      exec (.coreLeavesService core) s = .refused (.notEnabled "CORE_LEAVES_SERVICE")) ∧
    (1536 ≤ size → size < old → size % 64 = 0 → old - size ≤ s.remainder core quad s.nextBlock 0 →
      ∃ u, exec (.registerPoolRepair core quad size) s = .next u ∧ (u.core core).pool[quad]? = some size ∧ u.blocks = s.blocks ∧
        u.mem = s.mem) ∧
    (size < 1536 ∨ old ≤ size ∨ size % 64 ≠ 0 ∨ s.remainder core quad s.nextBlock 0 < old - size →
      exec (.registerPoolRepair core quad size) s = .refused (.notEnabled "REGISTER_POOL_REPAIR")))

/-- R211–R217, R220, R221: an entity that has issued its quantum's words has ended it. At the boundary the held effects of the waves take place
in commit order, those of the staged class and on tiles enter the block's stage, whose segment then closes or stays open, and LEVEL stops
what would overflow it. A Graver command or a held instruction has its own effect then, with what it read at its issue; it holds up the
commit while it must wait, and what it raises stops its wave. What these leave: block-shared registers, reservations, copies, traces, Stipple
requests, commands and batches of the Graver. Instructions held whole leave only their note at their issue; those that wait for tags, hit
records and batches first end the quantum. A block goes on from a close when every lower key is released; the Notch applies the closed
segment of lowest key to memory.
The model's own choices and readings here: log 48, 68, 93, 94 and 106. -/
def Obligations.LevelBoundaries : Prop :=
  (∀ (s : State) (r : EntRef) b w e, s.find r = some (b, w, e) → b.isLevel = true → r.slot ≠ 16 → w.saved = none → e.wait = none →
    e.qended = false →
    (b.qnt ≤ e.qcount → exec (.quantumCountExpiry r) s = .next (s.modEntity r fun e => { e with qended := true })) ∧
    (e.qcount < b.qnt → exec (.quantumCountExpiry r) s = .refused (.notEnabled "QUANTUM_COUNT_EXPIRY"))) ∧
  (∀ (s : State) blk b lv, tget s.blocks blk = some b → AtBoundary b lv → lv.waitKey = none → lv.cbarSeg = none →
    (b.waves.any (fun p => !p.2.atEnd) = true → exec (.quantumBoundaryCommit blk) s = .refused (.notEnabled "QUANTUM_BOUNDARY_COMMIT")) ∧
    ((∀ p ∈ b.waves, p.2.atEnd = true ∧ p.2.live ≠ 0 ∧ p.2.atCbar = none ∧ p.2.parent.wait ≠ some .bar) →
      (∀ x ∈ commitOrder blk b, isPlain x.2 = true) → GraverIdle s → (∀ q ∈ (s.core b.core).stip, q.ent.blk ≠ blk) →
      let fin := (commitOrder blk b).foldl (fun x y => committing x y.1 y.2) { block := b, state := s }
      lv.open_.size + (fin.entries.map StageEntry.size).sum ≤ 65536 →
      ∃ u b', exec (.quantumBoundaryCommit blk) s = .next u ∧ u.mem = s.mem ∧ tget u.blocks blk = some b' ∧ b'.breg = fin.block.breg ∧
        b'.tids = fin.block.tids ∧ b'.key = fin.block.key ∧ b'.tiles = fin.block.tiles ∧ u.treqs = s.treqs ∧ u.tiles = s.tiles ∧
        (∀ space off, space = 2 ∨ space = 3 ∨ space = 4 →
          tget ((u.core b.core).buf space) off = tget ((fin.state.core b.core).buf space) off) ∧
        (∀ n w, tget b.waves n = some w → ∃ w', tget b'.waves n = some w' ∧ w'.s = w.s ∧ w'.v = w.v ∧ w'.k = w.k ∧ w'.m = w.m ∧
          w'.qnt = w.qnt + 1 ∧ w'.fragHeld = [] ∧ w'.parent.held = [] ∧ (lv.seg = false → Begins w.parent w'.parent)) ∧
        (lv.seg = false → b'.level = some
          { lv with open_ := { lv.open_ with entries := lv.open_.entries ++ fin.entries }, remote := u.clusterBufs b.core }) ∧
        (lv.seg = true → ∃ lv', b'.level = some lv' ∧ lv'.closed = lv.closed ++ [{ lv.open_ with entries := lv.open_.entries ++ fin.entries }] ∧
          lv'.open_ = { n := lv.open_.n + 1 } ∧ lv'.waitKey = some lv.open_.n ∧ lv'.seg = false)) ∧
    (∀ slot w pc n pa bytes via lane, b.waves = [(slot, w)] → slot < 16 → w.atEnd = true → w.live ≠ 0 → w.frag = none → w.fragHeld = [] →
      w.saved = none → w.window = none → w.parent.wait = none → w.parent.held = [((pc, n), .store pa bytes via lane)] →
      (∀ q ∈ (s.core b.core).stip, q.ent.blk ≠ blk) → 65536 ≤ lv.open_.size →
      ∃ u b' w', exec (.quantumBoundaryCommit blk) s = .next u ∧ u.mem = s.mem ∧ tget u.blocks blk = some b' ∧ b'.halt.isSome = true ∧
        tget b'.waves slot = some w' ∧ w'.cause = w.cause ||| causeBit 28 ∧ w'.parent.pc = pc)) ∧
  -- a Graver command, or an instruction held whole, in the commit
  (∀ s blk b lv slot w pc h res, OneHeld s blk b lv slot w pc h → heldEffect s { blk := blk, slot := slot, frag := false } h = some res →
    (∀ c, res = .ok c → c.w.live = w.live → c.w.frag = none → c.w.pending = none → c.b.waves = b.waves →
      c.b.level.isSome = true →
      ((∀ q ∈ (c.s.core b.core).stip, q.ent.blk ≠ blk) →
        ∃ u b' w', exec (.quantumBoundaryCommit blk) s = .next u ∧ { u with blocks := [] } = { c.s with blocks := [] } ∧
          tget u.blocks blk = some b' ∧ tget b'.waves slot = some w' ∧
          noEntities w' = noEntities { c.w with qnt := c.w.qnt + 1, fragHeld := [] } ∧ Begins w.parent w'.parent ∧
          { b' with waves := [], level := none } = { c.b with waves := [], level := none } ∧
          b'.level.map (fun v => { v with remote := [] }) = c.b.level.map fun v => { v with remote := [], traps := [], committing := false }) ∧
      ((∃ q ∈ (c.s.core b.core).stip, q.ent.blk = blk ∧ q.ent.slot ≠ 16) →
        ∃ u b' w', exec (.quantumBoundaryCommit blk) s = .next u ∧ { u with blocks := [] } = { c.s with blocks := [] } ∧
          tget u.blocks blk = some b' ∧ tget b'.waves slot = some w' ∧ noEntities w' = noEntities c.w ∧ w'.parent = { w.parent with held := [] } ∧
          b'.level.map (·.committing) = some true)) ∧
    (∀ k, res = .error (.wait k) ∨ (∃ s', res = .error (.waitIn s' k)) →
      exec (.quantumBoundaryCommit blk) s = .next (s.setBlock blk { b with level := some { lv with committing := true } })) ∧
    (∀ t : Trap, res = .error (.trap t) ∨ (∃ s', res = .error (.trapIn s' t)) →
      ∃ u b' w', exec (.quantumBoundaryCommit blk) s = .next u ∧ u.mem = s.mem ∧ u.cores = s.cores ∧ tget u.blocks blk = some b' ∧
        b'.halt.isSome = true ∧ tget b'.waves slot = some w' ∧ w'.cause = w.cause ||| t.bits ∧ w'.parent.pc = pc ∧ w'.parent.halted = true ∧
        w'.s = w.s ∧ w'.v = w.v ∧ b'.breg = b.breg)) ∧
  -- what such an effect is: block-shared registers, reservations
  (∀ (s : State) (r : EntRef) b w e i hints pc xm regs v k places, s.find r = some (b, w, e) → b.isLevel = true →
    let h : Held := .instr i hints pc xm regs v k places
    (∀ d a n, (i = .bsxch d a n ∨ i = .bsadd d a n) → s.outstanding b.core r.blk r.slot = false →
      let x : Dword := regs[a.toNat]
      let old := b.breg[n.toNat]
      ∃ c, heldEffect s r h = some (.ok c) ∧ c.s.mem = s.mem ∧ noEntities c.w = noEntities { w with s := w.s.set d.toNat old (by omega) } ∧
        c.b = { b with breg := b.breg.set n.toNat (if i = .bsxch d a n then x else old + x) (by omega) }) ∧
    (∀ d a f ty la m gd lv, i = .atom d a f ty la m gd → b.level = some lv →
      let resv := (s.launch b.launch).kd.resv
      let n := typeSize ty
      let names := (List.range (n / 4)).map (d.toNat + ·)
      let val (l : Nat) : Dword :=
        let x (j : Nat) : Nat := (((v[d.toNat + j]?).getD none).getD zeroLanes)[l % 32].toNat
        BitVec.ofNat 64 (x 0 + (if n = 8 then x 1 * 2 ^ 32 else 0))
      let reqs := places.map fun p => (p.2.1, addend ty (val p.1))
      let ok : Prop := f = 0 ∧ ty ≠ 4 ∧ b.task = false ∧ resv ≠ 0
      (¬ ok → heldEffect s r h = some (.error (.trap { bits := causeBit 28 }))) ∧
      (ok → reserved resv lv.slots reqs = none → heldEffect s r h = some (.error (.trap { bits := causeBit 28 }))) ∧
      (∀ ns slots, ok → reserved resv lv.slots reqs = some (ns, slots) → lv.open_.size + places.length ≤ 65536 →
        (∀ p ∈ places, p.1 < 32) → (places.map (·.1)).Nodup → (∀ x ∈ names, ∃ y, (w.v[x]?).getD none = some y) →
        ∃ c, heldEffect s r h = some (.ok c) ∧ c.s.mem = s.mem ∧
          (∀ q ∈ places.zip ns, ∀ j, j < n / 4 → inMask c.g (Fin.ofNat 32 q.1.1) = true →
            ((((c.w.v[d.toNat + j]?).getD none).getD zeroLanes)[q.1.1 % 32]) =
              (BitVec.ofInt 64 ((b.blk.toNat * resv : Nat) + q.2)).extractLsb' (32 * j) 32) ∧
          c.b = { b with level := some { lv with
            slots := slots
            open_ := { lv.open_ with entries := lv.open_.entries ++ places.map fun p => .red 0 ty p.2.1 (val p.1) p.2.2 r p.1 } } }))) ∧
  -- copies, traces, Stipple requests, the Graver's commands and batches
  (∀ (s : State) (r : EntRef) b w e i hints pc xm regs v k places c0, s.find r = some (b, w, e) → b.isLevel = true →
    (s.commitCtx r i).map (fun c => c.asIssued hints pc xm regs v k) = some c0 →
    let h : Held := .instr i hints pc xm regs v k places
    let q := s.core b.core
    s.outstanding b.core r.blk r.slot = false →
    (∀ a g x, i = .cpy a g → g.toNat < b.tags.length → regs[a.toNat].toNat % 64 = 0 → regs[a.toNat].toNat + 192 ≤ b.aslice.len →
      copyOf c0 g.toNat regs[a.toNat].toNat (c0.bufLoad 3 regs[a.toNat].toNat 192) = some x → c0.copyLeaves x = false →
      q.copies.length < 128 → (b.tags.getD g.toNat {}).pending < 255 →
      ∃ c, heldEffect s r h = some (.ok c) ∧ c.w = w ∧ c.b = b.modTag g.toNat Tag.start ∧
        c.s = s.setCore b.core { q with copies := tset q.copies q.nextCmd (c0.absolute x), nextCmd := q.nextCmd + 1 }) ∧
    (∀ d a la gd any t, (i = .trace d a la false gd ∧ any = false ∨ i = .traceAny d a la false gd ∧ any = true) →
      d.toNat < b.tags.length → (b.tags.getD d.toNat {}).pending = 0 →
      (c0.tidImage ((c0.rs (c0.x.sc.getD 0)).toNat % 256)).map tidOf = some t →
      t.space = 1 → t.format = 7 → t.rank = 1 → t.stride.getD 0 0 = 4 → t.base.toNat % 64 = 0 →
      let x : Trace := { blk := r.blk, tag := d.toNat, asid := c0.asid, lid := c0.launch.lid, cls := c0.launch.cls, any := any, base := t.base
                         len := 4 * t.ext.getD 0 0, lanes := c0.g
                         rays := lanesOf fun l => (List.range 8).map fun j => (readV c0.w0 (a.toNat + j))[l] }
      ∃ c, heldEffect s r h = some (.ok c) ∧ c.w = w ∧ c.b = b.modTag d.toNat Tag.start ∧
        c.s = s.setCore b.core { q with traces := tset q.traces q.nextCmd x, nextCmd := q.nextCmd + 1 }) ∧
    (∀ f, stippleForm i c0 = some f → c0.g ≠ 0 → (∀ n ∈ stippleDest i, ∃ x, (w.v[n]?).getD none = some x) →
      (∀ d a la gd, i = .vgen d a la gd → ∀ m l, inMask c0.g m = true → inMask c0.g l = true → V c0 a m = V c0 a l) →
      (∀ d a la gd, i = .vrwt d a la gd → let m := (c0.rs (c0.x.sc.getD 0)).toNat % 2 ^ 32; 0 < m ∧ m ≤ 2 ^ 24) →
      ∃ c, heldEffect s r h = some (.ok c) ∧ noEntities c.w = noEntities w ∧ c.b = b ∧
        c.s.mem = (if f.seals then s.releaseCaches b.core 6 else s).mem ∧
        (c.s.core b.core).stip = q.stip ++ [{ ent := r, gpc := pc, i := i, lanes := c0.g, src := f.src.map (readV c0.w0), m := f.m
                                              acq := f.reads, cls := c0.launch.cls }])) ∧
  (∀ (s : State) (r : EntRef) b w e, s.find r = some (b, w, e) → b.isLevel = true →
    (∀ hints pc xm regs v k, ∃ c, heldEffect s r (.instr .grdy hints pc xm regs v k []) = some (.ok c) ∧ c.b = b ∧
      c.w = { w with grav := { w.grav with ready := c.s.nextReq } }) ∧
    (∀ d hints pc xm regs v k,
      let h : Held := .instr (.gfence d) hints pc xm regs v k []
      let g := w.grav
      let n := g.gbat + 1
      (32767 ≤ g.out.length → heldEffect s r h = some (.error (.wait (.batch (g.last + 1))))) ∧
      (g.out.length < 32767 → ∃ c, heldEffect s r h = some (.ok c) ∧ c.s = s ∧ c.b = b ∧ { c.w with grav := {} } = { w with grav := {} } ∧
        c.w.grav.gbat = n ∧ c.w.grav.opened = 0 ∧ c.w.grav.openErr = false ∧
        c.w.grav.queue = g.queue.map fun q => { q with batch := some (q.batch.getD n) })) ∧
    (∀ (q : GravCmd) (ring : GravRing) c0, s.commitCtx r .grdy = some c0 → ringZ ring.word = 1 →
      let off := ringBase ring.word + ring.prod.toNat % 2 ^ ringK ring.word * 128
      let phase := ring.prod.toNat / 2 ^ ringK ring.word % 2
      let header := dwordOf (c0.bufLoad 3 off 8)
      let free : Prop := header.toNat = if ring.prod.toNat < 2 ^ ringK ring.word ∧ ring.wrap = false then 1 else 2 + (1 - phase)
      let slot := b.aslice.base + off
      (¬ free → heldEffect s r (.gcmd q ring) = some (.error (.wait (.gslot off header)))) ∧
      (free → s.outstanding b.core r.blk r.slot = false → ∃ c, heldEffect s r (.gcmd q ring) = some (.ok c) ∧ c.b = b ∧
        c.s = (s.bufWrite b.core 3 (slot + 8) (leBytes (q.cmd / 2 ^ 64) 120)).bufWrite b.core 3 slot (leBytes phase 8) ∧
        c.w = { w with grav := { w.grav with queue := w.grav.queue ++ [{ q with slot := slot, ready := w.grav.ready }]
                                             opened := w.grav.opened + 1 } }))) ∧
  -- at their issue
  (∀ s i c body x, Issues s i c → c.level = true → isHeldWhole i = true → heldBody i [] = some body →
    body { begun i c with probe := true } = .ok x →
    RoomIn c (freed i c) ((List.finRange 64).countP fun n => (freed i c).v[n].isNone && x.w.v[n].isSome) →
    ∃ t w e, exec i s = .next t ∧ waveAt t s.cur = some w ∧ w.entity s.cur.frag = some e ∧
      heldMore c [.instr i c.e.hints c.e.pc c.e.xm (Vector.ofFn fun r => c.rs (BitVec.ofFin r)) c.w0.v c.w0.k []] e ∧
      e.qended = (c.e.qended || endsQuantum i) ∧ GoesOn { c.e with held := e.held, qended := e.qended } e (c.e.pc + 4) ∧
      noEntities w = noEntities { freed i c with v := mappedLike (freed i c).v x.w.v } ∧ Elsewhere s t) ∧
  (∀ s i c, Issues s i c → c.level = true →
    (∀ a m, (i = .tgwait a ∨ i = .tgany a) → m = c.rs a → m.toNat / 2 ^ c.b.tags.length = 0 → (i = .tgany a → m ≠ 0) →
      ((c.e.qwaited = false ∨ c.b.tgb &&& m ≠ m) → exec i s = .next (c.waitHere (.tags m false))) ∧
      (c.e.qwaited = true → c.b.tgb &&& m = m →
        (∀ n, c.b.tagFault m = some n → exec i s = .next (trapped c n)) ∧
        (c.b.tagFault m = none → ∃ t w, exec i s = .next t ∧ Retires s c t w ∧ noEntities w = noEntities (freed i c)))) ∧
    (∀ d a m (err : Bool), i = .tgtest d a err → m = c.rs a → m.toNat / 2 ^ c.b.tags.length = 0 →
      let idle : Prop := ∀ n, n < c.b.tags.length → m.getLsbD n = true → (c.b.tags.getD n {}).pending = 0
      ((c.e.qwaited = false ∨ ¬ idle) → exec i s = .next (c.waitHere (.idle m))) ∧
      (c.e.qwaited = true → idle → ∃ t w, exec i s = .next t ∧ Retires s c t w ∧
        noEntities w = noEntities { freed i c with s := c.w0.s.set d.toNat ((if err then c.b.tgerr else c.b.tgb) &&& m) (by omega) })) ∧
    (∀ d a m, i = .tgfind d a → m = c.rs a → m.toNat / 2 ^ c.b.tags.length = 0 → c.e.qwaited = false →
      exec i s = .next (c.waitHere (.idle m))) ∧
    (∀ d a la gd, i = .hitget d a la gd → a.toNat < c.b.tags.length → c.e.qwaited = false → exec i s = .next (c.waitHere (.hit a.toNat))) ∧
    (∀ a, i = .gwait a → c.e.qwaited = false → exec i s = .next (c.waitHere (.batch ((c.rs a).setWidth 16))))) ∧
  (∀ s d a c c1 pa st ts, Issues s (.trel d a) c → c.level = true →
    let i : Instr := .trel d a
    (begun i c).tileAt (c.rs a) = .ok (c1, pa, st, ts) →
    let again := c.heldSeen.any fun h => match h with
      | .trel x _ => decide (x = pa)
      | _ => false
    ((c.b.heldTile pa = none ∨ again = true) → ∃ t w, exec i s = .next t ∧ Retires c1.s c t w ∧
      noEntities w = noEntities { freed i c with s := c.w0.s.set d.toNat 5 (by omega) }) ∧
    (c.b.heldTile pa ≠ none → again = false →
      ∃ t w e, exec i s = .next t ∧ waveAt t s.cur = some w ∧ w.entity s.cur.frag = some e ∧
        heldMore c [.trel pa (c1.s.viaOf c.core c.asid (c.rs a).toNat)] e ∧ GoesOn { c.e with held := e.held } e (c.e.pc + 4) ∧
        noEntities w = noEntities { freed i c with s := c.w0.s.set d.toNat 0 (by omega) } ∧ Elsewhere c1.s t)) ∧
  (∀ s d a n red snap c c1 pa st ts, Issues s (.tacq d a n red snap) c → c.level = true →
    let i : Instr := .tacq d a n red snap
    let va := c.rs a
    let aoff := (c.rs (a + 1)).toNat
    let size := 4096 * 4 ^ ts.toNat
    (begun i c).tileAt va = .ok (c1, pa, st, ts) → st = .nclass → va.toNat % size = 0 → aoff % 64 = 0 → aoff + size ≤ c.b.aslice.len →
    n.toNat < c.b.tags.length →
    (255 ≤ (c.b.tags.getD n.toNat {}).pending → exec i s = .next (c.waitHere (.copySlot n.toNat false))) ∧
    ((c.b.tags.getD n.toNat {}).pending < 255 →
      ∃ t w e b', exec i s = .next t ∧ waveAt t s.cur = some w ∧ w.entity s.cur.frag = some e ∧
        heldMore c [.tacq c1.s.nextReq] e ∧ GoesOn { c.e with held := e.held } e (c.e.pc + 4) ∧
        noEntities w = noEntities { freed i c with s := c.w0.s.set d.toNat 1 (by omega) } ∧ t.mem = c1.s.mem ∧
        (tget t.treqs c1.s.nextReq).map (fun q => (q.blk, q.pa, q.size, q.excl, q.tag)) = some (s.cur.blk, pa, size, !snap, n.toNat) ∧
        (tget t.treqs c1.s.nextReq).map (fun q => (q.phase, q.direct)) = some (.staged, none) ∧ tget t.blocks s.cur.blk = some b' ∧
        (b'.tags.getD n.toNat {}).pending = (c.b.tags.getD n.toNat {}).pending + 1)) ∧
  (∀ (s : State) blk b lv n, tget s.blocks blk = some b → AtBoundary b lv → lv.waitKey = some n →
    (lv.ready = false → exec (.quantumBoundaryCommit blk) s = .refused (.notEnabled "QUANTUM_BOUNDARY_COMMIT")) ∧
    (lv.ready = true → b.sur = none → s.recallsDue blk lv n = false → lv.ended = false → lv.cbarSeg = none → b.atBar = false →
      ∃ u b', exec (.quantumBoundaryCommit blk) s = .next u ∧ u.mem = s.mem ∧ tget u.blocks blk = some b' ∧
        b'.level = some { lv with waitKey := none, ready := false, remote := s.clusterBufs b.core } ∧
        ∀ n w, tget b.waves n = some w → w.parent.held = [] → ∃ w', tget b'.waves n = some w' ∧ noEntities w' = noEntities w ∧
          Begins w.parent w'.parent)) ∧
  (∀ (s : State) l blk b lv g, s.lowestClosed l = some (blk, b, lv, g) →
    (∀ p ∈ s.blocks, p.2.launch = l → ∀ v g', p.2.level = some v → v.closed.head? = some g' → keyLt (g'.n, v.index) (g.n, lv.index) = false) ∧
    (s.keyClear l (g.n, lv.index) = false → exec (.notchSegmentRelease l) s = .refused (.notEnabled "NOTCH_SEGMENT_RELEASE")) ∧
    (s.keyClear l (g.n, lv.index) = true → (∀ x ∈ g.entries, Landing s x) →
      ∃ u, exec (.notchSegmentRelease l) s = .next u ∧ u.mem = g.entries.foldl released s.mem ∧ u.records = s.records) ∧
    (∀ bytes core, s.keyClear l (g.n, lv.index) = true → g.entries = [.record bytes core] →
      ∃ u, exec (.notchSegmentRelease l) s = .next u ∧ u.mem = s.mem ∧ (u.launch l).notch = (s.launch l).notch + 1 ∧
        u.records = s.records ++ [{ bytes := bytes, core := core, launch := l, level := some ((s.launch l).notch, g.n)
                                    cls := (s.launch l).cls }]))

/-! ### The hub, the board, the whole machine -/

/-- R93, R98, R181, R354, R398, R404, R415, R419, R420, R423, R428, R430, R431: what a write of the hub register window does: an access of
another size or alignment, and one of a reserved offset, does nothing; a 4-byte write changes the fields that it names; ranges, clashes,
held partitions and writes that come too late leave a register as it was.
The model's own choices and readings here: log 60, 61 and 89. -/
def Obligations.HubRegisters : Prop :=
  (∀ (s : State) off size val, ((size ≠ 4 ∧ size ≠ 8) ∨ off % size ≠ 0 ∨ 0x40000000 ≤ off ∨ off < 0x10000) →
    exec (.registerWrite off size val) s = .next s) ∧
  (∀ (s : State) (v : Dword) n, n < 512 →
    exec (.registerWrite (0x40000 + 8 * n) 8 v) s = .next (s.modHub fun h => { h with asroot := tset h.asroot n (v &&& 0x000FFFFFFFE00001) })) ∧
  (∀ (s : State) (v : Dword) p, p < 8 →
    exec (.registerWrite (0x60000 + 0x40 * p) 8 v) s = .next (s.modPart p fun q => { q with trhvec := v &&& 0x01FFFFFFFFFFFFFC }) ∧
    exec (.registerWrite (0x60008 + 0x40 * p) 8 v) s = .next (s.modPart p fun q => { q with trhdata := v }) ∧
    exec (.registerWrite (0x60008 + 0x40 * p) 4 v) s =
      .next (s.modPart p fun q => { q with trhdata := (q.trhdata &&& 0xFFFFFFFF00000000) ||| (v &&& 0xFFFFFFFF) }) ∧
    exec (.registerWrite (0x6000C + 0x40 * p) 4 v) s =
      .next (s.modPart p fun q => { q with trhdata := (q.trhdata &&& 0xFFFFFFFF) ||| (v <<< 32) }) ∧
    (∀ r, r < 64 → exec (.registerWrite (0x20000 + 0x200 * p + 8 * r) 8 v) s = exec (.launchRingWordWrite p r v) s) ∧
    exec (.registerWrite (0x10000 + 0x40 * p) 8 v) s = exec (.ptclWrite p v) s ∧
    (s.partHolds p = true → exec (.registerWrite (0x10010 + 0x40 * p) 8 v) s = .next s) ∧
    (s.partHolds p = false → 1 ≤ natBits v.toNat 9 0 → natBits v.toNat 9 0 ≤ 1000 → 1 ≤ natBits v.toNat 22 10 → natBits v.toNat 22 10 ≤ 4096 →
      6 ≤ natBits v.toNat 27 23 → natBits v.toNat 27 23 ≤ 16 → exec (.registerWrite (0x10010 + 0x40 * p) 8 v) s =
        .next (s.modPart p fun q => { q with evd := natBits v.toNat 9 0, mig := natBits v.toNat 22 10, shk := natBits v.toNat 27 23 }))) ∧
  (∀ (s : State) (v : Dword) p, p < 2 →
    let action := natBits v.toNat 13 12
    let g := BitVec.ofNat 12 v.toNat
    exec (.registerWrite (0x41020 + 0x40 * p) 8 v) s =
      (if action = 0 then exec (.freplyReplay p g) s else if action = 1 then exec (.freplyFatalXlate p g) s
       else if action = 2 then exec (.freplyFatalWprot p g) s else exec (.freplyIgnored p g) s)) ∧
  (∀ (s : State) (v : Dword),
    exec (.registerWrite 0x30010 8 v) s = .next (if 1500 ≤ v.toNat % 65536 ∧ v.toNat % 65536 ≤ 4200 then
      s.modHub fun h => { h with watts := v.setWidth 16 } else s) ∧
    exec (.registerWrite 0x30000 8 v) s = exec (.modidWrite v) s ∧ exec (.registerWrite 0x50000 8 v) s = exec (.stippleEnable v) s ∧
    exec (.registerWrite 0x30060 8 v) s = exec (.attestationRequest v) s ∧
    (∀ m, m < 64 → exec (.registerWrite (0x82000 + 8 * m) 8 v) s = exec (.xrteWrite m v) s)) ∧
  (∀ (s : State) (v : Dword) core, core < 288 →
    exec (.registerWrite (0x81000 + 8 * core) 8 v) s = .next (s.modHub fun h => { h with xadm := tset h.xadm core (v.setWidth 16) }) ∧
    exec (.hatchClear core) s = .next (s.modCore core fun c => { c with hatch := [] }) ∧
    (∀ n, n < 16 → exec (.registerWrite (0x200040 + 0x200 * core + 8 * n) 8 v) s = .next (s.modCore core fun c =>
      { c with dbg := { c.dbg with hbase := c.dbg.hbase.setIfInBounds n (v &&& 0x01FFFFFFFFFFFFFC) } }))) ∧
  (∀ (s : State) (v : Dword),
    (s.hub.modidSet = true → exec (.modidWrite v) s = .next s) ∧
    (s.hub.modidSet = false → exec (.modidWrite v) s = .next (s.modHub fun h => { h with modid := v.setWidth 6, modidSet := true }))) ∧
  (∀ (s : State) (v : Dword) part, part < 8 →
    let clu : BitVec 24 := v.setWidth 24
    ((∃ n, n < 8 ∧ n ≠ part ∧ (s.part n).ptcl &&& clu ≠ 0) ∨ s.partHolds part = true → exec (.ptclWrite part v) s = .next s) ∧
    ((∀ n, n < 8 → n ≠ part → (s.part n).ptcl &&& clu = 0) → s.partHolds part = false →
      ∃ t, exec (.ptclWrite part v) s = .next t ∧ (t.part part).ptcl = clu ∧ (∀ n, n ≠ part → t.part n = s.part n) ∧ t.mem = s.mem ∧
        t.blocks = s.blocks ∧ t.cores = s.cores)) ∧
  (∀ (s : State) (v : Dword) m, m < 64 →
    let r := tgetD s.hub.xrte m {}
    let wait := decide ((v.setWidth 12 : BitVec 12) ≠ r.ports) && s.trafficTo m
    let q : Route := { r with ports := v.setWidth 12, drop := r.drop &&& ~~~ v.extractLsb' 16 32, draining := r.draining || wait }
    exec (.xrteWrite m v) s = .next (s.modHub fun h => { h with xrte := tset h.xrte m q })) ∧
  (∀ (s : State) (v : Dword),
    let x := s.hub.stip
    (x.en = true → exec (.stippleEnable v) s = .next (s.modHub fun h =>
      { h with stip := { x with wret := v.extractLsb' 2 2, en := v.getLsbD 0 } })) ∧
    (x.en = false → (v.getLsbD 0 = false ∨ natBits v.toNat 8 4 < 10 ∨ 28 < natBits v.toNat 8 4) →
      exec (.stippleEnable v) s = .next (s.modHub fun h =>
        { h with stip := { x with wret := v.extractLsb' 2 2, heur := v.getLsbD 1, ncap := v.extractLsb' 4 5 } })) ∧
    (x.en = false → v.getLsbD 0 = true → 10 ≤ natBits v.toNat 8 4 → natBits v.toNat 8 4 ≤ 28 →
      ∃ t, exec (.stippleEnable v) s = .next t ∧ t.hub.stip.en = true ∧ t.hub.stip.gen = x.gen ∧ t.hub.stip.heur = v.getLsbD 1 ∧
        t.hub.stip.ncap = v.extractLsb' 4 5 ∧ t.hub.stip.wret = v.extractLsb' 2 2 ∧ t.mem = s.mem ∧
        ∀ p ∈ t.hub.stip.plates.toList, p.live = [] ∧ p.merge = []))

/-- R142, R143, R408, R413: the sampler takes the sample that is due and writes it into the next slot of its ring, or counts it as dropped; a
TS packet that is due enters the stream.
The model's own choices and readings here: log 67. -/
def Obligations.Observation : Prop :=
  (∀ (s : State) core, core < 288 →
    let k := s.core core
    let quad := k.smpCount % 4
    let s0 := s.modCore core fun c =>
      { c with smpCount := c.smpCount + 1, smpLast := s.now, smpExits := c.smpExits.filter fun n => n.cslot / 16 ≠ quad }
    (k.dbg.smpctl.getLsbD 0 = false ∨ s.now < k.smpLast + max 1024 (natBits k.dbg.smpctl.toNat 31 8) →
      exec (.sample core) s = .refused (.notEnabled "SAMPLE")) ∧
    (k.dbg.smpctl.getLsbD 0 = true → k.smpLast + max 1024 (natBits k.dbg.smpctl.toNat 31 8) ≤ s.now →
      (s.candidates core quad = [] → exec (.sample core) s = .next s0) ∧
      (∀ x, nextCandidate ((k.smpPos[quad]?).getD none) (s.candidates core quad) = some x → ringEnabled k.dbg.smpring = true →
        let i := k.smpProd.toNat
        let at_ := ringSlot k.dbg.smpring i
        let y := s0.sampleOf x
        ∃ u, exec (.sample core) s = .next u ∧ u.blocks = s.blocks ∧ (u.core core).smpCount = k.smpCount + 1 ∧
          (ringMayFill k.dbg.smpring i k.smpWrap (leNat (memRead s.mem at_ 8)) = true →
            memRead u.mem (at_ + 8) 56 = y.bytes core quad s.now ∧ leNat (memRead u.mem at_ 8) = ringPhase k.dbg.smpring i ∧
            (u.core core).smpProd = k.smpProd + 1) ∧
          (ringMayFill k.dbg.smpring i k.smpWrap (leNat (memRead s.mem at_ 8)) = false →
            u.mem = s.mem ∧ (u.core core).dbg.smploss = BitVec.ofNat 32 (min (k.dbg.smploss.toNat + 1) 0xFFFFFFFF))))) ∧
  (∀ (s : State) blk b (r : EntRef) w e pc, e.issued = some (s.now, pc) →
    let y := s.sampleOf (.entity blk b r w e)
    y.pc = pc ∧ y.st = 0 ∧ y.cls = 0 ∧ y.mask = e.xm ∧ y.slot = w.cslot ∧ y.frag = r.frag ∧ y.wid = s.wid b r.slot) ∧
  (∀ (s : State) blk b (r : EntRef) w e, (∀ pc, e.issued ≠ some (s.now, pc)) → stallClass b w e = 7 →
    let y := s.sampleOf (.entity blk b r w e)
    y.pc = e.pc ∧ y.st = 2 ∧ y.cls = 7) ∧
  (∀ (s : State) n, let y := s.sampleOf (.exited n)
    y.pc = n.pc ∧ y.st = 3 ∧ y.cls = 0 ∧ y.mask = 0 ∧ y.slot = n.cslot ∧ y.wid = n.wid ∧ y.lid = n.lid) ∧
  (∀ (x : Sample) core quad now, x.cls < 256 → x.st < 256 → quad < 4 → core < 288 →
    let n := leNat (x.bytes core quad now)
    (x.bytes core quad now).length = 56 ∧ natBits n 63 0 = now % 2 ^ 64 ∧ natBits n 127 64 = x.wid.toNat ∧ natBits n 191 128 = x.pc.toNat ∧
    natBits n 223 192 = x.mask.toNat ∧ natBits n 231 224 = x.cls ∧ natBits n 239 232 = x.st ∧ natBits n 247 240 = quad ∧
    natBit n 248 = x.frag ∧ natBit n 249 = decide (x.slot = 64) ∧ natBit n 250 = x.hdlr ∧ natBits n 255 251 = 0 ∧
    natBits n 271 256 = core ∧ natBits n 287 272 = 0 ∧ natBits n 319 288 = x.lid.toNat ∧ natBits n 447 320 = 0) ∧
  (∀ (s : State) core, core < 288 →
    let k := s.core core
    let n := natBits k.dbg.etctl.toNat 31 16
    (k.dbg.etctl.getLsbD 0 = false ∨ n = 0 ∨ s.now < k.etch.ts + n → exec (.etchTs core) s = .refused (.notEnabled "ETCH_TS")) ∧
    (k.dbg.etctl.getLsbD 0 = true → n ≠ 0 → k.etch.ts + n ≤ s.now → ringEnabled k.dbg.etring = true → k.etch.lost = 0 → k.etch.buf ≠ [] →
      k.etch.buf.length + 6 ≤ ringSlotSize k.dbg.etring - 8 →
      exec (.etchTs core) s = .next (s.modCore core fun c => { c with etch := { c.etch with
        ts := s.now, last := s.now, total := c.etch.total + 1, buf := c.etch.buf ++ [0x05, 0] ++ leBytes (s.now - c.etch.last) 4 } })))

/-- R397, R418, R423–R428: power-up runs the loader, the recovery image or nothing, and leaves DRAM unlisted and the registers as at reset;
a download and an attestation request are answered one after another with the status that they earn; the power and thermal limits;
traffic is delivered, answered, forwarded, held behind a route change or counted as discarded; the host's accesses are made at the homes;
recovery checkpoints, reroutes and resumes launches; a partition swaps out and in.
The model's own choices and readings here: log 6, 22, 57, 62, 65, 66, 98, 99 and 100. -/
def Obligations.Board : Prop :=
  (∀ (s : State) l r, ∃ u, exec (.powerUp l r) s = .next u ∧ u.hub.stage = (if l then 1 else if r then 2 else 4) ∧
    u.hub.recovery = (!l && r) ∧ u.blocks = [] ∧ u.launches = [] ∧ u.cores = [] ∧ u.hub.parts = State.reset.hub.parts ∧
    u.hub.ports = State.reset.hub.ports ∧ u.hub.asroot = [] ∧ u.hub.modidSet = false ∧ u.hub.watts = 4200 ∧ u.hub.variants = [] ∧
    (∀ a, inHostWindow a = false → memGet u.mem a = 0) ∧ ∀ a, inHostWindow a = true → memGet u.mem a = memGet s.mem a) ∧
  (∀ (s : State) kind,
    (s.hub.stage ≠ 1 → s.hub.stage ≠ 2 → exec (.firmwareDownload kind) s = .next s) ∧
    ((s.hub.stage = 1 ∨ s.hub.stage = 2) →
      (s.hub.fwBusy ≠ none → exec (.firmwareDownload kind) s = .next (s.modHub fun h => { h with fwstat := 4 })) ∧
      (s.hub.fwBusy = none → 8 ≤ kind.toNat → exec (.firmwareDownload kind) s = .next s) ∧
      (s.hub.fwBusy = none → kind.toNat < 8 → exec (.firmwareDownload kind) s = .next (s.modHub fun h =>
        { h with fwctl := kind.setWidth 64, fwBusy := some (kind, h.fwaddr, h.fwlen) })))) ∧
  (∀ (s : State) sig len,
    (s.hub.fwBusy = none → exec (.firmwareDownloadDone sig len) s = .refused (.notEnabled "FIRMWARE_DOWNLOAD_DONE")) ∧
    (∀ d, s.hub.fwBusy = some d →
      let image := memRead s.mem d.2.1.toNat d.2.2.toNat
      let good := sig && len
      ((sig ≠ Config.verifies (sha3 image) image ∨ (len = true ∧ d.2.2.toNat < 4627)) →
        exec (.firmwareDownloadDone sig len) s = .refused (.notEnabled "FIRMWARE_DOWNLOAD_DONE")) ∧
      (sig = Config.verifies (sha3 image) image → (len = true → 4627 ≤ d.2.2.toNat) →
        ∃ u, exec (.firmwareDownloadDone sig len) s = .next u ∧ u.hub.fwBusy = none ∧ u.mem = s.mem ∧
          u.hub.stage = (if good = true ∧ d.1 = 0 then 3 else s.hub.stage) ∧
          u.hub.images = (if good then tset s.hub.images d.1.toNat (sha3 image) else s.hub.images) ∧
          (u.hub.fwstat = (if sig then (if len then 1 else 3) else 2) ∨ (sig = false ∧ len = false ∧ u.hub.fwstat = 3))))) ∧
  (∀ (s : State) addr, exec (.attestationRequest addr) s = .next (s.modHub fun h =>
    { h with attaddr := addr, attstat := 1, attq := h.attq ++ [{ nonce := h.nonce, len := h.attlen, addr := addr }] })) ∧
  (∀ (s : State) q rest, s.hub.attq = q :: rest →
    let nf := (s.hub.images.filter fun p => decide (1 ≤ p.1) && decide (p.1 ≤ 7)).length
    let bad : Prop := q.addr.toNat % 64 ≠ 0 ∨ 2 ^ 52 ≤ q.addr.toNat ∨ inHostWindow q.addr.toNat = false
    let short : Prop := q.len.toNat < 184 + 72 * nf + 7219
    let nv := min s.hub.variants.length ((q.len.toNat - (184 + 72 * nf + 7219)) / 72)
    ∃ u, exec .attestationReport s = .next u ∧ u.hub.attq = rest ∧
      (bad ∨ short → u.mem = s.mem ∧ u.hub.attseq = s.hub.attseq ∧
        (rest = [] → (¬ bad → u.hub.attstat = 3) ∧ (¬ short → u.hub.attstat = 4) ∧ (u.hub.attstat = 3 ∨ u.hub.attstat = 4))) ∧
      (¬ bad → ¬ short → u.hub.attseq = s.hub.attseq + 1 ∧ (rest = [] → u.hub.attstat = 2) ∧
        memRead u.mem q.addr.toNat 24 = leBytes 1 4 ++ leBytes (184 + 72 * nf + 72 * nv + 7219) 4 ++ leBytes nf 2 ++
          leBytes ((if nv < s.hub.variants.length then 1 else 0) + (if s.hub.recovery then 2 else 0)) 2 ++ leBytes nv 4 ++
          leBytes (s.hub.attseq + 1) 8)) ∧
  (∀ (s : State) w, (w ≤ s.hub.watts.toNat → exec (.powerLimitThrottle w) s = .refused (.notEnabled "POWER_LIMIT_THROTTLE")) ∧
    (s.hub.watts.toNat < w → exec (.powerLimitThrottle w) s = .next (s.modHub fun h =>
      { h with thr := true, clockSteps := h.clockSteps + 1 }))) ∧
  (∀ (s : State) (tj : BitVec 16),
    (tj.toNat ≤ 840 → exec (.thermalHalt tj) s = .next (s.modHub fun h => { h with therm := tj })) ∧
    (840 < tj.toNat → ∃ u, exec (.thermalHalt tj) s = .next u ∧ u.hub.therm = tj ∧
      ((∀ q ∈ s.blocks, q.2.atBar = false ∧ q.2.barrier = none) → u.mem = s.mem) ∧ s.hub.reports.length < u.hub.reports.length ∧
      ∀ n, n < 8 → (s.part n).swBusy = false → (s.part n).swapped = false → s.swapRoom n = true →
        (u.part n).swBusy = true ∧ ∀ blk b, tget s.blocks blk = some b → b.res = .resident → b.ended = false → (s.launch b.launch).part = n →
          ∃ b', tget u.blocks blk = some b' ∧ b'.halt.isSome = true)) ∧
  (∀ (s : State) (x : FabricMsg),
    (x.dest = s.ownModule →
      (x.kind = .store → s.inOwnDram x.pa x.bytes.length = true →
        ∃ u, exec (.fabricTrafficArrival x) s = .next u ∧ u.mem = memWrite s.mem x.pa x.bytes ∧ u.hub = s.hub ∧ u.blocks = s.blocks) ∧
      (∀ src len, x.kind = .read src len → s.inOwnDram x.pa len = true → exec (.fabricTrafficArrival x) s =
        .next (s.sendOut { dest := src, cls := x.cls, pa := x.pa, bytes := memRead s.mem x.pa len, kind := .answer })) ∧
      (∀ src seq fop ty val cmp replay, x.kind = .atomic src seq fop ty val cmp replay → s.inOwnDram x.pa (atomSize ty) = true →
        let n := atomSize ty
        let old := dwordOf (memRead s.mem x.pa n)
        let back (bs : List Byte) : FabricMsg := { dest := src / 512, cls := x.cls, pa := x.pa, bytes := bs, kind := .answer }
        (∀ v, s.keptSeq (homeOf x.pa) src seq = some v → exec (.fabricTrafficArrival x) s = .next (s.sendOut (back (leBytes v.toNat n)))) ∧
        (s.keptSeq (homeOf x.pa) src seq = none → replay = true → exec (.fabricTrafficArrival x) s = .next (s.sendOut (back []))) ∧
        (s.keptSeq (homeOf x.pa) src seq = none → replay = false → ∃ u, exec (.fabricTrafficArrival x) s = .next u ∧
          u.mem = memWrite s.mem x.pa (leBytes (atomOp fop ty old val cmp).toNat n) ∧ u.blocks = s.blocks ∧
          u.keptSeq (homeOf x.pa) src seq = some old ∧
          ∀ p, s.portFor (src / 512) x.pa = some p → u.hub.out = s.hub.out ++ [(p, back (leBytes old.toNat n))])) ∧
      (x.kind = .answer → exec (.fabricTrafficArrival x) s = .next s)) ∧
    (x.dest ≠ s.ownModule → (tgetD s.hub.xrte x.dest {}).draining = false →
      let ps := s.usablePorts x.dest
      (ps = [] → exec (.fabricTrafficArrival x) s = .next (s.countDrop x.dest 1)) ∧
      (ps ≠ [] → exec (.fabricTrafficArrival x) s = .next (s.modHub fun h =>
        { h with out := h.out ++ [(ps.getD (natBits x.pa 44 12 % ps.length) 0, x)] }))) ∧
    (x.dest ≠ s.ownModule → (tgetD s.hub.xrte x.dest {}).draining = true → ∃ u, exec (.fabricTrafficArrival x) s = .next u ∧
      u.mem = s.mem ∧ u.blocks = s.blocks ∧
      let r := tgetD u.hub.xrte x.dest {}
      ((r.draining = true ∧ r.held = (tgetD s.hub.xrte x.dest {}).held ++ [x] ∧ u.hub.out = s.hub.out) ∨
       (r.draining = false ∧ r.held = [])))) ∧
  (∀ (s : State) m p, p ∈ s.usablePorts m ↔ p < 12 ∧ (tgetD s.hub.xrte m {}).ports.getLsbD p = true ∧
    (s.hub.ports[p]?.getD {}).en = true ∧ (s.hub.ports[p]?.getD {}).up = true) ∧
  (∀ (s : State) hdm bytes, hdm < 2 * dramSize → hdm % dramSize + bytes.length ≤ dramSize →
    let pa := s.ownModule * 2 ^ 46 + (if hdm < dramSize then hdm else 2 ^ 45 + (hdm - dramSize))
    ∃ u, exec (.hostCxlStore hdm bytes) s = .next u ∧ u.mem = memWrite s.mem pa bytes ∧ u.hub = s.hub ∧ u.blocks = s.blocks) ∧
  (∀ (s : State) hdm n, hdm < 2 * dramSize → hdm % dramSize + n ≤ dramSize →
    let pa := s.ownModule * 2 ^ 46 + (if hdm < dramSize then hdm else 2 ^ 45 + (hdm - dramSize))
    exec (.hostCxlRead hdm n) s = .next (s.modHub fun h => { h with hostData := memRead s.mem pa n })) ∧
  (∀ (s : State) port up, port < 12 → ∃ u, exec (.exvosLinkStateChange port up) s = .next u ∧
    (u.hub.ports[port]?).map (·.up) = some up ∧ (∀ n, n ≠ port → u.hub.ports[n]? = s.hub.ports[n]?) ∧ u.mem = s.mem ∧ u.blocks = s.blocks) ∧
  (∀ (s : State) (image : List Host.Cell) routes ports,
    ∃ u, exec (.failureRecovery routes ports { image := image }) s = .next u ∧
      u.mem = image.foldl (fun m c => memWrite m c.1 [c.2]) s.mem ∧ u.blocks = s.blocks ∧
      (∀ m (x : BitVec 12), m < 64 → routes = [(m, x)] → (tgetD u.hub.xrte m {}).ports = x) ∧
      (∀ p (v : Dword), p < 12 → ports = [(p, v)] → (u.hub.ports[p]?).map (·.en) = some (v.getLsbD 0))) ∧
  (∀ (s : State) l, (s.launch l).completed = false → (s.launch l).tasks = 0 → ((s.blocksOf l).all fun p => s.quiet p.1 p.2) = true →
    let bytes (b : Block) (space : Nat) : List Byte := s.bufRead b.core space (b.slice space).base (b.slice space).len
    let k : Checkpoint :=
      { launch := s.launch l, blocks := (s.blocksOf l).map fun p => (p.1, p.2, [bytes p.2 2, bytes p.2 3, bytes p.2 4]) }
    exec (.failureRecovery [] [] { saved := [l] }) s = .next { s with checkpoints := tset s.checkpoints l k }) ∧
  (∀ (s : State) l,
    ((s.launch l).completed = true → exec (.failureRecovery [] [] { affected := [l] }) s = .next s) ∧
    ((s.launch l).completed = false → tget s.checkpoints l = none →
      ∃ u, exec (.failureRecovery [] [] { affected := [l] }) s = .next u ∧ (u.launch l).status = 0x2E ∧ (u.launch l).failing = noBlock ∧
        (u.launch l).stopped = true ∧ (u.launch l).tasks = 0 ∧ ∀ p ∈ u.blocks, p.2.launch ≠ l) ∧
    (∀ k, (s.launch l).completed = false → tget s.checkpoints l = some k →
      ∃ u, exec (.failureRecovery [] [] { affected := [l] }) s = .next u ∧
        (k.blocks = [] → u.launch l = k.launch ∧ ∀ p ∈ u.blocks, p.2.launch ≠ l) ∧
        (∀ blk b bytes, k.blocks = [(blk, b, bytes)] →
          (u.launch l = k.launch ∧ ∃ b', tget u.blocks blk = some b' ∧ b'.res = .evicted s.now ∧ b'.waves = b.waves ∧ b'.breg = b.breg ∧
            b'.tids = b.tids ∧ b'.tags = b.tags) ∨
          let f := k.launch.fail 0x2D b.blk
          u.launch l = { f with exited := f.exited + 1 }))) ∧
  (∀ (s : State) part, part < 8 →
    let p := s.part part
    let mine (b : Block) : Prop := (s.launch b.launch).part = part ∧ b.ended = false
    (p.swBusy = true ∨ p.swapped = true →
      exec (.partitionSwapOut part) s = .next (s.modPart part fun p => { p with nospace := false })) ∧
    (p.swBusy = true ∨ p.swapped = false →
      exec (.partitionSwapIn part) s = .next (s.modPart part fun p => { p with nospace := false })) ∧
    (p.swBusy = false → p.swapped = false → s.swapRoom part = false →
      exec (.partitionSwapOut part) s = .next (s.modPart part fun p => { p with nospace := true })) ∧
    (p.swBusy = false → p.swapped = false → s.swapRoom part = true →
      ∃ u, exec (.partitionSwapOut part) s = .next u ∧ (u.part part).swBusy = true ∧ (u.part part).nospace = false ∧
        (∀ blk b, tget s.blocks blk = some b → mine b → b.res = .resident → ∃ b', tget u.blocks blk = some b' ∧ b'.halt.isSome = true ∧
          b'.swap = true) ∧
        ((∀ q ∈ s.blocks, q.2.atBar = false ∧ q.2.barrier = none) → u.mem = s.mem ∧
          ∀ blk b b' n w, tget s.blocks blk = some b → tget u.blocks blk = some b' → tget b.waves n = some w → w.window = none →
            ∃ w', tget b'.waves n = some w' ∧ noEntities w' = noEntities w)) ∧
    (p.swBusy = false → p.swapped = true → exec (.partitionSwapIn part) s =
      .next (s.modPart part fun p => { p with nospace := false, swBusy := true, swIn := true })) ∧
    (p.swBusy = false → exec (.partitionSwapDone part) s = .refused (.notEnabled "PARTITION_SWAP_DONE")) ∧
    (p.swBusy = true → p.swIn = false → (∀ q ∈ s.blocks, mine q.2 → q.2.res = .resident →
        s.resultsDue q.2 q.1 = false ∧ (q.2.level.map (·.committing)).getD false = false) →
      ∃ u, exec (.partitionSwapDone part) s = .next u ∧ (u.part part).swBusy = false ∧ (u.part part).swDone = true ∧
        (u.part part).swapped = true ∧
        ∀ blk b, tget s.blocks blk = some b → mine b → b.res = .resident → ∃ b', tget u.blocks blk = some b' ∧ b'.res = .swapped ∧
          b'.breg = b.breg ∧ b'.tids = b.tids ∧ b'.tags = b.tags ∧ b'.tiles = b.tiles ∧
          ∀ n w, tget b.waves n = some w → ∃ w', tget b'.waves n = some w' ∧ w'.s = w.s ∧ w'.v = w.v ∧ w'.k = w.k ∧ w'.m = w.m) ∧
    (∀ blk b, p.swBusy = true → p.swIn = true → s.blocks = [(blk, b)] → mine b → b.res = .swapped → b.firstPending = none →
      b.handling = false → b.reported = false → s.wavesFit b.core b.q0 b.savedWaves (fun _ => 0) = true →
      ∃ u b', exec (.partitionSwapDone part) s = .next u ∧ (u.part part).swBusy = false ∧ (u.part part).swDone = true ∧
        (u.part part).swapped = false ∧ tget u.blocks blk = some b' ∧ b'.res = .resident ∧ b'.halt = none ∧
        ∀ n w, tget b.waves n = some w → ∃ w', tget b'.waves n = some w' ∧ noEntities w' = noEntities w ∧
          w'.parent.pc = w.epc ∧ w'.parent.xm = w.parent.xm ∧ w'.parent.halted = false))


/-! ### Fetching, encodings, memory and reset -/

/-- R24, R31, R33, R193, R302: an issue slot executes the instruction that the chosen entity's next word encodes, and around it only
chooses, fetches and counts: memory and the chosen wave's registers are as the fetch finds them. A word that encodes no instruction
traps ILLOP. A word comes from what the entity has prefetched, else from the line of the instruction cache at the translated pc, else
from memory. A slot without a ready entity is an empty cycle; an event of the agenda is executed as it stands.
The model's own choices and readings here: log 2, 3 and 72. -/
def Obligations.StepRunsDecoded : Prop :=
  (∀ (s s1 s2 : State) (core quad : Nat) (r : EntRef) (b : Block) (w : Wave) (e : Entity) (x : Word),
    let s0 := s.openSlot core quad
    let e' : Entity := { e.capture e.pc x with lastIssue := s2.now, issued := some (s2.now, e.resumeAt) }
    s.agenda = [] → s.focus = (core, quad) → s0.select core quad = some r → tget s0.blocks r.blk = some b → b.wave r.slot = some w →
    w.entity r.frag = some e → s0.breakpoint b r w e = (false, s1) →
    s1.fetchWord b r e e.pc = (.word x, s2) →
    (∀ i, decode x = .ok i → ∃ t, step s = exec i t ∧ t.cur = r ∧ t.mem = s2.mem ∧ waveAt t r = some (w.setEntity r.frag e')) ∧
    (∀ d, decode x = .error d → ∃ t, step s = execNonInstructionEncoding x t ∧ t.cur = r ∧ t.mem = s2.mem ∧
      waveAt t r = some (w.setEntity r.frag e'))) ∧
  (∀ (s : State) (b : Block) (r : EntRef) (e : Entity) (pc : Dword), e.loop = none →
    (∀ x, (e.fetched.find? fun p => p.1 = pc) = some (pc, x) → s.fetchWord b r e pc = (.word x, s)) ∧
    (∀ pa st ts s', (e.fetched.find? fun p => p.1 = pc) = none →
      s.translate b.core (s.launch b.launch).asid pc .fetch = (.ok pa st ts, s') → pa % 4 = 0 →
      let u := (s'.l1iFetch b.core pa st).2
      ∃ x, s.fetchWord b r e pc = (.word x, u) ∧
        (st = .uncached → x = wordOf (memRead s'.mem pa 4) ∧ u = s') ∧
        (∀ bs, st ≠ .uncached → tget (s'.core b.core).l1i (pa / 128) = some bs → x = wordOf ((bs.drop (pa % 128)).take 4) ∧ u = s') ∧
        (st ≠ .uncached → tget (s'.core b.core).l1i (pa / 128) = none →
          (s'.remoteHome b.core (pa / 128 * 128) = false → x = wordOf (memRead s'.mem pa 4)) ∧
          tget (u.core b.core).l1i (pa / 128) ≠ none ∧ ((s'.cluKeys b.core).length < cluLines → u.mem = s'.mem)))) ∧
  (∀ (s : State) core quad, s.agenda = [] → s.focus = (core, quad) → (s.openSlot core quad).select core quad = none →
    step s = execEmptyIssueCycle core quad s) ∧
  (∀ (s : State) i rest, s.agenda = .event i :: rest → step s = exec i { s with agenda := rest }) ∧
  (∀ (s : State) word d c, decode word = .error d → s.issuer .isync = some c →
    exec (.nonInstructionEncoding word) s = .next (trapped c 0))

/-- R24, R27, R29, R32, R33: words written out from the encodings of their entries decode to their instructions; the all-zero word, a
reserved major, an unassigned selector, a reserved field and a hint of kind 5 decode to none. -/
def Obligations.DecodeWords : Prop :=
  decode 0x1083902C = .ok (.scmp 8 7 4 false 2) ∧ decode 0x12C00001 = .ok (.smovi 12 1) ∧
  decode 0x16000200 = .ok (.srd 0 true 0) ∧ decode 0x4200004F = .ok (.vshli 0 0 2 { n := false, g := 15 }) ∧
  decode 0x6264118F = .ok (.fcmp 3 2 2 12 { n := false, g := 15 }) ∧ decode 0xB230420F = .ok (.shfx 6 2 16 { n := false, g := 15 }) ∧
  decode 0xD820C98F = .ok (.atom 4 6 2 3 false false { n := false, g := 15 }) ∧ decode 0xDE0002B0 = .ok (.fence 5 6) ∧
  decode 0xE0530330 = .ok (.bsadd 5 6 3) ∧ decode 0xE2B00021 = .ok (.cpyt 11 0 0 2 false) ∧
  decode 0xE604A948 = .ok (.rwait 9 10 false true 2) ∧ decode 0xE9440680 = .ok (.tacq 20 8 3 1 false) ∧
  decode 0xEC80100F = .ok (.mmult 2 0 0 { n := false, g := 15 }) ∧ decode 0xF0325000 = .ok (.gcmd 3 4 20) ∧
  decode 0xF2B2808F = .ok (.vseal 22 20 false { n := false, g := 15 }) ∧ decode 0xF411000F = .ok (.trace 2 8 false false { n := false, g := 15 }) ∧
  decode 0xFE401900 = .ok (.hsrc 0 false 12 true) ∧
  decode 0 = .error .reservedMajor ∧ decode 0x0C000000 = .error .reservedMajor ∧ decode 0x06000007 = .error .unassigned ∧
  decode 0x08000002 = .error .unassigned ∧ decode 0xFEA00000 = .error .hintKind

/-- R24, R27, R33: encoding and decoding are each other's inverse: a word decodes to an instruction if and only if it is the word that
the instruction's encoding gives, operand for operand; in memory a word's four bytes stand with the least significant first. -/
def Obligations.RoundTrip : Prop :=
  (∀ i w, encode? i = some w ↔ decode w = .ok i) ∧
  (∀ i w, encode? i = some w → ∀ bs, decodeBytes (wordBytes w ++ bs) = .ok (i, bs))

/-- Memory keeps its canonical form in every step: addresses strictly rising, and no byte listed that an unlisted address reads as.
The model's own choices and readings here: log 6. -/
def Obligations.MemoryCanonical : Prop :=
  ∀ s t, Memory.wf s.mem = true → step s = .next t → Memory.wf t.mem = true

/-- What reset leaves, in the registers whose reset values the tables state: Tables 4.6, 11.2, 18.1, 18.2, 20.6, 22.8, 23.1, 23.2, 23.4,
R181, R203 and R431; and memory in its canonical form.
The model's own choices and readings here: log 3, 5, 6 and 57. -/
def Obligations.Reset : Prop :=
  let s := State.reset
  let debug : Debug := { tenant := false, pcen := false, hctlEn := false, hctlWr := false, etring := 0, etctl := 0x1000, smpctl := 0x40000,
                         smpring := 0, smploss := 0, hbase := Vector.replicate 16 0, hlim := Vector.replicate 16 0,
                         pcc := Vector.replicate 8 0, pcr := Vector.replicate 8 0, pcw := Vector.replicate 8 0 }
  Memory.wf s.mem = true ∧ s.now = 0 ∧ s.blocks = [] ∧ s.hub.modid = 0 ∧ s.ownModule = 0 ∧ s.hub.stage = 0 ∧ s.hub.watts = 4200 ∧
  s.hub.thr = false ∧ s.hub.stip.en = false ∧ s.hub.stip.heur = false ∧ s.hub.stip.wret = 0 ∧ s.hub.stip.ncap = 0 ∧ s.hub.stip.gen = 0 ∧
  (∀ p : Fin 2, s.hub.stip.plates[p] = { base := 0, slot := 0, grid := 0, cell := 0x3F800000, live := [], merge := [] } ∧
    s.hub.plates[p].frbase = 0 ∧ s.hub.plates[p].frctl = 0 ∧ s.hub.plates[p].frcons = 0 ∧ s.hub.plates[p].frprod = 0) ∧
  (∀ c : Fin 8, s.hub.xs[c] = { asid := 0, va := 0, len := 0, mod_ := 0, pa := 0, purge := false, run := none, done := false }) ∧
  (∀ p : Fin 8, s.hub.parts[p].ptcl = 0 ∧ s.hub.parts[p].evd = 20 ∧ s.hub.parts[p].mig = 32 ∧ s.hub.parts[p].shk = 12 ∧
    s.hub.parts[p].ptovf = 0 ∧ s.hub.parts[p].trhvec = 0 ∧ s.hub.parts[p].trhdata = 0 ∧ s.hub.parts[p].ctxbase = 0 ∧
    s.hub.parts[p].swBusy = false ∧ s.hub.parts[p].swDone = false ∧ s.hub.parts[p].swapped = false ∧ s.hub.parts[p].nospace = false ∧
    ∀ r, (tgetD s.hub.parts[p].rings r {}).word = 0) ∧
  (∀ p : Fin 12, s.hub.ports[p] = { en := false, c0 := 4, peer := 0, up := false, crc := 0 }) ∧
  (∀ c, tgetD s.hub.xadm c 8 = 8 ∧ tgetD s.hub.asroot c 0 = 0 ∧ (tgetD s.hub.xrte c {}).ports = 0 ∧ (tgetD s.hub.xrte c {}).drop = 0 ∧
    (s.core c).dbg = debug ∧
    (s.core c).comps = Vector.replicate 4 none)
end
end

