-- ==== Sys2Proof/Laws/Table.lean ====
section
/-! SUPPORT. Tables: reading after setting or removing an entry, and that both keep the keys rising. -/
namespace Sys2Proof.Machine

variable {α : Type}

@[simp] theorem tget_nil (n : Nat) : tget ([] : Table α) n = none := rfl
@[simp] theorem tgetD_nil (n : Nat) (d : α) : tgetD ([] : Table α) n d = d := rfl

@[simp] theorem tget_tset_same (t : Table α) (n : Nat) (x : α) : tget (tset t n x) n = some x := by
  induction t with
  | nil => simp [tset, tget]
  | cons p t ih =>
    obtain ⟨k, v⟩ := p
    simp only [tset]
    split
    · simp [tget]
    · split
      · simp [tget]
      · simp_all [tget]

theorem tget_tset_ne (t : Table α) {m n : Nat} (x : α) (h : m ≠ n) : tget (tset t n x) m = tget t m := by
  induction t with
  | nil =>
    simp only [tset, tget, if_neg h]
  | cons p t ih =>
    obtain ⟨k, v⟩ := p
    simp only [tset]
    split
    · subst_vars
      simp [tget, h]
    · split
      · simp only [tget, if_neg h]
      · simp only [tget, ih]

theorem tget_tset (t : Table α) (m n : Nat) (x : α) :
    tget (tset t n x) m = if m = n then some x else tget t m := by
  split
  · subst_vars; simp
  · exact tget_tset_ne t x ‹_›

theorem tgetD_tset (t : Table α) (m n : Nat) (x d : α) :
    tgetD (tset t n x) m d = if m = n then x else tgetD t m d := by
  simp only [tgetD, tget_tset]
  split <;> rfl

/-- Every key of a table is at least a bound. -/
def keysFrom (n : Nat) (t : Table α) : Prop := ∀ p ∈ t, n < p.1

theorem tsorted_cons {k : Nat} {v : α} {t : Table α} :
    tsorted ((k, v) :: t) = true ↔ keysFrom k t ∧ tsorted t = true := by
  induction t generalizing k v with
  | nil => simp [tsorted, keysFrom]
  | cons p t ih =>
    obtain ⟨k', v'⟩ := p
    simp only [tsorted, Bool.and_eq_true, decide_eq_true_eq]
    constructor
    · intro ⟨h, h'⟩
      refine ⟨?_, h'⟩
      intro q hq
      rcases List.mem_cons.mp hq with rfl | hq
      · exact h
      · exact Nat.lt_trans h ((ih.mp h').1 q hq)
    · intro ⟨h, h'⟩
      exact ⟨h (k', v') (by simp), h'⟩

theorem tget_mem {t : Table α} (h : tsorted t = true) {p : Nat × α} (hp : p ∈ t) : tget t p.1 = some p.2 := by
  induction t with
  | nil => simp at hp
  | cons q t ih =>
    obtain ⟨k, v⟩ := q
    obtain ⟨hk, ht⟩ := tsorted_cons.mp h
    rcases List.mem_cons.mp hp with rfl | hp
    · simp [tget]
    · have := hk p hp
      simp only [tget]
      rw [if_neg (by omega)]
      exact ih ht hp

theorem mem_of_tget {t : Table α} {n : Nat} {x : α} (h : tget t n = some x) : (n, x) ∈ t := by
  induction t with
  | nil => simp at h
  | cons q t ih =>
    obtain ⟨k, v⟩ := q
    simp only [tget] at h
    split at h
    · simp_all
    · exact List.mem_cons_of_mem _ (ih h)

theorem mem_tset {t : Table α} {n : Nat} {x : α} {p : Nat × α} (h : p ∈ tset t n x) : p = (n, x) ∨ p ∈ t := by
  induction t with
  | nil => simp [tset] at h; exact .inl h
  | cons q t ih =>
    obtain ⟨k, v⟩ := q
    simp only [tset] at h
    split at h
    · rcases List.mem_cons.mp h with h | h
      · exact .inl h
      · exact .inr (List.mem_cons_of_mem _ h)
    · split at h
      · rcases List.mem_cons.mp h with h | h
        · exact .inl h
        · exact .inr h
      · rcases List.mem_cons.mp h with h | h
        · exact .inr (by simp [h])
        · rcases ih h with h | h
          · exact .inl h
          · exact .inr (List.mem_cons_of_mem _ h)

theorem tsorted_tset (t : Table α) (n : Nat) (x : α) (h : tsorted t = true) : tsorted (tset t n x) = true := by
  induction t with
  | nil => rfl
  | cons p t ih =>
    obtain ⟨k, v⟩ := p
    obtain ⟨hk, ht⟩ := tsorted_cons.mp h
    simp only [tset]
    split
    · subst_vars; exact tsorted_cons.mpr ⟨hk, ht⟩
    · split
      · refine tsorted_cons.mpr ⟨?_, h⟩
        intro q hq
        rcases List.mem_cons.mp hq with rfl | hq
        · assumption
        · have := hk q hq; omega
      · refine tsorted_cons.mpr ⟨?_, ih ht⟩
        intro q hq
        rcases mem_tset hq with rfl | hq
        · simp; omega
        · exact hk q hq

theorem tsorted_filter (t : Table α) (f : Nat × α → Bool) (h : tsorted t = true) : tsorted (t.filter f) = true := by
  induction t with
  | nil => rfl
  | cons p t ih =>
    obtain ⟨k, v⟩ := p
    obtain ⟨hk, ht⟩ := tsorted_cons.mp h
    simp only [List.filter]
    split
    · exact tsorted_cons.mpr ⟨fun q hq => hk q (List.mem_filter.mp hq).1, ih ht⟩
    · exact ih ht

theorem mem_tdel {t : Table α} {n : Nat} {p : Nat × α} (h : p ∈ tdel t n) : p ∈ t := (List.mem_filter.mp h).1

theorem tsorted_tdel (t : Table α) (n : Nat) (h : tsorted t = true) : tsorted (tdel t n) = true := tsorted_filter _ _ h

theorem tget_tdel (t : Table α) (m n : Nat) : tget (tdel t n) m = if m = n then none else tget t m := by
  induction t with
  | nil => simp [tdel]
  | cons p t ih =>
    obtain ⟨k, v⟩ := p
    unfold tdel at ih
    by_cases hk : k = n
    · subst hk
      rw [tdel, List.filter_cons_of_neg (by simp), ih]
      split
      · rfl
      · rename_i h; simp [tget, h]
    · rw [tdel, List.filter_cons_of_pos (by simpa using hk)]
      simp only [tget, ih]
      by_cases hm : m = n
      · subst hm; simp [Ne.symm hk]
      · simp [hm]

end Sys2Proof.Machine
end

