-- ==== Sys2Proof/Laws/State.lean ====
section
/-! SUPPORT. What each update of the state changes, field by field, and the accessors read back. -/
namespace Sys2Proof.Machine

/-! ### `setCore` -/

@[simp] theorem State.setCore_agenda (s : State) (c : Nat) (x : Core) : (s.setCore c x).agenda = s.agenda := rfl
@[simp] theorem State.setCore_focus (s : State) (c : Nat) (x : Core) : (s.setCore c x).focus = s.focus := rfl
@[simp] theorem State.setCore_cur (s : State) (c : Nat) (x : Core) : (s.setCore c x).cur = s.cur := rfl
@[simp] theorem State.setCore_now (s : State) (c : Nat) (x : Core) : (s.setCore c x).now = s.now := rfl
@[simp] theorem State.setCore_used (s : State) (c : Nat) (x : Core) : (s.setCore c x).used = s.used := rfl
@[simp] theorem State.setCore_fresh (s : State) (c : Nat) (x : Core) : (s.setCore c x).fresh = s.fresh := rfl
@[simp] theorem State.setCore_mem (s : State) (c : Nat) (x : Core) : (s.setCore c x).mem = s.mem := rfl
@[simp] theorem State.setCore_blocks (s : State) (c : Nat) (x : Core) : (s.setCore c x).blocks = s.blocks := rfl
@[simp] theorem State.setCore_nextBlock (s : State) (c : Nat) (x : Core) : (s.setCore c x).nextBlock = s.nextBlock := rfl
@[simp] theorem State.setCore_nextPlace (s : State) (c : Nat) (x : Core) : (s.setCore c x).nextPlace = s.nextPlace := rfl
@[simp] theorem State.setCore_cores (s : State) (c : Nat) (x : Core) : (s.setCore c x).cores = tset s.cores c x := rfl
@[simp] theorem State.setCore_clu (s : State) (c : Nat) (x : Core) : (s.setCore c x).clu = s.clu := rfl
@[simp] theorem State.setCore_homes (s : State) (c : Nat) (x : Core) : (s.setCore c x).homes = s.homes := rfl
@[simp] theorem State.setCore_promos (s : State) (c : Nat) (x : Core) : (s.setCore c x).promos = s.promos := rfl
@[simp] theorem State.setCore_tiles (s : State) (c : Nat) (x : Core) : (s.setCore c x).tiles = s.tiles := rfl
@[simp] theorem State.setCore_treqs (s : State) (c : Nat) (x : Core) : (s.setCore c x).treqs = s.treqs := rfl
@[simp] theorem State.setCore_nextReq (s : State) (c : Nat) (x : Core) : (s.setCore c x).nextReq = s.nextReq := rfl
@[simp] theorem State.setCore_launches (s : State) (c : Nat) (x : Core) : (s.setCore c x).launches = s.launches := rfl
@[simp] theorem State.setCore_nextLaunch (s : State) (c : Nat) (x : Core) : (s.setCore c x).nextLaunch = s.nextLaunch := rfl
@[simp] theorem State.setCore_records (s : State) (c : Nat) (x : Core) : (s.setCore c x).records = s.records := rfl
@[simp] theorem State.setCore_checkpoints (s : State) (c : Nat) (x : Core) : (s.setCore c x).checkpoints = s.checkpoints := rfl
@[simp] theorem State.setCore_hub (s : State) (c : Nat) (x : Core) : (s.setCore c x).hub = s.hub := rfl

/-! ### `modCore` -/

@[simp] theorem State.modCore_agenda (s : State) (c : Nat) (f : Core → Core) : (s.modCore c f).agenda = s.agenda := rfl
@[simp] theorem State.modCore_focus (s : State) (c : Nat) (f : Core → Core) : (s.modCore c f).focus = s.focus := rfl
@[simp] theorem State.modCore_cur (s : State) (c : Nat) (f : Core → Core) : (s.modCore c f).cur = s.cur := rfl
@[simp] theorem State.modCore_now (s : State) (c : Nat) (f : Core → Core) : (s.modCore c f).now = s.now := rfl
@[simp] theorem State.modCore_used (s : State) (c : Nat) (f : Core → Core) : (s.modCore c f).used = s.used := rfl
@[simp] theorem State.modCore_fresh (s : State) (c : Nat) (f : Core → Core) : (s.modCore c f).fresh = s.fresh := rfl
@[simp] theorem State.modCore_mem (s : State) (c : Nat) (f : Core → Core) : (s.modCore c f).mem = s.mem := rfl
@[simp] theorem State.modCore_blocks (s : State) (c : Nat) (f : Core → Core) : (s.modCore c f).blocks = s.blocks := rfl
@[simp] theorem State.modCore_nextBlock (s : State) (c : Nat) (f : Core → Core) : (s.modCore c f).nextBlock = s.nextBlock := rfl
@[simp] theorem State.modCore_nextPlace (s : State) (c : Nat) (f : Core → Core) : (s.modCore c f).nextPlace = s.nextPlace := rfl
@[simp] theorem State.modCore_cores (s : State) (c : Nat) (f : Core → Core) : (s.modCore c f).cores = tset s.cores c (f (s.core c)) := rfl
@[simp] theorem State.modCore_clu (s : State) (c : Nat) (f : Core → Core) : (s.modCore c f).clu = s.clu := rfl
@[simp] theorem State.modCore_homes (s : State) (c : Nat) (f : Core → Core) : (s.modCore c f).homes = s.homes := rfl
@[simp] theorem State.modCore_promos (s : State) (c : Nat) (f : Core → Core) : (s.modCore c f).promos = s.promos := rfl
@[simp] theorem State.modCore_tiles (s : State) (c : Nat) (f : Core → Core) : (s.modCore c f).tiles = s.tiles := rfl
@[simp] theorem State.modCore_treqs (s : State) (c : Nat) (f : Core → Core) : (s.modCore c f).treqs = s.treqs := rfl
@[simp] theorem State.modCore_nextReq (s : State) (c : Nat) (f : Core → Core) : (s.modCore c f).nextReq = s.nextReq := rfl
@[simp] theorem State.modCore_launches (s : State) (c : Nat) (f : Core → Core) : (s.modCore c f).launches = s.launches := rfl
@[simp] theorem State.modCore_nextLaunch (s : State) (c : Nat) (f : Core → Core) : (s.modCore c f).nextLaunch = s.nextLaunch := rfl
@[simp] theorem State.modCore_records (s : State) (c : Nat) (f : Core → Core) : (s.modCore c f).records = s.records := rfl
@[simp] theorem State.modCore_checkpoints (s : State) (c : Nat) (f : Core → Core) : (s.modCore c f).checkpoints = s.checkpoints := rfl
@[simp] theorem State.modCore_hub (s : State) (c : Nat) (f : Core → Core) : (s.modCore c f).hub = s.hub := rfl

/-! ### `setBlock` -/

@[simp] theorem State.setBlock_agenda (s : State) (n : Nat) (x : Block) : (s.setBlock n x).agenda = s.agenda := rfl
@[simp] theorem State.setBlock_focus (s : State) (n : Nat) (x : Block) : (s.setBlock n x).focus = s.focus := rfl
@[simp] theorem State.setBlock_cur (s : State) (n : Nat) (x : Block) : (s.setBlock n x).cur = s.cur := rfl
@[simp] theorem State.setBlock_now (s : State) (n : Nat) (x : Block) : (s.setBlock n x).now = s.now := rfl
@[simp] theorem State.setBlock_used (s : State) (n : Nat) (x : Block) : (s.setBlock n x).used = s.used := rfl
@[simp] theorem State.setBlock_fresh (s : State) (n : Nat) (x : Block) : (s.setBlock n x).fresh = s.fresh := rfl
@[simp] theorem State.setBlock_mem (s : State) (n : Nat) (x : Block) : (s.setBlock n x).mem = s.mem := rfl
@[simp] theorem State.setBlock_blocks (s : State) (n : Nat) (x : Block) : (s.setBlock n x).blocks = tset s.blocks n x := rfl
@[simp] theorem State.setBlock_nextBlock (s : State) (n : Nat) (x : Block) : (s.setBlock n x).nextBlock = s.nextBlock := rfl
@[simp] theorem State.setBlock_nextPlace (s : State) (n : Nat) (x : Block) : (s.setBlock n x).nextPlace = s.nextPlace := rfl
@[simp] theorem State.setBlock_cores (s : State) (n : Nat) (x : Block) : (s.setBlock n x).cores = s.cores := rfl
@[simp] theorem State.setBlock_clu (s : State) (n : Nat) (x : Block) : (s.setBlock n x).clu = s.clu := rfl
@[simp] theorem State.setBlock_homes (s : State) (n : Nat) (x : Block) : (s.setBlock n x).homes = s.homes := rfl
@[simp] theorem State.setBlock_promos (s : State) (n : Nat) (x : Block) : (s.setBlock n x).promos = s.promos := rfl
@[simp] theorem State.setBlock_tiles (s : State) (n : Nat) (x : Block) : (s.setBlock n x).tiles = s.tiles := rfl
@[simp] theorem State.setBlock_treqs (s : State) (n : Nat) (x : Block) : (s.setBlock n x).treqs = s.treqs := rfl
@[simp] theorem State.setBlock_nextReq (s : State) (n : Nat) (x : Block) : (s.setBlock n x).nextReq = s.nextReq := rfl
@[simp] theorem State.setBlock_launches (s : State) (n : Nat) (x : Block) : (s.setBlock n x).launches = s.launches := rfl
@[simp] theorem State.setBlock_nextLaunch (s : State) (n : Nat) (x : Block) : (s.setBlock n x).nextLaunch = s.nextLaunch := rfl
@[simp] theorem State.setBlock_records (s : State) (n : Nat) (x : Block) : (s.setBlock n x).records = s.records := rfl
@[simp] theorem State.setBlock_checkpoints (s : State) (n : Nat) (x : Block) : (s.setBlock n x).checkpoints = s.checkpoints := rfl
@[simp] theorem State.setBlock_hub (s : State) (n : Nat) (x : Block) : (s.setBlock n x).hub = s.hub := rfl

/-! ### `modLaunch` -/

@[simp] theorem State.modLaunch_agenda (s : State) (l : Nat) (f : Launch → Launch) : (s.modLaunch l f).agenda = s.agenda := rfl
@[simp] theorem State.modLaunch_focus (s : State) (l : Nat) (f : Launch → Launch) : (s.modLaunch l f).focus = s.focus := rfl
@[simp] theorem State.modLaunch_cur (s : State) (l : Nat) (f : Launch → Launch) : (s.modLaunch l f).cur = s.cur := rfl
@[simp] theorem State.modLaunch_now (s : State) (l : Nat) (f : Launch → Launch) : (s.modLaunch l f).now = s.now := rfl
@[simp] theorem State.modLaunch_used (s : State) (l : Nat) (f : Launch → Launch) : (s.modLaunch l f).used = s.used := rfl
@[simp] theorem State.modLaunch_fresh (s : State) (l : Nat) (f : Launch → Launch) : (s.modLaunch l f).fresh = s.fresh := rfl
@[simp] theorem State.modLaunch_mem (s : State) (l : Nat) (f : Launch → Launch) : (s.modLaunch l f).mem = s.mem := rfl
@[simp] theorem State.modLaunch_blocks (s : State) (l : Nat) (f : Launch → Launch) : (s.modLaunch l f).blocks = s.blocks := rfl
@[simp] theorem State.modLaunch_nextBlock (s : State) (l : Nat) (f : Launch → Launch) : (s.modLaunch l f).nextBlock = s.nextBlock := rfl
@[simp] theorem State.modLaunch_nextPlace (s : State) (l : Nat) (f : Launch → Launch) : (s.modLaunch l f).nextPlace = s.nextPlace := rfl
@[simp] theorem State.modLaunch_cores (s : State) (l : Nat) (f : Launch → Launch) : (s.modLaunch l f).cores = s.cores := rfl
@[simp] theorem State.modLaunch_clu (s : State) (l : Nat) (f : Launch → Launch) : (s.modLaunch l f).clu = s.clu := rfl
@[simp] theorem State.modLaunch_homes (s : State) (l : Nat) (f : Launch → Launch) : (s.modLaunch l f).homes = s.homes := rfl
@[simp] theorem State.modLaunch_promos (s : State) (l : Nat) (f : Launch → Launch) : (s.modLaunch l f).promos = s.promos := rfl
@[simp] theorem State.modLaunch_tiles (s : State) (l : Nat) (f : Launch → Launch) : (s.modLaunch l f).tiles = s.tiles := rfl
@[simp] theorem State.modLaunch_treqs (s : State) (l : Nat) (f : Launch → Launch) : (s.modLaunch l f).treqs = s.treqs := rfl
@[simp] theorem State.modLaunch_nextReq (s : State) (l : Nat) (f : Launch → Launch) : (s.modLaunch l f).nextReq = s.nextReq := rfl
@[simp] theorem State.modLaunch_launches (s : State) (l : Nat) (f : Launch → Launch) : (s.modLaunch l f).launches = tset s.launches l (f (s.launch l)) := rfl
@[simp] theorem State.modLaunch_nextLaunch (s : State) (l : Nat) (f : Launch → Launch) : (s.modLaunch l f).nextLaunch = s.nextLaunch := rfl
@[simp] theorem State.modLaunch_records (s : State) (l : Nat) (f : Launch → Launch) : (s.modLaunch l f).records = s.records := rfl
@[simp] theorem State.modLaunch_checkpoints (s : State) (l : Nat) (f : Launch → Launch) : (s.modLaunch l f).checkpoints = s.checkpoints := rfl
@[simp] theorem State.modLaunch_hub (s : State) (l : Nat) (f : Launch → Launch) : (s.modLaunch l f).hub = s.hub := rfl

/-! ### `modHub` -/

@[simp] theorem State.modHub_agenda (s : State) (f : Hub → Hub) : (s.modHub f).agenda = s.agenda := rfl
@[simp] theorem State.modHub_focus (s : State) (f : Hub → Hub) : (s.modHub f).focus = s.focus := rfl
@[simp] theorem State.modHub_cur (s : State) (f : Hub → Hub) : (s.modHub f).cur = s.cur := rfl
@[simp] theorem State.modHub_now (s : State) (f : Hub → Hub) : (s.modHub f).now = s.now := rfl
@[simp] theorem State.modHub_used (s : State) (f : Hub → Hub) : (s.modHub f).used = s.used := rfl
@[simp] theorem State.modHub_fresh (s : State) (f : Hub → Hub) : (s.modHub f).fresh = s.fresh := rfl
@[simp] theorem State.modHub_mem (s : State) (f : Hub → Hub) : (s.modHub f).mem = s.mem := rfl
@[simp] theorem State.modHub_blocks (s : State) (f : Hub → Hub) : (s.modHub f).blocks = s.blocks := rfl
@[simp] theorem State.modHub_nextBlock (s : State) (f : Hub → Hub) : (s.modHub f).nextBlock = s.nextBlock := rfl
@[simp] theorem State.modHub_nextPlace (s : State) (f : Hub → Hub) : (s.modHub f).nextPlace = s.nextPlace := rfl
@[simp] theorem State.modHub_cores (s : State) (f : Hub → Hub) : (s.modHub f).cores = s.cores := rfl
@[simp] theorem State.modHub_clu (s : State) (f : Hub → Hub) : (s.modHub f).clu = s.clu := rfl
@[simp] theorem State.modHub_homes (s : State) (f : Hub → Hub) : (s.modHub f).homes = s.homes := rfl
@[simp] theorem State.modHub_promos (s : State) (f : Hub → Hub) : (s.modHub f).promos = s.promos := rfl
@[simp] theorem State.modHub_tiles (s : State) (f : Hub → Hub) : (s.modHub f).tiles = s.tiles := rfl
@[simp] theorem State.modHub_treqs (s : State) (f : Hub → Hub) : (s.modHub f).treqs = s.treqs := rfl
@[simp] theorem State.modHub_nextReq (s : State) (f : Hub → Hub) : (s.modHub f).nextReq = s.nextReq := rfl
@[simp] theorem State.modHub_launches (s : State) (f : Hub → Hub) : (s.modHub f).launches = s.launches := rfl
@[simp] theorem State.modHub_nextLaunch (s : State) (f : Hub → Hub) : (s.modHub f).nextLaunch = s.nextLaunch := rfl
@[simp] theorem State.modHub_records (s : State) (f : Hub → Hub) : (s.modHub f).records = s.records := rfl
@[simp] theorem State.modHub_checkpoints (s : State) (f : Hub → Hub) : (s.modHub f).checkpoints = s.checkpoints := rfl
@[simp] theorem State.modHub_hub (s : State) (f : Hub → Hub) : (s.modHub f).hub = f s.hub := rfl

/-! ### `modPart` -/

@[simp] theorem State.modPart_agenda (s : State) (n : Nat) (f : Partition → Partition) : (s.modPart n f).agenda = s.agenda := rfl
@[simp] theorem State.modPart_focus (s : State) (n : Nat) (f : Partition → Partition) : (s.modPart n f).focus = s.focus := rfl
@[simp] theorem State.modPart_cur (s : State) (n : Nat) (f : Partition → Partition) : (s.modPart n f).cur = s.cur := rfl
@[simp] theorem State.modPart_now (s : State) (n : Nat) (f : Partition → Partition) : (s.modPart n f).now = s.now := rfl
@[simp] theorem State.modPart_used (s : State) (n : Nat) (f : Partition → Partition) : (s.modPart n f).used = s.used := rfl
@[simp] theorem State.modPart_fresh (s : State) (n : Nat) (f : Partition → Partition) : (s.modPart n f).fresh = s.fresh := rfl
@[simp] theorem State.modPart_mem (s : State) (n : Nat) (f : Partition → Partition) : (s.modPart n f).mem = s.mem := rfl
@[simp] theorem State.modPart_blocks (s : State) (n : Nat) (f : Partition → Partition) : (s.modPart n f).blocks = s.blocks := rfl
@[simp] theorem State.modPart_nextBlock (s : State) (n : Nat) (f : Partition → Partition) : (s.modPart n f).nextBlock = s.nextBlock := rfl
@[simp] theorem State.modPart_nextPlace (s : State) (n : Nat) (f : Partition → Partition) : (s.modPart n f).nextPlace = s.nextPlace := rfl
@[simp] theorem State.modPart_cores (s : State) (n : Nat) (f : Partition → Partition) : (s.modPart n f).cores = s.cores := rfl
@[simp] theorem State.modPart_clu (s : State) (n : Nat) (f : Partition → Partition) : (s.modPart n f).clu = s.clu := rfl
@[simp] theorem State.modPart_homes (s : State) (n : Nat) (f : Partition → Partition) : (s.modPart n f).homes = s.homes := rfl
@[simp] theorem State.modPart_promos (s : State) (n : Nat) (f : Partition → Partition) : (s.modPart n f).promos = s.promos := rfl
@[simp] theorem State.modPart_tiles (s : State) (n : Nat) (f : Partition → Partition) : (s.modPart n f).tiles = s.tiles := rfl
@[simp] theorem State.modPart_treqs (s : State) (n : Nat) (f : Partition → Partition) : (s.modPart n f).treqs = s.treqs := rfl
@[simp] theorem State.modPart_nextReq (s : State) (n : Nat) (f : Partition → Partition) : (s.modPart n f).nextReq = s.nextReq := rfl
@[simp] theorem State.modPart_launches (s : State) (n : Nat) (f : Partition → Partition) : (s.modPart n f).launches = s.launches := rfl
@[simp] theorem State.modPart_nextLaunch (s : State) (n : Nat) (f : Partition → Partition) : (s.modPart n f).nextLaunch = s.nextLaunch := rfl
@[simp] theorem State.modPart_records (s : State) (n : Nat) (f : Partition → Partition) : (s.modPart n f).records = s.records := rfl
@[simp] theorem State.modPart_checkpoints (s : State) (n : Nat) (f : Partition → Partition) : (s.modPart n f).checkpoints = s.checkpoints := rfl
@[simp] theorem State.modPart_hub (s : State) (n : Nat) (f : Partition → Partition) : (s.modPart n f).hub = s.hub.setPart n (f (s.hub.part n)) := rfl

/-! ### `modPlate` -/

@[simp] theorem State.modPlate_agenda (s : State) (p : Nat) (f : Plate → Plate) : (s.modPlate p f).agenda = s.agenda := rfl
@[simp] theorem State.modPlate_focus (s : State) (p : Nat) (f : Plate → Plate) : (s.modPlate p f).focus = s.focus := rfl
@[simp] theorem State.modPlate_cur (s : State) (p : Nat) (f : Plate → Plate) : (s.modPlate p f).cur = s.cur := rfl
@[simp] theorem State.modPlate_now (s : State) (p : Nat) (f : Plate → Plate) : (s.modPlate p f).now = s.now := rfl
@[simp] theorem State.modPlate_used (s : State) (p : Nat) (f : Plate → Plate) : (s.modPlate p f).used = s.used := rfl
@[simp] theorem State.modPlate_fresh (s : State) (p : Nat) (f : Plate → Plate) : (s.modPlate p f).fresh = s.fresh := rfl
@[simp] theorem State.modPlate_mem (s : State) (p : Nat) (f : Plate → Plate) : (s.modPlate p f).mem = s.mem := rfl
@[simp] theorem State.modPlate_blocks (s : State) (p : Nat) (f : Plate → Plate) : (s.modPlate p f).blocks = s.blocks := rfl
@[simp] theorem State.modPlate_nextBlock (s : State) (p : Nat) (f : Plate → Plate) : (s.modPlate p f).nextBlock = s.nextBlock := rfl
@[simp] theorem State.modPlate_nextPlace (s : State) (p : Nat) (f : Plate → Plate) : (s.modPlate p f).nextPlace = s.nextPlace := rfl
@[simp] theorem State.modPlate_cores (s : State) (p : Nat) (f : Plate → Plate) : (s.modPlate p f).cores = s.cores := rfl
@[simp] theorem State.modPlate_clu (s : State) (p : Nat) (f : Plate → Plate) : (s.modPlate p f).clu = s.clu := rfl
@[simp] theorem State.modPlate_homes (s : State) (p : Nat) (f : Plate → Plate) : (s.modPlate p f).homes = s.homes := rfl
@[simp] theorem State.modPlate_promos (s : State) (p : Nat) (f : Plate → Plate) : (s.modPlate p f).promos = s.promos := rfl
@[simp] theorem State.modPlate_tiles (s : State) (p : Nat) (f : Plate → Plate) : (s.modPlate p f).tiles = s.tiles := rfl
@[simp] theorem State.modPlate_treqs (s : State) (p : Nat) (f : Plate → Plate) : (s.modPlate p f).treqs = s.treqs := rfl
@[simp] theorem State.modPlate_nextReq (s : State) (p : Nat) (f : Plate → Plate) : (s.modPlate p f).nextReq = s.nextReq := rfl
@[simp] theorem State.modPlate_launches (s : State) (p : Nat) (f : Plate → Plate) : (s.modPlate p f).launches = s.launches := rfl
@[simp] theorem State.modPlate_nextLaunch (s : State) (p : Nat) (f : Plate → Plate) : (s.modPlate p f).nextLaunch = s.nextLaunch := rfl
@[simp] theorem State.modPlate_records (s : State) (p : Nat) (f : Plate → Plate) : (s.modPlate p f).records = s.records := rfl
@[simp] theorem State.modPlate_checkpoints (s : State) (p : Nat) (f : Plate → Plate) : (s.modPlate p f).checkpoints = s.checkpoints := rfl
@[simp] theorem State.modPlate_hub (s : State) (p : Nat) (f : Plate → Plate) : (s.modPlate p f).hub = s.hub.setPlate p (f (s.hub.plate p)) := rfl

/-! ### `setHome` -/

@[simp] theorem State.setHome_agenda (s : State) (h : Nat) (x : HomeUnit) : (s.setHome h x).agenda = s.agenda := rfl
@[simp] theorem State.setHome_focus (s : State) (h : Nat) (x : HomeUnit) : (s.setHome h x).focus = s.focus := rfl
@[simp] theorem State.setHome_cur (s : State) (h : Nat) (x : HomeUnit) : (s.setHome h x).cur = s.cur := rfl
@[simp] theorem State.setHome_now (s : State) (h : Nat) (x : HomeUnit) : (s.setHome h x).now = s.now := rfl
@[simp] theorem State.setHome_used (s : State) (h : Nat) (x : HomeUnit) : (s.setHome h x).used = s.used := rfl
@[simp] theorem State.setHome_fresh (s : State) (h : Nat) (x : HomeUnit) : (s.setHome h x).fresh = s.fresh := rfl
@[simp] theorem State.setHome_mem (s : State) (h : Nat) (x : HomeUnit) : (s.setHome h x).mem = s.mem := rfl
@[simp] theorem State.setHome_blocks (s : State) (h : Nat) (x : HomeUnit) : (s.setHome h x).blocks = s.blocks := rfl
@[simp] theorem State.setHome_nextBlock (s : State) (h : Nat) (x : HomeUnit) : (s.setHome h x).nextBlock = s.nextBlock := rfl
@[simp] theorem State.setHome_nextPlace (s : State) (h : Nat) (x : HomeUnit) : (s.setHome h x).nextPlace = s.nextPlace := rfl
@[simp] theorem State.setHome_cores (s : State) (h : Nat) (x : HomeUnit) : (s.setHome h x).cores = s.cores := rfl
@[simp] theorem State.setHome_clu (s : State) (h : Nat) (x : HomeUnit) : (s.setHome h x).clu = s.clu := rfl
@[simp] theorem State.setHome_homes (s : State) (h : Nat) (x : HomeUnit) : (s.setHome h x).homes = tset s.homes h x := rfl
@[simp] theorem State.setHome_promos (s : State) (h : Nat) (x : HomeUnit) : (s.setHome h x).promos = s.promos := rfl
@[simp] theorem State.setHome_tiles (s : State) (h : Nat) (x : HomeUnit) : (s.setHome h x).tiles = s.tiles := rfl
@[simp] theorem State.setHome_treqs (s : State) (h : Nat) (x : HomeUnit) : (s.setHome h x).treqs = s.treqs := rfl
@[simp] theorem State.setHome_nextReq (s : State) (h : Nat) (x : HomeUnit) : (s.setHome h x).nextReq = s.nextReq := rfl
@[simp] theorem State.setHome_launches (s : State) (h : Nat) (x : HomeUnit) : (s.setHome h x).launches = s.launches := rfl
@[simp] theorem State.setHome_nextLaunch (s : State) (h : Nat) (x : HomeUnit) : (s.setHome h x).nextLaunch = s.nextLaunch := rfl
@[simp] theorem State.setHome_records (s : State) (h : Nat) (x : HomeUnit) : (s.setHome h x).records = s.records := rfl
@[simp] theorem State.setHome_checkpoints (s : State) (h : Nat) (x : HomeUnit) : (s.setHome h x).checkpoints = s.checkpoints := rfl
@[simp] theorem State.setHome_hub (s : State) (h : Nat) (x : HomeUnit) : (s.setHome h x).hub = s.hub := rfl

/-! ### `modBlock` -/

@[simp] theorem State.modBlock_agenda (s : State) (n : Nat) (f : Block → Block) : (s.modBlock n f).agenda = s.agenda := by
  unfold State.modBlock; split <;> rfl
@[simp] theorem State.modBlock_focus (s : State) (n : Nat) (f : Block → Block) : (s.modBlock n f).focus = s.focus := by
  unfold State.modBlock; split <;> rfl
@[simp] theorem State.modBlock_cur (s : State) (n : Nat) (f : Block → Block) : (s.modBlock n f).cur = s.cur := by
  unfold State.modBlock; split <;> rfl
@[simp] theorem State.modBlock_now (s : State) (n : Nat) (f : Block → Block) : (s.modBlock n f).now = s.now := by
  unfold State.modBlock; split <;> rfl
@[simp] theorem State.modBlock_used (s : State) (n : Nat) (f : Block → Block) : (s.modBlock n f).used = s.used := by
  unfold State.modBlock; split <;> rfl
@[simp] theorem State.modBlock_fresh (s : State) (n : Nat) (f : Block → Block) : (s.modBlock n f).fresh = s.fresh := by
  unfold State.modBlock; split <;> rfl
@[simp] theorem State.modBlock_mem (s : State) (n : Nat) (f : Block → Block) : (s.modBlock n f).mem = s.mem := by
  unfold State.modBlock; split <;> rfl
@[simp] theorem State.modBlock_nextBlock (s : State) (n : Nat) (f : Block → Block) : (s.modBlock n f).nextBlock = s.nextBlock := by
  unfold State.modBlock; split <;> rfl
@[simp] theorem State.modBlock_nextPlace (s : State) (n : Nat) (f : Block → Block) : (s.modBlock n f).nextPlace = s.nextPlace := by
  unfold State.modBlock; split <;> rfl
@[simp] theorem State.modBlock_cores (s : State) (n : Nat) (f : Block → Block) : (s.modBlock n f).cores = s.cores := by
  unfold State.modBlock; split <;> rfl
@[simp] theorem State.modBlock_clu (s : State) (n : Nat) (f : Block → Block) : (s.modBlock n f).clu = s.clu := by
  unfold State.modBlock; split <;> rfl
@[simp] theorem State.modBlock_homes (s : State) (n : Nat) (f : Block → Block) : (s.modBlock n f).homes = s.homes := by
  unfold State.modBlock; split <;> rfl
@[simp] theorem State.modBlock_promos (s : State) (n : Nat) (f : Block → Block) : (s.modBlock n f).promos = s.promos := by
  unfold State.modBlock; split <;> rfl
@[simp] theorem State.modBlock_tiles (s : State) (n : Nat) (f : Block → Block) : (s.modBlock n f).tiles = s.tiles := by
  unfold State.modBlock; split <;> rfl
@[simp] theorem State.modBlock_treqs (s : State) (n : Nat) (f : Block → Block) : (s.modBlock n f).treqs = s.treqs := by
  unfold State.modBlock; split <;> rfl
@[simp] theorem State.modBlock_nextReq (s : State) (n : Nat) (f : Block → Block) : (s.modBlock n f).nextReq = s.nextReq := by
  unfold State.modBlock; split <;> rfl
@[simp] theorem State.modBlock_launches (s : State) (n : Nat) (f : Block → Block) : (s.modBlock n f).launches = s.launches := by
  unfold State.modBlock; split <;> rfl
@[simp] theorem State.modBlock_nextLaunch (s : State) (n : Nat) (f : Block → Block) : (s.modBlock n f).nextLaunch = s.nextLaunch := by
  unfold State.modBlock; split <;> rfl
@[simp] theorem State.modBlock_records (s : State) (n : Nat) (f : Block → Block) : (s.modBlock n f).records = s.records := by
  unfold State.modBlock; split <;> rfl
@[simp] theorem State.modBlock_checkpoints (s : State) (n : Nat) (f : Block → Block) : (s.modBlock n f).checkpoints = s.checkpoints := by
  unfold State.modBlock; split <;> rfl
@[simp] theorem State.modBlock_hub (s : State) (n : Nat) (f : Block → Block) : (s.modBlock n f).hub = s.hub := by
  unfold State.modBlock; split <;> rfl

/-! ### Home units -/

@[simp] theorem State.clearTags_agenda (s : State) (pa len : Nat) : (s.clearTags pa len).agenda = s.agenda := rfl
@[simp] theorem State.clearTags_focus (s : State) (pa len : Nat) : (s.clearTags pa len).focus = s.focus := rfl
@[simp] theorem State.clearTags_cur (s : State) (pa len : Nat) : (s.clearTags pa len).cur = s.cur := rfl
@[simp] theorem State.clearTags_now (s : State) (pa len : Nat) : (s.clearTags pa len).now = s.now := rfl
@[simp] theorem State.clearTags_used (s : State) (pa len : Nat) : (s.clearTags pa len).used = s.used := rfl
@[simp] theorem State.clearTags_fresh (s : State) (pa len : Nat) : (s.clearTags pa len).fresh = s.fresh := rfl
@[simp] theorem State.clearTags_mem (s : State) (pa len : Nat) : (s.clearTags pa len).mem = s.mem := rfl
@[simp] theorem State.clearTags_blocks (s : State) (pa len : Nat) : (s.clearTags pa len).blocks = s.blocks := rfl
@[simp] theorem State.clearTags_nextBlock (s : State) (pa len : Nat) : (s.clearTags pa len).nextBlock = s.nextBlock := rfl
@[simp] theorem State.clearTags_nextPlace (s : State) (pa len : Nat) : (s.clearTags pa len).nextPlace = s.nextPlace := rfl
@[simp] theorem State.clearTags_cores (s : State) (pa len : Nat) : (s.clearTags pa len).cores = s.cores := rfl
@[simp] theorem State.clearTags_clu (s : State) (pa len : Nat) : (s.clearTags pa len).clu = s.clu := rfl
@[simp] theorem State.clearTags_promos (s : State) (pa len : Nat) : (s.clearTags pa len).promos = s.promos := rfl
@[simp] theorem State.clearTags_tiles (s : State) (pa len : Nat) : (s.clearTags pa len).tiles = s.tiles := rfl
@[simp] theorem State.clearTags_treqs (s : State) (pa len : Nat) : (s.clearTags pa len).treqs = s.treqs := rfl
@[simp] theorem State.clearTags_nextReq (s : State) (pa len : Nat) : (s.clearTags pa len).nextReq = s.nextReq := rfl
@[simp] theorem State.clearTags_launches (s : State) (pa len : Nat) : (s.clearTags pa len).launches = s.launches := rfl
@[simp] theorem State.clearTags_nextLaunch (s : State) (pa len : Nat) : (s.clearTags pa len).nextLaunch = s.nextLaunch := rfl
@[simp] theorem State.clearTags_records (s : State) (pa len : Nat) : (s.clearTags pa len).records = s.records := rfl
@[simp] theorem State.clearTags_checkpoints (s : State) (pa len : Nat) : (s.clearTags pa len).checkpoints = s.checkpoints := rfl
@[simp] theorem State.clearTags_hub (s : State) (pa len : Nat) : (s.clearTags pa len).hub = s.hub := rfl
@[simp] theorem State.writeHome_agenda (s : State) (pa : Nat) (bs : List Byte) : (s.writeHome pa bs).agenda = s.agenda := rfl
@[simp] theorem State.writeHome_focus (s : State) (pa : Nat) (bs : List Byte) : (s.writeHome pa bs).focus = s.focus := rfl
@[simp] theorem State.writeHome_cur (s : State) (pa : Nat) (bs : List Byte) : (s.writeHome pa bs).cur = s.cur := rfl
@[simp] theorem State.writeHome_now (s : State) (pa : Nat) (bs : List Byte) : (s.writeHome pa bs).now = s.now := rfl
@[simp] theorem State.writeHome_used (s : State) (pa : Nat) (bs : List Byte) : (s.writeHome pa bs).used = s.used := rfl
@[simp] theorem State.writeHome_fresh (s : State) (pa : Nat) (bs : List Byte) : (s.writeHome pa bs).fresh = s.fresh := rfl
@[simp] theorem State.writeHome_mem (s : State) (pa : Nat) (bs : List Byte) : (s.writeHome pa bs).mem = memWrite s.mem pa bs := rfl
@[simp] theorem State.writeHome_blocks (s : State) (pa : Nat) (bs : List Byte) : (s.writeHome pa bs).blocks = s.blocks := rfl
@[simp] theorem State.writeHome_nextBlock (s : State) (pa : Nat) (bs : List Byte) : (s.writeHome pa bs).nextBlock = s.nextBlock := rfl
@[simp] theorem State.writeHome_nextPlace (s : State) (pa : Nat) (bs : List Byte) : (s.writeHome pa bs).nextPlace = s.nextPlace := rfl
@[simp] theorem State.writeHome_cores (s : State) (pa : Nat) (bs : List Byte) : (s.writeHome pa bs).cores = s.cores := rfl
@[simp] theorem State.writeHome_clu (s : State) (pa : Nat) (bs : List Byte) : (s.writeHome pa bs).clu = s.clu := rfl
@[simp] theorem State.writeHome_promos (s : State) (pa : Nat) (bs : List Byte) : (s.writeHome pa bs).promos = s.promos := rfl
@[simp] theorem State.writeHome_tiles (s : State) (pa : Nat) (bs : List Byte) : (s.writeHome pa bs).tiles = s.tiles := rfl
@[simp] theorem State.writeHome_treqs (s : State) (pa : Nat) (bs : List Byte) : (s.writeHome pa bs).treqs = s.treqs := rfl
@[simp] theorem State.writeHome_nextReq (s : State) (pa : Nat) (bs : List Byte) : (s.writeHome pa bs).nextReq = s.nextReq := rfl
@[simp] theorem State.writeHome_launches (s : State) (pa : Nat) (bs : List Byte) : (s.writeHome pa bs).launches = s.launches := rfl
@[simp] theorem State.writeHome_nextLaunch (s : State) (pa : Nat) (bs : List Byte) : (s.writeHome pa bs).nextLaunch = s.nextLaunch := rfl
@[simp] theorem State.writeHome_records (s : State) (pa : Nat) (bs : List Byte) : (s.writeHome pa bs).records = s.records := rfl
@[simp] theorem State.writeHome_checkpoints (s : State) (pa : Nat) (bs : List Byte) : (s.writeHome pa bs).checkpoints = s.checkpoints := rfl
@[simp] theorem State.writeHome_hub (s : State) (pa : Nat) (bs : List Byte) : (s.writeHome pa bs).hub = s.hub := rfl

/-! ### Reading back -/

theorem State.setBlock_get (s : State) (n : Nat) (x : Block) : tget (s.setBlock n x).blocks n = some x := by simp

theorem State.setBlock_other (s : State) {m n : Nat} (x : Block) (h : m ≠ n) : tget (s.setBlock n x).blocks m = tget s.blocks m :=
  tget_tset_ne _ _ h

theorem State.setBlock_setBlock_get (s : State) (m n : Nat) (x : Block) :
    tget (s.setBlock n x).blocks m = if m = n then some x else tget s.blocks m := tget_tset _ _ _ _

theorem State.setCore_core (s : State) (c d : Nat) (x : Core) : (s.setCore c x).core d = if d = c then x else s.core d :=
  tgetD_tset _ _ _ _ _

theorem State.modCore_core (s : State) (c d : Nat) (f : Core → Core) :
    (s.modCore c f).core d = if d = c then f (s.core c) else s.core d := tgetD_tset _ _ _ _ _

theorem State.modLaunch_launch (s : State) (l m : Nat) (f : Launch → Launch) :
    (s.modLaunch l f).launch m = if m = l then f (s.launch l) else s.launch m := tgetD_tset _ _ _ _ _

theorem State.setHome_home (s : State) (h k : Nat) (x : HomeUnit) : (s.setHome h x).home k = if k = h then x else s.home k :=
  tgetD_tset _ _ _ _ _

theorem State.modBlock_get (s : State) (n m : Nat) (f : Block → Block) :
    tget (s.modBlock n f).blocks m = if m = n then (tget s.blocks n).map f else tget s.blocks m := by
  unfold State.modBlock
  split <;> rename_i h
  · simp [h, tget_tset]
  · split
    · subst_vars; simp [h]
    · rfl

@[simp] theorem Block.wave_setWave (b : Block) (n : Nat) (w w' : Wave) (h : b.wave n = some w') :
    (b.setWave n w).wave n = some w := by
  unfold Block.wave Block.setWave at *
  by_cases hn : n = 16
  · simp only [hn, if_true] at *
    cases hs : b.sur <;> simp_all
  · simp [hn]

theorem Block.wave_setWave_ne (b : Block) {m n : Nat} (w : Wave) (h : m ≠ n) : (b.setWave n w).wave m = b.wave m := by
  unfold Block.wave Block.setWave
  by_cases hm : m = 16
  · have : n ≠ 16 := fun hn => h (hm.trans hn.symm)
    simp [hm, this]
  · by_cases hn : n = 16
    · simp [hm, hn]
    · simp [hm, hn, tget_tset_ne _ _ h]

@[simp] theorem Wave.entity_setEntity (w : Wave) (f : Bool) (e : Entity) : (w.setEntity f e).entity f = some e := by
  cases f <;> rfl

@[simp] theorem Wave.setEntity_setEntity (w : Wave) (f : Bool) (e e' : Entity) : (w.setEntity f e).setEntity f e' = w.setEntity f e' := by
  cases f <;> rfl

theorem Wave.entity_setEntity_not (w : Wave) (f : Bool) (e : Entity) : (w.setEntity f e).entity (!f) = w.entity (!f) := by
  cases f <;> rfl

/-! ### Registers of a wave are not those of its entities -/

@[simp] theorem Wave.setEntity_present (w : Wave) (g : Bool) (e : Entity) : (w.setEntity g e).present = w.present := by cases g <;> rfl
@[simp] theorem Wave.setEntity_exited (w : Wave) (g : Bool) (e : Entity) : (w.setEntity g e).exited = w.exited := by cases g <;> rfl
@[simp] theorem Wave.setEntity_role (w : Wave) (g : Bool) (e : Entity) : (w.setEntity g e).role = w.role := by cases g <;> rfl
@[simp] theorem Wave.setEntity_cslot (w : Wave) (g : Bool) (e : Entity) : (w.setEntity g e).cslot = w.cslot := by cases g <;> rfl
@[simp] theorem Wave.setEntity_floor (w : Wave) (g : Bool) (e : Entity) : (w.setEntity g e).floor = w.floor := by cases g <;> rfl
@[simp] theorem Wave.setEntity_cap (w : Wave) (g : Bool) (e : Entity) : (w.setEntity g e).cap = w.cap := by cases g <;> rfl
@[simp] theorem Wave.setEntity_s (w : Wave) (g : Bool) (e : Entity) : (w.setEntity g e).s = w.s := by cases g <;> rfl
@[simp] theorem Wave.setEntity_v (w : Wave) (g : Bool) (e : Entity) : (w.setEntity g e).v = w.v := by cases g <;> rfl
@[simp] theorem Wave.setEntity_m (w : Wave) (g : Bool) (e : Entity) : (w.setEntity g e).m = w.m := by cases g <;> rfl
@[simp] theorem Wave.setEntity_k (w : Wave) (g : Bool) (e : Entity) : (w.setEntity g e).k = w.k := by cases g <;> rfl
@[simp] theorem Wave.setEntity_cause (w : Wave) (g : Bool) (e : Entity) : (w.setEntity g e).cause = w.cause := by cases g <;> rfl
@[simp] theorem Wave.setEntity_cmask (w : Wave) (g : Bool) (e : Entity) : (w.setEntity g e).cmask = w.cmask := by cases g <;> rfl
@[simp] theorem Wave.setEntity_epc (w : Wave) (g : Bool) (e : Entity) : (w.setEntity g e).epc = w.epc := by cases g <;> rfl
@[simp] theorem Wave.setEntity_skid (w : Wave) (g : Bool) (e : Entity) : (w.setEntity g e).skid = w.skid := by cases g <;> rfl
@[simp] theorem Wave.setEntity_fpx (w : Wave) (g : Bool) (e : Entity) : (w.setEntity g e).fpx = w.fpx := by cases g <;> rfl
@[simp] theorem Wave.setEntity_fpf (w : Wave) (g : Bool) (e : Entity) : (w.setEntity g e).fpf = w.fpf := by cases g <;> rfl
@[simp] theorem Wave.setEntity_satc (w : Wave) (g : Bool) (e : Entity) : (w.setEntity g e).satc = w.satc := by cases g <;> rfl
@[simp] theorem Wave.setEntity_mf (w : Wave) (g : Bool) (e : Entity) : (w.setEntity g e).mf = w.mf := by cases g <;> rfl
@[simp] theorem Wave.setEntity_cwb (w : Wave) (g : Bool) (e : Entity) : (w.setEntity g e).cwb = w.cwb := by cases g <;> rfl
@[simp] theorem Wave.setEntity_cwl (w : Wave) (g : Bool) (e : Entity) : (w.setEntity g e).cwl = w.cwl := by cases g <;> rfl
@[simp] theorem Wave.setEntity_qnt (w : Wave) (g : Bool) (e : Entity) : (w.setEntity g e).qnt = w.qnt := by cases g <;> rfl
@[simp] theorem Wave.setEntity_dbhit (w : Wave) (g : Bool) (e : Entity) : (w.setEntity g e).dbhit = w.dbhit := by cases g <;> rfl
@[simp] theorem Wave.setEntity_slog (w : Wave) (g : Bool) (e : Entity) : (w.setEntity g e).slog = w.slog := by cases g <;> rfl
@[simp] theorem Wave.setEntity_mlog (w : Wave) (g : Bool) (e : Entity) : (w.setEntity g e).mlog = w.mlog := by cases g <;> rfl
@[simp] theorem Wave.setEntity_saved (w : Wave) (g : Bool) (e : Entity) : (w.setEntity g e).saved = w.saved := by cases g <;> rfl
@[simp] theorem Wave.setEntity_pending (w : Wave) (g : Bool) (e : Entity) : (w.setEntity g e).pending = w.pending := by cases g <;> rfl
@[simp] theorem Wave.setEntity_window (w : Wave) (g : Bool) (e : Entity) : (w.setEntity g e).window = w.window := by cases g <;> rfl
@[simp] theorem Wave.setEntity_grav (w : Wave) (g : Bool) (e : Entity) : (w.setEntity g e).grav = w.grav := by cases g <;> rfl

/-! ### Fields of a block are not those of its waves -/

@[simp] theorem Block.setWave_launch (b : Block) (n : Nat) (w : Wave) : (b.setWave n w).launch = b.launch := by
  unfold Block.setWave; split <;> rfl
@[simp] theorem Block.setWave_lim (b : Block) (n : Nat) (w : Wave) : (b.setWave n w).lim = b.lim := by
  unfold Block.setWave; split <;> rfl
@[simp] theorem Block.setWave_bnd (b : Block) (n : Nat) (w : Wave) : (b.setWave n w).bnd = b.bnd := by
  unfold Block.setWave; split <;> rfl
@[simp] theorem Block.setWave_qnt (b : Block) (n : Nat) (w : Wave) : (b.setWave n w).qnt = b.qnt := by
  unfold Block.setWave; split <;> rfl
@[simp] theorem Block.setWave_blk (b : Block) (n : Nat) (w : Wave) : (b.setWave n w).blk = b.blk := by
  unfold Block.setWave; split <;> rfl
@[simp] theorem Block.setWave_task (b : Block) (n : Nat) (w : Wave) : (b.setWave n w).task = b.task := by
  unfold Block.setWave; split <;> rfl
@[simp] theorem Block.setWave_record (b : Block) (n : Nat) (w : Wave) : (b.setWave n w).record = b.record := by
  unfold Block.setWave; split <;> rfl
@[simp] theorem Block.setWave_core (b : Block) (n : Nat) (w : Wave) : (b.setWave n w).core = b.core := by
  unfold Block.setWave; split <;> rfl
@[simp] theorem Block.setWave_q0 (b : Block) (n : Nat) (w : Wave) : (b.setWave n w).q0 = b.q0 := by
  unfold Block.setWave; split <;> rfl
@[simp] theorem Block.setWave_placed (b : Block) (n : Nat) (w : Wave) : (b.setWave n w).placed = b.placed := by
  unfold Block.setWave; split <;> rfl
@[simp] theorem Block.setWave_restored (b : Block) (n : Nat) (w : Wave) : (b.setWave n w).restored = b.restored := by
  unfold Block.setWave; split <;> rfl
@[simp] theorem Block.setWave_coh (b : Block) (n : Nat) (w : Wave) : (b.setWave n w).coh = b.coh := by
  unfold Block.setWave; split <;> rfl
@[simp] theorem Block.setWave_breg (b : Block) (n : Nat) (w : Wave) : (b.setWave n w).breg = b.breg := by
  unfold Block.setWave; split <;> rfl
@[simp] theorem Block.setWave_bregLog (b : Block) (n : Nat) (w : Wave) : (b.setWave n w).bregLog = b.bregLog := by
  unfold Block.setWave; split <;> rfl
@[simp] theorem Block.setWave_wslice (b : Block) (n : Nat) (w : Wave) : (b.setWave n w).wslice = b.wslice := by
  unfold Block.setWave; split <;> rfl
@[simp] theorem Block.setWave_aslice (b : Block) (n : Nat) (w : Wave) : (b.setWave n w).aslice = b.aslice := by
  unfold Block.setWave; split <;> rfl
@[simp] theorem Block.setWave_cslice (b : Block) (n : Nat) (w : Wave) : (b.setWave n w).cslice = b.cslice := by
  unfold Block.setWave; split <;> rfl
@[simp] theorem Block.setWave_tids (b : Block) (n : Nat) (w : Wave) : (b.setWave n w).tids = b.tids := by
  unfold Block.setWave; split <;> rfl
@[simp] theorem Block.setWave_tidLog (b : Block) (n : Nat) (w : Wave) : (b.setWave n w).tidLog = b.tidLog := by
  unfold Block.setWave; split <;> rfl
@[simp] theorem Block.setWave_keyLog (b : Block) (n : Nat) (w : Wave) : (b.setWave n w).keyLog = b.keyLog := by
  unfold Block.setWave; split <;> rfl
@[simp] theorem Block.setWave_tags (b : Block) (n : Nat) (w : Wave) : (b.setWave n w).tags = b.tags := by
  unfold Block.setWave; split <;> rfl
@[simp] theorem Block.setWave_key (b : Block) (n : Nat) (w : Wave) : (b.setWave n w).key = b.key := by
  unfold Block.setWave; split <;> rfl
@[simp] theorem Block.setWave_res (b : Block) (n : Nat) (w : Wave) : (b.setWave n w).res = b.res := by
  unfold Block.setWave; split <;> rfl
@[simp] theorem Block.setWave_halt (b : Block) (n : Nat) (w : Wave) : (b.setWave n w).halt = b.halt := by
  unfold Block.setWave; split <;> rfl
@[simp] theorem Block.setWave_frozen (b : Block) (n : Nat) (w : Wave) : (b.setWave n w).frozen = b.frozen := by
  unfold Block.setWave; split <;> rfl
@[simp] theorem Block.setWave_swap (b : Block) (n : Nat) (w : Wave) : (b.setWave n w).swap = b.swap := by
  unfold Block.setWave; split <;> rfl
@[simp] theorem Block.setWave_tiles (b : Block) (n : Nat) (w : Wave) : (b.setWave n w).tiles = b.tiles := by
  unfold Block.setWave; split <;> rfl
@[simp] theorem Block.setWave_level (b : Block) (n : Nat) (w : Wave) : (b.setWave n w).level = b.level := by
  unfold Block.setWave; split <;> rfl
@[simp] theorem Block.setWave_ended (b : Block) (n : Nat) (w : Wave) : (b.setWave n w).ended = b.ended := by
  unfold Block.setWave; split <;> rfl

end Sys2Proof.Machine
end

