-- ==== Sys2Proof/Laws/Run.lean ====
section
/-! SUPPORT. What the frame `run` of an instruction word can do: the issuing context, completion, a trap or a wait, and what
retiring leaves as it was. -/
namespace Sys2Proof.Machine

/-! ### The issuing context -/

/-- What the context of the issuing entity is made of. -/
structure Issuing (s : State) (i : Instr) (c : Ctx) : Prop where
  s_ : c.s = s
  r : c.r = s.cur
  i_ : c.i = i
  blk : tget s.blocks s.cur.blk = some c.b
  w0 : c.b.wave s.cur.slot = some c.w0
  w : c.w = c.w0
  e : c.w0.entity s.cur.frag = some c.e
  npc : c.npc = c.e.pc + 4
  x : c.x = modsOf c.e.hints
  post : c.post = none
  fx : c.fx = none
  pkts : c.pkts = []
  gone : c.gone = false
  sends : c.sends = []
  commit : c.commit = false
  probe : c.probe = false

theorem issuing {s : State} {i : Instr} {c : Ctx} (h : s.issuer i = some c) : Issuing s i c := by
  unfold State.issuer at h
  split at h
  · cases h
  · split at h
    · cases h
    · split at h
      · cases h
      · cases h
        constructor <;> first | rfl | assumption

/-! ### `run` -/

theorem run_next {i : Instr} {body : Ctx → Except Stop Ctx} {s : State} {c c' : Ctx} (h : s.issuer i = some c)
    (hc : c.check = .ok ()) (hb : body (c.freeReads (shape i)) = .ok c') (ha : c.allot c' = .ok c') : run i body s = .next (c.noteFrees (shape i) c').retire := by
  simp [run, h, hc, hb, Except.bind, ha]

/-- The body stops: a cause or a wait. -/
theorem run_stop {i : Instr} {body : Ctx → Except Stop Ctx} {s : State} {c : Ctx} {x : Stop} (h : s.issuer i = some c)
    (hc : c.check = .ok ()) (hb : body (c.freeReads (shape i)) = .error x) : run i body s = .next (c.stop x) := by
  simp [run, h, hc, hb, Except.bind]

theorem run_check {i : Instr} {body : Ctx → Except Stop Ctx} {s : State} {c : Ctx} {x : Stop} (h : s.issuer i = some c)
    (hc : c.check = .error x) : run i body s = .next (c.stop x) := by
  simp [run, h, hc]

/-- The requests of an effect leave, or its entity waits (R422, R423). -/
theorem Ctx.leave_cases (c c' : Ctx) : c.leave c' = .ok c' ∨ ∃ x, c.leave c' = .error x := by
  unfold Ctx.leave; split
  · exact .inr ⟨_, rfl⟩
  · split
    · exact .inr ⟨_, rfl⟩
    · exact .inl rfl

/-- An effect without fabric requests waits for no route and no rate. -/
@[simp] theorem Ctx.leave_local {c c' : Ctx} (h : c'.sends = []) : c.leave c' = .ok c' := by simp [Ctx.leave, h]

/-- The entries of an effect are there, or its entity goes into register wait (R177). -/
theorem Ctx.allot_cases (c c' : Ctx) : c.allot c' = .ok c' ∨ ∃ x, c.allot c' = .error x := by
  unfold Ctx.allot; dsimp only; split
  · exact c.leave_cases c'
  · exact .inr ⟨_, rfl⟩

/-- An effect that takes no more than its wave holds, or is granted, has its entries (R177). -/
theorem Ctx.allot_within {c c' : Ctx} (h : c'.w.footprint ≤ c.w0.footprint + c.e.grant) (hs : c'.sends = []) :
    c.allot c' = .ok c' := by
  simp [Ctx.allot, h, hs]

/-- All that `run` can do. -/
theorem run_cases {i : Instr} {body : Ctx → Except Stop Ctx} {s t : State} (h : run i body s = .next t) :
    ∃ c, s.issuer i = some c ∧
      ((∃ x, c.check = .error x ∧ t = c.stop x) ∨
       (∃ x, c.check = .ok () ∧ body (c.freeReads (shape i)) = .error x ∧ t = c.stop x) ∨
       (∃ c' x, c.check = .ok () ∧ body (c.freeReads (shape i)) = .ok c' ∧ c.allot c' = .error x ∧ t = c.stop x) ∨
       (∃ c', c.check = .ok () ∧ body (c.freeReads (shape i)) = .ok c' ∧ c.allot c' = .ok c' ∧
         t = (c.noteFrees (shape i) c').retire)) := by
  unfold run at h
  split at h
  · cases h
  · rename_i c hi
    refine ⟨c, hi, ?_⟩
    split at h
    · cases h; exact .inl ⟨_, ‹_›, rfl⟩
    · cases hb : body (c.freeReads (shape i)) with
      | error x =>
        rw [hb] at h
        cases h
        exact .inr (.inl ⟨_, ‹_›, rfl, rfl⟩)
      | ok c' =>
        rw [hb] at h
        rcases Ctx.allot_cases c c' with ha | ⟨x, ha⟩ <;> simp only [Except.bind, ha] at h <;> cases h
        · exact .inr (.inr (.inr ⟨_, ‹_›, rfl, ha, rfl⟩))
        · exact .inr (.inr (.inl ⟨_, _, ‹_›, rfl, ha, rfl⟩))

theorem run_refused {i : Instr} {body : Ctx → Except Stop Ctx} {s : State} (h : s.issuer i = none) :
    run i body s = .refused .noIssuer := by simp [run, h]

/-- `run` raises no fault. -/
theorem run_no_fault {i : Instr} {body : Ctx → Except Stop Ctx} {s : State} (f : Fault) : run i body s ≠ .fault f := by
  unfold run
  split
  · simp
  · split
    · simp
    · split <;> simp

theorem event_next {n : String} {s : State} : event n (some s) = .next s := rfl
theorem event_refused {n : String} : event n none = .refused (.notEnabled n) := rfl
theorem event_cases {n : String} {r : Option State} {t : State} (h : event n r = .next t) : r = some t := by
  unfold event at h
  split at h <;> cases h
  rfl

/-! ### The frees of a group -/

@[simp] theorem Ctx.freeReads_r (c : Ctx) (sh : Shape) : (c.freeReads sh).r = c.r := rfl
@[simp] theorem Ctx.freeReads_i (c : Ctx) (sh : Shape) : (c.freeReads sh).i = c.i := rfl
@[simp] theorem Ctx.freeReads_b (c : Ctx) (sh : Shape) : (c.freeReads sh).b = c.b := rfl
@[simp] theorem Ctx.freeReads_w0 (c : Ctx) (sh : Shape) : (c.freeReads sh).w0 = c.w0 := rfl
@[simp] theorem Ctx.freeReads_e (c : Ctx) (sh : Shape) : (c.freeReads sh).e = c.e := rfl
@[simp] theorem Ctx.freeReads_x (c : Ctx) (sh : Shape) : (c.freeReads sh).x = c.x := rfl
@[simp] theorem Ctx.freeReads_g (c : Ctx) (sh : Shape) : (c.freeReads sh).g = c.g := rfl
@[simp] theorem Ctx.freeReads_npc (c : Ctx) (sh : Shape) : (c.freeReads sh).npc = c.npc := rfl
@[simp] theorem Ctx.freeReads_post (c : Ctx) (sh : Shape) : (c.freeReads sh).post = c.post := rfl
@[simp] theorem Ctx.freeReads_fx (c : Ctx) (sh : Shape) : (c.freeReads sh).fx = c.fx := rfl
@[simp] theorem Ctx.freeReads_pkts (c : Ctx) (sh : Shape) : (c.freeReads sh).pkts = c.pkts := rfl
@[simp] theorem Ctx.freeReads_gone (c : Ctx) (sh : Shape) : (c.freeReads sh).gone = c.gone := rfl
@[simp] theorem Ctx.freeReads_sends (c : Ctx) (sh : Shape) : (c.freeReads sh).sends = c.sends := rfl
@[simp] theorem Ctx.freeReads_commit (c : Ctx) (sh : Shape) : (c.freeReads sh).commit = c.commit := rfl
@[simp] theorem Ctx.freeReads_probe (c : Ctx) (sh : Shape) : (c.freeReads sh).probe = c.probe := rfl
@[simp] theorem Ctx.freeReads_w (c : Ctx) (sh : Shape) : (c.freeReads sh).w = c.w.release (c.freeNames sh) := rfl

@[simp] theorem Ctx.freeReads_s (c : Ctx) (sh : Shape) : (c.freeReads sh).s = c.s := rfl

/-- The note of a free changes nothing but the note of the core. -/
theorem Ctx.noteFrees_s (c : Ctx) (sh : Shape) (c' : Ctx) :
    (c.noteFrees sh c').s = c'.s ∨
    (c.noteFrees sh c').s = c'.s.modCore c.core fun k => { k with freedAt := k.freedAt.setIfInBounds c.quad c.s.now } := by
  unfold Ctx.noteFrees; split
  · exact .inr rfl
  · exact .inl rfl
theorem Ctx.noteFrees_eq (c : Ctx) (sh : Shape) (c' : Ctx) : c.noteFrees sh c' = { c' with s := (c.noteFrees sh c').s } := by
  unfold Ctx.noteFrees; split <;> rfl
@[simp] theorem Ctx.noteFrees_blocks (c : Ctx) (sh : Shape) (c' : Ctx) : (c.noteFrees sh c').s.blocks = c'.s.blocks := by
  rcases c.noteFrees_s sh c' with h | h <;> rw [h] <;> rfl
@[simp] theorem Ctx.noteFrees_mem (c : Ctx) (sh : Shape) (c' : Ctx) : (c.noteFrees sh c').s.mem = c'.s.mem := by
  rcases c.noteFrees_s sh c' with h | h <;> rw [h] <;> rfl
@[simp] theorem Ctx.noteFrees_hub (c : Ctx) (sh : Shape) (c' : Ctx) : (c.noteFrees sh c').s.hub = c'.s.hub := by
  rcases c.noteFrees_s sh c' with h | h <;> rw [h] <;> rfl
@[simp] theorem Ctx.noteFrees_now (c : Ctx) (sh : Shape) (c' : Ctx) : (c.noteFrees sh c').s.now = c'.s.now := by
  rcases c.noteFrees_s sh c' with h | h <;> rw [h] <;> rfl

theorem Wave.release_cons (w : Wave) (n : Nat) (ns : List Nat) : w.release (n :: ns) = (w.release [n]).release ns := rfl

/-- Released names change nothing but the register maps. -/
theorem Wave.release_keeps (w : Wave) (ns : List Nat) : { w.release ns with v := w.v, m := w.m } = w := by
  induction ns generalizing w with
  | nil => rfl
  | cons n ns ih =>
    rw [Wave.release_cons]
    have h1 := ih (w.release [n])
    have h2 : { w.release [n] with v := w.v, m := w.m } = w := by
      simp only [Wave.release, List.foldl]
      split
      · rfl
      · split <;> rfl
    generalize w.release [n] = w1 at *
    generalize w1.release ns = w2 at *
    cases w; cases w1; cases w2
    simp_all

@[simp] theorem Wave.release_s (w : Wave) (ns : List Nat) : (w.release ns).s = w.s := by
  have h := congrArg Wave.s (w.release_keeps ns); exact h
@[simp] theorem Wave.release_k (w : Wave) (ns : List Nat) : (w.release ns).k = w.k := by
  have h := congrArg Wave.k (w.release_keeps ns); exact h
@[simp] theorem Wave.release_parent (w : Wave) (ns : List Nat) : (w.release ns).parent = w.parent := by
  have h := congrArg Wave.parent (w.release_keeps ns); exact h
@[simp] theorem Wave.release_frag (w : Wave) (ns : List Nat) : (w.release ns).frag = w.frag := by
  have h := congrArg Wave.frag (w.release_keeps ns); exact h
@[simp] theorem Wave.release_fpf (w : Wave) (ns : List Nat) : (w.release ns).fpf = w.fpf := by
  have h := congrArg Wave.fpf (w.release_keeps ns); exact h
@[simp] theorem Wave.release_fpx (w : Wave) (ns : List Nat) : (w.release ns).fpx = w.fpx := by
  have h := congrArg Wave.fpx (w.release_keeps ns); exact h
@[simp] theorem Wave.release_window (w : Wave) (ns : List Nat) : (w.release ns).window = w.window := by
  have h := congrArg Wave.window (w.release_keeps ns); exact h
@[simp] theorem Wave.release_entity (w : Wave) (ns : List Nat) (f : Bool) : (w.release ns).entity f = w.entity f := by
  simp [Wave.entity]

/-! ### Retiring -/

@[simp] theorem State.etch_nil (s : State) (r : EntRef) (pc : Dword) (b : Bool) : s.etch r pc [] b = s := by
  unfold State.etch
  split
  · rfl
  · split
    · rfl
    · simp

/-- The entity as an instruction that retires at `npc` leaves it. -/
def Ctx.retired (c : Ctx) : Entity :=
  let counting := c.b.halt.isSome || c.w.window.isSome
  { c.e with pc := c.npc, hints := [], wait := c.post, grant := 0, stepOver := false, qwaited := false
             loop := c.e.loopAt c.npc
             lastBack := if isCall c.i then c.e.lastBack else c.e.backAt c.npc
             fetched := if !c.jumped && decide (c.npc = c.e.pc + 4) then c.e.fetched.filter (fun p => p.1 ≠ c.e.pc) else []
             skid := if counting then c.e.skid + 1 else c.e.skid
             qcount := if c.b.isLevel && !c.e.qwaited then c.e.qcount + 1 else c.e.qcount }

/-- The block with the word counted against the bound of its surrender wave (R152). -/
def Ctx.counted (c : Ctx) : Block :=
  match c.b.sur with
  | some (w, q) => if c.r.slot = 16 then { c.b with sur := some (w, { q with issued := q.issued + 1 }) } else c.b
  | none => c.b

/-- Retiring without packets and without flagged exceptions: the entity's wave is put back. -/
theorem retire_quiet {c : Ctx} (hg : c.gone = false) (hp : c.pkts = []) (hf : c.fx = none) :
    c.retire = c.s.setBlock c.r.blk (c.counted.setWave c.r.slot (c.w.setEntity c.r.frag c.retired)) := by
  unfold Ctx.retire
  simp only [hg, hp, hf, State.etch_nil]
  simp [Ctx.put, Ctx.retired, Ctx.counted]
  all_goals rfl

theorem counted_wave {c : Ctx} {n : Nat} {w : Wave} (h : c.b.wave n = some w) : c.counted.wave n = some w := by
  unfold Ctx.counted
  split
  · split
    · rename_i q heq hs
      simp only [Block.wave] at h ⊢
      by_cases hn : n = 16
      · simp_all
      · simp_all
    · exact h
  · exact h

end Sys2Proof.Machine
end

