-- ==== Sys2Proof/Laws/Claims.lean ====
section
/-! SUPPORT. That an instruction whose body changes only its wave's registers retires as the statements say. -/
namespace Sys2Proof.Claims

open Machine

theorem waveAt_issues {s : State} {i : Instr} {c : Ctx} (h : Issues s i c) : waveAt s s.cur = some c.w0 := by
  simp [waveAt, (issuing h.1).blk, (issuing h.1).w0]

theorem freed_eq {s : State} {i : Instr} {c : Ctx} (h : Issues s i c) : (c.freeReads (shape i)).w = freed i c := by
  simp [freed, (issuing h.1).w]

@[simp] theorem freed_entity (i : Instr) (c : Ctx) (f : Bool) : (freed i c).entity f = c.w0.entity f := by simp [freed]
@[simp] theorem freed_s (i : Instr) (c : Ctx) : (freed i c).s = c.w0.s := by simp [freed]
@[simp] theorem freed_k (i : Instr) (c : Ctx) : (freed i c).k = c.w0.k := by simp [freed]
@[simp] theorem freed_parent (i : Instr) (c : Ctx) : (freed i c).parent = c.w0.parent := by simp [freed]
@[simp] theorem freed_frag (i : Instr) (c : Ctx) : (freed i c).frag = c.w0.frag := by simp [freed]

/-- A context that differs from another in its wave alone. -/
structure WaveOnly (c c1 : Ctx) : Prop where
  s : c1.s = c.s
  r : c1.r = c.r
  b : c1.b = c.b
  w0 : c1.w0 = c.w0
  e : c1.e = c.e
  npc : c1.npc = c.npc
  post : c1.post = c.post
  fx : c1.fx = c.fx
  pkts : c1.pkts = c.pkts
  gone : c1.gone = c.gone
  sends : c1.sends = c.sends
  parent : c1.w.parent = c.w.parent
  frag : c1.w.frag = c.w.frag

theorem noteFrees_core (c : Ctx) (sh : Shape) (c1 : Ctx) (n : Nat) :
    { (c.noteFrees sh c1).s.core n with freedAt := Vector.replicate 4 0 } = { c1.s.core n with freedAt := Vector.replicate 4 0 } := by
  rcases c.noteFrees_s sh c1 with h | h <;> rw [h]
  rw [State.modCore_core]
  split
  · subst_vars; rfl
  · rfl

theorem noteFrees_machine (c : Ctx) (sh : Shape) (c1 : Ctx) :
    { (c.noteFrees sh c1).s with blocks := [], cores := [] } = { c1.s with blocks := [], cores := [] } := by
  rcases c.noteFrees_s sh c1 with hs | hs <;> rw [hs] <;> rfl

/-- A state is as it was but for the note of the last free and a wave. -/
theorem elsewhere_noted {c c1 : Ctx} (sh : Shape) (w : Wave) (hr : c1.r = c1.s.cur) (hb : tget c1.s.blocks c1.s.cur.blk = some c.b)
    (hc : c1.b = c.b) :
    Elsewhere c1.s ((c.noteFrees sh c1).s.setBlock c1.s.cur.blk (c1.counted.setWave c1.s.cur.slot w)) := by
  constructor
  · exact noteFrees_machine c sh c1
  · intro a
    simp
  · exact noteFrees_core c sh c1
  · intro n hn'
    simp [tget_tset_ne _ _ hn']
  · intro b hb'
    rw [hb] at hb'
    cases hb'
    refine ⟨c1.counted.setWave c1.s.cur.slot w, by simp, ?_, ?_⟩
    · unfold Block.setWave Ctx.counted
      rw [hc]
      split <;> split <;> (try split) <;> simp_all
    · intro n hn
      rw [Block.wave_setWave_ne _ _ hn]
      unfold Ctx.counted Block.wave
      rw [hc, hr]
      split <;> split <;> (try split) <;> simp_all

/-- The frame of a body that leaves its own context but for registers of its wave and for the machine outside the blocks. -/
theorem retires_of_body' {s : State} {i : Instr} {c c1 : Ctx} {body : Ctx → Except Stop Ctx} (h : Issues s i c)
    (hb : body (c.freeReads (shape i)) = .ok c1) (ha : c.allot c1 = .ok c1) (hs : tget c1.s.blocks s.cur.blk = some c.b) (hcur : c1.s.cur = s.cur)
    (h1 : WaveOnly { c.freeReads (shape i) with s := c1.s } c1) :
    ∃ t w, run i body s = .next t ∧ Retires c1.s c t w ∧ noEntities w = noEntities c1.w := by
  have hi := issuing h.1
  have hr : c1.r = s.cur := by simp [h1.r, hi.r]
  have he : c1.e = c.e := by simp [h1.e]
  have hbk : c1.b = c.b := by simp [h1.b]
  refine ⟨_, c1.w.setEntity s.cur.frag c1.retired, run_next h.1 h.2 hb ha, ?_, ?_⟩
  · rw [Ctx.noteFrees_eq]
    have hret := retire_quiet (c := { c1 with s := (c.noteFrees (shape i) c1).s })
      (by simp [h1.gone, hi.gone]) (by simp [h1.pkts, hi.pkts]) (by simp [h1.fx, hi.fx])
    rw [hret]
    show Retires c1.s c ((c.noteFrees (shape i) c1).s.setBlock c1.r.blk (c1.counted.setWave c1.r.slot (c1.w.setEntity c1.r.frag c1.retired)))
      (c1.w.setEntity s.cur.frag c1.retired)
    rw [hr]
    have hw0 : c1.counted.wave s.cur.slot = some c.w0 := counted_wave (by rw [hbk]; exact hi.w0)
    have hcur' : (c.noteFrees (shape i) c1).s.cur = s.cur := by
      rcases c.noteFrees_s (shape i) c1 with h | h <;> rw [h] <;> exact hcur
    constructor
    · simp [waveAt, hw0, hcur]
    · rw [hcur]
      refine ⟨_, Wave.entity_setEntity _ _ _, ?_⟩
      constructor <;> simp [Ctx.retired, he, h1.npc, hi.npc, h1.post, hi.post]
    · rw [hcur, Wave.entity_setEntity_not]
      simp [Wave.entity, h1.parent, h1.frag, hi.w]
    · have := elsewhere_noted (c := c) (c1 := c1) (shape i) (c1.w.setEntity s.cur.frag c1.retired) (hr.trans hcur.symm)
        (by rw [hcur]; exact hs) hbk
      rwa [hcur] at this
  · unfold Wave.setEntity
    split <;> rfl

theorem retires_of_body {s : State} {i : Instr} {c c1 : Ctx} {body : Ctx → Except Stop Ctx} (h : Issues s i c)
    (hb : body (c.freeReads (shape i)) = .ok c1) (ha : c.allot c1 = .ok c1) (h1 : WaveOnly (c.freeReads (shape i)) c1) :
    ∃ t w, run i body s = .next t ∧ Retires s c t w ∧ noEntities w = noEntities c1.w := by
  have hi := issuing h.1
  have hs : c1.s = s := by simp [h1.s, hi.s_]
  have := retires_of_body' h hb ha (by rw [hs]; exact hi.blk) (by rw [hs])
    ⟨rfl, h1.r, h1.b, h1.w0, h1.e, h1.npc, h1.post, h1.fx, h1.pkts, h1.gone, h1.sends, h1.parent, h1.frag⟩
  rwa [hs] at this

theorem waveOnly_w (c : Ctx) (w : Wave) (hp : w.parent = c.w.parent) (hf : w.frag = c.w.frag) : WaveOnly c { c with w := w } := by
  constructor <;> first | rfl | assumption

theorem WaveOnly.trans {a b c : Ctx} (h : WaveOnly a b) (h' : WaveOnly b c) : WaveOnly a c := by
  constructor
  · exact h'.s.trans h.s
  · exact h'.r.trans h.r
  · exact h'.b.trans h.b
  · exact h'.w0.trans h.w0
  · exact h'.e.trans h.e
  · exact h'.npc.trans h.npc
  · exact h'.post.trans h.post
  · exact h'.fx.trans h.fx
  · exact h'.pkts.trans h.pkts
  · exact h'.gone.trans h.gone
  · exact h'.sends.trans h.sends
  · exact h'.parent.trans h.parent
  · exact h'.frag.trans h.frag

theorem WaveOnly.refl (c : Ctx) : WaveOnly c c := by constructor <;> rfl

theorem sum_set_le (l : List Nat) (n x : Nat) (h : ∀ h : n < l.length, x ≤ l[n]) : (l.set n x).sum ≤ l.sum := by
  induction l generalizing n with
  | nil => simp
  | cons a l ih =>
    cases n with
    | zero => have := h (by simp); simp at this ⊢; omega
    | succ n =>
      have := ih n fun hl => h (by simpa using hl)
      simp; omega

theorem footprint_clear (w : Wave) {n : Nat} (h : n < 64) :
    ({ w with v := w.v.set n none } : Wave).footprint ≤ w.footprint := by
  simp only [Wave.footprint, mapFootprint, Vector.toList_set]
  rw [List.countP_set (by simpa using h)]
  simp only [Option.isSome_none, Bool.false_eq_true, if_false]
  omega

theorem footprint_drop (w : Wave) {n : Nat} (h : n < 8) :
    ({ w with m := w.m.set n { w.m[n] with data := none } } : Wave).footprint ≤ w.footprint := by
  simp only [Wave.footprint, mapFootprint, Vector.toList_set, List.map_set]
  refine Nat.add_le_add_left (sum_set_le _ _ _ fun _ => ?_) _
  simp [MReg.entries]

/-- Registers released take no more entries than before. -/
theorem release_footprint_le (w : Wave) (ns : List Nat) : (w.release ns).footprint ≤ w.footprint := by
  induction ns generalizing w with
  | nil => exact Nat.le_refl _
  | cons n ns ih =>
    rw [Wave.release_cons]
    refine Nat.le_trans (ih _) ?_
    simp only [Wave.release, List.foldl]
    split
    · exact footprint_clear w ‹_›
    · split
      · exact footprint_drop w ‹_›
      · exact Nat.le_refl _

theorem freed_footprint_le (i : Instr) (c : Ctx) : (freed i c).footprint ≤ c.w0.footprint := release_footprint_le _ _

/-- A scalar operation writes one scalar register. -/
theorem scalarOp_retires {s : State} {i : Instr} {c : Ctx} {d : Reg5} {f : Ctx → Dword} {x : Dword} (h : Issues s i c)
    (he : exec i s = run i (scalarOp d f) s) (hx : f (c.freeReads (shape i)) = x) :
    ∃ t w, exec i s = .next t ∧ Retires s c t w ∧
      noEntities w = noEntities { freed i c with s := c.w0.s.set d.toNat x (by omega) } := by
  have hfp : ((c.freeReads (shape i)).ws d (f (c.freeReads (shape i)))).w.footprint ≤ c.w0.footprint := by
    have := freed_footprint_le i c
    rwa [← freed_eq h] at this
  obtain ⟨t, w, h1, h2, h3⟩ := retires_of_body h (body := scalarOp d f) rfl
    (Ctx.allot_within (Nat.le_trans hfp (Nat.le_add_right _ _)) (issuing h.1).sends) (waveOnly_w _ _ rfl rfl)
  refine ⟨t, w, he ▸ h1, h2, ?_⟩
  have hs : (c.freeReads (shape i)).w.s = c.w0.s := by simp [(issuing h.1).w]
  rw [h3, ← freed_eq h, ← hx, ← hs]
  rfl

end Sys2Proof.Claims
end

