-- ==== Sys2Proof/Laws/PerInstr.lean ====
section
/-! SUPPORT. The family RoundTrip, one lemma for each constructor: the word that the encoder gives an instruction is read back by
the decoder as that instruction, with every operand at every value (events have no word). -/
namespace Sys2Proof.Laws.RoundTrip

/-- Decoding the word of an instruction gives the instruction. -/
def Statement (i : Instr) : Prop := ∀ w, encode? i = some w → decode w = .ok i

/-- The value of a list of fields, and its width. -/
def value (fs : List (Nat × Nat)) : Nat := fs.foldl (fun acc f => acc * 2 ^ f.2 + f.1 % 2 ^ f.2) 0
def width (fs : List (Nat × Nat)) : Nat := fs.foldr (fun f n => f.2 + n) 0

theorem foldl_value (fs : List (Nat × Nat)) (a : Nat) :
    fs.foldl (fun acc f => acc * 2 ^ f.2 + f.1 % 2 ^ f.2) a = a * 2 ^ width fs + value fs := by
  induction fs generalizing a with
  | nil => simp [value, width]
  | cons f fs ih =>
    have h0 : value (f :: fs) = f.1 % 2 ^ f.2 * 2 ^ width fs + value fs := by
      rw [value, List.foldl_cons, ih]; simp
    rw [List.foldl_cons, ih, h0, show width (f :: fs) = f.2 + width fs from rfl, Nat.pow_add, Nat.add_mul, Nat.mul_assoc, Nat.add_assoc]

theorem value_append (p q : List (Nat × Nat)) : value (p ++ q) = value p * 2 ^ width q + value q := by
  rw [value, List.foldl_append, foldl_value]; rfl

theorem width_append (p q : List (Nat × Nat)) : width (p ++ q) = width p + width q := by
  induction p with
  | nil => simp [width]
  | cons f p ih =>
    have : width (f :: p ++ q) = f.2 + width (p ++ q) := rfl
    have : width (f :: p) = f.2 + width p := rfl
    omega

theorem value_lt (fs : List (Nat × Nat)) : value fs < 2 ^ width fs := by
  induction fs with
  | nil => simp [value, width]
  | cons f fs ih =>
    have h : f.1 % 2 ^ f.2 < 2 ^ f.2 := Nat.mod_lt _ (Nat.two_pow_pos _)
    rw [show f :: fs = [f] ++ fs from rfl, value_append, width_append, show width [f] = f.2 from rfl, Nat.pow_add,
      show value [f] = f.1 % 2 ^ f.2 by simp [value]]
    calc _ < f.1 % 2 ^ f.2 * 2 ^ width fs + 2 ^ width fs := by omega
      _ = (f.1 % 2 ^ f.2 + 1) * 2 ^ width fs := by rw [Nat.add_mul, Nat.one_mul]
      _ ≤ _ := Nat.mul_le_mul_right _ h

/-- A range of bits of a packed word that lies in some of its fields is that range of those fields' value. -/
theorem bits_pack (fs : List (Nat × Nat)) (i j a lo n : Nat) (sub : List (Nat × Nat)) (ht : Nat.ble (width fs) 32 = true)
    (hsub : (fs.drop i).take j = sub) (hlo : width ((fs.drop i).drop j) + a = lo) (hn : Nat.ble (a + n) (width sub) = true) :
    (packFields fs).toNat / 2 ^ lo % 2 ^ n = value sub / 2 ^ a % 2 ^ n := by
  have hw : (packFields fs).toNat = value fs := by
    rw [show packFields fs = BitVec.ofNat 32 (value fs) from rfl, BitVec.toNat_ofNat]
    exact Nat.mod_eq_of_lt (Nat.lt_of_lt_of_le (value_lt fs) (Nat.pow_le_pow_right (by omega) (Nat.le_of_ble_eq_true ht)))
  subst hsub
  have hs : fs = fs.take i ++ ((fs.drop i).take j ++ (fs.drop i).drop j) := by rw [List.take_append_drop, List.take_append_drop]
  have hn := Nat.le_of_ble_eq_true hn
  generalize (fs.drop i).take j = sub at *
  generalize (fs.drop i).drop j = post at *
  generalize fs.take i = p at *
  subst hlo
  obtain ⟨m, hm⟩ : ∃ m, width sub = a + (n + m) := ⟨width sub - a - n, by omega⟩
  rw [hw, hs, value_append, value_append, width_append, Nat.pow_add 2 (width sub), ← Nat.mul_assoc, ← Nat.add_assoc, ← Nat.add_mul,
    Nat.pow_add, ← Nat.div_div_eq_div_mul, Nat.add_comm _ (value post), Nat.add_mul_div_right _ _ (Nat.two_pow_pos _),
    Nat.div_eq_of_lt (value_lt post), Nat.zero_add, hm, Nat.pow_add, Nat.pow_add, ← Nat.mul_assoc,
    Nat.mul_right_comm, Nat.add_comm, Nat.add_mul_div_right _ _ (Nat.two_pow_pos _)]
  rw [Nat.mul_comm (2 ^ n), ← Nat.mul_assoc, Nat.add_mul_mod_self_right]

theorem bits_toNat (w : Word) (hi lo : Nat) : (bits w hi lo).toNat = w.toNat / 2 ^ lo % 2 ^ (hi - lo + 1) := by
  simp [bits, BitVec.extractLsb'_toNat, Nat.shiftRight_eq_div_pow]

/-- Fixed bits of a packed word are what they are, and are not what they are not. -/
theorem fixed_is {fs : List (Nat × Nat)} {hi lo : Nat} {c : BitVec (hi - lo + 1)} (i j a : Nat) (sub : List (Nat × Nat)) (ht : Nat.ble (width fs) 32 = true)
    (hsub : (fs.drop i).take j = sub) (hlo : width ((fs.drop i).drop j) + a = lo)
    (hn : Nat.ble (a + (hi - lo + 1)) (width sub) = true) (h : value sub / 2 ^ a % 2 ^ (hi - lo + 1) = c.toNat) : bits (packFields fs) hi lo = c :=
  BitVec.eq_of_toNat_eq (by rw [bits_toNat, bits_pack fs i j a lo _ sub ht hsub hlo hn, h])

theorem fixed_not {fs : List (Nat × Nat)} {hi lo : Nat} {c : BitVec (hi - lo + 1)} (i j a u v : Nat)
    (sub : List (Nat × Nat)) (ht : Nat.ble (width fs) 32 = true) (hsub : (fs.drop i).take j = sub)
    (hlo : width ((fs.drop i).drop j) + a = lo + u) (hn : Nat.ble (a + v) (width sub) = true)
    (hv : Nat.ble (u + v) (hi - lo + 1) = true) (h : Nat.beq (value sub / 2 ^ a % 2 ^ v) (c.toNat / 2 ^ u % 2 ^ v) = false) : bits (packFields fs) hi lo ≠ c := by
  rintro rfl
  refine absurd (bits_pack fs i j a (lo + u) v sub ht hsub hlo hn).symm (Nat.ne_of_beq_eq_false (h ▸ ?_))
  rw [bits_toNat]
  obtain ⟨m, hm⟩ : ∃ m, hi - lo + 1 = u + (v + m) := ⟨hi - lo + 1 - u - v, by have := Nat.le_of_ble_eq_true hv; omega⟩
  rw [hm, Nat.pow_add 2 lo, ← Nat.div_div_eq_div_mul, Nat.pow_add 2 u, Nat.mod_mul_right_div_self, Nat.pow_add,
    Nat.mod_mul_right_mod]

/-- An operand field of a packed word reads as the operand. -/
theorem field_is {fs : List (Nat × Nat)} {hi lo : Nat} (i : Nat) (x : BitVec (hi - lo + 1)) (ht : Nat.ble (width fs) 32 = true)
    (hx : (fs.drop i).take 1 = [(x.toNat, hi - lo + 1)]) (hlo : width ((fs.drop i).drop 1) = lo) : bits (packFields fs) hi lo = x := by
  exact fixed_is i 1 0 _ ht hx hlo (by simp [width]) (by simp [value])

theorem flag_is {fs : List (Nat × Nat)} {k : Nat} (i : Nat) (b : Bool) (ht : Nat.ble (width fs) 32 = true)
    (hx : (fs.drop i).take 1 = [(b.toNat, 1)]) (hlo : width ((fs.drop i).drop 1) = k) : bit (packFields fs) k = b := by
  have h := bits_pack fs i 1 0 k 1 _ ht hx hlo (by simp [width])
  simp only [bit, BitVec.getLsbD, Nat.testBit, Nat.shiftRight_eq_div_pow]
  cases b <;> simp_all [value, Nat.one_and_eq_mod_two]

theorem guard_is {w : Word} {g : Guard} (hn : bit w 4 = g.n) (hg : bits w 3 0 = g.g) : guardOf w = g := by
  cases g; simp_all [guardOf]

theorem top_is {w : Word} {n : Nat} {x : BitVec 7} (h : bits w 31 25 = x) (hx : x.toNat = n) : (bits w 31 25).toNat = n := h ▸ hx

theorem decode_01 (w : Word) (h : (bits w 31 25).toNat = 1) : decode w = decode01 w := by unfold decode; rw [h]; rfl
theorem decode_02 (w : Word) (h : (bits w 31 25).toNat = 2) : decode w = decode02 w := by unfold decode; rw [h]; rfl
theorem decode_03 (w : Word) (h : (bits w 31 25).toNat = 3) : decode w = decode03 w := by unfold decode; rw [h]; rfl
theorem decode_04 (w : Word) (h : (bits w 31 25).toNat = 4) : decode w = decode04 w := by unfold decode; rw [h]; rfl
theorem decode_05 (w : Word) (h : (bits w 31 25).toNat = 5) : decode w = decode05 w := by unfold decode; rw [h]; rfl
theorem decode_08 (w : Word) (h : (bits w 31 25).toNat = 8) : decode w = decode08 w := by unfold decode; rw [h]; rfl
theorem decode_09 (w : Word) (h : (bits w 31 25).toNat = 9) : decode w = decode09 w := by unfold decode; rw [h]; rfl
theorem decode_0A (w : Word) (h : (bits w 31 25).toNat = 10) : decode w = decode0A w := by unfold decode; rw [h]; rfl
theorem decode_0B (w : Word) (h : (bits w 31 25).toNat = 11) : decode w = decode0B w := by unfold decode; rw [h]; rfl
theorem decode_10 (w : Word) (h : (bits w 31 25).toNat = 16) : decode w = decode10 w := by unfold decode; rw [h]; rfl
theorem decode_11 (w : Word) (h : (bits w 31 25).toNat = 17) : decode w = decode11 w := by unfold decode; rw [h]; rfl
theorem decode_12 (w : Word) (h : (bits w 31 25).toNat = 18) : decode w = decode12 w := by unfold decode; rw [h]; rfl
theorem decode_13 (w : Word) (h : (bits w 31 25).toNat = 19) : decode w = decode13 w := by unfold decode; rw [h]; rfl
theorem decode_14 (w : Word) (h : (bits w 31 25).toNat = 20) : decode w = decode14 w := by unfold decode; rw [h]; rfl
theorem decode_15 (w : Word) (h : (bits w 31 25).toNat = 21) : decode w = decode15 w := by unfold decode; rw [h]; rfl
theorem decode_16 (w : Word) (h : (bits w 31 25).toNat = 22) : decode w = decode16 w := by unfold decode; rw [h]; rfl
theorem decode_17 (w : Word) (h : (bits w 31 25).toNat = 23) : decode w = decode17 w := by unfold decode; rw [h]; rfl
theorem decode_18 (w : Word) (h : (bits w 31 25).toNat = 24) : decode w = decode18 w := by unfold decode; rw [h]; rfl
theorem decode_19 (w : Word) (h : (bits w 31 25).toNat = 25) : decode w = decode19 w := by unfold decode; rw [h]; rfl
theorem decode_1A (w : Word) (h : (bits w 31 25).toNat = 26) : decode w = decode1A w := by unfold decode; rw [h]; rfl
theorem decode_1B (w : Word) (h : (bits w 31 25).toNat = 27) : decode w = decode1B w := by unfold decode; rw [h]; rfl
theorem decode_1C (w : Word) (h : (bits w 31 25).toNat = 28) : decode w = decode1C w := by unfold decode; rw [h]; rfl
theorem decode_1D (w : Word) (h : (bits w 31 25).toNat = 29) : decode w = decode1D w := by unfold decode; rw [h]; rfl
theorem decode_1E (w : Word) (h : (bits w 31 25).toNat = 30) : decode w = decode1E w := by unfold decode; rw [h]; rfl
theorem decode_1F (w : Word) (h : (bits w 31 25).toNat = 31) : decode w = decode1F w := by unfold decode; rw [h]; rfl
theorem decode_20 (w : Word) (h : (bits w 31 25).toNat = 32) : decode w = decode20 w := by unfold decode; rw [h]; rfl
theorem decode_21 (w : Word) (h : (bits w 31 25).toNat = 33) : decode w = decode21 w := by unfold decode; rw [h]; rfl
theorem decode_22 (w : Word) (h : (bits w 31 25).toNat = 34) : decode w = decode22 w := by unfold decode; rw [h]; rfl
theorem decode_23 (w : Word) (h : (bits w 31 25).toNat = 35) : decode w = decode23 w := by unfold decode; rw [h]; rfl
theorem decode_24 (w : Word) (h : (bits w 31 25).toNat = 36) : decode w = decode24 w := by unfold decode; rw [h]; rfl
theorem decode_25 (w : Word) (h : (bits w 31 25).toNat = 37) : decode w = decode25 w := by unfold decode; rw [h]; rfl
theorem decode_26 (w : Word) (h : (bits w 31 25).toNat = 38) : decode w = decode26 w := by unfold decode; rw [h]; rfl
theorem decode_27 (w : Word) (h : (bits w 31 25).toNat = 39) : decode w = decode27 w := by unfold decode; rw [h]; rfl
theorem decode_28 (w : Word) (h : (bits w 31 25).toNat = 40) : decode w = decode28 w := by unfold decode; rw [h]; rfl
theorem decode_29 (w : Word) (h : (bits w 31 25).toNat = 41) : decode w = decode29 w := by unfold decode; rw [h]; rfl
theorem decode_2A (w : Word) (h : (bits w 31 25).toNat = 42) : decode w = decode2A w := by unfold decode; rw [h]; rfl
theorem decode_30 (w : Word) (h : (bits w 31 25).toNat = 48) : decode w = decode30 w := by unfold decode; rw [h]; rfl
theorem decode_31 (w : Word) (h : (bits w 31 25).toNat = 49) : decode w = decode31 w := by unfold decode; rw [h]; rfl
theorem decode_32 (w : Word) (h : (bits w 31 25).toNat = 50) : decode w = decode32 w := by unfold decode; rw [h]; rfl
theorem decode_33 (w : Word) (h : (bits w 31 25).toNat = 51) : decode w = decode33 w := by unfold decode; rw [h]; rfl
theorem decode_34 (w : Word) (h : (bits w 31 25).toNat = 52) : decode w = decode34 w := by unfold decode; rw [h]; rfl
theorem decode_38 (w : Word) (h : (bits w 31 25).toNat = 56) : decode w = decode38 w := by unfold decode; rw [h]; rfl
theorem decode_39 (w : Word) (h : (bits w 31 25).toNat = 57) : decode w = decode39 w := by unfold decode; rw [h]; rfl
theorem decode_3A (w : Word) (h : (bits w 31 25).toNat = 58) : decode w = decode3A w := by unfold decode; rw [h]; rfl
theorem decode_3B (w : Word) (h : (bits w 31 25).toNat = 59) : decode w = decode3B w := by unfold decode; rw [h]; rfl
theorem decode_3C (w : Word) (h : (bits w 31 25).toNat = 60) : decode w = decode3C w := by unfold decode; rw [h]; rfl
theorem decode_3D (w : Word) (h : (bits w 31 25).toNat = 61) : decode w = decode3D w := by unfold decode; rw [h]; rfl
theorem decode_3E (w : Word) (h : (bits w 31 25).toNat = 62) : decode w = decode3E w := by unfold decode; rw [h]; rfl
theorem decode_3F (w : Word) (h : (bits w 31 25).toNat = 63) : decode w = decode3F w := by unfold decode; rw [h]; rfl
theorem decode_40 (w : Word) (h : (bits w 31 25).toNat = 64) : decode w = decode40 w := by unfold decode; rw [h]; rfl
theorem decode_41 (w : Word) (h : (bits w 31 25).toNat = 65) : decode w = decode41 w := by unfold decode; rw [h]; rfl
theorem decode_42 (w : Word) (h : (bits w 31 25).toNat = 66) : decode w = decode42 w := by unfold decode; rw [h]; rfl
theorem decode_43 (w : Word) (h : (bits w 31 25).toNat = 67) : decode w = decode43 w := by unfold decode; rw [h]; rfl
theorem decode_44 (w : Word) (h : (bits w 31 25).toNat = 68) : decode w = decode44 w := by unfold decode; rw [h]; rfl
theorem decode_45 (w : Word) (h : (bits w 31 25).toNat = 69) : decode w = decode45 w := by unfold decode; rw [h]; rfl
theorem decode_46 (w : Word) (h : (bits w 31 25).toNat = 70) : decode w = decode46 w := by unfold decode; rw [h]; rfl
theorem decode_47 (w : Word) (h : (bits w 31 25).toNat = 71) : decode w = decode47 w := by unfold decode; rw [h]; rfl
theorem decode_48 (w : Word) (h : (bits w 31 25).toNat = 72) : decode w = decode48 w := by unfold decode; rw [h]; rfl
theorem decode_49 (w : Word) (h : (bits w 31 25).toNat = 73) : decode w = decode49 w := by unfold decode; rw [h]; rfl
theorem decode_4A (w : Word) (h : (bits w 31 25).toNat = 74) : decode w = decode4A w := by unfold decode; rw [h]; rfl
theorem decode_4B (w : Word) (h : (bits w 31 25).toNat = 75) : decode w = decode4B w := by unfold decode; rw [h]; rfl
theorem decode_4C (w : Word) (h : (bits w 31 25).toNat = 76) : decode w = decode4C w := by unfold decode; rw [h]; rfl
theorem decode_4D (w : Word) (h : (bits w 31 25).toNat = 77) : decode w = decode4D w := by unfold decode; rw [h]; rfl
theorem decode_4E (w : Word) (h : (bits w 31 25).toNat = 78) : decode w = decode4E w := by unfold decode; rw [h]; rfl
theorem decode_4F (w : Word) (h : (bits w 31 25).toNat = 79) : decode w = decode4F w := by unfold decode; rw [h]; rfl
theorem decode_50 (w : Word) (h : (bits w 31 25).toNat = 80) : decode w = decode50 w := by unfold decode; rw [h]; rfl
theorem decode_51 (w : Word) (h : (bits w 31 25).toNat = 81) : decode w = decode51 w := by unfold decode; rw [h]; rfl
theorem decode_52 (w : Word) (h : (bits w 31 25).toNat = 82) : decode w = decode52 w := by unfold decode; rw [h]; rfl
theorem decode_53 (w : Word) (h : (bits w 31 25).toNat = 83) : decode w = decode53 w := by unfold decode; rw [h]; rfl
theorem decode_54 (w : Word) (h : (bits w 31 25).toNat = 84) : decode w = decode54 w := by unfold decode; rw [h]; rfl
theorem decode_55 (w : Word) (h : (bits w 31 25).toNat = 85) : decode w = decode55 w := by unfold decode; rw [h]; rfl
theorem decode_56 (w : Word) (h : (bits w 31 25).toNat = 86) : decode w = decode56 w := by unfold decode; rw [h]; rfl
theorem decode_57 (w : Word) (h : (bits w 31 25).toNat = 87) : decode w = decode57 w := by unfold decode; rw [h]; rfl
theorem decode_58 (w : Word) (h : (bits w 31 25).toNat = 88) : decode w = decode58 w := by unfold decode; rw [h]; rfl
theorem decode_59 (w : Word) (h : (bits w 31 25).toNat = 89) : decode w = decode59 w := by unfold decode; rw [h]; rfl
theorem decode_5A (w : Word) (h : (bits w 31 25).toNat = 90) : decode w = decode5A w := by unfold decode; rw [h]; rfl
theorem decode_5B (w : Word) (h : (bits w 31 25).toNat = 91) : decode w = decode5B w := by unfold decode; rw [h]; rfl
theorem decode_5C (w : Word) (h : (bits w 31 25).toNat = 92) : decode w = decode5C w := by unfold decode; rw [h]; rfl
theorem decode_5D (w : Word) (h : (bits w 31 25).toNat = 93) : decode w = decode5D w := by unfold decode; rw [h]; rfl
theorem decode_5E (w : Word) (h : (bits w 31 25).toNat = 94) : decode w = decode5E w := by unfold decode; rw [h]; rfl
theorem decode_5F (w : Word) (h : (bits w 31 25).toNat = 95) : decode w = decode5F w := by unfold decode; rw [h]; rfl
theorem decode_60 (w : Word) (h : (bits w 31 25).toNat = 96) : decode w = decode60 w := by unfold decode; rw [h]; rfl
theorem decode_61 (w : Word) (h : (bits w 31 25).toNat = 97) : decode w = decode61 w := by unfold decode; rw [h]; rfl
theorem decode_62 (w : Word) (h : (bits w 31 25).toNat = 98) : decode w = decode62 w := by unfold decode; rw [h]; rfl
theorem decode_63 (w : Word) (h : (bits w 31 25).toNat = 99) : decode w = decode63 w := by unfold decode; rw [h]; rfl
theorem decode_64 (w : Word) (h : (bits w 31 25).toNat = 100) : decode w = decode64 w := by unfold decode; rw [h]; rfl
theorem decode_65 (w : Word) (h : (bits w 31 25).toNat = 101) : decode w = decode65 w := by unfold decode; rw [h]; rfl
theorem decode_66 (w : Word) (h : (bits w 31 25).toNat = 102) : decode w = decode66 w := by unfold decode; rw [h]; rfl
theorem decode_67 (w : Word) (h : (bits w 31 25).toNat = 103) : decode w = decode67 w := by unfold decode; rw [h]; rfl
theorem decode_68 (w : Word) (h : (bits w 31 25).toNat = 104) : decode w = decode68 w := by unfold decode; rw [h]; rfl
theorem decode_69 (w : Word) (h : (bits w 31 25).toNat = 105) : decode w = decode69 w := by unfold decode; rw [h]; rfl
theorem decode_6A (w : Word) (h : (bits w 31 25).toNat = 106) : decode w = decode6A w := by unfold decode; rw [h]; rfl
theorem decode_6B (w : Word) (h : (bits w 31 25).toNat = 107) : decode w = decode6B w := by unfold decode; rw [h]; rfl
theorem decode_6C (w : Word) (h : (bits w 31 25).toNat = 108) : decode w = decode6C w := by unfold decode; rw [h]; rfl
theorem decode_6D (w : Word) (h : (bits w 31 25).toNat = 109) : decode w = decode6D w := by unfold decode; rw [h]; rfl
theorem decode_6E (w : Word) (h : (bits w 31 25).toNat = 110) : decode w = decode6E w := by unfold decode; rw [h]; rfl
theorem decode_6F (w : Word) (h : (bits w 31 25).toNat = 111) : decode w = decode6F w := by unfold decode; rw [h]; rfl
theorem decode_70 (w : Word) (h : (bits w 31 25).toNat = 112) : decode w = decode70 w := by unfold decode; rw [h]; rfl
theorem decode_71 (w : Word) (h : (bits w 31 25).toNat = 113) : decode w = decode71 w := by unfold decode; rw [h]; rfl
theorem decode_72 (w : Word) (h : (bits w 31 25).toNat = 114) : decode w = decode72 w := by unfold decode; rw [h]; rfl
theorem decode_73 (w : Word) (h : (bits w 31 25).toNat = 115) : decode w = decode73 w := by unfold decode; rw [h]; rfl
theorem decode_74 (w : Word) (h : (bits w 31 25).toNat = 116) : decode w = decode74 w := by unfold decode; rw [h]; rfl
theorem decode_75 (w : Word) (h : (bits w 31 25).toNat = 117) : decode w = decode75 w := by unfold decode; rw [h]; rfl
theorem decode_76 (w : Word) (h : (bits w 31 25).toNat = 118) : decode w = decode76 w := by unfold decode; rw [h]; rfl
theorem decode_77 (w : Word) (h : (bits w 31 25).toNat = 119) : decode w = decode77 w := by unfold decode; rw [h]; rfl
theorem decode_78 (w : Word) (h : (bits w 31 25).toNat = 120) : decode w = decode78 w := by unfold decode; rw [h]; rfl
theorem decode_79 (w : Word) (h : (bits w 31 25).toNat = 121) : decode w = decode79 w := by unfold decode; rw [h]; rfl
theorem decode_7A (w : Word) (h : (bits w 31 25).toNat = 122) : decode w = decode7A w := by unfold decode; rw [h]; rfl
theorem decode_7B (w : Word) (h : (bits w 31 25).toNat = 123) : decode w = decode7B w := by unfold decode; rw [h]; rfl
theorem decode_7F (w : Word) (h : (bits w 31 25).toNat = 127) : decode w = decode7F w := by unfold decode; rw [h]; rfl

theorem bra m k n o : Statement (.bra m k n o) := by
  rintro _ ⟨⟩
  rw [decode_01 _ (top_is (fixed_is (hi := 31) (lo := 25) (c := 1) 0 1 0 [(0x1, 7)] rfl rfl rfl rfl rfl) rfl),
    decode01,
    field_is (hi := 24) (lo := 22) 1 m rfl rfl rfl,
    field_is (hi := 21) (lo := 18) 2 k rfl rfl rfl,
    flag_is (k := 17) 3 n rfl rfl rfl,
    field_is (hi := 16) (lo := 0) 4 o rfl rfl rfl]

theorem call d i : Statement (.call d i) := by
  rintro _ ⟨⟩
  rw [decode_02 _ (top_is (fixed_is (hi := 31) (lo := 25) (c := 2) 0 1 0 [(0x2, 7)] rfl rfl rfl rfl rfl) rfl),
    decode02,
    field_is (hi := 24) (lo := 20) 1 d rfl rfl rfl,
    field_is (hi := 19) (lo := 0) 2 i rfl rfl rfl]

theorem jmps a : Statement (.jmps a) := by
  rintro _ ⟨⟩
  rw [decode_03 _ (top_is (fixed_is (hi := 31) (lo := 25) (c := 3) 0 1 5 [(0x60, 12)] rfl rfl rfl rfl rfl) rfl),
    decode03,
    if_pos ⟨fixed_is (hi := 24) (lo := 20) (c := 0) 0 1 0 [(0x60, 12)] rfl rfl rfl rfl rfl, fixed_is (hi := 14) (lo := 0) (c := 0) 2 1 0 [(0x0, 15)] rfl rfl rfl rfl rfl⟩,
    field_is (hi := 19) (lo := 15) 1 a rfl rfl rfl]

theorem calls d a : Statement (.calls d a) := by
  rintro _ ⟨⟩
  rw [decode_03 _ (top_is (fixed_is (hi := 31) (lo := 25) (c := 3) 0 1 0 [(0x3, 7)] rfl rfl rfl rfl rfl) rfl),
    decode03,
    if_neg (fun c => fixed_not (hi := 14) (lo := 0) (c := 0) 3 1 0 0 15 [(0x1, 15)] rfl rfl rfl rfl rfl rfl c.2),
    if_pos (fixed_is (hi := 14) (lo := 0) (c := 1) 3 1 0 [(0x1, 15)] rfl rfl rfl rfl rfl),
    field_is (hi := 24) (lo := 20) 1 d rfl rfl rfl,
    field_is (hi := 19) (lo := 15) 2 a rfl rfl rfl]

theorem ret a : Statement (.ret a) := by
  rintro _ ⟨⟩
  rw [decode_03 _ (top_is (fixed_is (hi := 31) (lo := 25) (c := 3) 0 1 5 [(0x60, 12)] rfl rfl rfl rfl rfl) rfl),
    decode03,
    if_neg (fun c => fixed_not (hi := 14) (lo := 0) (c := 0) 2 1 0 0 15 [(0x2, 15)] rfl rfl rfl rfl rfl rfl c.2),
    if_neg (fun c => fixed_not (hi := 14) (lo := 0) (c := 1) 2 1 0 0 15 [(0x2, 15)] rfl rfl rfl rfl rfl rfl c),
    if_pos ⟨fixed_is (hi := 24) (lo := 20) (c := 0) 0 1 0 [(0x60, 12)] rfl rfl rfl rfl rfl, fixed_is (hi := 14) (lo := 0) (c := 2) 2 1 0 [(0x2, 15)] rfl rfl rfl rfl rfl⟩,
    field_is (hi := 19) (lo := 15) 1 a rfl rfl rfl]

theorem exit : Statement (.exit) := by
  rintro _ ⟨⟩
  rw [decode_03 _ (top_is (fixed_is (hi := 31) (lo := 25) (c := 3) 0 1 25 [(0x6000003, 32)] rfl rfl rfl rfl rfl) rfl),
    decode03,
    if_neg (fun c => fixed_not (hi := 14) (lo := 0) (c := 0) 0 1 0 0 15 [(0x6000003, 32)] rfl rfl rfl rfl rfl rfl c.2),
    if_neg (fun c => fixed_not (hi := 14) (lo := 0) (c := 1) 0 1 0 0 15 [(0x6000003, 32)] rfl rfl rfl rfl rfl rfl c),
    if_neg (fun c => fixed_not (hi := 14) (lo := 0) (c := 2) 0 1 0 0 15 [(0x6000003, 32)] rfl rfl rfl rfl rfl rfl c.2),
    if_pos (fixed_is (hi := 24) (lo := 0) (c := 3) 0 1 0 [(0x6000003, 32)] rfl rfl rfl rfl rfl)]

theorem rejoin : Statement (.rejoin) := by
  rintro _ ⟨⟩
  rw [decode_03 _ (top_is (fixed_is (hi := 31) (lo := 25) (c := 3) 0 1 25 [(0x6000004, 32)] rfl rfl rfl rfl rfl) rfl),
    decode03,
    if_neg (fun c => fixed_not (hi := 14) (lo := 0) (c := 0) 0 1 0 0 15 [(0x6000004, 32)] rfl rfl rfl rfl rfl rfl c.2),
    if_neg (fun c => fixed_not (hi := 14) (lo := 0) (c := 1) 0 1 0 0 15 [(0x6000004, 32)] rfl rfl rfl rfl rfl rfl c),
    if_neg (fun c => fixed_not (hi := 14) (lo := 0) (c := 2) 0 1 0 0 15 [(0x6000004, 32)] rfl rfl rfl rfl rfl rfl c.2),
    if_neg (fun c => fixed_not (hi := 24) (lo := 0) (c := 3) 0 1 0 0 25 [(0x6000004, 32)] rfl rfl rfl rfl rfl rfl c),
    if_pos (fixed_is (hi := 24) (lo := 0) (c := 4) 0 1 0 [(0x6000004, 32)] rfl rfl rfl rfl rfl)]

theorem isync : Statement (.isync) := by
  rintro _ ⟨⟩
  rw [decode_03 _ (top_is (fixed_is (hi := 31) (lo := 25) (c := 3) 0 1 25 [(0x6000005, 32)] rfl rfl rfl rfl rfl) rfl),
    decode03,
    if_neg (fun c => fixed_not (hi := 14) (lo := 0) (c := 0) 0 1 0 0 15 [(0x6000005, 32)] rfl rfl rfl rfl rfl rfl c.2),
    if_neg (fun c => fixed_not (hi := 14) (lo := 0) (c := 1) 0 1 0 0 15 [(0x6000005, 32)] rfl rfl rfl rfl rfl rfl c),
    if_neg (fun c => fixed_not (hi := 14) (lo := 0) (c := 2) 0 1 0 0 15 [(0x6000005, 32)] rfl rfl rfl rfl rfl rfl c.2),
    if_neg (fun c => fixed_not (hi := 24) (lo := 0) (c := 3) 0 1 0 0 25 [(0x6000005, 32)] rfl rfl rfl rfl rfl rfl c),
    if_neg (fun c => fixed_not (hi := 24) (lo := 0) (c := 4) 0 1 0 0 25 [(0x6000005, 32)] rfl rfl rfl rfl rfl rfl c),
    if_pos (fixed_is (hi := 24) (lo := 0) (c := 5) 0 1 0 [(0x6000005, 32)] rfl rfl rfl rfl rfl)]

theorem nap a : Statement (.nap a) := by
  rintro _ ⟨⟩
  rw [decode_03 _ (top_is (fixed_is (hi := 31) (lo := 25) (c := 3) 0 1 5 [(0x60, 12)] rfl rfl rfl rfl rfl) rfl),
    decode03,
    if_neg (fun c => fixed_not (hi := 14) (lo := 0) (c := 0) 2 1 0 0 15 [(0x6, 15)] rfl rfl rfl rfl rfl rfl c.2),
    if_neg (fun c => fixed_not (hi := 14) (lo := 0) (c := 1) 2 1 0 0 15 [(0x6, 15)] rfl rfl rfl rfl rfl rfl c),
    if_neg (fun c => fixed_not (hi := 14) (lo := 0) (c := 2) 2 1 0 0 15 [(0x6, 15)] rfl rfl rfl rfl rfl rfl c.2),
    if_neg (fun c => fixed_not (hi := 24) (lo := 0) (c := 3) 2 1 0 0 15 [(0x6, 15)] rfl rfl rfl rfl rfl rfl c),
    if_neg (fun c => fixed_not (hi := 24) (lo := 0) (c := 4) 2 1 0 0 15 [(0x6, 15)] rfl rfl rfl rfl rfl rfl c),
    if_neg (fun c => fixed_not (hi := 24) (lo := 0) (c := 5) 2 1 0 0 15 [(0x6, 15)] rfl rfl rfl rfl rfl rfl c),
    if_pos ⟨fixed_is (hi := 24) (lo := 20) (c := 0) 0 1 0 [(0x60, 12)] rfl rfl rfl rfl rfl, fixed_is (hi := 14) (lo := 0) (c := 6) 2 1 0 [(0x6, 15)] rfl rfl rfl rfl rfl⟩,
    field_is (hi := 19) (lo := 15) 1 a rfl rfl rfl]

theorem bar : Statement (.bar) := by
  rintro _ ⟨⟩
  rw [decode_04 _ (top_is (fixed_is (hi := 31) (lo := 25) (c := 4) 0 1 25 [(0x8000000, 32)] rfl rfl rfl rfl rfl) rfl),
    decode04,
    if_pos (fixed_is (hi := 24) (lo := 0) (c := 0) 0 1 0 [(0x8000000, 32)] rfl rfl rfl rfl rfl)]

theorem cbar a : Statement (.cbar a) := by
  rintro _ ⟨⟩
  rw [decode_04 _ (top_is (fixed_is (hi := 31) (lo := 25) (c := 4) 0 1 5 [(0x80, 12)] rfl rfl rfl rfl rfl) rfl),
    decode04,
    if_neg (fun c => fixed_not (hi := 24) (lo := 0) (c := 0) 2 1 0 0 15 [(0x1, 15)] rfl rfl rfl rfl rfl rfl c),
    if_pos ⟨fixed_is (hi := 24) (lo := 20) (c := 0) 0 1 0 [(0x80, 12)] rfl rfl rfl rfl rfl, fixed_is (hi := 14) (lo := 0) (c := 1) 2 1 0 [(0x1, 15)] rfl rfl rfl rfl rfl⟩,
    field_is (hi := 19) (lo := 15) 1 a rfl rfl rfl]

theorem post d m gd : Statement (.post d m gd) := by
  rintro _ ⟨⟩
  rw [decode_05 _ (top_is (fixed_is (hi := 31) (lo := 25) (c := 5) 0 1 0 [(0x5, 7)] rfl rfl rfl rfl rfl) rfl),
    decode05,
    if_pos (fixed_is (hi := 18) (lo := 6) (c := 0) 2 1 0 [(0x0, 13)] rfl rfl rfl rfl rfl),
    field_is (hi := 24) (lo := 19) 1 d rfl rfl rfl,
    flag_is (k := 5) 3 m rfl rfl rfl,
    guard_is (flag_is 4 gd.n rfl rfl rfl) (field_is (hi := 3) (lo := 0) 5 gd.g rfl rfl rfl)]

theorem sadd d a b i : Statement (.sadd d a b i) := by
  rintro _ ⟨⟩
  rw [decode_08 _ (top_is (fixed_is (hi := 31) (lo := 25) (c := 8) 0 1 0 [(0x8, 7)] rfl rfl rfl rfl rfl) rfl),
    decode08,
    if_pos ⟨fixed_is (hi := 9) (lo := 9) (c := 0) 4 1 0 [(0x0, 1)] rfl rfl rfl rfl rfl, fixed_is (hi := 7) (lo := 0) (c := 0) 6 1 0 [(0x0, 8)] rfl rfl rfl rfl rfl⟩,
    field_is (hi := 24) (lo := 20) 1 d rfl rfl rfl,
    field_is (hi := 19) (lo := 15) 2 a rfl rfl rfl,
    field_is (hi := 14) (lo := 10) 3 b rfl rfl rfl,
    flag_is (k := 8) 5 i rfl rfl rfl]

theorem ssub d a b i : Statement (.ssub d a b i) := by
  rintro _ ⟨⟩
  rw [decode_08 _ (top_is (fixed_is (hi := 31) (lo := 25) (c := 8) 0 1 0 [(0x8, 7)] rfl rfl rfl rfl rfl) rfl),
    decode08,
    if_neg (fun c => fixed_not (hi := 7) (lo := 0) (c := 0) 6 1 0 0 8 [(0x1, 8)] rfl rfl rfl rfl rfl rfl c.2),
    if_pos ⟨fixed_is (hi := 9) (lo := 9) (c := 0) 4 1 0 [(0x0, 1)] rfl rfl rfl rfl rfl, fixed_is (hi := 7) (lo := 0) (c := 1) 6 1 0 [(0x1, 8)] rfl rfl rfl rfl rfl⟩,
    field_is (hi := 24) (lo := 20) 1 d rfl rfl rfl,
    field_is (hi := 19) (lo := 15) 2 a rfl rfl rfl,
    field_is (hi := 14) (lo := 10) 3 b rfl rfl rfl,
    flag_is (k := 8) 5 i rfl rfl rfl]

theorem smul d a b i : Statement (.smul d a b i) := by
  rintro _ ⟨⟩
  rw [decode_08 _ (top_is (fixed_is (hi := 31) (lo := 25) (c := 8) 0 1 0 [(0x8, 7)] rfl rfl rfl rfl rfl) rfl),
    decode08,
    if_neg (fun c => fixed_not (hi := 7) (lo := 0) (c := 0) 6 1 0 0 8 [(0x2, 8)] rfl rfl rfl rfl rfl rfl c.2),
    if_neg (fun c => fixed_not (hi := 7) (lo := 0) (c := 1) 6 1 0 0 8 [(0x2, 8)] rfl rfl rfl rfl rfl rfl c.2),
    if_pos ⟨fixed_is (hi := 9) (lo := 9) (c := 0) 4 1 0 [(0x0, 1)] rfl rfl rfl rfl rfl, fixed_is (hi := 7) (lo := 0) (c := 2) 6 1 0 [(0x2, 8)] rfl rfl rfl rfl rfl⟩,
    field_is (hi := 24) (lo := 20) 1 d rfl rfl rfl,
    field_is (hi := 19) (lo := 15) 2 a rfl rfl rfl,
    field_is (hi := 14) (lo := 10) 3 b rfl rfl rfl,
    flag_is (k := 8) 5 i rfl rfl rfl]

theorem smulh d a b i u : Statement (.smulh d a b i u) := by
  rintro _ ⟨⟩
  rw [decode_08 _ (top_is (fixed_is (hi := 31) (lo := 25) (c := 8) 0 1 0 [(0x8, 7)] rfl rfl rfl rfl rfl) rfl),
    decode08,
    if_neg (fun c => fixed_not (hi := 7) (lo := 0) (c := 0) 7 1 0 0 7 [(0x3, 7)] rfl rfl rfl rfl rfl rfl c.2),
    if_neg (fun c => fixed_not (hi := 7) (lo := 0) (c := 1) 7 1 0 0 7 [(0x3, 7)] rfl rfl rfl rfl rfl rfl c.2),
    if_neg (fun c => fixed_not (hi := 7) (lo := 0) (c := 2) 7 1 0 0 7 [(0x3, 7)] rfl rfl rfl rfl rfl rfl c.2),
    if_pos ⟨fixed_is (hi := 9) (lo := 9) (c := 0) 4 1 0 [(0x0, 1)] rfl rfl rfl rfl rfl, fixed_is (hi := 6) (lo := 0) (c := 3) 7 1 0 [(0x3, 7)] rfl rfl rfl rfl rfl⟩,
    field_is (hi := 24) (lo := 20) 1 d rfl rfl rfl,
    field_is (hi := 19) (lo := 15) 2 a rfl rfl rfl,
    field_is (hi := 14) (lo := 10) 3 b rfl rfl rfl,
    flag_is (k := 8) 5 i rfl rfl rfl,
    flag_is (k := 7) 6 u rfl rfl rfl]

theorem sand d a b i : Statement (.sand d a b i) := by
  rintro _ ⟨⟩
  rw [decode_08 _ (top_is (fixed_is (hi := 31) (lo := 25) (c := 8) 0 1 0 [(0x8, 7)] rfl rfl rfl rfl rfl) rfl),
    decode08,
    if_neg (fun c => fixed_not (hi := 7) (lo := 0) (c := 0) 6 1 0 0 8 [(0x4, 8)] rfl rfl rfl rfl rfl rfl c.2),
    if_neg (fun c => fixed_not (hi := 7) (lo := 0) (c := 1) 6 1 0 0 8 [(0x4, 8)] rfl rfl rfl rfl rfl rfl c.2),
    if_neg (fun c => fixed_not (hi := 7) (lo := 0) (c := 2) 6 1 0 0 8 [(0x4, 8)] rfl rfl rfl rfl rfl rfl c.2),
    if_neg (fun c => fixed_not (hi := 6) (lo := 0) (c := 3) 6 1 0 0 7 [(0x4, 8)] rfl rfl rfl rfl rfl rfl c.2),
    if_pos ⟨fixed_is (hi := 9) (lo := 9) (c := 0) 4 1 0 [(0x0, 1)] rfl rfl rfl rfl rfl, fixed_is (hi := 7) (lo := 0) (c := 4) 6 1 0 [(0x4, 8)] rfl rfl rfl rfl rfl⟩,
    field_is (hi := 24) (lo := 20) 1 d rfl rfl rfl,
    field_is (hi := 19) (lo := 15) 2 a rfl rfl rfl,
    field_is (hi := 14) (lo := 10) 3 b rfl rfl rfl,
    flag_is (k := 8) 5 i rfl rfl rfl]

theorem sor d a b i : Statement (.sor d a b i) := by
  rintro _ ⟨⟩
  rw [decode_08 _ (top_is (fixed_is (hi := 31) (lo := 25) (c := 8) 0 1 0 [(0x8, 7)] rfl rfl rfl rfl rfl) rfl),
    decode08,
    if_neg (fun c => fixed_not (hi := 7) (lo := 0) (c := 0) 6 1 0 0 8 [(0x5, 8)] rfl rfl rfl rfl rfl rfl c.2),
    if_neg (fun c => fixed_not (hi := 7) (lo := 0) (c := 1) 6 1 0 0 8 [(0x5, 8)] rfl rfl rfl rfl rfl rfl c.2),
    if_neg (fun c => fixed_not (hi := 7) (lo := 0) (c := 2) 6 1 0 0 8 [(0x5, 8)] rfl rfl rfl rfl rfl rfl c.2),
    if_neg (fun c => fixed_not (hi := 6) (lo := 0) (c := 3) 6 1 0 0 7 [(0x5, 8)] rfl rfl rfl rfl rfl rfl c.2),
    if_neg (fun c => fixed_not (hi := 7) (lo := 0) (c := 4) 6 1 0 0 8 [(0x5, 8)] rfl rfl rfl rfl rfl rfl c.2),
    if_pos ⟨fixed_is (hi := 9) (lo := 9) (c := 0) 4 1 0 [(0x0, 1)] rfl rfl rfl rfl rfl, fixed_is (hi := 7) (lo := 0) (c := 5) 6 1 0 [(0x5, 8)] rfl rfl rfl rfl rfl⟩,
    field_is (hi := 24) (lo := 20) 1 d rfl rfl rfl,
    field_is (hi := 19) (lo := 15) 2 a rfl rfl rfl,
    field_is (hi := 14) (lo := 10) 3 b rfl rfl rfl,
    flag_is (k := 8) 5 i rfl rfl rfl]

theorem sxor d a b i : Statement (.sxor d a b i) := by
  rintro _ ⟨⟩
  rw [decode_08 _ (top_is (fixed_is (hi := 31) (lo := 25) (c := 8) 0 1 0 [(0x8, 7)] rfl rfl rfl rfl rfl) rfl),
    decode08,
    if_neg (fun c => fixed_not (hi := 7) (lo := 0) (c := 0) 6 1 0 0 8 [(0x6, 8)] rfl rfl rfl rfl rfl rfl c.2),
    if_neg (fun c => fixed_not (hi := 7) (lo := 0) (c := 1) 6 1 0 0 8 [(0x6, 8)] rfl rfl rfl rfl rfl rfl c.2),
    if_neg (fun c => fixed_not (hi := 7) (lo := 0) (c := 2) 6 1 0 0 8 [(0x6, 8)] rfl rfl rfl rfl rfl rfl c.2),
    if_neg (fun c => fixed_not (hi := 6) (lo := 0) (c := 3) 6 1 0 0 7 [(0x6, 8)] rfl rfl rfl rfl rfl rfl c.2),
    if_neg (fun c => fixed_not (hi := 7) (lo := 0) (c := 4) 6 1 0 0 8 [(0x6, 8)] rfl rfl rfl rfl rfl rfl c.2),
    if_neg (fun c => fixed_not (hi := 7) (lo := 0) (c := 5) 6 1 0 0 8 [(0x6, 8)] rfl rfl rfl rfl rfl rfl c.2),
    if_pos ⟨fixed_is (hi := 9) (lo := 9) (c := 0) 4 1 0 [(0x0, 1)] rfl rfl rfl rfl rfl, fixed_is (hi := 7) (lo := 0) (c := 6) 6 1 0 [(0x6, 8)] rfl rfl rfl rfl rfl⟩,
    field_is (hi := 24) (lo := 20) 1 d rfl rfl rfl,
    field_is (hi := 19) (lo := 15) 2 a rfl rfl rfl,
    field_is (hi := 14) (lo := 10) 3 b rfl rfl rfl,
    flag_is (k := 8) 5 i rfl rfl rfl]

theorem sshl d a b i : Statement (.sshl d a b i) := by
  rintro _ ⟨⟩
  rw [decode_08 _ (top_is (fixed_is (hi := 31) (lo := 25) (c := 8) 0 1 0 [(0x8, 7)] rfl rfl rfl rfl rfl) rfl),
    decode08,
    if_neg (fun c => fixed_not (hi := 7) (lo := 0) (c := 0) 6 1 0 0 8 [(0x7, 8)] rfl rfl rfl rfl rfl rfl c.2),
    if_neg (fun c => fixed_not (hi := 7) (lo := 0) (c := 1) 6 1 0 0 8 [(0x7, 8)] rfl rfl rfl rfl rfl rfl c.2),
    if_neg (fun c => fixed_not (hi := 7) (lo := 0) (c := 2) 6 1 0 0 8 [(0x7, 8)] rfl rfl rfl rfl rfl rfl c.2),
    if_neg (fun c => fixed_not (hi := 6) (lo := 0) (c := 3) 6 1 0 0 7 [(0x7, 8)] rfl rfl rfl rfl rfl rfl c.2),
    if_neg (fun c => fixed_not (hi := 7) (lo := 0) (c := 4) 6 1 0 0 8 [(0x7, 8)] rfl rfl rfl rfl rfl rfl c.2),
    if_neg (fun c => fixed_not (hi := 7) (lo := 0) (c := 5) 6 1 0 0 8 [(0x7, 8)] rfl rfl rfl rfl rfl rfl c.2),
    if_neg (fun c => fixed_not (hi := 7) (lo := 0) (c := 6) 6 1 0 0 8 [(0x7, 8)] rfl rfl rfl rfl rfl rfl c.2),
    if_pos ⟨fixed_is (hi := 9) (lo := 9) (c := 0) 4 1 0 [(0x0, 1)] rfl rfl rfl rfl rfl, fixed_is (hi := 7) (lo := 0) (c := 7) 6 1 0 [(0x7, 8)] rfl rfl rfl rfl rfl⟩,
    field_is (hi := 24) (lo := 20) 1 d rfl rfl rfl,
    field_is (hi := 19) (lo := 15) 2 a rfl rfl rfl,
    field_is (hi := 14) (lo := 10) 3 b rfl rfl rfl,
    flag_is (k := 8) 5 i rfl rfl rfl]

theorem sshr d a b i : Statement (.sshr d a b i) := by
  rintro _ ⟨⟩
  rw [decode_08 _ (top_is (fixed_is (hi := 31) (lo := 25) (c := 8) 0 1 0 [(0x8, 7)] rfl rfl rfl rfl rfl) rfl),
    decode08,
    if_neg (fun c => fixed_not (hi := 7) (lo := 0) (c := 0) 6 1 0 0 8 [(0x8, 8)] rfl rfl rfl rfl rfl rfl c.2),
    if_neg (fun c => fixed_not (hi := 7) (lo := 0) (c := 1) 6 1 0 0 8 [(0x8, 8)] rfl rfl rfl rfl rfl rfl c.2),
    if_neg (fun c => fixed_not (hi := 7) (lo := 0) (c := 2) 6 1 0 0 8 [(0x8, 8)] rfl rfl rfl rfl rfl rfl c.2),
    if_neg (fun c => fixed_not (hi := 6) (lo := 0) (c := 3) 6 1 0 0 7 [(0x8, 8)] rfl rfl rfl rfl rfl rfl c.2),
    if_neg (fun c => fixed_not (hi := 7) (lo := 0) (c := 4) 6 1 0 0 8 [(0x8, 8)] rfl rfl rfl rfl rfl rfl c.2),
    if_neg (fun c => fixed_not (hi := 7) (lo := 0) (c := 5) 6 1 0 0 8 [(0x8, 8)] rfl rfl rfl rfl rfl rfl c.2),
    if_neg (fun c => fixed_not (hi := 7) (lo := 0) (c := 6) 6 1 0 0 8 [(0x8, 8)] rfl rfl rfl rfl rfl rfl c.2),
    if_neg (fun c => fixed_not (hi := 7) (lo := 0) (c := 7) 6 1 0 0 8 [(0x8, 8)] rfl rfl rfl rfl rfl rfl c.2),
    if_pos ⟨fixed_is (hi := 9) (lo := 9) (c := 0) 4 1 0 [(0x0, 1)] rfl rfl rfl rfl rfl, fixed_is (hi := 7) (lo := 0) (c := 8) 6 1 0 [(0x8, 8)] rfl rfl rfl rfl rfl⟩,
    field_is (hi := 24) (lo := 20) 1 d rfl rfl rfl,
    field_is (hi := 19) (lo := 15) 2 a rfl rfl rfl,
    field_is (hi := 14) (lo := 10) 3 b rfl rfl rfl,
    flag_is (k := 8) 5 i rfl rfl rfl]

theorem ssar d a b i : Statement (.ssar d a b i) := by
  rintro _ ⟨⟩
  rw [decode_08 _ (top_is (fixed_is (hi := 31) (lo := 25) (c := 8) 0 1 0 [(0x8, 7)] rfl rfl rfl rfl rfl) rfl),
    decode08,
    if_neg (fun c => fixed_not (hi := 7) (lo := 0) (c := 0) 6 1 0 0 8 [(0x9, 8)] rfl rfl rfl rfl rfl rfl c.2),
    if_neg (fun c => fixed_not (hi := 7) (lo := 0) (c := 1) 6 1 0 0 8 [(0x9, 8)] rfl rfl rfl rfl rfl rfl c.2),
    if_neg (fun c => fixed_not (hi := 7) (lo := 0) (c := 2) 6 1 0 0 8 [(0x9, 8)] rfl rfl rfl rfl rfl rfl c.2),
    if_neg (fun c => fixed_not (hi := 6) (lo := 0) (c := 3) 6 1 0 0 7 [(0x9, 8)] rfl rfl rfl rfl rfl rfl c.2),
    if_neg (fun c => fixed_not (hi := 7) (lo := 0) (c := 4) 6 1 0 0 8 [(0x9, 8)] rfl rfl rfl rfl rfl rfl c.2),
    if_neg (fun c => fixed_not (hi := 7) (lo := 0) (c := 5) 6 1 0 0 8 [(0x9, 8)] rfl rfl rfl rfl rfl rfl c.2),
    if_neg (fun c => fixed_not (hi := 7) (lo := 0) (c := 6) 6 1 0 0 8 [(0x9, 8)] rfl rfl rfl rfl rfl rfl c.2),
    if_neg (fun c => fixed_not (hi := 7) (lo := 0) (c := 7) 6 1 0 0 8 [(0x9, 8)] rfl rfl rfl rfl rfl rfl c.2),
    if_neg (fun c => fixed_not (hi := 7) (lo := 0) (c := 8) 6 1 0 0 8 [(0x9, 8)] rfl rfl rfl rfl rfl rfl c.2),
    if_pos ⟨fixed_is (hi := 9) (lo := 9) (c := 0) 4 1 0 [(0x0, 1)] rfl rfl rfl rfl rfl, fixed_is (hi := 7) (lo := 0) (c := 9) 6 1 0 [(0x9, 8)] rfl rfl rfl rfl rfl⟩,
    field_is (hi := 24) (lo := 20) 1 d rfl rfl rfl,
    field_is (hi := 19) (lo := 15) 2 a rfl rfl rfl,
    field_is (hi := 14) (lo := 10) 3 b rfl rfl rfl,
    flag_is (k := 8) 5 i rfl rfl rfl]

theorem smin d a b i u : Statement (.smin d a b i u) := by
  rintro _ ⟨⟩
  rw [decode_08 _ (top_is (fixed_is (hi := 31) (lo := 25) (c := 8) 0 1 0 [(0x8, 7)] rfl rfl rfl rfl rfl) rfl),
    decode08,
    if_neg (fun c => fixed_not (hi := 7) (lo := 0) (c := 0) 7 1 0 0 7 [(0xA, 7)] rfl rfl rfl rfl rfl rfl c.2),
    if_neg (fun c => fixed_not (hi := 7) (lo := 0) (c := 1) 7 1 0 0 7 [(0xA, 7)] rfl rfl rfl rfl rfl rfl c.2),
    if_neg (fun c => fixed_not (hi := 7) (lo := 0) (c := 2) 7 1 0 0 7 [(0xA, 7)] rfl rfl rfl rfl rfl rfl c.2),
    if_neg (fun c => fixed_not (hi := 6) (lo := 0) (c := 3) 7 1 0 0 7 [(0xA, 7)] rfl rfl rfl rfl rfl rfl c.2),
    if_neg (fun c => fixed_not (hi := 7) (lo := 0) (c := 4) 7 1 0 0 7 [(0xA, 7)] rfl rfl rfl rfl rfl rfl c.2),
    if_neg (fun c => fixed_not (hi := 7) (lo := 0) (c := 5) 7 1 0 0 7 [(0xA, 7)] rfl rfl rfl rfl rfl rfl c.2),
    if_neg (fun c => fixed_not (hi := 7) (lo := 0) (c := 6) 7 1 0 0 7 [(0xA, 7)] rfl rfl rfl rfl rfl rfl c.2),
    if_neg (fun c => fixed_not (hi := 7) (lo := 0) (c := 7) 7 1 0 0 7 [(0xA, 7)] rfl rfl rfl rfl rfl rfl c.2),
    if_neg (fun c => fixed_not (hi := 7) (lo := 0) (c := 8) 7 1 0 0 7 [(0xA, 7)] rfl rfl rfl rfl rfl rfl c.2),
    if_neg (fun c => fixed_not (hi := 7) (lo := 0) (c := 9) 7 1 0 0 7 [(0xA, 7)] rfl rfl rfl rfl rfl rfl c.2),
    if_pos ⟨fixed_is (hi := 9) (lo := 9) (c := 0) 4 1 0 [(0x0, 1)] rfl rfl rfl rfl rfl, fixed_is (hi := 6) (lo := 0) (c := 10) 7 1 0 [(0xA, 7)] rfl rfl rfl rfl rfl⟩,
    field_is (hi := 24) (lo := 20) 1 d rfl rfl rfl,
    field_is (hi := 19) (lo := 15) 2 a rfl rfl rfl,
    field_is (hi := 14) (lo := 10) 3 b rfl rfl rfl,
    flag_is (k := 8) 5 i rfl rfl rfl,
    flag_is (k := 7) 6 u rfl rfl rfl]

theorem smax d a b i u : Statement (.smax d a b i u) := by
  rintro _ ⟨⟩
  rw [decode_08 _ (top_is (fixed_is (hi := 31) (lo := 25) (c := 8) 0 1 0 [(0x8, 7)] rfl rfl rfl rfl rfl) rfl),
    decode08,
    if_neg (fun c => fixed_not (hi := 7) (lo := 0) (c := 0) 7 1 0 0 7 [(0xB, 7)] rfl rfl rfl rfl rfl rfl c.2),
    if_neg (fun c => fixed_not (hi := 7) (lo := 0) (c := 1) 7 1 0 0 7 [(0xB, 7)] rfl rfl rfl rfl rfl rfl c.2),
    if_neg (fun c => fixed_not (hi := 7) (lo := 0) (c := 2) 7 1 0 0 7 [(0xB, 7)] rfl rfl rfl rfl rfl rfl c.2),
    if_neg (fun c => fixed_not (hi := 6) (lo := 0) (c := 3) 7 1 0 0 7 [(0xB, 7)] rfl rfl rfl rfl rfl rfl c.2),
    if_neg (fun c => fixed_not (hi := 7) (lo := 0) (c := 4) 7 1 0 0 7 [(0xB, 7)] rfl rfl rfl rfl rfl rfl c.2),
    if_neg (fun c => fixed_not (hi := 7) (lo := 0) (c := 5) 7 1 0 0 7 [(0xB, 7)] rfl rfl rfl rfl rfl rfl c.2),
    if_neg (fun c => fixed_not (hi := 7) (lo := 0) (c := 6) 7 1 0 0 7 [(0xB, 7)] rfl rfl rfl rfl rfl rfl c.2),
    if_neg (fun c => fixed_not (hi := 7) (lo := 0) (c := 7) 7 1 0 0 7 [(0xB, 7)] rfl rfl rfl rfl rfl rfl c.2),
    if_neg (fun c => fixed_not (hi := 7) (lo := 0) (c := 8) 7 1 0 0 7 [(0xB, 7)] rfl rfl rfl rfl rfl rfl c.2),
    if_neg (fun c => fixed_not (hi := 7) (lo := 0) (c := 9) 7 1 0 0 7 [(0xB, 7)] rfl rfl rfl rfl rfl rfl c.2),
    if_neg (fun c => fixed_not (hi := 6) (lo := 0) (c := 10) 7 1 0 0 7 [(0xB, 7)] rfl rfl rfl rfl rfl rfl c.2),
    if_pos ⟨fixed_is (hi := 9) (lo := 9) (c := 0) 4 1 0 [(0x0, 1)] rfl rfl rfl rfl rfl, fixed_is (hi := 6) (lo := 0) (c := 11) 7 1 0 [(0xB, 7)] rfl rfl rfl rfl rfl⟩,
    field_is (hi := 24) (lo := 20) 1 d rfl rfl rfl,
    field_is (hi := 19) (lo := 15) 2 a rfl rfl rfl,
    field_is (hi := 14) (lo := 10) 3 b rfl rfl rfl,
    flag_is (k := 8) 5 i rfl rfl rfl,
    flag_is (k := 7) 6 u rfl rfl rfl]

theorem scmp d a b i c : Statement (.scmp d a b i c) := by
  rintro _ ⟨⟩
  rw [decode_08 _ (top_is (fixed_is (hi := 31) (lo := 25) (c := 8) 0 1 0 [(0x8, 7)] rfl rfl rfl rfl rfl) rfl),
    decode08,
    if_neg (fun c => fixed_not (hi := 7) (lo := 0) (c := 0) 7 1 0 0 4 [(0xC, 4)] rfl rfl rfl rfl rfl rfl c.2),
    if_neg (fun c => fixed_not (hi := 7) (lo := 0) (c := 1) 7 1 0 0 4 [(0xC, 4)] rfl rfl rfl rfl rfl rfl c.2),
    if_neg (fun c => fixed_not (hi := 7) (lo := 0) (c := 2) 7 1 0 0 4 [(0xC, 4)] rfl rfl rfl rfl rfl rfl c.2),
    if_neg (fun c => fixed_not (hi := 6) (lo := 0) (c := 3) 7 1 0 0 4 [(0xC, 4)] rfl rfl rfl rfl rfl rfl c.2),
    if_neg (fun c => fixed_not (hi := 7) (lo := 0) (c := 4) 7 1 0 0 4 [(0xC, 4)] rfl rfl rfl rfl rfl rfl c.2),
    if_neg (fun c => fixed_not (hi := 7) (lo := 0) (c := 5) 7 1 0 0 4 [(0xC, 4)] rfl rfl rfl rfl rfl rfl c.2),
    if_neg (fun c => fixed_not (hi := 7) (lo := 0) (c := 6) 7 1 0 0 4 [(0xC, 4)] rfl rfl rfl rfl rfl rfl c.2),
    if_neg (fun c => fixed_not (hi := 7) (lo := 0) (c := 7) 7 1 0 0 4 [(0xC, 4)] rfl rfl rfl rfl rfl rfl c.2),
    if_neg (fun c => fixed_not (hi := 7) (lo := 0) (c := 8) 7 1 0 0 4 [(0xC, 4)] rfl rfl rfl rfl rfl rfl c.2),
    if_neg (fun c => fixed_not (hi := 7) (lo := 0) (c := 9) 7 1 0 0 4 [(0xC, 4)] rfl rfl rfl rfl rfl rfl c.2),
    if_neg (fun c => fixed_not (hi := 6) (lo := 0) (c := 10) 7 1 0 0 4 [(0xC, 4)] rfl rfl rfl rfl rfl rfl c.2),
    if_neg (fun c => fixed_not (hi := 6) (lo := 0) (c := 11) 7 1 0 0 4 [(0xC, 4)] rfl rfl rfl rfl rfl rfl c.2),
    if_pos ⟨fixed_is (hi := 9) (lo := 9) (c := 0) 4 1 0 [(0x0, 1)] rfl rfl rfl rfl rfl, fixed_is (hi := 3) (lo := 0) (c := 12) 7 1 0 [(0xC, 4)] rfl rfl rfl rfl rfl⟩,
    field_is (hi := 24) (lo := 20) 1 d rfl rfl rfl,
    field_is (hi := 19) (lo := 15) 2 a rfl rfl rfl,
    field_is (hi := 14) (lo := 10) 3 b rfl rfl rfl,
    flag_is (k := 8) 5 i rfl rfl rfl,
    field_is (hi := 7) (lo := 4) 6 c rfl rfl rfl]

theorem ssel d a b i : Statement (.ssel d a b i) := by
  rintro _ ⟨⟩
  rw [decode_08 _ (top_is (fixed_is (hi := 31) (lo := 25) (c := 8) 0 1 0 [(0x8, 7)] rfl rfl rfl rfl rfl) rfl),
    decode08,
    if_neg (fun c => fixed_not (hi := 7) (lo := 0) (c := 0) 6 1 0 0 8 [(0xD, 8)] rfl rfl rfl rfl rfl rfl c.2),
    if_neg (fun c => fixed_not (hi := 7) (lo := 0) (c := 1) 6 1 0 0 8 [(0xD, 8)] rfl rfl rfl rfl rfl rfl c.2),
    if_neg (fun c => fixed_not (hi := 7) (lo := 0) (c := 2) 6 1 0 0 8 [(0xD, 8)] rfl rfl rfl rfl rfl rfl c.2),
    if_neg (fun c => fixed_not (hi := 6) (lo := 0) (c := 3) 6 1 0 0 7 [(0xD, 8)] rfl rfl rfl rfl rfl rfl c.2),
    if_neg (fun c => fixed_not (hi := 7) (lo := 0) (c := 4) 6 1 0 0 8 [(0xD, 8)] rfl rfl rfl rfl rfl rfl c.2),
    if_neg (fun c => fixed_not (hi := 7) (lo := 0) (c := 5) 6 1 0 0 8 [(0xD, 8)] rfl rfl rfl rfl rfl rfl c.2),
    if_neg (fun c => fixed_not (hi := 7) (lo := 0) (c := 6) 6 1 0 0 8 [(0xD, 8)] rfl rfl rfl rfl rfl rfl c.2),
    if_neg (fun c => fixed_not (hi := 7) (lo := 0) (c := 7) 6 1 0 0 8 [(0xD, 8)] rfl rfl rfl rfl rfl rfl c.2),
    if_neg (fun c => fixed_not (hi := 7) (lo := 0) (c := 8) 6 1 0 0 8 [(0xD, 8)] rfl rfl rfl rfl rfl rfl c.2),
    if_neg (fun c => fixed_not (hi := 7) (lo := 0) (c := 9) 6 1 0 0 8 [(0xD, 8)] rfl rfl rfl rfl rfl rfl c.2),
    if_neg (fun c => fixed_not (hi := 6) (lo := 0) (c := 10) 6 1 0 0 7 [(0xD, 8)] rfl rfl rfl rfl rfl rfl c.2),
    if_neg (fun c => fixed_not (hi := 6) (lo := 0) (c := 11) 6 1 0 0 7 [(0xD, 8)] rfl rfl rfl rfl rfl rfl c.2),
    if_neg (fun c => fixed_not (hi := 3) (lo := 0) (c := 12) 6 1 0 0 4 [(0xD, 8)] rfl rfl rfl rfl rfl rfl c.2),
    if_pos ⟨fixed_is (hi := 9) (lo := 9) (c := 0) 4 1 0 [(0x0, 1)] rfl rfl rfl rfl rfl, fixed_is (hi := 7) (lo := 0) (c := 13) 6 1 0 [(0xD, 8)] rfl rfl rfl rfl rfl⟩,
    field_is (hi := 24) (lo := 20) 1 d rfl rfl rfl,
    field_is (hi := 19) (lo := 15) 2 a rfl rfl rfl,
    field_is (hi := 14) (lo := 10) 3 b rfl rfl rfl,
    flag_is (k := 8) 5 i rfl rfl rfl]

theorem smov d a : Statement (.smov d a) := by
  rintro _ ⟨⟩
  rw [decode_08 _ (top_is (fixed_is (hi := 31) (lo := 25) (c := 8) 0 1 0 [(0x8, 7)] rfl rfl rfl rfl rfl) rfl),
    decode08,
    if_neg (fun c => fixed_not (hi := 7) (lo := 0) (c := 0) 3 1 0 0 8 [(0xE, 15)] rfl rfl rfl rfl rfl rfl c.2),
    if_neg (fun c => fixed_not (hi := 7) (lo := 0) (c := 1) 3 1 0 0 8 [(0xE, 15)] rfl rfl rfl rfl rfl rfl c.2),
    if_neg (fun c => fixed_not (hi := 7) (lo := 0) (c := 2) 3 1 0 0 8 [(0xE, 15)] rfl rfl rfl rfl rfl rfl c.2),
    if_neg (fun c => fixed_not (hi := 6) (lo := 0) (c := 3) 3 1 0 0 7 [(0xE, 15)] rfl rfl rfl rfl rfl rfl c.2),
    if_neg (fun c => fixed_not (hi := 7) (lo := 0) (c := 4) 3 1 0 0 8 [(0xE, 15)] rfl rfl rfl rfl rfl rfl c.2),
    if_neg (fun c => fixed_not (hi := 7) (lo := 0) (c := 5) 3 1 0 0 8 [(0xE, 15)] rfl rfl rfl rfl rfl rfl c.2),
    if_neg (fun c => fixed_not (hi := 7) (lo := 0) (c := 6) 3 1 0 0 8 [(0xE, 15)] rfl rfl rfl rfl rfl rfl c.2),
    if_neg (fun c => fixed_not (hi := 7) (lo := 0) (c := 7) 3 1 0 0 8 [(0xE, 15)] rfl rfl rfl rfl rfl rfl c.2),
    if_neg (fun c => fixed_not (hi := 7) (lo := 0) (c := 8) 3 1 0 0 8 [(0xE, 15)] rfl rfl rfl rfl rfl rfl c.2),
    if_neg (fun c => fixed_not (hi := 7) (lo := 0) (c := 9) 3 1 0 0 8 [(0xE, 15)] rfl rfl rfl rfl rfl rfl c.2),
    if_neg (fun c => fixed_not (hi := 6) (lo := 0) (c := 10) 3 1 0 0 7 [(0xE, 15)] rfl rfl rfl rfl rfl rfl c.2),
    if_neg (fun c => fixed_not (hi := 6) (lo := 0) (c := 11) 3 1 0 0 7 [(0xE, 15)] rfl rfl rfl rfl rfl rfl c.2),
    if_neg (fun c => fixed_not (hi := 3) (lo := 0) (c := 12) 3 1 0 0 4 [(0xE, 15)] rfl rfl rfl rfl rfl rfl c.2),
    if_neg (fun c => fixed_not (hi := 7) (lo := 0) (c := 13) 3 1 0 0 8 [(0xE, 15)] rfl rfl rfl rfl rfl rfl c.2),
    if_pos (fixed_is (hi := 14) (lo := 0) (c := 14) 3 1 0 [(0xE, 15)] rfl rfl rfl rfl rfl),
    field_is (hi := 24) (lo := 20) 1 d rfl rfl rfl,
    field_is (hi := 19) (lo := 15) 2 a rfl rfl rfl]

theorem slea d a b i c : Statement (.slea d a b i c) := by
  rintro _ ⟨⟩
  rw [decode_08 _ (top_is (fixed_is (hi := 31) (lo := 25) (c := 8) 0 1 0 [(0x8, 7)] rfl rfl rfl rfl rfl) rfl),
    decode08,
    if_neg (fun c => fixed_not (hi := 7) (lo := 0) (c := 0) 7 1 0 0 4 [(0xF, 4)] rfl rfl rfl rfl rfl rfl c.2),
    if_neg (fun c => fixed_not (hi := 7) (lo := 0) (c := 1) 7 1 0 0 4 [(0xF, 4)] rfl rfl rfl rfl rfl rfl c.2),
    if_neg (fun c => fixed_not (hi := 7) (lo := 0) (c := 2) 7 1 0 0 4 [(0xF, 4)] rfl rfl rfl rfl rfl rfl c.2),
    if_neg (fun c => fixed_not (hi := 6) (lo := 0) (c := 3) 7 1 0 0 4 [(0xF, 4)] rfl rfl rfl rfl rfl rfl c.2),
    if_neg (fun c => fixed_not (hi := 7) (lo := 0) (c := 4) 7 1 0 0 4 [(0xF, 4)] rfl rfl rfl rfl rfl rfl c.2),
    if_neg (fun c => fixed_not (hi := 7) (lo := 0) (c := 5) 7 1 0 0 4 [(0xF, 4)] rfl rfl rfl rfl rfl rfl c.2),
    if_neg (fun c => fixed_not (hi := 7) (lo := 0) (c := 6) 7 1 0 0 4 [(0xF, 4)] rfl rfl rfl rfl rfl rfl c.2),
    if_neg (fun c => fixed_not (hi := 7) (lo := 0) (c := 7) 7 1 0 0 4 [(0xF, 4)] rfl rfl rfl rfl rfl rfl c.2),
    if_neg (fun c => fixed_not (hi := 7) (lo := 0) (c := 8) 7 1 0 0 4 [(0xF, 4)] rfl rfl rfl rfl rfl rfl c.2),
    if_neg (fun c => fixed_not (hi := 7) (lo := 0) (c := 9) 7 1 0 0 4 [(0xF, 4)] rfl rfl rfl rfl rfl rfl c.2),
    if_neg (fun c => fixed_not (hi := 6) (lo := 0) (c := 10) 7 1 0 0 4 [(0xF, 4)] rfl rfl rfl rfl rfl rfl c.2),
    if_neg (fun c => fixed_not (hi := 6) (lo := 0) (c := 11) 7 1 0 0 4 [(0xF, 4)] rfl rfl rfl rfl rfl rfl c.2),
    if_neg (fun c => fixed_not (hi := 3) (lo := 0) (c := 12) 7 1 0 0 4 [(0xF, 4)] rfl rfl rfl rfl rfl rfl c.2),
    if_neg (fun c => fixed_not (hi := 7) (lo := 0) (c := 13) 7 1 0 0 4 [(0xF, 4)] rfl rfl rfl rfl rfl rfl c.2),
    if_neg (fun c => fixed_not (hi := 14) (lo := 0) (c := 14) 7 1 0 0 4 [(0xF, 4)] rfl rfl rfl rfl rfl rfl c),
    if_pos ⟨fixed_is (hi := 9) (lo := 9) (c := 0) 4 1 0 [(0x0, 1)] rfl rfl rfl rfl rfl, fixed_is (hi := 3) (lo := 0) (c := 15) 7 1 0 [(0xF, 4)] rfl rfl rfl rfl rfl⟩,
    field_is (hi := 24) (lo := 20) 1 d rfl rfl rfl,
    field_is (hi := 19) (lo := 15) 2 a rfl rfl rfl,
    field_is (hi := 14) (lo := 10) 3 b rfl rfl rfl,
    flag_is (k := 8) 5 i rfl rfl rfl,
    field_is (hi := 7) (lo := 4) 6 c rfl rfl rfl]

theorem smovi d i : Statement (.smovi d i) := by
  rintro _ ⟨⟩
  rw [decode_09 _ (top_is (fixed_is (hi := 31) (lo := 25) (c := 9) 0 1 0 [(0x9, 7)] rfl rfl rfl rfl rfl) rfl),
    decode09,
    field_is (hi := 24) (lo := 20) 1 d rfl rfl rfl,
    field_is (hi := 19) (lo := 0) 2 i rfl rfl rfl]

theorem sld d a w p : Statement (.sld d a w p) := by
  rintro _ ⟨⟩
  rw [decode_0A _ (top_is (fixed_is (hi := 31) (lo := 25) (c := 10) 0 1 0 [(0xA, 7)] rfl rfl rfl rfl rfl) rfl),
    decode0A,
    if_pos ⟨fixed_is (hi := 14) (lo := 8) (c := 0) 3 1 0 [(0x0, 7)] rfl rfl rfl rfl rfl, fixed_is (hi := 2) (lo := 0) (c := 0) 6 1 0 [(0x0, 3)] rfl rfl rfl rfl rfl⟩,
    field_is (hi := 24) (lo := 20) 1 d rfl rfl rfl,
    field_is (hi := 19) (lo := 15) 2 a rfl rfl rfl,
    field_is (hi := 7) (lo := 5) 4 w rfl rfl rfl,
    field_is (hi := 4) (lo := 3) 5 p rfl rfl rfl]

theorem sst a b w p : Statement (.sst a b w p) := by
  rintro _ ⟨⟩
  rw [decode_0A _ (top_is (fixed_is (hi := 31) (lo := 25) (c := 10) 0 1 5 [(0x140, 12)] rfl rfl rfl rfl rfl) rfl),
    decode0A,
    if_neg (fun c => fixed_not (hi := 14) (lo := 8) (c := 0) 3 1 0 0 2 [(0x1, 2)] rfl rfl rfl rfl rfl rfl c.1),
    if_pos ⟨fixed_is (hi := 24) (lo := 20) (c := 0) 0 1 0 [(0x140, 12)] rfl rfl rfl rfl rfl, fixed_is (hi := 9) (lo := 8) (c := 1) 3 1 0 [(0x1, 2)] rfl rfl rfl rfl rfl, fixed_is (hi := 2) (lo := 0) (c := 0) 6 1 0 [(0x0, 3)] rfl rfl rfl rfl rfl⟩,
    field_is (hi := 19) (lo := 15) 1 a rfl rfl rfl,
    field_is (hi := 14) (lo := 10) 2 b rfl rfl rfl,
    field_is (hi := 7) (lo := 5) 4 w rfl rfl rfl,
    field_is (hi := 4) (lo := 3) 5 p rfl rfl rfl]

theorem srd d v n : Statement (.srd d v n) := by
  rintro _ ⟨⟩
  rw [decode_0B _ (top_is (fixed_is (hi := 31) (lo := 25) (c := 11) 0 1 0 [(0xB, 7)] rfl rfl rfl rfl rfl) rfl),
    decode0B,
    if_pos ⟨fixed_is (hi := 19) (lo := 10) (c := 0) 2 1 0 [(0x0, 10)] rfl rfl rfl rfl rfl, fixed_is (hi := 8) (lo := 8) (c := 0) 4 1 0 [(0x0, 1)] rfl rfl rfl rfl rfl⟩,
    field_is (hi := 24) (lo := 20) 1 d rfl rfl rfl,
    flag_is (k := 9) 3 v rfl rfl rfl,
    field_is (hi := 7) (lo := 0) 5 n rfl rfl rfl]

theorem swr a n : Statement (.swr a n) := by
  rintro _ ⟨⟩
  rw [decode_0B _ (top_is (fixed_is (hi := 31) (lo := 25) (c := 11) 0 1 5 [(0x160, 12)] rfl rfl rfl rfl rfl) rfl),
    decode0B,
    if_neg (fun c => fixed_not (hi := 8) (lo := 8) (c := 0) 2 1 0 0 1 [(0x1, 7)] rfl rfl rfl rfl rfl rfl c.2),
    if_pos ⟨fixed_is (hi := 24) (lo := 20) (c := 0) 0 1 0 [(0x160, 12)] rfl rfl rfl rfl rfl, fixed_is (hi := 14) (lo := 8) (c := 1) 2 1 0 [(0x1, 7)] rfl rfl rfl rfl rfl⟩,
    field_is (hi := 19) (lo := 15) 1 a rfl rfl rfl,
    field_is (hi := 7) (lo := 0) 3 n rfl rfl rfl]

theorem vadd d a b la lb gd : Statement (.vadd d a b la lb gd) := by
  rintro _ ⟨⟩
  rw [decode_10 _ (top_is (fixed_is (hi := 31) (lo := 25) (c := 16) 0 1 0 [(0x10, 7)] rfl rfl rfl rfl rfl) rfl),
    decode10,
    field_is (hi := 24) (lo := 19) 1 d rfl rfl rfl,
    field_is (hi := 18) (lo := 13) 2 a rfl rfl rfl,
    field_is (hi := 12) (lo := 7) 3 b rfl rfl rfl,
    flag_is (k := 6) 4 la rfl rfl rfl,
    flag_is (k := 5) 5 lb rfl rfl rfl,
    guard_is (flag_is 6 gd.n rfl rfl rfl) (field_is (hi := 3) (lo := 0) 7 gd.g rfl rfl rfl)]

theorem vsub d a b la lb gd : Statement (.vsub d a b la lb gd) := by
  rintro _ ⟨⟩
  rw [decode_11 _ (top_is (fixed_is (hi := 31) (lo := 25) (c := 17) 0 1 0 [(0x11, 7)] rfl rfl rfl rfl rfl) rfl),
    decode11,
    field_is (hi := 24) (lo := 19) 1 d rfl rfl rfl,
    field_is (hi := 18) (lo := 13) 2 a rfl rfl rfl,
    field_is (hi := 12) (lo := 7) 3 b rfl rfl rfl,
    flag_is (k := 6) 4 la rfl rfl rfl,
    flag_is (k := 5) 5 lb rfl rfl rfl,
    guard_is (flag_is 6 gd.n rfl rfl rfl) (field_is (hi := 3) (lo := 0) 7 gd.g rfl rfl rfl)]

theorem vmul d a b la lb gd : Statement (.vmul d a b la lb gd) := by
  rintro _ ⟨⟩
  rw [decode_12 _ (top_is (fixed_is (hi := 31) (lo := 25) (c := 18) 0 1 0 [(0x12, 7)] rfl rfl rfl rfl rfl) rfl),
    decode12,
    field_is (hi := 24) (lo := 19) 1 d rfl rfl rfl,
    field_is (hi := 18) (lo := 13) 2 a rfl rfl rfl,
    field_is (hi := 12) (lo := 7) 3 b rfl rfl rfl,
    flag_is (k := 6) 4 la rfl rfl rfl,
    flag_is (k := 5) 5 lb rfl rfl rfl,
    guard_is (flag_is 6 gd.n rfl rfl rfl) (field_is (hi := 3) (lo := 0) 7 gd.g rfl rfl rfl)]

theorem vmulh d a b la lb gd : Statement (.vmulh d a b la lb gd) := by
  rintro _ ⟨⟩
  rw [decode_13 _ (top_is (fixed_is (hi := 31) (lo := 25) (c := 19) 0 1 0 [(0x13, 7)] rfl rfl rfl rfl rfl) rfl),
    decode13,
    field_is (hi := 24) (lo := 19) 1 d rfl rfl rfl,
    field_is (hi := 18) (lo := 13) 2 a rfl rfl rfl,
    field_is (hi := 12) (lo := 7) 3 b rfl rfl rfl,
    flag_is (k := 6) 4 la rfl rfl rfl,
    flag_is (k := 5) 5 lb rfl rfl rfl,
    guard_is (flag_is 6 gd.n rfl rfl rfl) (field_is (hi := 3) (lo := 0) 7 gd.g rfl rfl rfl)]

theorem vand d a b la lb gd : Statement (.vand d a b la lb gd) := by
  rintro _ ⟨⟩
  rw [decode_14 _ (top_is (fixed_is (hi := 31) (lo := 25) (c := 20) 0 1 0 [(0x14, 7)] rfl rfl rfl rfl rfl) rfl),
    decode14,
    field_is (hi := 24) (lo := 19) 1 d rfl rfl rfl,
    field_is (hi := 18) (lo := 13) 2 a rfl rfl rfl,
    field_is (hi := 12) (lo := 7) 3 b rfl rfl rfl,
    flag_is (k := 6) 4 la rfl rfl rfl,
    flag_is (k := 5) 5 lb rfl rfl rfl,
    guard_is (flag_is 6 gd.n rfl rfl rfl) (field_is (hi := 3) (lo := 0) 7 gd.g rfl rfl rfl)]

theorem vor d a b la lb gd : Statement (.vor d a b la lb gd) := by
  rintro _ ⟨⟩
  rw [decode_15 _ (top_is (fixed_is (hi := 31) (lo := 25) (c := 21) 0 1 0 [(0x15, 7)] rfl rfl rfl rfl rfl) rfl),
    decode15,
    field_is (hi := 24) (lo := 19) 1 d rfl rfl rfl,
    field_is (hi := 18) (lo := 13) 2 a rfl rfl rfl,
    field_is (hi := 12) (lo := 7) 3 b rfl rfl rfl,
    flag_is (k := 6) 4 la rfl rfl rfl,
    flag_is (k := 5) 5 lb rfl rfl rfl,
    guard_is (flag_is 6 gd.n rfl rfl rfl) (field_is (hi := 3) (lo := 0) 7 gd.g rfl rfl rfl)]

theorem vxor d a b la lb gd : Statement (.vxor d a b la lb gd) := by
  rintro _ ⟨⟩
  rw [decode_16 _ (top_is (fixed_is (hi := 31) (lo := 25) (c := 22) 0 1 0 [(0x16, 7)] rfl rfl rfl rfl rfl) rfl),
    decode16,
    field_is (hi := 24) (lo := 19) 1 d rfl rfl rfl,
    field_is (hi := 18) (lo := 13) 2 a rfl rfl rfl,
    field_is (hi := 12) (lo := 7) 3 b rfl rfl rfl,
    flag_is (k := 6) 4 la rfl rfl rfl,
    flag_is (k := 5) 5 lb rfl rfl rfl,
    guard_is (flag_is 6 gd.n rfl rfl rfl) (field_is (hi := 3) (lo := 0) 7 gd.g rfl rfl rfl)]

theorem vshl d a b la lb gd : Statement (.vshl d a b la lb gd) := by
  rintro _ ⟨⟩
  rw [decode_17 _ (top_is (fixed_is (hi := 31) (lo := 25) (c := 23) 0 1 0 [(0x17, 7)] rfl rfl rfl rfl rfl) rfl),
    decode17,
    field_is (hi := 24) (lo := 19) 1 d rfl rfl rfl,
    field_is (hi := 18) (lo := 13) 2 a rfl rfl rfl,
    field_is (hi := 12) (lo := 7) 3 b rfl rfl rfl,
    flag_is (k := 6) 4 la rfl rfl rfl,
    flag_is (k := 5) 5 lb rfl rfl rfl,
    guard_is (flag_is 6 gd.n rfl rfl rfl) (field_is (hi := 3) (lo := 0) 7 gd.g rfl rfl rfl)]

theorem vshr d a b la lb gd : Statement (.vshr d a b la lb gd) := by
  rintro _ ⟨⟩
  rw [decode_18 _ (top_is (fixed_is (hi := 31) (lo := 25) (c := 24) 0 1 0 [(0x18, 7)] rfl rfl rfl rfl rfl) rfl),
    decode18,
    field_is (hi := 24) (lo := 19) 1 d rfl rfl rfl,
    field_is (hi := 18) (lo := 13) 2 a rfl rfl rfl,
    field_is (hi := 12) (lo := 7) 3 b rfl rfl rfl,
    flag_is (k := 6) 4 la rfl rfl rfl,
    flag_is (k := 5) 5 lb rfl rfl rfl,
    guard_is (flag_is 6 gd.n rfl rfl rfl) (field_is (hi := 3) (lo := 0) 7 gd.g rfl rfl rfl)]

theorem vsar d a b la lb gd : Statement (.vsar d a b la lb gd) := by
  rintro _ ⟨⟩
  rw [decode_19 _ (top_is (fixed_is (hi := 31) (lo := 25) (c := 25) 0 1 0 [(0x19, 7)] rfl rfl rfl rfl rfl) rfl),
    decode19,
    field_is (hi := 24) (lo := 19) 1 d rfl rfl rfl,
    field_is (hi := 18) (lo := 13) 2 a rfl rfl rfl,
    field_is (hi := 12) (lo := 7) 3 b rfl rfl rfl,
    flag_is (k := 6) 4 la rfl rfl rfl,
    flag_is (k := 5) 5 lb rfl rfl rfl,
    guard_is (flag_is 6 gd.n rfl rfl rfl) (field_is (hi := 3) (lo := 0) 7 gd.g rfl rfl rfl)]

theorem vmin d a b la lb gd : Statement (.vmin d a b la lb gd) := by
  rintro _ ⟨⟩
  rw [decode_1A _ (top_is (fixed_is (hi := 31) (lo := 25) (c := 26) 0 1 0 [(0x1A, 7)] rfl rfl rfl rfl rfl) rfl),
    decode1A,
    field_is (hi := 24) (lo := 19) 1 d rfl rfl rfl,
    field_is (hi := 18) (lo := 13) 2 a rfl rfl rfl,
    field_is (hi := 12) (lo := 7) 3 b rfl rfl rfl,
    flag_is (k := 6) 4 la rfl rfl rfl,
    flag_is (k := 5) 5 lb rfl rfl rfl,
    guard_is (flag_is 6 gd.n rfl rfl rfl) (field_is (hi := 3) (lo := 0) 7 gd.g rfl rfl rfl)]

theorem vmax d a b la lb gd : Statement (.vmax d a b la lb gd) := by
  rintro _ ⟨⟩
  rw [decode_1B _ (top_is (fixed_is (hi := 31) (lo := 25) (c := 27) 0 1 0 [(0x1B, 7)] rfl rfl rfl rfl rfl) rfl),
    decode1B,
    field_is (hi := 24) (lo := 19) 1 d rfl rfl rfl,
    field_is (hi := 18) (lo := 13) 2 a rfl rfl rfl,
    field_is (hi := 12) (lo := 7) 3 b rfl rfl rfl,
    flag_is (k := 6) 4 la rfl rfl rfl,
    flag_is (k := 5) 5 lb rfl rfl rfl,
    guard_is (flag_is 6 gd.n rfl rfl rfl) (field_is (hi := 3) (lo := 0) 7 gd.g rfl rfl rfl)]

theorem vminn d a b la lb gd : Statement (.vminn d a b la lb gd) := by
  rintro _ ⟨⟩
  rw [decode_1C _ (top_is (fixed_is (hi := 31) (lo := 25) (c := 28) 0 1 0 [(0x1C, 7)] rfl rfl rfl rfl rfl) rfl),
    decode1C,
    field_is (hi := 24) (lo := 19) 1 d rfl rfl rfl,
    field_is (hi := 18) (lo := 13) 2 a rfl rfl rfl,
    field_is (hi := 12) (lo := 7) 3 b rfl rfl rfl,
    flag_is (k := 6) 4 la rfl rfl rfl,
    flag_is (k := 5) 5 lb rfl rfl rfl,
    guard_is (flag_is 6 gd.n rfl rfl rfl) (field_is (hi := 3) (lo := 0) 7 gd.g rfl rfl rfl)]

theorem vmaxn d a b la lb gd : Statement (.vmaxn d a b la lb gd) := by
  rintro _ ⟨⟩
  rw [decode_1D _ (top_is (fixed_is (hi := 31) (lo := 25) (c := 29) 0 1 0 [(0x1D, 7)] rfl rfl rfl rfl rfl) rfl),
    decode1D,
    field_is (hi := 24) (lo := 19) 1 d rfl rfl rfl,
    field_is (hi := 18) (lo := 13) 2 a rfl rfl rfl,
    field_is (hi := 12) (lo := 7) 3 b rfl rfl rfl,
    flag_is (k := 6) 4 la rfl rfl rfl,
    flag_is (k := 5) 5 lb rfl rfl rfl,
    guard_is (flag_is 6 gd.n rfl rfl rfl) (field_is (hi := 3) (lo := 0) 7 gd.g rfl rfl rfl)]

theorem vaddc d a b la lb gd : Statement (.vaddc d a b la lb gd) := by
  rintro _ ⟨⟩
  rw [decode_1E _ (top_is (fixed_is (hi := 31) (lo := 25) (c := 30) 0 1 0 [(0x1E, 7)] rfl rfl rfl rfl rfl) rfl),
    decode1E,
    field_is (hi := 24) (lo := 19) 1 d rfl rfl rfl,
    field_is (hi := 18) (lo := 13) 2 a rfl rfl rfl,
    field_is (hi := 12) (lo := 7) 3 b rfl rfl rfl,
    flag_is (k := 6) 4 la rfl rfl rfl,
    flag_is (k := 5) 5 lb rfl rfl rfl,
    guard_is (flag_is 6 gd.n rfl rfl rfl) (field_is (hi := 3) (lo := 0) 7 gd.g rfl rfl rfl)]

theorem vsubb d a b la lb gd : Statement (.vsubb d a b la lb gd) := by
  rintro _ ⟨⟩
  rw [decode_1F _ (top_is (fixed_is (hi := 31) (lo := 25) (c := 31) 0 1 0 [(0x1F, 7)] rfl rfl rfl rfl rfl) rfl),
    decode1F,
    field_is (hi := 24) (lo := 19) 1 d rfl rfl rfl,
    field_is (hi := 18) (lo := 13) 2 a rfl rfl rfl,
    field_is (hi := 12) (lo := 7) 3 b rfl rfl rfl,
    flag_is (k := 6) 4 la rfl rfl rfl,
    flag_is (k := 5) 5 lb rfl rfl rfl,
    guard_is (flag_is 6 gd.n rfl rfl rfl) (field_is (hi := 3) (lo := 0) 7 gd.g rfl rfl rfl)]

theorem vaddi d a i gd : Statement (.vaddi d a i gd) := by
  rintro _ ⟨⟩
  rw [decode_20 _ (top_is (fixed_is (hi := 31) (lo := 25) (c := 32) 0 1 0 [(0x20, 7)] rfl rfl rfl rfl rfl) rfl),
    decode20,
    field_is (hi := 24) (lo := 19) 1 d rfl rfl rfl,
    field_is (hi := 18) (lo := 13) 2 a rfl rfl rfl,
    field_is (hi := 12) (lo := 5) 3 i rfl rfl rfl,
    guard_is (flag_is 4 gd.n rfl rfl rfl) (field_is (hi := 3) (lo := 0) 5 gd.g rfl rfl rfl)]

theorem vshli d a i gd : Statement (.vshli d a i gd) := by
  rintro _ ⟨⟩
  rw [decode_21 _ (top_is (fixed_is (hi := 31) (lo := 25) (c := 33) 0 1 0 [(0x21, 7)] rfl rfl rfl rfl rfl) rfl),
    decode21,
    field_is (hi := 24) (lo := 19) 1 d rfl rfl rfl,
    field_is (hi := 18) (lo := 13) 2 a rfl rfl rfl,
    field_is (hi := 12) (lo := 5) 3 i rfl rfl rfl,
    guard_is (flag_is 4 gd.n rfl rfl rfl) (field_is (hi := 3) (lo := 0) 5 gd.g rfl rfl rfl)]

theorem vshri d a i gd : Statement (.vshri d a i gd) := by
  rintro _ ⟨⟩
  rw [decode_22 _ (top_is (fixed_is (hi := 31) (lo := 25) (c := 34) 0 1 0 [(0x22, 7)] rfl rfl rfl rfl rfl) rfl),
    decode22,
    field_is (hi := 24) (lo := 19) 1 d rfl rfl rfl,
    field_is (hi := 18) (lo := 13) 2 a rfl rfl rfl,
    field_is (hi := 12) (lo := 5) 3 i rfl rfl rfl,
    guard_is (flag_is 4 gd.n rfl rfl rfl) (field_is (hi := 3) (lo := 0) 5 gd.g rfl rfl rfl)]

theorem vsari d a i gd : Statement (.vsari d a i gd) := by
  rintro _ ⟨⟩
  rw [decode_23 _ (top_is (fixed_is (hi := 31) (lo := 25) (c := 35) 0 1 0 [(0x23, 7)] rfl rfl rfl rfl rfl) rfl),
    decode23,
    field_is (hi := 24) (lo := 19) 1 d rfl rfl rfl,
    field_is (hi := 18) (lo := 13) 2 a rfl rfl rfl,
    field_is (hi := 12) (lo := 5) 3 i rfl rfl rfl,
    guard_is (flag_is 4 gd.n rfl rfl rfl) (field_is (hi := 3) (lo := 0) 5 gd.g rfl rfl rfl)]

theorem vandi d a i gd : Statement (.vandi d a i gd) := by
  rintro _ ⟨⟩
  rw [decode_24 _ (top_is (fixed_is (hi := 31) (lo := 25) (c := 36) 0 1 0 [(0x24, 7)] rfl rfl rfl rfl rfl) rfl),
    decode24,
    field_is (hi := 24) (lo := 19) 1 d rfl rfl rfl,
    field_is (hi := 18) (lo := 13) 2 a rfl rfl rfl,
    field_is (hi := 12) (lo := 5) 3 i rfl rfl rfl,
    guard_is (flag_is 4 gd.n rfl rfl rfl) (field_is (hi := 3) (lo := 0) 5 gd.g rfl rfl rfl)]

theorem vmovi d i gd : Statement (.vmovi d i gd) := by
  rintro _ ⟨⟩
  rw [decode_25 _ (top_is (fixed_is (hi := 31) (lo := 25) (c := 37) 0 1 0 [(0x25, 7)] rfl rfl rfl rfl rfl) rfl),
    decode25,
    field_is (hi := 24) (lo := 19) 1 d rfl rfl rfl,
    field_is (hi := 18) (lo := 5) 2 i rfl rfl rfl,
    guard_is (flag_is 3 gd.n rfl rfl rfl) (field_is (hi := 3) (lo := 0) 4 gd.g rfl rfl rfl)]

theorem vnot d a la gd : Statement (.vnot d a la gd) := by
  rintro _ ⟨⟩
  rw [decode_26 _ (top_is (fixed_is (hi := 31) (lo := 25) (c := 38) 0 1 0 [(0x26, 7)] rfl rfl rfl rfl rfl) rfl),
    decode26,
    if_pos ⟨fixed_is (hi := 12) (lo := 7) (c := 0) 3 1 0 [(0x0, 6)] rfl rfl rfl rfl rfl, fixed_is (hi := 5) (lo := 5) (c := 0) 5 1 0 [(0x0, 1)] rfl rfl rfl rfl rfl⟩,
    field_is (hi := 24) (lo := 19) 1 d rfl rfl rfl,
    field_is (hi := 18) (lo := 13) 2 a rfl rfl rfl,
    flag_is (k := 6) 4 la rfl rfl rfl,
    guard_is (flag_is 6 gd.n rfl rfl rfl) (field_is (hi := 3) (lo := 0) 7 gd.g rfl rfl rfl)]

theorem vneg d a la gd : Statement (.vneg d a la gd) := by
  rintro _ ⟨⟩
  rw [decode_26 _ (top_is (fixed_is (hi := 31) (lo := 25) (c := 38) 0 1 0 [(0x26, 7)] rfl rfl rfl rfl rfl) rfl),
    decode26,
    if_neg (fun c => fixed_not (hi := 12) (lo := 7) (c := 0) 3 1 0 0 6 [(0x1, 6)] rfl rfl rfl rfl rfl rfl c.1),
    if_pos ⟨fixed_is (hi := 12) (lo := 7) (c := 1) 3 1 0 [(0x1, 6)] rfl rfl rfl rfl rfl, fixed_is (hi := 5) (lo := 5) (c := 0) 5 1 0 [(0x0, 1)] rfl rfl rfl rfl rfl⟩,
    field_is (hi := 24) (lo := 19) 1 d rfl rfl rfl,
    field_is (hi := 18) (lo := 13) 2 a rfl rfl rfl,
    flag_is (k := 6) 4 la rfl rfl rfl,
    guard_is (flag_is 6 gd.n rfl rfl rfl) (field_is (hi := 3) (lo := 0) 7 gd.g rfl rfl rfl)]

theorem vabs d a la gd : Statement (.vabs d a la gd) := by
  rintro _ ⟨⟩
  rw [decode_26 _ (top_is (fixed_is (hi := 31) (lo := 25) (c := 38) 0 1 0 [(0x26, 7)] rfl rfl rfl rfl rfl) rfl),
    decode26,
    if_neg (fun c => fixed_not (hi := 12) (lo := 7) (c := 0) 3 1 0 0 6 [(0x2, 6)] rfl rfl rfl rfl rfl rfl c.1),
    if_neg (fun c => fixed_not (hi := 12) (lo := 7) (c := 1) 3 1 0 0 6 [(0x2, 6)] rfl rfl rfl rfl rfl rfl c.1),
    if_pos ⟨fixed_is (hi := 12) (lo := 7) (c := 2) 3 1 0 [(0x2, 6)] rfl rfl rfl rfl rfl, fixed_is (hi := 5) (lo := 5) (c := 0) 5 1 0 [(0x0, 1)] rfl rfl rfl rfl rfl⟩,
    field_is (hi := 24) (lo := 19) 1 d rfl rfl rfl,
    field_is (hi := 18) (lo := 13) 2 a rfl rfl rfl,
    flag_is (k := 6) 4 la rfl rfl rfl,
    guard_is (flag_is 6 gd.n rfl rfl rfl) (field_is (hi := 3) (lo := 0) 7 gd.g rfl rfl rfl)]

theorem vclz d a la gd : Statement (.vclz d a la gd) := by
  rintro _ ⟨⟩
  rw [decode_26 _ (top_is (fixed_is (hi := 31) (lo := 25) (c := 38) 0 1 0 [(0x26, 7)] rfl rfl rfl rfl rfl) rfl),
    decode26,
    if_neg (fun c => fixed_not (hi := 12) (lo := 7) (c := 0) 3 1 0 0 6 [(0x3, 6)] rfl rfl rfl rfl rfl rfl c.1),
    if_neg (fun c => fixed_not (hi := 12) (lo := 7) (c := 1) 3 1 0 0 6 [(0x3, 6)] rfl rfl rfl rfl rfl rfl c.1),
    if_neg (fun c => fixed_not (hi := 12) (lo := 7) (c := 2) 3 1 0 0 6 [(0x3, 6)] rfl rfl rfl rfl rfl rfl c.1),
    if_pos ⟨fixed_is (hi := 12) (lo := 7) (c := 3) 3 1 0 [(0x3, 6)] rfl rfl rfl rfl rfl, fixed_is (hi := 5) (lo := 5) (c := 0) 5 1 0 [(0x0, 1)] rfl rfl rfl rfl rfl⟩,
    field_is (hi := 24) (lo := 19) 1 d rfl rfl rfl,
    field_is (hi := 18) (lo := 13) 2 a rfl rfl rfl,
    flag_is (k := 6) 4 la rfl rfl rfl,
    guard_is (flag_is 6 gd.n rfl rfl rfl) (field_is (hi := 3) (lo := 0) 7 gd.g rfl rfl rfl)]

theorem vpopc d a la gd : Statement (.vpopc d a la gd) := by
  rintro _ ⟨⟩
  rw [decode_26 _ (top_is (fixed_is (hi := 31) (lo := 25) (c := 38) 0 1 0 [(0x26, 7)] rfl rfl rfl rfl rfl) rfl),
    decode26,
    if_neg (fun c => fixed_not (hi := 12) (lo := 7) (c := 0) 3 1 0 0 6 [(0x4, 6)] rfl rfl rfl rfl rfl rfl c.1),
    if_neg (fun c => fixed_not (hi := 12) (lo := 7) (c := 1) 3 1 0 0 6 [(0x4, 6)] rfl rfl rfl rfl rfl rfl c.1),
    if_neg (fun c => fixed_not (hi := 12) (lo := 7) (c := 2) 3 1 0 0 6 [(0x4, 6)] rfl rfl rfl rfl rfl rfl c.1),
    if_neg (fun c => fixed_not (hi := 12) (lo := 7) (c := 3) 3 1 0 0 6 [(0x4, 6)] rfl rfl rfl rfl rfl rfl c.1),
    if_pos ⟨fixed_is (hi := 12) (lo := 7) (c := 4) 3 1 0 [(0x4, 6)] rfl rfl rfl rfl rfl, fixed_is (hi := 5) (lo := 5) (c := 0) 5 1 0 [(0x0, 1)] rfl rfl rfl rfl rfl⟩,
    field_is (hi := 24) (lo := 19) 1 d rfl rfl rfl,
    field_is (hi := 18) (lo := 13) 2 a rfl rfl rfl,
    flag_is (k := 6) 4 la rfl rfl rfl,
    guard_is (flag_is 6 gd.n rfl rfl rfl) (field_is (hi := 3) (lo := 0) 7 gd.g rfl rfl rfl)]

theorem vmov d a la gd : Statement (.vmov d a la gd) := by
  rintro _ ⟨⟩
  rw [decode_26 _ (top_is (fixed_is (hi := 31) (lo := 25) (c := 38) 0 1 0 [(0x26, 7)] rfl rfl rfl rfl rfl) rfl),
    decode26,
    if_neg (fun c => fixed_not (hi := 12) (lo := 7) (c := 0) 3 1 0 0 6 [(0x5, 6)] rfl rfl rfl rfl rfl rfl c.1),
    if_neg (fun c => fixed_not (hi := 12) (lo := 7) (c := 1) 3 1 0 0 6 [(0x5, 6)] rfl rfl rfl rfl rfl rfl c.1),
    if_neg (fun c => fixed_not (hi := 12) (lo := 7) (c := 2) 3 1 0 0 6 [(0x5, 6)] rfl rfl rfl rfl rfl rfl c.1),
    if_neg (fun c => fixed_not (hi := 12) (lo := 7) (c := 3) 3 1 0 0 6 [(0x5, 6)] rfl rfl rfl rfl rfl rfl c.1),
    if_neg (fun c => fixed_not (hi := 12) (lo := 7) (c := 4) 3 1 0 0 6 [(0x5, 6)] rfl rfl rfl rfl rfl rfl c.1),
    if_pos ⟨fixed_is (hi := 12) (lo := 7) (c := 5) 3 1 0 [(0x5, 6)] rfl rfl rfl rfl rfl, fixed_is (hi := 5) (lo := 5) (c := 0) 5 1 0 [(0x0, 1)] rfl rfl rfl rfl rfl⟩,
    field_is (hi := 24) (lo := 19) 1 d rfl rfl rfl,
    field_is (hi := 18) (lo := 13) 2 a rfl rfl rfl,
    flag_is (k := 6) 4 la rfl rfl rfl,
    guard_is (flag_is 6 gd.n rfl rfl rfl) (field_is (hi := 3) (lo := 0) 7 gd.g rfl rfl rfl)]

theorem vbfe d a la m gd : Statement (.vbfe d a la m gd) := by
  rintro _ ⟨⟩
  rw [decode_27 _ (top_is (fixed_is (hi := 31) (lo := 25) (c := 39) 0 1 0 [(0x27, 7)] rfl rfl rfl rfl rfl) rfl),
    decode27,
    if_pos (fixed_is (hi := 12) (lo := 7) (c := 0) 3 1 0 [(0x0, 6)] rfl rfl rfl rfl rfl),
    field_is (hi := 24) (lo := 19) 1 d rfl rfl rfl,
    field_is (hi := 18) (lo := 13) 2 a rfl rfl rfl,
    flag_is (k := 6) 4 la rfl rfl rfl,
    flag_is (k := 5) 5 m rfl rfl rfl,
    guard_is (flag_is 6 gd.n rfl rfl rfl) (field_is (hi := 3) (lo := 0) 7 gd.g rfl rfl rfl)]

theorem vbfi d a la gd : Statement (.vbfi d a la gd) := by
  rintro _ ⟨⟩
  rw [decode_27 _ (top_is (fixed_is (hi := 31) (lo := 25) (c := 39) 0 1 0 [(0x27, 7)] rfl rfl rfl rfl rfl) rfl),
    decode27,
    if_neg (fun c => fixed_not (hi := 12) (lo := 7) (c := 0) 3 1 0 0 6 [(0x1, 6)] rfl rfl rfl rfl rfl rfl c),
    if_pos ⟨fixed_is (hi := 12) (lo := 7) (c := 1) 3 1 0 [(0x1, 6)] rfl rfl rfl rfl rfl, fixed_is (hi := 5) (lo := 5) (c := 0) 5 1 0 [(0x0, 1)] rfl rfl rfl rfl rfl⟩,
    field_is (hi := 24) (lo := 19) 1 d rfl rfl rfl,
    field_is (hi := 18) (lo := 13) 2 a rfl rfl rfl,
    flag_is (k := 6) 4 la rfl rfl rfl,
    guard_is (flag_is 6 gd.n rfl rfl rfl) (field_is (hi := 3) (lo := 0) 7 gd.g rfl rfl rfl)]

theorem vsel d a b la lb gd : Statement (.vsel d a b la lb gd) := by
  rintro _ ⟨⟩
  rw [decode_28 _ (top_is (fixed_is (hi := 31) (lo := 25) (c := 40) 0 1 0 [(0x28, 7)] rfl rfl rfl rfl rfl) rfl),
    decode28,
    field_is (hi := 24) (lo := 19) 1 d rfl rfl rfl,
    field_is (hi := 18) (lo := 13) 2 a rfl rfl rfl,
    field_is (hi := 12) (lo := 7) 3 b rfl rfl rfl,
    flag_is (k := 6) 4 la rfl rfl rfl,
    flag_is (k := 5) 5 lb rfl rfl rfl,
    guard_is (flag_is 6 gd.n rfl rfl rfl) (field_is (hi := 3) (lo := 0) 7 gd.g rfl rfl rfl)]

theorem vmad d a b la lb gd : Statement (.vmad d a b la lb gd) := by
  rintro _ ⟨⟩
  rw [decode_29 _ (top_is (fixed_is (hi := 31) (lo := 25) (c := 41) 0 1 0 [(0x29, 7)] rfl rfl rfl rfl rfl) rfl),
    decode29,
    field_is (hi := 24) (lo := 19) 1 d rfl rfl rfl,
    field_is (hi := 18) (lo := 13) 2 a rfl rfl rfl,
    field_is (hi := 12) (lo := 7) 3 b rfl rfl rfl,
    flag_is (k := 6) 4 la rfl rfl rfl,
    flag_is (k := 5) 5 lb rfl rfl rfl,
    guard_is (flag_is 6 gd.n rfl rfl rfl) (field_is (hi := 3) (lo := 0) 7 gd.g rfl rfl rfl)]

theorem vlea d a s h gd : Statement (.vlea d a s h gd) := by
  rintro _ ⟨⟩
  rw [decode_2A _ (top_is (fixed_is (hi := 31) (lo := 25) (c := 42) 0 1 0 [(0x2A, 7)] rfl rfl rfl rfl rfl) rfl),
    decode2A,
    field_is (hi := 24) (lo := 19) 1 d rfl rfl rfl,
    field_is (hi := 18) (lo := 13) 2 a rfl rfl rfl,
    field_is (hi := 12) (lo := 8) 3 s rfl rfl rfl,
    field_is (hi := 7) (lo := 5) 4 h rfl rfl rfl,
    guard_is (flag_is 5 gd.n rfl rfl rfl) (field_is (hi := 3) (lo := 0) 6 gd.g rfl rfl rfl)]

theorem vcmp k c a b gd : Statement (.vcmp k c a b gd) := by
  rintro _ ⟨⟩
  rw [decode_30 _ (top_is (fixed_is (hi := 31) (lo := 25) (c := 48) 0 1 0 [(0x30, 7)] rfl rfl rfl rfl rfl) rfl),
    decode30,
    field_is (hi := 24) (lo := 21) 1 k rfl rfl rfl,
    field_is (hi := 20) (lo := 17) 2 c rfl rfl rfl,
    field_is (hi := 16) (lo := 11) 3 a rfl rfl rfl,
    field_is (hi := 10) (lo := 5) 4 b rfl rfl rfl,
    guard_is (flag_is 5 gd.n rfl rfl rfl) (field_is (hi := 3) (lo := 0) 6 gd.g rfl rfl rfl)]

theorem fcmp k c a b gd : Statement (.fcmp k c a b gd) := by
  rintro _ ⟨⟩
  rw [decode_31 _ (top_is (fixed_is (hi := 31) (lo := 25) (c := 49) 0 1 0 [(0x31, 7)] rfl rfl rfl rfl rfl) rfl),
    decode31,
    field_is (hi := 24) (lo := 21) 1 k rfl rfl rfl,
    field_is (hi := 20) (lo := 17) 2 c rfl rfl rfl,
    field_is (hi := 16) (lo := 11) 3 a rfl rfl rfl,
    field_is (hi := 10) (lo := 5) 4 b rfl rfl rfl,
    guard_is (flag_is 5 gd.n rfl rfl rfl) (field_is (hi := 3) (lo := 0) 6 gd.g rfl rfl rfl)]

theorem pand d a b x gd : Statement (.pand d a b x gd) := by
  rintro _ ⟨⟩
  rw [decode_32 _ (top_is (fixed_is (hi := 31) (lo := 25) (c := 50) 0 1 0 [(0x32, 7)] rfl rfl rfl rfl rfl) rfl),
    decode32,
    if_pos (fixed_is (hi := 12) (lo := 7) (c := 0) 4 1 0 [(0x0, 6)] rfl rfl rfl rfl rfl),
    field_is (hi := 24) (lo := 21) 1 d rfl rfl rfl,
    field_is (hi := 20) (lo := 17) 2 a rfl rfl rfl,
    field_is (hi := 16) (lo := 13) 3 b rfl rfl rfl,
    field_is (hi := 6) (lo := 5) 5 x rfl rfl rfl,
    guard_is (flag_is 6 gd.n rfl rfl rfl) (field_is (hi := 3) (lo := 0) 7 gd.g rfl rfl rfl)]

theorem por d a b x gd : Statement (.por d a b x gd) := by
  rintro _ ⟨⟩
  rw [decode_32 _ (top_is (fixed_is (hi := 31) (lo := 25) (c := 50) 0 1 0 [(0x32, 7)] rfl rfl rfl rfl rfl) rfl),
    decode32,
    if_neg (fun c => fixed_not (hi := 12) (lo := 7) (c := 0) 4 1 0 0 6 [(0x2, 6)] rfl rfl rfl rfl rfl rfl c),
    if_pos (fixed_is (hi := 12) (lo := 7) (c := 2) 4 1 0 [(0x2, 6)] rfl rfl rfl rfl rfl),
    field_is (hi := 24) (lo := 21) 1 d rfl rfl rfl,
    field_is (hi := 20) (lo := 17) 2 a rfl rfl rfl,
    field_is (hi := 16) (lo := 13) 3 b rfl rfl rfl,
    field_is (hi := 6) (lo := 5) 5 x rfl rfl rfl,
    guard_is (flag_is 6 gd.n rfl rfl rfl) (field_is (hi := 3) (lo := 0) 7 gd.g rfl rfl rfl)]

theorem pxor d a b x gd : Statement (.pxor d a b x gd) := by
  rintro _ ⟨⟩
  rw [decode_32 _ (top_is (fixed_is (hi := 31) (lo := 25) (c := 50) 0 1 0 [(0x32, 7)] rfl rfl rfl rfl rfl) rfl),
    decode32,
    if_neg (fun c => fixed_not (hi := 12) (lo := 7) (c := 0) 4 1 0 0 6 [(0x4, 6)] rfl rfl rfl rfl rfl rfl c),
    if_neg (fun c => fixed_not (hi := 12) (lo := 7) (c := 2) 4 1 0 0 6 [(0x4, 6)] rfl rfl rfl rfl rfl rfl c),
    if_pos (fixed_is (hi := 12) (lo := 7) (c := 4) 4 1 0 [(0x4, 6)] rfl rfl rfl rfl rfl),
    field_is (hi := 24) (lo := 21) 1 d rfl rfl rfl,
    field_is (hi := 20) (lo := 17) 2 a rfl rfl rfl,
    field_is (hi := 16) (lo := 13) 3 b rfl rfl rfl,
    field_is (hi := 6) (lo := 5) 5 x rfl rfl rfl,
    guard_is (flag_is 6 gd.n rfl rfl rfl) (field_is (hi := 3) (lo := 0) 7 gd.g rfl rfl rfl)]

theorem pnot d a gd : Statement (.pnot d a gd) := by
  rintro _ ⟨⟩
  rw [decode_32 _ (top_is (fixed_is (hi := 31) (lo := 25) (c := 50) 0 1 0 [(0x32, 7)] rfl rfl rfl rfl rfl) rfl),
    decode32,
    if_neg (fun c => fixed_not (hi := 12) (lo := 7) (c := 0) 3 1 2 0 6 [(0x18, 12)] rfl rfl rfl rfl rfl rfl c),
    if_neg (fun c => fixed_not (hi := 12) (lo := 7) (c := 2) 3 1 2 0 6 [(0x18, 12)] rfl rfl rfl rfl rfl rfl c),
    if_neg (fun c => fixed_not (hi := 12) (lo := 7) (c := 4) 3 1 2 0 6 [(0x18, 12)] rfl rfl rfl rfl rfl rfl c),
    if_pos (fixed_is (hi := 16) (lo := 5) (c := 24) 3 1 0 [(0x18, 12)] rfl rfl rfl rfl rfl),
    field_is (hi := 24) (lo := 21) 1 d rfl rfl rfl,
    field_is (hi := 20) (lo := 17) 2 a rfl rfl rfl,
    guard_is (flag_is 4 gd.n rfl rfl rfl) (field_is (hi := 3) (lo := 0) 5 gd.g rfl rfl rfl)]

theorem pset d x gd : Statement (.pset d x gd) := by
  rintro _ ⟨⟩
  rw [decode_32 _ (top_is (fixed_is (hi := 31) (lo := 25) (c := 50) 0 1 0 [(0x32, 7)] rfl rfl rfl rfl rfl) rfl),
    decode32,
    if_neg (fun c => fixed_not (hi := 12) (lo := 7) (c := 0) 2 1 1 0 6 [(0x10, 15)] rfl rfl rfl rfl rfl rfl c),
    if_neg (fun c => fixed_not (hi := 12) (lo := 7) (c := 2) 2 1 1 0 6 [(0x10, 15)] rfl rfl rfl rfl rfl rfl c),
    if_neg (fun c => fixed_not (hi := 12) (lo := 7) (c := 4) 2 1 1 0 6 [(0x10, 15)] rfl rfl rfl rfl rfl rfl c),
    if_neg (fun c => fixed_not (hi := 16) (lo := 5) (c := 24) 2 1 0 1 11 [(0x10, 15)] rfl rfl rfl rfl rfl rfl c),
    if_pos (fixed_is (hi := 20) (lo := 6) (c := 16) 2 1 0 [(0x10, 15)] rfl rfl rfl rfl rfl),
    field_is (hi := 24) (lo := 21) 1 d rfl rfl rfl,
    flag_is (k := 5) 3 x rfl rfl rfl,
    guard_is (flag_is 4 gd.n rfl rfl rfl) (field_is (hi := 3) (lo := 0) 5 gd.g rfl rfl rfl)]

theorem ktov k r gd : Statement (.ktov k r gd) := by
  rintro _ ⟨⟩
  rw [decode_33 _ (top_is (fixed_is (hi := 31) (lo := 25) (c := 51) 0 1 0 [(0x33, 7)] rfl rfl rfl rfl rfl) rfl),
    decode33,
    if_pos (fixed_is (hi := 12) (lo := 5) (c := 0) 3 1 0 [(0x0, 8)] rfl rfl rfl rfl rfl),
    field_is (hi := 24) (lo := 21) 1 k rfl rfl rfl,
    field_is (hi := 20) (lo := 13) 2 r rfl rfl rfl,
    guard_is (flag_is 4 gd.n rfl rfl rfl) (field_is (hi := 3) (lo := 0) 5 gd.g rfl rfl rfl)]

theorem vtok k r gd : Statement (.vtok k r gd) := by
  rintro _ ⟨⟩
  rw [decode_33 _ (top_is (fixed_is (hi := 31) (lo := 25) (c := 51) 0 1 0 [(0x33, 7)] rfl rfl rfl rfl rfl) rfl),
    decode33,
    if_neg (fun c => fixed_not (hi := 12) (lo := 5) (c := 0) 3 1 0 0 8 [(0x8, 8)] rfl rfl rfl rfl rfl rfl c),
    if_pos (fixed_is (hi := 12) (lo := 5) (c := 8) 3 1 0 [(0x8, 8)] rfl rfl rfl rfl rfl),
    field_is (hi := 24) (lo := 21) 1 k rfl rfl rfl,
    field_is (hi := 20) (lo := 13) 2 r rfl rfl rfl,
    guard_is (flag_is 4 gd.n rfl rfl rfl) (field_is (hi := 3) (lo := 0) 5 gd.g rfl rfl rfl)]

theorem ktos k r gd : Statement (.ktos k r gd) := by
  rintro _ ⟨⟩
  rw [decode_33 _ (top_is (fixed_is (hi := 31) (lo := 25) (c := 51) 0 1 0 [(0x33, 7)] rfl rfl rfl rfl rfl) rfl),
    decode33,
    if_neg (fun c => fixed_not (hi := 12) (lo := 5) (c := 0) 3 1 0 0 8 [(0x10, 8)] rfl rfl rfl rfl rfl rfl c),
    if_neg (fun c => fixed_not (hi := 12) (lo := 5) (c := 8) 3 1 0 0 8 [(0x10, 8)] rfl rfl rfl rfl rfl rfl c),
    if_pos (fixed_is (hi := 12) (lo := 5) (c := 16) 3 1 0 [(0x10, 8)] rfl rfl rfl rfl rfl),
    field_is (hi := 24) (lo := 21) 1 k rfl rfl rfl,
    field_is (hi := 20) (lo := 13) 2 r rfl rfl rfl,
    guard_is (flag_is 4 gd.n rfl rfl rfl) (field_is (hi := 3) (lo := 0) 5 gd.g rfl rfl rfl)]

theorem stok k r gd : Statement (.stok k r gd) := by
  rintro _ ⟨⟩
  rw [decode_33 _ (top_is (fixed_is (hi := 31) (lo := 25) (c := 51) 0 1 0 [(0x33, 7)] rfl rfl rfl rfl rfl) rfl),
    decode33,
    if_neg (fun c => fixed_not (hi := 12) (lo := 5) (c := 0) 3 1 0 0 8 [(0x18, 8)] rfl rfl rfl rfl rfl rfl c),
    if_neg (fun c => fixed_not (hi := 12) (lo := 5) (c := 8) 3 1 0 0 8 [(0x18, 8)] rfl rfl rfl rfl rfl rfl c),
    if_neg (fun c => fixed_not (hi := 12) (lo := 5) (c := 16) 3 1 0 0 8 [(0x18, 8)] rfl rfl rfl rfl rfl rfl c),
    if_pos (fixed_is (hi := 12) (lo := 5) (c := 24) 3 1 0 [(0x18, 8)] rfl rfl rfl rfl rfl),
    field_is (hi := 24) (lo := 21) 1 k rfl rfl rfl,
    field_is (hi := 20) (lo := 13) 2 r rfl rfl rfl,
    guard_is (flag_is 4 gd.n rfl rfl rfl) (field_is (hi := 3) (lo := 0) 5 gd.g rfl rfl rfl)]

theorem pcnt k r gd : Statement (.pcnt k r gd) := by
  rintro _ ⟨⟩
  rw [decode_33 _ (top_is (fixed_is (hi := 31) (lo := 25) (c := 51) 0 1 0 [(0x33, 7)] rfl rfl rfl rfl rfl) rfl),
    decode33,
    if_neg (fun c => fixed_not (hi := 12) (lo := 5) (c := 0) 3 1 0 0 8 [(0x20, 8)] rfl rfl rfl rfl rfl rfl c),
    if_neg (fun c => fixed_not (hi := 12) (lo := 5) (c := 8) 3 1 0 0 8 [(0x20, 8)] rfl rfl rfl rfl rfl rfl c),
    if_neg (fun c => fixed_not (hi := 12) (lo := 5) (c := 16) 3 1 0 0 8 [(0x20, 8)] rfl rfl rfl rfl rfl rfl c),
    if_neg (fun c => fixed_not (hi := 12) (lo := 5) (c := 24) 3 1 0 0 8 [(0x20, 8)] rfl rfl rfl rfl rfl rfl c),
    if_pos (fixed_is (hi := 12) (lo := 5) (c := 32) 3 1 0 [(0x20, 8)] rfl rfl rfl rfl rfl),
    field_is (hi := 24) (lo := 21) 1 k rfl rfl rfl,
    field_is (hi := 20) (lo := 13) 2 r rfl rfl rfl,
    guard_is (flag_is 4 gd.n rfl rfl rfl) (field_is (hi := 3) (lo := 0) 5 gd.g rfl rfl rfl)]

set_option maxRecDepth 20000 in
theorem xmget r : Statement (.xmget r) := by
  rintro _ ⟨⟩
  rw [decode_33 _ (top_is (fixed_is (hi := 31) (lo := 25) (c := 51) 0 1 4 [(0x330, 11)] rfl rfl rfl rfl rfl) rfl),
    decode33,
    if_neg (fun c => fixed_not (hi := 12) (lo := 5) (c := 0) 2 1 5 0 8 [(0x50F, 13)] rfl rfl rfl rfl rfl rfl c),
    if_neg (fun c => fixed_not (hi := 12) (lo := 5) (c := 8) 2 1 5 0 8 [(0x50F, 13)] rfl rfl rfl rfl rfl rfl c),
    if_neg (fun c => fixed_not (hi := 12) (lo := 5) (c := 16) 2 1 5 0 8 [(0x50F, 13)] rfl rfl rfl rfl rfl rfl c),
    if_neg (fun c => fixed_not (hi := 12) (lo := 5) (c := 24) 2 1 5 0 8 [(0x50F, 13)] rfl rfl rfl rfl rfl rfl c),
    if_neg (fun c => fixed_not (hi := 12) (lo := 5) (c := 32) 2 1 5 0 8 [(0x50F, 13)] rfl rfl rfl rfl rfl rfl c),
    if_pos ⟨fixed_is (hi := 24) (lo := 21) (c := 0) 0 1 0 [(0x330, 11)] rfl rfl rfl rfl rfl, fixed_is (hi := 12) (lo := 0) (c := 1295) 2 1 0 [(0x50F, 13)] rfl rfl rfl rfl (by simp [value])⟩,
    field_is (hi := 20) (lo := 13) 1 r rfl rfl rfl]

set_option maxRecDepth 20000 in
theorem xmset r : Statement (.xmset r) := by
  rintro _ ⟨⟩
  rw [decode_33 _ (top_is (fixed_is (hi := 31) (lo := 25) (c := 51) 0 1 4 [(0x330, 11)] rfl rfl rfl rfl rfl) rfl),
    decode33,
    if_neg (fun c => fixed_not (hi := 12) (lo := 5) (c := 0) 2 1 5 0 8 [(0x60F, 13)] rfl rfl rfl rfl rfl rfl c),
    if_neg (fun c => fixed_not (hi := 12) (lo := 5) (c := 8) 2 1 5 0 8 [(0x60F, 13)] rfl rfl rfl rfl rfl rfl c),
    if_neg (fun c => fixed_not (hi := 12) (lo := 5) (c := 16) 2 1 5 0 8 [(0x60F, 13)] rfl rfl rfl rfl rfl rfl c),
    if_neg (fun c => fixed_not (hi := 12) (lo := 5) (c := 24) 2 1 5 0 8 [(0x60F, 13)] rfl rfl rfl rfl rfl rfl c),
    if_neg (fun c => fixed_not (hi := 12) (lo := 5) (c := 32) 2 1 5 0 8 [(0x60F, 13)] rfl rfl rfl rfl rfl rfl c),
    if_neg (fun c => fixed_not (hi := 12) (lo := 0) (c := 1295) 2 1 0 0 13 [(0x60F, 13)] rfl rfl rfl rfl rfl rfl c.2),
    if_pos ⟨fixed_is (hi := 24) (lo := 21) (c := 0) 0 1 0 [(0x330, 11)] rfl rfl rfl rfl rfl, fixed_is (hi := 12) (lo := 0) (c := 1551) 2 1 0 [(0x60F, 13)] rfl rfl rfl rfl (by simp [value])⟩,
    field_is (hi := 20) (lo := 13) 1 r rfl rfl rfl]

theorem vmatch k c a gd : Statement (.vmatch k c a gd) := by
  rintro _ ⟨⟩
  rw [decode_34 _ (top_is (fixed_is (hi := 31) (lo := 25) (c := 52) 0 1 0 [(0x34, 7)] rfl rfl rfl rfl rfl) rfl),
    decode34,
    if_pos (fixed_is (hi := 10) (lo := 5) (c := 0) 4 1 0 [(0x0, 6)] rfl rfl rfl rfl rfl),
    field_is (hi := 24) (lo := 21) 1 k rfl rfl rfl,
    field_is (hi := 20) (lo := 17) 2 c rfl rfl rfl,
    field_is (hi := 16) (lo := 11) 3 a rfl rfl rfl,
    guard_is (flag_is 5 gd.n rfl rfl rfl) (field_is (hi := 3) (lo := 0) 6 gd.g rfl rfl rfl)]

theorem fadd d a b la lb gd : Statement (.fadd d a b la lb gd) := by
  rintro _ ⟨⟩
  rw [decode_38 _ (top_is (fixed_is (hi := 31) (lo := 25) (c := 56) 0 1 0 [(0x38, 7)] rfl rfl rfl rfl rfl) rfl),
    decode38,
    field_is (hi := 24) (lo := 19) 1 d rfl rfl rfl,
    field_is (hi := 18) (lo := 13) 2 a rfl rfl rfl,
    field_is (hi := 12) (lo := 7) 3 b rfl rfl rfl,
    flag_is (k := 6) 4 la rfl rfl rfl,
    flag_is (k := 5) 5 lb rfl rfl rfl,
    guard_is (flag_is 6 gd.n rfl rfl rfl) (field_is (hi := 3) (lo := 0) 7 gd.g rfl rfl rfl)]

theorem fsub d a b la lb gd : Statement (.fsub d a b la lb gd) := by
  rintro _ ⟨⟩
  rw [decode_39 _ (top_is (fixed_is (hi := 31) (lo := 25) (c := 57) 0 1 0 [(0x39, 7)] rfl rfl rfl rfl rfl) rfl),
    decode39,
    field_is (hi := 24) (lo := 19) 1 d rfl rfl rfl,
    field_is (hi := 18) (lo := 13) 2 a rfl rfl rfl,
    field_is (hi := 12) (lo := 7) 3 b rfl rfl rfl,
    flag_is (k := 6) 4 la rfl rfl rfl,
    flag_is (k := 5) 5 lb rfl rfl rfl,
    guard_is (flag_is 6 gd.n rfl rfl rfl) (field_is (hi := 3) (lo := 0) 7 gd.g rfl rfl rfl)]

theorem fmul d a b la lb gd : Statement (.fmul d a b la lb gd) := by
  rintro _ ⟨⟩
  rw [decode_3A _ (top_is (fixed_is (hi := 31) (lo := 25) (c := 58) 0 1 0 [(0x3A, 7)] rfl rfl rfl rfl rfl) rfl),
    decode3A,
    field_is (hi := 24) (lo := 19) 1 d rfl rfl rfl,
    field_is (hi := 18) (lo := 13) 2 a rfl rfl rfl,
    field_is (hi := 12) (lo := 7) 3 b rfl rfl rfl,
    flag_is (k := 6) 4 la rfl rfl rfl,
    flag_is (k := 5) 5 lb rfl rfl rfl,
    guard_is (flag_is 6 gd.n rfl rfl rfl) (field_is (hi := 3) (lo := 0) 7 gd.g rfl rfl rfl)]

theorem ffma d a b la lb gd : Statement (.ffma d a b la lb gd) := by
  rintro _ ⟨⟩
  rw [decode_3B _ (top_is (fixed_is (hi := 31) (lo := 25) (c := 59) 0 1 0 [(0x3B, 7)] rfl rfl rfl rfl rfl) rfl),
    decode3B,
    field_is (hi := 24) (lo := 19) 1 d rfl rfl rfl,
    field_is (hi := 18) (lo := 13) 2 a rfl rfl rfl,
    field_is (hi := 12) (lo := 7) 3 b rfl rfl rfl,
    flag_is (k := 6) 4 la rfl rfl rfl,
    flag_is (k := 5) 5 lb rfl rfl rfl,
    guard_is (flag_is 6 gd.n rfl rfl rfl) (field_is (hi := 3) (lo := 0) 7 gd.g rfl rfl rfl)]

theorem fmin d a b la lb gd : Statement (.fmin d a b la lb gd) := by
  rintro _ ⟨⟩
  rw [decode_3C _ (top_is (fixed_is (hi := 31) (lo := 25) (c := 60) 0 1 0 [(0x3C, 7)] rfl rfl rfl rfl rfl) rfl),
    decode3C,
    field_is (hi := 24) (lo := 19) 1 d rfl rfl rfl,
    field_is (hi := 18) (lo := 13) 2 a rfl rfl rfl,
    field_is (hi := 12) (lo := 7) 3 b rfl rfl rfl,
    flag_is (k := 6) 4 la rfl rfl rfl,
    flag_is (k := 5) 5 lb rfl rfl rfl,
    guard_is (flag_is 6 gd.n rfl rfl rfl) (field_is (hi := 3) (lo := 0) 7 gd.g rfl rfl rfl)]

theorem fmax d a b la lb gd : Statement (.fmax d a b la lb gd) := by
  rintro _ ⟨⟩
  rw [decode_3D _ (top_is (fixed_is (hi := 31) (lo := 25) (c := 61) 0 1 0 [(0x3D, 7)] rfl rfl rfl rfl rfl) rfl),
    decode3D,
    field_is (hi := 24) (lo := 19) 1 d rfl rfl rfl,
    field_is (hi := 18) (lo := 13) 2 a rfl rfl rfl,
    field_is (hi := 12) (lo := 7) 3 b rfl rfl rfl,
    flag_is (k := 6) 4 la rfl rfl rfl,
    flag_is (k := 5) 5 lb rfl rfl rfl,
    guard_is (flag_is 6 gd.n rfl rfl rfl) (field_is (hi := 3) (lo := 0) 7 gd.g rfl rfl rfl)]

theorem fabs d a la m gd : Statement (.fabs d a la m gd) := by
  rintro _ ⟨⟩
  rw [decode_3E _ (top_is (fixed_is (hi := 31) (lo := 25) (c := 62) 0 1 0 [(0x3E, 7)] rfl rfl rfl rfl rfl) rfl),
    decode3E,
    if_pos (fixed_is (hi := 12) (lo := 7) (c := 0) 3 1 0 [(0x0, 6)] rfl rfl rfl rfl rfl),
    field_is (hi := 24) (lo := 19) 1 d rfl rfl rfl,
    field_is (hi := 18) (lo := 13) 2 a rfl rfl rfl,
    flag_is (k := 6) 4 la rfl rfl rfl,
    flag_is (k := 5) 5 m rfl rfl rfl,
    guard_is (flag_is 6 gd.n rfl rfl rfl) (field_is (hi := 3) (lo := 0) 7 gd.g rfl rfl rfl)]

theorem fneg d a la m gd : Statement (.fneg d a la m gd) := by
  rintro _ ⟨⟩
  rw [decode_3E _ (top_is (fixed_is (hi := 31) (lo := 25) (c := 62) 0 1 0 [(0x3E, 7)] rfl rfl rfl rfl rfl) rfl),
    decode3E,
    if_neg (fun c => fixed_not (hi := 12) (lo := 7) (c := 0) 3 1 0 0 6 [(0x1, 6)] rfl rfl rfl rfl rfl rfl c),
    if_pos (fixed_is (hi := 12) (lo := 7) (c := 1) 3 1 0 [(0x1, 6)] rfl rfl rfl rfl rfl),
    field_is (hi := 24) (lo := 19) 1 d rfl rfl rfl,
    field_is (hi := 18) (lo := 13) 2 a rfl rfl rfl,
    flag_is (k := 6) 4 la rfl rfl rfl,
    flag_is (k := 5) 5 m rfl rfl rfl,
    guard_is (flag_is 6 gd.n rfl rfl rfl) (field_is (hi := 3) (lo := 0) 7 gd.g rfl rfl rfl)]

theorem frcp d a la m gd : Statement (.frcp d a la m gd) := by
  rintro _ ⟨⟩
  rw [decode_3E _ (top_is (fixed_is (hi := 31) (lo := 25) (c := 62) 0 1 0 [(0x3E, 7)] rfl rfl rfl rfl rfl) rfl),
    decode3E,
    if_neg (fun c => fixed_not (hi := 12) (lo := 7) (c := 0) 3 1 0 0 6 [(0x2, 6)] rfl rfl rfl rfl rfl rfl c),
    if_neg (fun c => fixed_not (hi := 12) (lo := 7) (c := 1) 3 1 0 0 6 [(0x2, 6)] rfl rfl rfl rfl rfl rfl c),
    if_pos (fixed_is (hi := 12) (lo := 7) (c := 2) 3 1 0 [(0x2, 6)] rfl rfl rfl rfl rfl),
    field_is (hi := 24) (lo := 19) 1 d rfl rfl rfl,
    field_is (hi := 18) (lo := 13) 2 a rfl rfl rfl,
    flag_is (k := 6) 4 la rfl rfl rfl,
    flag_is (k := 5) 5 m rfl rfl rfl,
    guard_is (flag_is 6 gd.n rfl rfl rfl) (field_is (hi := 3) (lo := 0) 7 gd.g rfl rfl rfl)]

theorem frsq d a la m gd : Statement (.frsq d a la m gd) := by
  rintro _ ⟨⟩
  rw [decode_3E _ (top_is (fixed_is (hi := 31) (lo := 25) (c := 62) 0 1 0 [(0x3E, 7)] rfl rfl rfl rfl rfl) rfl),
    decode3E,
    if_neg (fun c => fixed_not (hi := 12) (lo := 7) (c := 0) 3 1 0 0 6 [(0x3, 6)] rfl rfl rfl rfl rfl rfl c),
    if_neg (fun c => fixed_not (hi := 12) (lo := 7) (c := 1) 3 1 0 0 6 [(0x3, 6)] rfl rfl rfl rfl rfl rfl c),
    if_neg (fun c => fixed_not (hi := 12) (lo := 7) (c := 2) 3 1 0 0 6 [(0x3, 6)] rfl rfl rfl rfl rfl rfl c),
    if_pos (fixed_is (hi := 12) (lo := 7) (c := 3) 3 1 0 [(0x3, 6)] rfl rfl rfl rfl rfl),
    field_is (hi := 24) (lo := 19) 1 d rfl rfl rfl,
    field_is (hi := 18) (lo := 13) 2 a rfl rfl rfl,
    flag_is (k := 6) 4 la rfl rfl rfl,
    flag_is (k := 5) 5 m rfl rfl rfl,
    guard_is (flag_is 6 gd.n rfl rfl rfl) (field_is (hi := 3) (lo := 0) 7 gd.g rfl rfl rfl)]

theorem fsqrt d a la m gd : Statement (.fsqrt d a la m gd) := by
  rintro _ ⟨⟩
  rw [decode_3E _ (top_is (fixed_is (hi := 31) (lo := 25) (c := 62) 0 1 0 [(0x3E, 7)] rfl rfl rfl rfl rfl) rfl),
    decode3E,
    if_neg (fun c => fixed_not (hi := 12) (lo := 7) (c := 0) 3 1 0 0 6 [(0x4, 6)] rfl rfl rfl rfl rfl rfl c),
    if_neg (fun c => fixed_not (hi := 12) (lo := 7) (c := 1) 3 1 0 0 6 [(0x4, 6)] rfl rfl rfl rfl rfl rfl c),
    if_neg (fun c => fixed_not (hi := 12) (lo := 7) (c := 2) 3 1 0 0 6 [(0x4, 6)] rfl rfl rfl rfl rfl rfl c),
    if_neg (fun c => fixed_not (hi := 12) (lo := 7) (c := 3) 3 1 0 0 6 [(0x4, 6)] rfl rfl rfl rfl rfl rfl c),
    if_pos (fixed_is (hi := 12) (lo := 7) (c := 4) 3 1 0 [(0x4, 6)] rfl rfl rfl rfl rfl),
    field_is (hi := 24) (lo := 19) 1 d rfl rfl rfl,
    field_is (hi := 18) (lo := 13) 2 a rfl rfl rfl,
    flag_is (k := 6) 4 la rfl rfl rfl,
    flag_is (k := 5) 5 m rfl rfl rfl,
    guard_is (flag_is 6 gd.n rfl rfl rfl) (field_is (hi := 3) (lo := 0) 7 gd.g rfl rfl rfl)]

theorem fexp2 d a la gd : Statement (.fexp2 d a la gd) := by
  rintro _ ⟨⟩
  rw [decode_3E _ (top_is (fixed_is (hi := 31) (lo := 25) (c := 62) 0 1 0 [(0x3E, 7)] rfl rfl rfl rfl rfl) rfl),
    decode3E,
    if_neg (fun c => fixed_not (hi := 12) (lo := 7) (c := 0) 3 1 0 0 6 [(0x5, 6)] rfl rfl rfl rfl rfl rfl c),
    if_neg (fun c => fixed_not (hi := 12) (lo := 7) (c := 1) 3 1 0 0 6 [(0x5, 6)] rfl rfl rfl rfl rfl rfl c),
    if_neg (fun c => fixed_not (hi := 12) (lo := 7) (c := 2) 3 1 0 0 6 [(0x5, 6)] rfl rfl rfl rfl rfl rfl c),
    if_neg (fun c => fixed_not (hi := 12) (lo := 7) (c := 3) 3 1 0 0 6 [(0x5, 6)] rfl rfl rfl rfl rfl rfl c),
    if_neg (fun c => fixed_not (hi := 12) (lo := 7) (c := 4) 3 1 0 0 6 [(0x5, 6)] rfl rfl rfl rfl rfl rfl c),
    if_pos ⟨fixed_is (hi := 12) (lo := 7) (c := 5) 3 1 0 [(0x5, 6)] rfl rfl rfl rfl rfl, fixed_is (hi := 5) (lo := 5) (c := 0) 5 1 0 [(0x0, 1)] rfl rfl rfl rfl rfl⟩,
    field_is (hi := 24) (lo := 19) 1 d rfl rfl rfl,
    field_is (hi := 18) (lo := 13) 2 a rfl rfl rfl,
    flag_is (k := 6) 4 la rfl rfl rfl,
    guard_is (flag_is 6 gd.n rfl rfl rfl) (field_is (hi := 3) (lo := 0) 7 gd.g rfl rfl rfl)]

theorem flog2 d a la gd : Statement (.flog2 d a la gd) := by
  rintro _ ⟨⟩
  rw [decode_3E _ (top_is (fixed_is (hi := 31) (lo := 25) (c := 62) 0 1 0 [(0x3E, 7)] rfl rfl rfl rfl rfl) rfl),
    decode3E,
    if_neg (fun c => fixed_not (hi := 12) (lo := 7) (c := 0) 3 1 0 0 6 [(0x6, 6)] rfl rfl rfl rfl rfl rfl c),
    if_neg (fun c => fixed_not (hi := 12) (lo := 7) (c := 1) 3 1 0 0 6 [(0x6, 6)] rfl rfl rfl rfl rfl rfl c),
    if_neg (fun c => fixed_not (hi := 12) (lo := 7) (c := 2) 3 1 0 0 6 [(0x6, 6)] rfl rfl rfl rfl rfl rfl c),
    if_neg (fun c => fixed_not (hi := 12) (lo := 7) (c := 3) 3 1 0 0 6 [(0x6, 6)] rfl rfl rfl rfl rfl rfl c),
    if_neg (fun c => fixed_not (hi := 12) (lo := 7) (c := 4) 3 1 0 0 6 [(0x6, 6)] rfl rfl rfl rfl rfl rfl c),
    if_neg (fun c => fixed_not (hi := 12) (lo := 7) (c := 5) 3 1 0 0 6 [(0x6, 6)] rfl rfl rfl rfl rfl rfl c.1),
    if_pos ⟨fixed_is (hi := 12) (lo := 7) (c := 6) 3 1 0 [(0x6, 6)] rfl rfl rfl rfl rfl, fixed_is (hi := 5) (lo := 5) (c := 0) 5 1 0 [(0x0, 1)] rfl rfl rfl rfl rfl⟩,
    field_is (hi := 24) (lo := 19) 1 d rfl rfl rfl,
    field_is (hi := 18) (lo := 13) 2 a rfl rfl rfl,
    flag_is (k := 6) 4 la rfl rfl rfl,
    guard_is (flag_is 6 gd.n rfl rfl rfl) (field_is (hi := 3) (lo := 0) 7 gd.g rfl rfl rfl)]

theorem fsin d a la gd : Statement (.fsin d a la gd) := by
  rintro _ ⟨⟩
  rw [decode_3E _ (top_is (fixed_is (hi := 31) (lo := 25) (c := 62) 0 1 0 [(0x3E, 7)] rfl rfl rfl rfl rfl) rfl),
    decode3E,
    if_neg (fun c => fixed_not (hi := 12) (lo := 7) (c := 0) 3 1 0 0 6 [(0x7, 6)] rfl rfl rfl rfl rfl rfl c),
    if_neg (fun c => fixed_not (hi := 12) (lo := 7) (c := 1) 3 1 0 0 6 [(0x7, 6)] rfl rfl rfl rfl rfl rfl c),
    if_neg (fun c => fixed_not (hi := 12) (lo := 7) (c := 2) 3 1 0 0 6 [(0x7, 6)] rfl rfl rfl rfl rfl rfl c),
    if_neg (fun c => fixed_not (hi := 12) (lo := 7) (c := 3) 3 1 0 0 6 [(0x7, 6)] rfl rfl rfl rfl rfl rfl c),
    if_neg (fun c => fixed_not (hi := 12) (lo := 7) (c := 4) 3 1 0 0 6 [(0x7, 6)] rfl rfl rfl rfl rfl rfl c),
    if_neg (fun c => fixed_not (hi := 12) (lo := 7) (c := 5) 3 1 0 0 6 [(0x7, 6)] rfl rfl rfl rfl rfl rfl c.1),
    if_neg (fun c => fixed_not (hi := 12) (lo := 7) (c := 6) 3 1 0 0 6 [(0x7, 6)] rfl rfl rfl rfl rfl rfl c.1),
    if_pos ⟨fixed_is (hi := 12) (lo := 7) (c := 7) 3 1 0 [(0x7, 6)] rfl rfl rfl rfl rfl, fixed_is (hi := 5) (lo := 5) (c := 0) 5 1 0 [(0x0, 1)] rfl rfl rfl rfl rfl⟩,
    field_is (hi := 24) (lo := 19) 1 d rfl rfl rfl,
    field_is (hi := 18) (lo := 13) 2 a rfl rfl rfl,
    flag_is (k := 6) 4 la rfl rfl rfl,
    guard_is (flag_is 6 gd.n rfl rfl rfl) (field_is (hi := 3) (lo := 0) 7 gd.g rfl rfl rfl)]

theorem fcos d a la gd : Statement (.fcos d a la gd) := by
  rintro _ ⟨⟩
  rw [decode_3E _ (top_is (fixed_is (hi := 31) (lo := 25) (c := 62) 0 1 0 [(0x3E, 7)] rfl rfl rfl rfl rfl) rfl),
    decode3E,
    if_neg (fun c => fixed_not (hi := 12) (lo := 7) (c := 0) 3 1 0 0 6 [(0x8, 6)] rfl rfl rfl rfl rfl rfl c),
    if_neg (fun c => fixed_not (hi := 12) (lo := 7) (c := 1) 3 1 0 0 6 [(0x8, 6)] rfl rfl rfl rfl rfl rfl c),
    if_neg (fun c => fixed_not (hi := 12) (lo := 7) (c := 2) 3 1 0 0 6 [(0x8, 6)] rfl rfl rfl rfl rfl rfl c),
    if_neg (fun c => fixed_not (hi := 12) (lo := 7) (c := 3) 3 1 0 0 6 [(0x8, 6)] rfl rfl rfl rfl rfl rfl c),
    if_neg (fun c => fixed_not (hi := 12) (lo := 7) (c := 4) 3 1 0 0 6 [(0x8, 6)] rfl rfl rfl rfl rfl rfl c),
    if_neg (fun c => fixed_not (hi := 12) (lo := 7) (c := 5) 3 1 0 0 6 [(0x8, 6)] rfl rfl rfl rfl rfl rfl c.1),
    if_neg (fun c => fixed_not (hi := 12) (lo := 7) (c := 6) 3 1 0 0 6 [(0x8, 6)] rfl rfl rfl rfl rfl rfl c.1),
    if_neg (fun c => fixed_not (hi := 12) (lo := 7) (c := 7) 3 1 0 0 6 [(0x8, 6)] rfl rfl rfl rfl rfl rfl c.1),
    if_pos ⟨fixed_is (hi := 12) (lo := 7) (c := 8) 3 1 0 [(0x8, 6)] rfl rfl rfl rfl rfl, fixed_is (hi := 5) (lo := 5) (c := 0) 5 1 0 [(0x0, 1)] rfl rfl rfl rfl rfl⟩,
    field_is (hi := 24) (lo := 19) 1 d rfl rfl rfl,
    field_is (hi := 18) (lo := 13) 2 a rfl rfl rfl,
    flag_is (k := 6) 4 la rfl rfl rfl,
    guard_is (flag_is 6 gd.n rfl rfl rfl) (field_is (hi := 3) (lo := 0) 7 gd.g rfl rfl rfl)]

theorem frnd d a la m gd : Statement (.frnd d a la m gd) := by
  rintro _ ⟨⟩
  rw [decode_3E _ (top_is (fixed_is (hi := 31) (lo := 25) (c := 62) 0 1 0 [(0x3E, 7)] rfl rfl rfl rfl rfl) rfl),
    decode3E,
    if_neg (fun c => fixed_not (hi := 12) (lo := 7) (c := 0) 3 1 0 0 6 [(0x9, 6)] rfl rfl rfl rfl rfl rfl c),
    if_neg (fun c => fixed_not (hi := 12) (lo := 7) (c := 1) 3 1 0 0 6 [(0x9, 6)] rfl rfl rfl rfl rfl rfl c),
    if_neg (fun c => fixed_not (hi := 12) (lo := 7) (c := 2) 3 1 0 0 6 [(0x9, 6)] rfl rfl rfl rfl rfl rfl c),
    if_neg (fun c => fixed_not (hi := 12) (lo := 7) (c := 3) 3 1 0 0 6 [(0x9, 6)] rfl rfl rfl rfl rfl rfl c),
    if_neg (fun c => fixed_not (hi := 12) (lo := 7) (c := 4) 3 1 0 0 6 [(0x9, 6)] rfl rfl rfl rfl rfl rfl c),
    if_neg (fun c => fixed_not (hi := 12) (lo := 7) (c := 5) 3 1 0 0 6 [(0x9, 6)] rfl rfl rfl rfl rfl rfl c.1),
    if_neg (fun c => fixed_not (hi := 12) (lo := 7) (c := 6) 3 1 0 0 6 [(0x9, 6)] rfl rfl rfl rfl rfl rfl c.1),
    if_neg (fun c => fixed_not (hi := 12) (lo := 7) (c := 7) 3 1 0 0 6 [(0x9, 6)] rfl rfl rfl rfl rfl rfl c.1),
    if_neg (fun c => fixed_not (hi := 12) (lo := 7) (c := 8) 3 1 0 0 6 [(0x9, 6)] rfl rfl rfl rfl rfl rfl c.1),
    if_pos (fixed_is (hi := 12) (lo := 7) (c := 9) 3 1 0 [(0x9, 6)] rfl rfl rfl rfl rfl),
    field_is (hi := 24) (lo := 19) 1 d rfl rfl rfl,
    field_is (hi := 18) (lo := 13) 2 a rfl rfl rfl,
    flag_is (k := 6) 4 la rfl rfl rfl,
    flag_is (k := 5) 5 m rfl rfl rfl,
    guard_is (flag_is 6 gd.n rfl rfl rfl) (field_is (hi := 3) (lo := 0) 7 gd.g rfl rfl rfl)]

theorem fclass d a la m gd : Statement (.fclass d a la m gd) := by
  rintro _ ⟨⟩
  rw [decode_3E _ (top_is (fixed_is (hi := 31) (lo := 25) (c := 62) 0 1 0 [(0x3E, 7)] rfl rfl rfl rfl rfl) rfl),
    decode3E,
    if_neg (fun c => fixed_not (hi := 12) (lo := 7) (c := 0) 3 1 0 0 6 [(0xA, 6)] rfl rfl rfl rfl rfl rfl c),
    if_neg (fun c => fixed_not (hi := 12) (lo := 7) (c := 1) 3 1 0 0 6 [(0xA, 6)] rfl rfl rfl rfl rfl rfl c),
    if_neg (fun c => fixed_not (hi := 12) (lo := 7) (c := 2) 3 1 0 0 6 [(0xA, 6)] rfl rfl rfl rfl rfl rfl c),
    if_neg (fun c => fixed_not (hi := 12) (lo := 7) (c := 3) 3 1 0 0 6 [(0xA, 6)] rfl rfl rfl rfl rfl rfl c),
    if_neg (fun c => fixed_not (hi := 12) (lo := 7) (c := 4) 3 1 0 0 6 [(0xA, 6)] rfl rfl rfl rfl rfl rfl c),
    if_neg (fun c => fixed_not (hi := 12) (lo := 7) (c := 5) 3 1 0 0 6 [(0xA, 6)] rfl rfl rfl rfl rfl rfl c.1),
    if_neg (fun c => fixed_not (hi := 12) (lo := 7) (c := 6) 3 1 0 0 6 [(0xA, 6)] rfl rfl rfl rfl rfl rfl c.1),
    if_neg (fun c => fixed_not (hi := 12) (lo := 7) (c := 7) 3 1 0 0 6 [(0xA, 6)] rfl rfl rfl rfl rfl rfl c.1),
    if_neg (fun c => fixed_not (hi := 12) (lo := 7) (c := 8) 3 1 0 0 6 [(0xA, 6)] rfl rfl rfl rfl rfl rfl c.1),
    if_neg (fun c => fixed_not (hi := 12) (lo := 7) (c := 9) 3 1 0 0 6 [(0xA, 6)] rfl rfl rfl rfl rfl rfl c),
    if_pos (fixed_is (hi := 12) (lo := 7) (c := 10) 3 1 0 [(0xA, 6)] rfl rfl rfl rfl rfl),
    field_is (hi := 24) (lo := 19) 1 d rfl rfl rfl,
    field_is (hi := 18) (lo := 13) 2 a rfl rfl rfl,
    flag_is (k := 6) 4 la rfl rfl rfl,
    flag_is (k := 5) 5 m rfl rfl rfl,
    guard_is (flag_is 6 gd.n rfl rfl rfl) (field_is (hi := 3) (lo := 0) 7 gd.g rfl rfl rfl)]

theorem fdiv d a b la lb gd : Statement (.fdiv d a b la lb gd) := by
  rintro _ ⟨⟩
  rw [decode_3F _ (top_is (fixed_is (hi := 31) (lo := 25) (c := 63) 0 1 0 [(0x3F, 7)] rfl rfl rfl rfl rfl) rfl),
    decode3F,
    field_is (hi := 24) (lo := 19) 1 d rfl rfl rfl,
    field_is (hi := 18) (lo := 13) 2 a rfl rfl rfl,
    field_is (hi := 12) (lo := 7) 3 b rfl rfl rfl,
    flag_is (k := 6) 4 la rfl rfl rfl,
    flag_is (k := 5) 5 lb rfl rfl rfl,
    guard_is (flag_is 6 gd.n rfl rfl rfl) (field_is (hi := 3) (lo := 0) 7 gd.g rfl rfl rfl)]

theorem hadd d a b la lb gd : Statement (.hadd d a b la lb gd) := by
  rintro _ ⟨⟩
  rw [decode_40 _ (top_is (fixed_is (hi := 31) (lo := 25) (c := 64) 0 1 0 [(0x40, 7)] rfl rfl rfl rfl rfl) rfl),
    decode40,
    field_is (hi := 24) (lo := 19) 1 d rfl rfl rfl,
    field_is (hi := 18) (lo := 13) 2 a rfl rfl rfl,
    field_is (hi := 12) (lo := 7) 3 b rfl rfl rfl,
    flag_is (k := 6) 4 la rfl rfl rfl,
    flag_is (k := 5) 5 lb rfl rfl rfl,
    guard_is (flag_is 6 gd.n rfl rfl rfl) (field_is (hi := 3) (lo := 0) 7 gd.g rfl rfl rfl)]

theorem hsub d a b la lb gd : Statement (.hsub d a b la lb gd) := by
  rintro _ ⟨⟩
  rw [decode_41 _ (top_is (fixed_is (hi := 31) (lo := 25) (c := 65) 0 1 0 [(0x41, 7)] rfl rfl rfl rfl rfl) rfl),
    decode41,
    field_is (hi := 24) (lo := 19) 1 d rfl rfl rfl,
    field_is (hi := 18) (lo := 13) 2 a rfl rfl rfl,
    field_is (hi := 12) (lo := 7) 3 b rfl rfl rfl,
    flag_is (k := 6) 4 la rfl rfl rfl,
    flag_is (k := 5) 5 lb rfl rfl rfl,
    guard_is (flag_is 6 gd.n rfl rfl rfl) (field_is (hi := 3) (lo := 0) 7 gd.g rfl rfl rfl)]

theorem hmul d a b la lb gd : Statement (.hmul d a b la lb gd) := by
  rintro _ ⟨⟩
  rw [decode_42 _ (top_is (fixed_is (hi := 31) (lo := 25) (c := 66) 0 1 0 [(0x42, 7)] rfl rfl rfl rfl rfl) rfl),
    decode42,
    field_is (hi := 24) (lo := 19) 1 d rfl rfl rfl,
    field_is (hi := 18) (lo := 13) 2 a rfl rfl rfl,
    field_is (hi := 12) (lo := 7) 3 b rfl rfl rfl,
    flag_is (k := 6) 4 la rfl rfl rfl,
    flag_is (k := 5) 5 lb rfl rfl rfl,
    guard_is (flag_is 6 gd.n rfl rfl rfl) (field_is (hi := 3) (lo := 0) 7 gd.g rfl rfl rfl)]

theorem hfma d a b la lb gd : Statement (.hfma d a b la lb gd) := by
  rintro _ ⟨⟩
  rw [decode_43 _ (top_is (fixed_is (hi := 31) (lo := 25) (c := 67) 0 1 0 [(0x43, 7)] rfl rfl rfl rfl rfl) rfl),
    decode43,
    field_is (hi := 24) (lo := 19) 1 d rfl rfl rfl,
    field_is (hi := 18) (lo := 13) 2 a rfl rfl rfl,
    field_is (hi := 12) (lo := 7) 3 b rfl rfl rfl,
    flag_is (k := 6) 4 la rfl rfl rfl,
    flag_is (k := 5) 5 lb rfl rfl rfl,
    guard_is (flag_is 6 gd.n rfl rfl rfl) (field_is (hi := 3) (lo := 0) 7 gd.g rfl rfl rfl)]

theorem hmin d a b la lb gd : Statement (.hmin d a b la lb gd) := by
  rintro _ ⟨⟩
  rw [decode_44 _ (top_is (fixed_is (hi := 31) (lo := 25) (c := 68) 0 1 0 [(0x44, 7)] rfl rfl rfl rfl rfl) rfl),
    decode44,
    field_is (hi := 24) (lo := 19) 1 d rfl rfl rfl,
    field_is (hi := 18) (lo := 13) 2 a rfl rfl rfl,
    field_is (hi := 12) (lo := 7) 3 b rfl rfl rfl,
    flag_is (k := 6) 4 la rfl rfl rfl,
    flag_is (k := 5) 5 lb rfl rfl rfl,
    guard_is (flag_is 6 gd.n rfl rfl rfl) (field_is (hi := 3) (lo := 0) 7 gd.g rfl rfl rfl)]

theorem hmax d a b la lb gd : Statement (.hmax d a b la lb gd) := by
  rintro _ ⟨⟩
  rw [decode_45 _ (top_is (fixed_is (hi := 31) (lo := 25) (c := 69) 0 1 0 [(0x45, 7)] rfl rfl rfl rfl rfl) rfl),
    decode45,
    field_is (hi := 24) (lo := 19) 1 d rfl rfl rfl,
    field_is (hi := 18) (lo := 13) 2 a rfl rfl rfl,
    field_is (hi := 12) (lo := 7) 3 b rfl rfl rfl,
    flag_is (k := 6) 4 la rfl rfl rfl,
    flag_is (k := 5) 5 lb rfl rfl rfl,
    guard_is (flag_is 6 gd.n rfl rfl rfl) (field_is (hi := 3) (lo := 0) 7 gd.g rfl rfl rfl)]

theorem badd d a b la lb gd : Statement (.badd d a b la lb gd) := by
  rintro _ ⟨⟩
  rw [decode_46 _ (top_is (fixed_is (hi := 31) (lo := 25) (c := 70) 0 1 0 [(0x46, 7)] rfl rfl rfl rfl rfl) rfl),
    decode46,
    field_is (hi := 24) (lo := 19) 1 d rfl rfl rfl,
    field_is (hi := 18) (lo := 13) 2 a rfl rfl rfl,
    field_is (hi := 12) (lo := 7) 3 b rfl rfl rfl,
    flag_is (k := 6) 4 la rfl rfl rfl,
    flag_is (k := 5) 5 lb rfl rfl rfl,
    guard_is (flag_is 6 gd.n rfl rfl rfl) (field_is (hi := 3) (lo := 0) 7 gd.g rfl rfl rfl)]

theorem bsub d a b la lb gd : Statement (.bsub d a b la lb gd) := by
  rintro _ ⟨⟩
  rw [decode_47 _ (top_is (fixed_is (hi := 31) (lo := 25) (c := 71) 0 1 0 [(0x47, 7)] rfl rfl rfl rfl rfl) rfl),
    decode47,
    field_is (hi := 24) (lo := 19) 1 d rfl rfl rfl,
    field_is (hi := 18) (lo := 13) 2 a rfl rfl rfl,
    field_is (hi := 12) (lo := 7) 3 b rfl rfl rfl,
    flag_is (k := 6) 4 la rfl rfl rfl,
    flag_is (k := 5) 5 lb rfl rfl rfl,
    guard_is (flag_is 6 gd.n rfl rfl rfl) (field_is (hi := 3) (lo := 0) 7 gd.g rfl rfl rfl)]

theorem bmul d a b la lb gd : Statement (.bmul d a b la lb gd) := by
  rintro _ ⟨⟩
  rw [decode_48 _ (top_is (fixed_is (hi := 31) (lo := 25) (c := 72) 0 1 0 [(0x48, 7)] rfl rfl rfl rfl rfl) rfl),
    decode48,
    field_is (hi := 24) (lo := 19) 1 d rfl rfl rfl,
    field_is (hi := 18) (lo := 13) 2 a rfl rfl rfl,
    field_is (hi := 12) (lo := 7) 3 b rfl rfl rfl,
    flag_is (k := 6) 4 la rfl rfl rfl,
    flag_is (k := 5) 5 lb rfl rfl rfl,
    guard_is (flag_is 6 gd.n rfl rfl rfl) (field_is (hi := 3) (lo := 0) 7 gd.g rfl rfl rfl)]

theorem bfma d a b la lb gd : Statement (.bfma d a b la lb gd) := by
  rintro _ ⟨⟩
  rw [decode_49 _ (top_is (fixed_is (hi := 31) (lo := 25) (c := 73) 0 1 0 [(0x49, 7)] rfl rfl rfl rfl rfl) rfl),
    decode49,
    field_is (hi := 24) (lo := 19) 1 d rfl rfl rfl,
    field_is (hi := 18) (lo := 13) 2 a rfl rfl rfl,
    field_is (hi := 12) (lo := 7) 3 b rfl rfl rfl,
    flag_is (k := 6) 4 la rfl rfl rfl,
    flag_is (k := 5) 5 lb rfl rfl rfl,
    guard_is (flag_is 6 gd.n rfl rfl rfl) (field_is (hi := 3) (lo := 0) 7 gd.g rfl rfl rfl)]

theorem bmin d a b la lb gd : Statement (.bmin d a b la lb gd) := by
  rintro _ ⟨⟩
  rw [decode_4A _ (top_is (fixed_is (hi := 31) (lo := 25) (c := 74) 0 1 0 [(0x4A, 7)] rfl rfl rfl rfl rfl) rfl),
    decode4A,
    field_is (hi := 24) (lo := 19) 1 d rfl rfl rfl,
    field_is (hi := 18) (lo := 13) 2 a rfl rfl rfl,
    field_is (hi := 12) (lo := 7) 3 b rfl rfl rfl,
    flag_is (k := 6) 4 la rfl rfl rfl,
    flag_is (k := 5) 5 lb rfl rfl rfl,
    guard_is (flag_is 6 gd.n rfl rfl rfl) (field_is (hi := 3) (lo := 0) 7 gd.g rfl rfl rfl)]

theorem bmax d a b la lb gd : Statement (.bmax d a b la lb gd) := by
  rintro _ ⟨⟩
  rw [decode_4B _ (top_is (fixed_is (hi := 31) (lo := 25) (c := 75) 0 1 0 [(0x4B, 7)] rfl rfl rfl rfl rfl) rfl),
    decode4B,
    field_is (hi := 24) (lo := 19) 1 d rfl rfl rfl,
    field_is (hi := 18) (lo := 13) 2 a rfl rfl rfl,
    field_is (hi := 12) (lo := 7) 3 b rfl rfl rfl,
    flag_is (k := 6) 4 la rfl rfl rfl,
    flag_is (k := 5) 5 lb rfl rfl rfl,
    guard_is (flag_is 6 gd.n rfl rfl rfl) (field_is (hi := 3) (lo := 0) 7 gd.g rfl rfl rfl)]

theorem dadd d a b la lb gd : Statement (.dadd d a b la lb gd) := by
  rintro _ ⟨⟩
  rw [decode_4C _ (top_is (fixed_is (hi := 31) (lo := 25) (c := 76) 0 1 0 [(0x4C, 7)] rfl rfl rfl rfl rfl) rfl),
    decode4C,
    field_is (hi := 24) (lo := 19) 1 d rfl rfl rfl,
    field_is (hi := 18) (lo := 13) 2 a rfl rfl rfl,
    field_is (hi := 12) (lo := 7) 3 b rfl rfl rfl,
    flag_is (k := 6) 4 la rfl rfl rfl,
    flag_is (k := 5) 5 lb rfl rfl rfl,
    guard_is (flag_is 6 gd.n rfl rfl rfl) (field_is (hi := 3) (lo := 0) 7 gd.g rfl rfl rfl)]

theorem dsub d a b la lb gd : Statement (.dsub d a b la lb gd) := by
  rintro _ ⟨⟩
  rw [decode_4D _ (top_is (fixed_is (hi := 31) (lo := 25) (c := 77) 0 1 0 [(0x4D, 7)] rfl rfl rfl rfl rfl) rfl),
    decode4D,
    field_is (hi := 24) (lo := 19) 1 d rfl rfl rfl,
    field_is (hi := 18) (lo := 13) 2 a rfl rfl rfl,
    field_is (hi := 12) (lo := 7) 3 b rfl rfl rfl,
    flag_is (k := 6) 4 la rfl rfl rfl,
    flag_is (k := 5) 5 lb rfl rfl rfl,
    guard_is (flag_is 6 gd.n rfl rfl rfl) (field_is (hi := 3) (lo := 0) 7 gd.g rfl rfl rfl)]

theorem dmul d a b la lb gd : Statement (.dmul d a b la lb gd) := by
  rintro _ ⟨⟩
  rw [decode_4E _ (top_is (fixed_is (hi := 31) (lo := 25) (c := 78) 0 1 0 [(0x4E, 7)] rfl rfl rfl rfl rfl) rfl),
    decode4E,
    field_is (hi := 24) (lo := 19) 1 d rfl rfl rfl,
    field_is (hi := 18) (lo := 13) 2 a rfl rfl rfl,
    field_is (hi := 12) (lo := 7) 3 b rfl rfl rfl,
    flag_is (k := 6) 4 la rfl rfl rfl,
    flag_is (k := 5) 5 lb rfl rfl rfl,
    guard_is (flag_is 6 gd.n rfl rfl rfl) (field_is (hi := 3) (lo := 0) 7 gd.g rfl rfl rfl)]

theorem dfma d a b la lb gd : Statement (.dfma d a b la lb gd) := by
  rintro _ ⟨⟩
  rw [decode_4F _ (top_is (fixed_is (hi := 31) (lo := 25) (c := 79) 0 1 0 [(0x4F, 7)] rfl rfl rfl rfl rfl) rfl),
    decode4F,
    field_is (hi := 24) (lo := 19) 1 d rfl rfl rfl,
    field_is (hi := 18) (lo := 13) 2 a rfl rfl rfl,
    field_is (hi := 12) (lo := 7) 3 b rfl rfl rfl,
    flag_is (k := 6) 4 la rfl rfl rfl,
    flag_is (k := 5) 5 lb rfl rfl rfl,
    guard_is (flag_is 6 gd.n rfl rfl rfl) (field_is (hi := 3) (lo := 0) 7 gd.g rfl rfl rfl)]

theorem cvt d a c p la m gd : Statement (.cvt d a c p la m gd) := by
  rintro _ ⟨⟩
  rw [decode_50 _ (top_is (fixed_is (hi := 31) (lo := 25) (c := 80) 0 1 0 [(0x50, 7)] rfl rfl rfl rfl rfl) rfl),
    decode50,
    field_is (hi := 24) (lo := 19) 1 d rfl rfl rfl,
    field_is (hi := 18) (lo := 13) 2 a rfl rfl rfl,
    field_is (hi := 12) (lo := 9) 3 c rfl rfl rfl,
    field_is (hi := 8) (lo := 7) 4 p rfl rfl rfl,
    flag_is (k := 6) 5 la rfl rfl rfl,
    flag_is (k := 5) 6 m rfl rfl rfl,
    guard_is (flag_is 7 gd.n rfl rfl rfl) (field_is (hi := 3) (lo := 0) 8 gd.g rfl rfl rfl)]

theorem cvts d a b la lb gd : Statement (.cvts d a b la lb gd) := by
  rintro _ ⟨⟩
  rw [decode_51 _ (top_is (fixed_is (hi := 31) (lo := 25) (c := 81) 0 1 0 [(0x51, 7)] rfl rfl rfl rfl rfl) rfl),
    decode51,
    field_is (hi := 24) (lo := 19) 1 d rfl rfl rfl,
    field_is (hi := 18) (lo := 13) 2 a rfl rfl rfl,
    field_is (hi := 12) (lo := 7) 3 b rfl rfl rfl,
    flag_is (k := 6) 4 la rfl rfl rfl,
    flag_is (k := 5) 5 lb rfl rfl rfl,
    guard_is (flag_is 6 gd.n rfl rfl rfl) (field_is (hi := 3) (lo := 0) 7 gd.g rfl rfl rfl)]

theorem pack d a b la lb gd : Statement (.pack d a b la lb gd) := by
  rintro _ ⟨⟩
  rw [decode_52 _ (top_is (fixed_is (hi := 31) (lo := 25) (c := 82) 0 1 0 [(0x52, 7)] rfl rfl rfl rfl rfl) rfl),
    decode52,
    field_is (hi := 24) (lo := 19) 1 d rfl rfl rfl,
    field_is (hi := 18) (lo := 13) 2 a rfl rfl rfl,
    field_is (hi := 12) (lo := 7) 3 b rfl rfl rfl,
    flag_is (k := 6) 4 la rfl rfl rfl,
    flag_is (k := 5) 5 lb rfl rfl rfl,
    guard_is (flag_is 6 gd.n rfl rfl rfl) (field_is (hi := 3) (lo := 0) 7 gd.g rfl rfl rfl)]

theorem unpk d a c p la gd : Statement (.unpk d a c p la gd) := by
  rintro _ ⟨⟩
  rw [decode_53 _ (top_is (fixed_is (hi := 31) (lo := 25) (c := 83) 0 1 0 [(0x53, 7)] rfl rfl rfl rfl rfl) rfl),
    decode53,
    if_pos (fixed_is (hi := 5) (lo := 5) (c := 0) 6 1 0 [(0x0, 1)] rfl rfl rfl rfl rfl),
    field_is (hi := 24) (lo := 19) 1 d rfl rfl rfl,
    field_is (hi := 18) (lo := 13) 2 a rfl rfl rfl,
    field_is (hi := 12) (lo := 9) 3 c rfl rfl rfl,
    field_is (hi := 8) (lo := 7) 4 p rfl rfl rfl,
    flag_is (k := 6) 5 la rfl rfl rfl,
    guard_is (flag_is 7 gd.n rfl rfl rfl) (field_is (hi := 3) (lo := 0) 8 gd.g rfl rfl rfl)]

theorem rnd d a s la m gd : Statement (.rnd d a s la m gd) := by
  rintro _ ⟨⟩
  rw [decode_54 _ (top_is (fixed_is (hi := 31) (lo := 25) (c := 84) 0 1 0 [(0x54, 7)] rfl rfl rfl rfl rfl) rfl),
    decode54,
    if_pos (fixed_is (hi := 12) (lo := 12) (c := 0) 3 1 0 [(0x0, 1)] rfl rfl rfl rfl rfl),
    field_is (hi := 24) (lo := 19) 1 d rfl rfl rfl,
    field_is (hi := 18) (lo := 13) 2 a rfl rfl rfl,
    field_is (hi := 11) (lo := 7) 4 s rfl rfl rfl,
    flag_is (k := 6) 5 la rfl rfl rfl,
    flag_is (k := 5) 6 m rfl rfl rfl,
    guard_is (flag_is 7 gd.n rfl rfl rfl) (field_is (hi := 3) (lo := 0) 8 gd.g rfl rfl rfl)]

theorem rslice d a w la m gd : Statement (.rslice d a w la m gd) := by
  rintro _ ⟨⟩
  rw [decode_55 _ (top_is (fixed_is (hi := 31) (lo := 25) (c := 85) 0 1 0 [(0x55, 7)] rfl rfl rfl rfl rfl) rfl),
    decode55,
    if_pos (fixed_is (hi := 9) (lo := 7) (c := 0) 4 1 0 [(0x0, 3)] rfl rfl rfl rfl rfl),
    field_is (hi := 24) (lo := 19) 1 d rfl rfl rfl,
    field_is (hi := 18) (lo := 13) 2 a rfl rfl rfl,
    field_is (hi := 12) (lo := 10) 3 w rfl rfl rfl,
    flag_is (k := 6) 5 la rfl rfl rfl,
    flag_is (k := 5) 6 m rfl rfl rfl,
    guard_is (flag_is 7 gd.n rfl rfl rfl) (field_is (hi := 3) (lo := 0) 8 gd.g rfl rfl rfl)]

theorem rbern k c a b gd : Statement (.rbern k c a b gd) := by
  rintro _ ⟨⟩
  rw [decode_56 _ (top_is (fixed_is (hi := 31) (lo := 25) (c := 86) 0 1 0 [(0x56, 7)] rfl rfl rfl rfl rfl) rfl),
    decode56,
    field_is (hi := 24) (lo := 21) 1 k rfl rfl rfl,
    field_is (hi := 20) (lo := 17) 2 c rfl rfl rfl,
    field_is (hi := 16) (lo := 11) 3 a rfl rfl rfl,
    field_is (hi := 10) (lo := 5) 4 b rfl rfl rfl,
    guard_is (flag_is 5 gd.n rfl rfl rfl) (field_is (hi := 3) (lo := 0) 6 gd.g rfl rfl rfl)]

theorem rkey a : Statement (.rkey a) := by
  rintro _ ⟨⟩
  rw [decode_57 _ (top_is (fixed_is (hi := 31) (lo := 25) (c := 87) 0 1 5 [(0xAE0, 12)] rfl rfl rfl rfl rfl) rfl),
    decode57,
    if_pos ⟨fixed_is (hi := 24) (lo := 20) (c := 0) 0 1 0 [(0xAE0, 12)] rfl rfl rfl rfl rfl, fixed_is (hi := 14) (lo := 0) (c := 0) 2 1 0 [(0x0, 15)] rfl rfl rfl rfl rfl⟩,
    field_is (hi := 19) (lo := 15) 1 a rfl rfl rfl]

theorem shfl d a b la lb gd : Statement (.shfl d a b la lb gd) := by
  rintro _ ⟨⟩
  rw [decode_58 _ (top_is (fixed_is (hi := 31) (lo := 25) (c := 88) 0 1 0 [(0x58, 7)] rfl rfl rfl rfl rfl) rfl),
    decode58,
    field_is (hi := 24) (lo := 19) 1 d rfl rfl rfl,
    field_is (hi := 18) (lo := 13) 2 a rfl rfl rfl,
    field_is (hi := 12) (lo := 7) 3 b rfl rfl rfl,
    flag_is (k := 6) 4 la rfl rfl rfl,
    flag_is (k := 5) 5 lb rfl rfl rfl,
    guard_is (flag_is 6 gd.n rfl rfl rfl) (field_is (hi := 3) (lo := 0) 7 gd.g rfl rfl rfl)]

theorem shfx d a i gd : Statement (.shfx d a i gd) := by
  rintro _ ⟨⟩
  rw [decode_59 _ (top_is (fixed_is (hi := 31) (lo := 25) (c := 89) 0 1 0 [(0x59, 7)] rfl rfl rfl rfl rfl) rfl),
    decode59,
    field_is (hi := 24) (lo := 19) 1 d rfl rfl rfl,
    field_is (hi := 18) (lo := 13) 2 a rfl rfl rfl,
    field_is (hi := 12) (lo := 5) 3 i rfl rfl rfl,
    guard_is (flag_is 4 gd.n rfl rfl rfl) (field_is (hi := 3) (lo := 0) 5 gd.g rfl rfl rfl)]

theorem shfu d a i gd : Statement (.shfu d a i gd) := by
  rintro _ ⟨⟩
  rw [decode_5A _ (top_is (fixed_is (hi := 31) (lo := 25) (c := 90) 0 1 0 [(0x5A, 7)] rfl rfl rfl rfl rfl) rfl),
    decode5A,
    field_is (hi := 24) (lo := 19) 1 d rfl rfl rfl,
    field_is (hi := 18) (lo := 13) 2 a rfl rfl rfl,
    field_is (hi := 12) (lo := 5) 3 i rfl rfl rfl,
    guard_is (flag_is 4 gd.n rfl rfl rfl) (field_is (hi := 3) (lo := 0) 5 gd.g rfl rfl rfl)]

theorem shfd d a i gd : Statement (.shfd d a i gd) := by
  rintro _ ⟨⟩
  rw [decode_5B _ (top_is (fixed_is (hi := 31) (lo := 25) (c := 91) 0 1 0 [(0x5B, 7)] rfl rfl rfl rfl rfl) rfl),
    decode5B,
    field_is (hi := 24) (lo := 19) 1 d rfl rfl rfl,
    field_is (hi := 18) (lo := 13) 2 a rfl rfl rfl,
    field_is (hi := 12) (lo := 5) 3 i rfl rfl rfl,
    guard_is (flag_is 4 gd.n rfl rfl rfl) (field_is (hi := 3) (lo := 0) 5 gd.g rfl rfl rfl)]

theorem bcst d a s x gd : Statement (.bcst d a s x gd) := by
  rintro _ ⟨⟩
  rw [decode_5C _ (top_is (fixed_is (hi := 31) (lo := 25) (c := 92) 0 1 0 [(0x5C, 7)] rfl rfl rfl rfl rfl) rfl),
    decode5C,
    field_is (hi := 24) (lo := 19) 1 d rfl rfl rfl,
    field_is (hi := 18) (lo := 13) 2 a rfl rfl rfl,
    field_is (hi := 12) (lo := 8) 3 s rfl rfl rfl,
    field_is (hi := 7) (lo := 5) 4 x rfl rfl rfl,
    guard_is (flag_is 5 gd.n rfl rfl rfl) (field_is (hi := 3) (lo := 0) 6 gd.g rfl rfl rfl)]

theorem rdfl k a s w gd : Statement (.rdfl k a s w gd) := by
  rintro _ ⟨⟩
  rw [decode_5D _ (top_is (fixed_is (hi := 31) (lo := 25) (c := 93) 0 1 0 [(0x5D, 7)] rfl rfl rfl rfl rfl) rfl),
    decode5D,
    if_pos (fixed_is (hi := 7) (lo := 6) (c := 0) 4 1 0 [(0x0, 2)] rfl rfl rfl rfl rfl),
    field_is (hi := 24) (lo := 19) 1 k rfl rfl rfl,
    field_is (hi := 18) (lo := 13) 2 a rfl rfl rfl,
    field_is (hi := 12) (lo := 8) 3 s rfl rfl rfl,
    flag_is (k := 5) 5 w rfl rfl rfl,
    guard_is (flag_is 6 gd.n rfl rfl rfl) (field_is (hi := 3) (lo := 0) 7 gd.g rfl rfl rfl)]

theorem vred d a f la gd : Statement (.vred d a f la gd) := by
  rintro _ ⟨⟩
  rw [decode_5E _ (top_is (fixed_is (hi := 31) (lo := 25) (c := 94) 0 1 0 [(0x5E, 7)] rfl rfl rfl rfl rfl) rfl),
    decode5E,
    if_pos (fixed_is (hi := 5) (lo := 5) (c := 0) 5 1 0 [(0x0, 1)] rfl rfl rfl rfl rfl),
    field_is (hi := 24) (lo := 19) 1 d rfl rfl rfl,
    field_is (hi := 18) (lo := 13) 2 a rfl rfl rfl,
    field_is (hi := 12) (lo := 7) 3 f rfl rfl rfl,
    flag_is (k := 6) 4 la rfl rfl rfl,
    guard_is (flag_is 6 gd.n rfl rfl rfl) (field_is (hi := 3) (lo := 0) 7 gd.g rfl rfl rfl)]

theorem vscan d a f la e gd : Statement (.vscan d a f la e gd) := by
  rintro _ ⟨⟩
  rw [decode_5F _ (top_is (fixed_is (hi := 31) (lo := 25) (c := 95) 0 1 0 [(0x5F, 7)] rfl rfl rfl rfl rfl) rfl),
    decode5F,
    field_is (hi := 24) (lo := 19) 1 d rfl rfl rfl,
    field_is (hi := 18) (lo := 13) 2 a rfl rfl rfl,
    field_is (hi := 12) (lo := 7) 3 f rfl rfl rfl,
    flag_is (k := 6) 4 la rfl rfl rfl,
    flag_is (k := 5) 5 e rfl rfl rfl,
    guard_is (flag_is 6 gd.n rfl rfl rfl) (field_is (hi := 3) (lo := 0) 7 gd.g rfl rfl rfl)]

theorem ld d p q i s w gd : Statement (.ld d p q i s w gd) := by
  rintro _ ⟨⟩
  rw [decode_60 _ (top_is (fixed_is (hi := 31) (lo := 25) (c := 96) 0 1 0 [(0x60, 7)] rfl rfl rfl rfl rfl) rfl),
    decode60,
    field_is (hi := 24) (lo := 19) 1 d rfl rfl rfl,
    flag_is (k := 18) 2 p rfl rfl rfl,
    flag_is (k := 17) 3 q rfl rfl rfl,
    field_is (hi := 16) (lo := 13) 4 i rfl rfl rfl,
    field_is (hi := 12) (lo := 8) 5 s rfl rfl rfl,
    field_is (hi := 7) (lo := 5) 6 w rfl rfl rfl,
    guard_is (flag_is 7 gd.n rfl rfl rfl) (field_is (hi := 3) (lo := 0) 8 gd.g rfl rfl rfl)]

theorem st d p q i s w gd : Statement (.st d p q i s w gd) := by
  rintro _ ⟨⟩
  rw [decode_61 _ (top_is (fixed_is (hi := 31) (lo := 25) (c := 97) 0 1 0 [(0x61, 7)] rfl rfl rfl rfl rfl) rfl),
    decode61,
    field_is (hi := 24) (lo := 19) 1 d rfl rfl rfl,
    flag_is (k := 18) 2 p rfl rfl rfl,
    flag_is (k := 17) 3 q rfl rfl rfl,
    field_is (hi := 16) (lo := 13) 4 i rfl rfl rfl,
    field_is (hi := 12) (lo := 8) 5 s rfl rfl rfl,
    field_is (hi := 7) (lo := 5) 6 w rfl rfl rfl,
    guard_is (flag_is 7 gd.n rfl rfl rfl) (field_is (hi := 3) (lo := 0) 8 gd.g rfl rfl rfl)]

theorem lda d p q i s w gd : Statement (.lda d p q i s w gd) := by
  rintro _ ⟨⟩
  rw [decode_62 _ (top_is (fixed_is (hi := 31) (lo := 25) (c := 98) 0 1 0 [(0x62, 7)] rfl rfl rfl rfl rfl) rfl),
    decode62,
    field_is (hi := 24) (lo := 19) 1 d rfl rfl rfl,
    flag_is (k := 18) 2 p rfl rfl rfl,
    flag_is (k := 17) 3 q rfl rfl rfl,
    field_is (hi := 16) (lo := 13) 4 i rfl rfl rfl,
    field_is (hi := 12) (lo := 8) 5 s rfl rfl rfl,
    field_is (hi := 7) (lo := 5) 6 w rfl rfl rfl,
    guard_is (flag_is 7 gd.n rfl rfl rfl) (field_is (hi := 3) (lo := 0) 8 gd.g rfl rfl rfl)]

theorem sta d p q i s w gd : Statement (.sta d p q i s w gd) := by
  rintro _ ⟨⟩
  rw [decode_63 _ (top_is (fixed_is (hi := 31) (lo := 25) (c := 99) 0 1 0 [(0x63, 7)] rfl rfl rfl rfl rfl) rfl),
    decode63,
    field_is (hi := 24) (lo := 19) 1 d rfl rfl rfl,
    flag_is (k := 18) 2 p rfl rfl rfl,
    flag_is (k := 17) 3 q rfl rfl rfl,
    field_is (hi := 16) (lo := 13) 4 i rfl rfl rfl,
    field_is (hi := 12) (lo := 8) 5 s rfl rfl rfl,
    field_is (hi := 7) (lo := 5) 6 w rfl rfl rfl,
    guard_is (flag_is 7 gd.n rfl rfl rfl) (field_is (hi := 3) (lo := 0) 8 gd.g rfl rfl rfl)]

theorem ldw d p q i s w gd : Statement (.ldw d p q i s w gd) := by
  rintro _ ⟨⟩
  rw [decode_64 _ (top_is (fixed_is (hi := 31) (lo := 25) (c := 100) 0 1 0 [(0x64, 7)] rfl rfl rfl rfl rfl) rfl),
    decode64,
    field_is (hi := 24) (lo := 19) 1 d rfl rfl rfl,
    flag_is (k := 18) 2 p rfl rfl rfl,
    flag_is (k := 17) 3 q rfl rfl rfl,
    field_is (hi := 16) (lo := 13) 4 i rfl rfl rfl,
    field_is (hi := 12) (lo := 8) 5 s rfl rfl rfl,
    field_is (hi := 7) (lo := 5) 6 w rfl rfl rfl,
    guard_is (flag_is 7 gd.n rfl rfl rfl) (field_is (hi := 3) (lo := 0) 8 gd.g rfl rfl rfl)]

theorem stw d p q i s w gd : Statement (.stw d p q i s w gd) := by
  rintro _ ⟨⟩
  rw [decode_65 _ (top_is (fixed_is (hi := 31) (lo := 25) (c := 101) 0 1 0 [(0x65, 7)] rfl rfl rfl rfl rfl) rfl),
    decode65,
    field_is (hi := 24) (lo := 19) 1 d rfl rfl rfl,
    flag_is (k := 18) 2 p rfl rfl rfl,
    flag_is (k := 17) 3 q rfl rfl rfl,
    field_is (hi := 16) (lo := 13) 4 i rfl rfl rfl,
    field_is (hi := 12) (lo := 8) 5 s rfl rfl rfl,
    field_is (hi := 7) (lo := 5) 6 w rfl rfl rfl,
    guard_is (flag_is 7 gd.n rfl rfl rfl) (field_is (hi := 3) (lo := 0) 8 gd.g rfl rfl rfl)]

theorem ldc d p q i s w gd : Statement (.ldc d p q i s w gd) := by
  rintro _ ⟨⟩
  rw [decode_66 _ (top_is (fixed_is (hi := 31) (lo := 25) (c := 102) 0 1 0 [(0x66, 7)] rfl rfl rfl rfl rfl) rfl),
    decode66,
    field_is (hi := 24) (lo := 19) 1 d rfl rfl rfl,
    flag_is (k := 18) 2 p rfl rfl rfl,
    flag_is (k := 17) 3 q rfl rfl rfl,
    field_is (hi := 16) (lo := 13) 4 i rfl rfl rfl,
    field_is (hi := 12) (lo := 8) 5 s rfl rfl rfl,
    field_is (hi := 7) (lo := 5) 6 w rfl rfl rfl,
    guard_is (flag_is 7 gd.n rfl rfl rfl) (field_is (hi := 3) (lo := 0) 8 gd.g rfl rfl rfl)]

theorem stc d p q i s w gd : Statement (.stc d p q i s w gd) := by
  rintro _ ⟨⟩
  rw [decode_67 _ (top_is (fixed_is (hi := 31) (lo := 25) (c := 103) 0 1 0 [(0x67, 7)] rfl rfl rfl rfl rfl) rfl),
    decode67,
    field_is (hi := 24) (lo := 19) 1 d rfl rfl rfl,
    flag_is (k := 18) 2 p rfl rfl rfl,
    flag_is (k := 17) 3 q rfl rfl rfl,
    field_is (hi := 16) (lo := 13) 4 i rfl rfl rfl,
    field_is (hi := 12) (lo := 8) 5 s rfl rfl rfl,
    field_is (hi := 7) (lo := 5) 6 w rfl rfl rfl,
    guard_is (flag_is 7 gd.n rfl rfl rfl) (field_is (hi := 3) (lo := 0) 8 gd.g rfl rfl rfl)]

theorem ldt d a s w gd : Statement (.ldt d a s w gd) := by
  rintro _ ⟨⟩
  rw [decode_68 _ (top_is (fixed_is (hi := 31) (lo := 25) (c := 104) 0 1 0 [(0x68, 7)] rfl rfl rfl rfl rfl) rfl),
    decode68,
    if_pos (fixed_is (hi := 7) (lo := 6) (c := 0) 4 1 0 [(0x0, 2)] rfl rfl rfl rfl rfl),
    field_is (hi := 24) (lo := 19) 1 d rfl rfl rfl,
    field_is (hi := 18) (lo := 13) 2 a rfl rfl rfl,
    field_is (hi := 12) (lo := 8) 3 s rfl rfl rfl,
    flag_is (k := 5) 5 w rfl rfl rfl,
    guard_is (flag_is 6 gd.n rfl rfl rfl) (field_is (hi := 3) (lo := 0) 7 gd.g rfl rfl rfl)]

theorem stt d a s w gd : Statement (.stt d a s w gd) := by
  rintro _ ⟨⟩
  rw [decode_69 _ (top_is (fixed_is (hi := 31) (lo := 25) (c := 105) 0 1 0 [(0x69, 7)] rfl rfl rfl rfl rfl) rfl),
    decode69,
    if_pos (fixed_is (hi := 7) (lo := 6) (c := 0) 4 1 0 [(0x0, 2)] rfl rfl rfl rfl rfl),
    field_is (hi := 24) (lo := 19) 1 d rfl rfl rfl,
    field_is (hi := 18) (lo := 13) 2 a rfl rfl rfl,
    field_is (hi := 12) (lo := 8) 3 s rfl rfl rfl,
    flag_is (k := 5) 5 w rfl rfl rfl,
    guard_is (flag_is 6 gd.n rfl rfl rfl) (field_is (hi := 3) (lo := 0) 7 gd.g rfl rfl rfl)]

theorem pref d p q i s gd : Statement (.pref d p q i s gd) := by
  rintro _ ⟨⟩
  rw [decode_6A _ (top_is (fixed_is (hi := 31) (lo := 25) (c := 106) 0 1 0 [(0x6A, 7)] rfl rfl rfl rfl rfl) rfl),
    decode6A,
    if_pos (fixed_is (hi := 7) (lo := 5) (c := 0) 6 1 0 [(0x0, 3)] rfl rfl rfl rfl rfl),
    field_is (hi := 24) (lo := 19) 1 d rfl rfl rfl,
    flag_is (k := 18) 2 p rfl rfl rfl,
    flag_is (k := 17) 3 q rfl rfl rfl,
    field_is (hi := 16) (lo := 13) 4 i rfl rfl rfl,
    field_is (hi := 12) (lo := 8) 5 s rfl rfl rfl,
    guard_is (flag_is 7 gd.n rfl rfl rfl) (field_is (hi := 3) (lo := 0) 8 gd.g rfl rfl rfl)]

theorem cflush d p q i s gd : Statement (.cflush d p q i s gd) := by
  rintro _ ⟨⟩
  rw [decode_6A _ (top_is (fixed_is (hi := 31) (lo := 25) (c := 106) 0 1 0 [(0x6A, 7)] rfl rfl rfl rfl rfl) rfl),
    decode6A,
    if_neg (fun c => fixed_not (hi := 7) (lo := 5) (c := 0) 6 1 0 0 3 [(0x1, 3)] rfl rfl rfl rfl rfl rfl c),
    if_pos (fixed_is (hi := 7) (lo := 5) (c := 1) 6 1 0 [(0x1, 3)] rfl rfl rfl rfl rfl),
    field_is (hi := 24) (lo := 19) 1 d rfl rfl rfl,
    flag_is (k := 18) 2 p rfl rfl rfl,
    flag_is (k := 17) 3 q rfl rfl rfl,
    field_is (hi := 16) (lo := 13) 4 i rfl rfl rfl,
    field_is (hi := 12) (lo := 8) 5 s rfl rfl rfl,
    guard_is (flag_is 7 gd.n rfl rfl rfl) (field_is (hi := 3) (lo := 0) 8 gd.g rfl rfl rfl)]

theorem cinv d p q i s gd : Statement (.cinv d p q i s gd) := by
  rintro _ ⟨⟩
  rw [decode_6A _ (top_is (fixed_is (hi := 31) (lo := 25) (c := 106) 0 1 0 [(0x6A, 7)] rfl rfl rfl rfl rfl) rfl),
    decode6A,
    if_neg (fun c => fixed_not (hi := 7) (lo := 5) (c := 0) 6 1 0 0 3 [(0x2, 3)] rfl rfl rfl rfl rfl rfl c),
    if_neg (fun c => fixed_not (hi := 7) (lo := 5) (c := 1) 6 1 0 0 3 [(0x2, 3)] rfl rfl rfl rfl rfl rfl c),
    if_pos (fixed_is (hi := 7) (lo := 5) (c := 2) 6 1 0 [(0x2, 3)] rfl rfl rfl rfl rfl),
    field_is (hi := 24) (lo := 19) 1 d rfl rfl rfl,
    flag_is (k := 18) 2 p rfl rfl rfl,
    flag_is (k := 17) 3 q rfl rfl rfl,
    field_is (hi := 16) (lo := 13) 4 i rfl rfl rfl,
    field_is (hi := 12) (lo := 8) 5 s rfl rfl rfl,
    guard_is (flag_is 7 gd.n rfl rfl rfl) (field_is (hi := 3) (lo := 0) 8 gd.g rfl rfl rfl)]

theorem tidset a t : Statement (.tidset a t) := by
  rintro _ ⟨⟩
  rw [decode_6B _ (top_is (fixed_is (hi := 31) (lo := 25) (c := 107) 0 1 5 [(0xD60, 12)] rfl rfl rfl rfl rfl) rfl),
    decode6B,
    if_pos ⟨fixed_is (hi := 24) (lo := 20) (c := 0) 0 1 0 [(0xD60, 12)] rfl rfl rfl rfl rfl, fixed_is (hi := 14) (lo := 8) (c := 0) 2 1 0 [(0x0, 7)] rfl rfl rfl rfl rfl⟩,
    field_is (hi := 19) (lo := 15) 1 a rfl rfl rfl,
    field_is (hi := 7) (lo := 0) 3 t rfl rfl rfl]

theorem tidget a t : Statement (.tidget a t) := by
  rintro _ ⟨⟩
  rw [decode_6B _ (top_is (fixed_is (hi := 31) (lo := 25) (c := 107) 0 1 5 [(0xD60, 12)] rfl rfl rfl rfl rfl) rfl),
    decode6B,
    if_neg (fun c => fixed_not (hi := 14) (lo := 8) (c := 0) 2 1 0 0 7 [(0x1, 7)] rfl rfl rfl rfl rfl rfl c.2),
    if_pos ⟨fixed_is (hi := 24) (lo := 20) (c := 0) 0 1 0 [(0xD60, 12)] rfl rfl rfl rfl rfl, fixed_is (hi := 14) (lo := 8) (c := 1) 2 1 0 [(0x1, 7)] rfl rfl rfl rfl rfl⟩,
    field_is (hi := 19) (lo := 15) 1 a rfl rfl rfl,
    field_is (hi := 7) (lo := 0) 3 t rfl rfl rfl]

theorem tidinv t : Statement (.tidinv t) := by
  rintro _ ⟨⟩
  rw [decode_6B _ (top_is (fixed_is (hi := 31) (lo := 25) (c := 107) 0 1 17 [(0xD60002, 24)] rfl rfl rfl rfl rfl) rfl),
    decode6B,
    if_neg (fun c => fixed_not (hi := 14) (lo := 8) (c := 0) 0 1 0 0 7 [(0xD60002, 24)] rfl rfl rfl rfl rfl rfl c.2),
    if_neg (fun c => fixed_not (hi := 14) (lo := 8) (c := 1) 0 1 0 0 7 [(0xD60002, 24)] rfl rfl rfl rfl rfl rfl c.2),
    if_pos (fixed_is (hi := 24) (lo := 8) (c := 2) 0 1 0 [(0xD60002, 24)] rfl rfl rfl rfl rfl),
    field_is (hi := 7) (lo := 0) 1 t rfl rfl rfl]

theorem atom d a f t la m gd : Statement (.atom d a f t la m gd) := by
  rintro _ ⟨⟩
  rw [decode_6C _ (top_is (fixed_is (hi := 31) (lo := 25) (c := 108) 0 1 0 [(0x6C, 7)] rfl rfl rfl rfl rfl) rfl),
    decode6C,
    field_is (hi := 24) (lo := 19) 1 d rfl rfl rfl,
    field_is (hi := 18) (lo := 13) 2 a rfl rfl rfl,
    field_is (hi := 12) (lo := 10) 3 f rfl rfl rfl,
    field_is (hi := 9) (lo := 7) 4 t rfl rfl rfl,
    flag_is (k := 6) 5 la rfl rfl rfl,
    flag_is (k := 5) 6 m rfl rfl rfl,
    guard_is (flag_is 7 gd.n rfl rfl rfl) (field_is (hi := 3) (lo := 0) 8 gd.g rfl rfl rfl)]

theorem red d a f t la m gd : Statement (.red d a f t la m gd) := by
  rintro _ ⟨⟩
  rw [decode_6D _ (top_is (fixed_is (hi := 31) (lo := 25) (c := 109) 0 1 0 [(0x6D, 7)] rfl rfl rfl rfl rfl) rfl),
    decode6D,
    field_is (hi := 24) (lo := 19) 1 d rfl rfl rfl,
    field_is (hi := 18) (lo := 13) 2 a rfl rfl rfl,
    field_is (hi := 12) (lo := 10) 3 f rfl rfl rfl,
    field_is (hi := 9) (lo := 7) 4 t rfl rfl rfl,
    flag_is (k := 6) 5 la rfl rfl rfl,
    flag_is (k := 5) 6 m rfl rfl rfl,
    guard_is (flag_is 7 gd.n rfl rfl rfl) (field_is (hi := 3) (lo := 0) 8 gd.g rfl rfl rfl)]

theorem atoma d a f t la gd : Statement (.atoma d a f t la gd) := by
  rintro _ ⟨⟩
  rw [decode_6E _ (top_is (fixed_is (hi := 31) (lo := 25) (c := 110) 0 1 0 [(0x6E, 7)] rfl rfl rfl rfl rfl) rfl),
    decode6E,
    if_pos (fixed_is (hi := 5) (lo := 5) (c := 0) 6 1 0 [(0x0, 1)] rfl rfl rfl rfl rfl),
    field_is (hi := 24) (lo := 19) 1 d rfl rfl rfl,
    field_is (hi := 18) (lo := 13) 2 a rfl rfl rfl,
    field_is (hi := 12) (lo := 10) 3 f rfl rfl rfl,
    field_is (hi := 9) (lo := 7) 4 t rfl rfl rfl,
    flag_is (k := 6) 5 la rfl rfl rfl,
    guard_is (flag_is 7 gd.n rfl rfl rfl) (field_is (hi := 3) (lo := 0) 8 gd.g rfl rfl rfl)]

theorem fence o s : Statement (.fence o s) := by
  rintro _ ⟨⟩
  rw [decode_6F _ (top_is (fixed_is (hi := 31) (lo := 25) (c := 111) 0 1 15 [(0x378000, 22)] rfl rfl rfl rfl rfl) rfl),
    decode6F,
    if_pos ⟨fixed_is (hi := 24) (lo := 10) (c := 0) 0 1 0 [(0x378000, 22)] rfl rfl rfl rfl rfl, fixed_is (hi := 2) (lo := 0) (c := 0) 3 1 0 [(0x0, 3)] rfl rfl rfl rfl rfl⟩,
    field_is (hi := 9) (lo := 7) 1 o rfl rfl rfl,
    field_is (hi := 6) (lo := 3) 2 s rfl rfl rfl]

theorem bsrd d r : Statement (.bsrd d r) := by
  rintro _ ⟨⟩
  rw [decode_70 _ (top_is (fixed_is (hi := 31) (lo := 25) (c := 112) 0 1 0 [(0x70, 7)] rfl rfl rfl rfl rfl) rfl),
    decode70,
    if_pos ⟨fixed_is (hi := 19) (lo := 8) (c := 0) 2 1 0 [(0x0, 12)] rfl rfl rfl rfl rfl, fixed_is (hi := 3) (lo := 0) (c := 0) 4 1 0 [(0x0, 4)] rfl rfl rfl rfl rfl⟩,
    field_is (hi := 24) (lo := 20) 1 d rfl rfl rfl,
    field_is (hi := 7) (lo := 4) 3 r rfl rfl rfl]

theorem bswr a r : Statement (.bswr a r) := by
  rintro _ ⟨⟩
  rw [decode_70 _ (top_is (fixed_is (hi := 31) (lo := 25) (c := 112) 0 1 5 [(0xE00, 12)] rfl rfl rfl rfl rfl) rfl),
    decode70,
    if_neg (fun c => fixed_not (hi := 19) (lo := 8) (c := 0) 2 1 0 0 7 [(0x1, 7)] rfl rfl rfl rfl rfl rfl c.1),
    if_pos ⟨fixed_is (hi := 24) (lo := 20) (c := 0) 0 1 0 [(0xE00, 12)] rfl rfl rfl rfl rfl, fixed_is (hi := 14) (lo := 8) (c := 1) 2 1 0 [(0x1, 7)] rfl rfl rfl rfl rfl, fixed_is (hi := 3) (lo := 0) (c := 0) 4 1 0 [(0x0, 4)] rfl rfl rfl rfl rfl⟩,
    field_is (hi := 19) (lo := 15) 1 a rfl rfl rfl,
    field_is (hi := 7) (lo := 4) 3 r rfl rfl rfl]

theorem bsxch d a r : Statement (.bsxch d a r) := by
  rintro _ ⟨⟩
  rw [decode_70 _ (top_is (fixed_is (hi := 31) (lo := 25) (c := 112) 0 1 0 [(0x70, 7)] rfl rfl rfl rfl rfl) rfl),
    decode70,
    if_neg (fun c => fixed_not (hi := 19) (lo := 8) (c := 0) 3 1 0 0 7 [(0x2, 7)] rfl rfl rfl rfl rfl rfl c.1),
    if_neg (fun c => fixed_not (hi := 14) (lo := 8) (c := 1) 3 1 0 0 7 [(0x2, 7)] rfl rfl rfl rfl rfl rfl c.2.1),
    if_pos ⟨fixed_is (hi := 14) (lo := 8) (c := 2) 3 1 0 [(0x2, 7)] rfl rfl rfl rfl rfl, fixed_is (hi := 3) (lo := 0) (c := 0) 5 1 0 [(0x0, 4)] rfl rfl rfl rfl rfl⟩,
    field_is (hi := 24) (lo := 20) 1 d rfl rfl rfl,
    field_is (hi := 19) (lo := 15) 2 a rfl rfl rfl,
    field_is (hi := 7) (lo := 4) 4 r rfl rfl rfl]

theorem bsadd d a r : Statement (.bsadd d a r) := by
  rintro _ ⟨⟩
  rw [decode_70 _ (top_is (fixed_is (hi := 31) (lo := 25) (c := 112) 0 1 0 [(0x70, 7)] rfl rfl rfl rfl rfl) rfl),
    decode70,
    if_neg (fun c => fixed_not (hi := 19) (lo := 8) (c := 0) 3 1 0 0 7 [(0x3, 7)] rfl rfl rfl rfl rfl rfl c.1),
    if_neg (fun c => fixed_not (hi := 14) (lo := 8) (c := 1) 3 1 0 0 7 [(0x3, 7)] rfl rfl rfl rfl rfl rfl c.2.1),
    if_neg (fun c => fixed_not (hi := 14) (lo := 8) (c := 2) 3 1 0 0 7 [(0x3, 7)] rfl rfl rfl rfl rfl rfl c.1),
    if_pos ⟨fixed_is (hi := 14) (lo := 8) (c := 3) 3 1 0 [(0x3, 7)] rfl rfl rfl rfl rfl, fixed_is (hi := 3) (lo := 0) (c := 0) 5 1 0 [(0x0, 4)] rfl rfl rfl rfl rfl⟩,
    field_is (hi := 24) (lo := 20) 1 d rfl rfl rfl,
    field_is (hi := 19) (lo := 15) 2 a rfl rfl rfl,
    field_is (hi := 7) (lo := 4) 4 r rfl rfl rfl]

theorem cpy s g : Statement (.cpy s g) := by
  rintro _ ⟨⟩
  rw [decode_71 _ (top_is (fixed_is (hi := 31) (lo := 25) (c := 113) 0 1 0 [(0x71, 7)] rfl rfl rfl rfl rfl) rfl),
    decode71,
    if_pos ⟨fixed_is (hi := 19) (lo := 12) (c := 0) 2 1 0 [(0x0, 8)] rfl rfl rfl rfl rfl, fixed_is (hi := 5) (lo := 0) (c := 0) 4 1 0 [(0x0, 6)] rfl rfl rfl rfl rfl⟩,
    field_is (hi := 24) (lo := 20) 1 s rfl rfl rfl,
    field_is (hi := 11) (lo := 6) 3 g rfl rfl rfl]

theorem cpyt s t g p r : Statement (.cpyt s t g p r) := by
  rintro _ ⟨⟩
  rw [decode_71 _ (top_is (fixed_is (hi := 31) (lo := 25) (c := 113) 0 1 0 [(0x71, 7)] rfl rfl rfl rfl rfl) rfl),
    decode71,
    if_neg (fun c => fixed_not (hi := 5) (lo := 0) (c := 0) 6 1 0 0 3 [(0x1, 3)] rfl rfl rfl rfl rfl rfl c.2),
    if_pos (fixed_is (hi := 2) (lo := 0) (c := 1) 6 1 0 [(0x1, 3)] rfl rfl rfl rfl rfl),
    field_is (hi := 24) (lo := 20) 1 s rfl rfl rfl,
    field_is (hi := 19) (lo := 12) 2 t rfl rfl rfl,
    field_is (hi := 11) (lo := 6) 3 g rfl rfl rfl,
    field_is (hi := 5) (lo := 4) 4 p rfl rfl rfl,
    flag_is (k := 3) 5 r rfl rfl rfl]

theorem tgwait a : Statement (.tgwait a) := by
  rintro _ ⟨⟩
  rw [decode_72 _ (top_is (fixed_is (hi := 31) (lo := 25) (c := 114) 0 1 5 [(0xE40, 12)] rfl rfl rfl rfl rfl) rfl),
    decode72,
    if_pos ⟨fixed_is (hi := 24) (lo := 20) (c := 0) 0 1 0 [(0xE40, 12)] rfl rfl rfl rfl rfl, fixed_is (hi := 14) (lo := 0) (c := 0) 2 1 0 [(0x0, 15)] rfl rfl rfl rfl rfl⟩,
    field_is (hi := 19) (lo := 15) 1 a rfl rfl rfl]

theorem tgany a : Statement (.tgany a) := by
  rintro _ ⟨⟩
  rw [decode_72 _ (top_is (fixed_is (hi := 31) (lo := 25) (c := 114) 0 1 5 [(0xE40, 12)] rfl rfl rfl rfl rfl) rfl),
    decode72,
    if_neg (fun c => fixed_not (hi := 14) (lo := 0) (c := 0) 2 1 0 0 15 [(0x80, 15)] rfl rfl rfl rfl rfl rfl c.2),
    if_pos ⟨fixed_is (hi := 24) (lo := 20) (c := 0) 0 1 0 [(0xE40, 12)] rfl rfl rfl rfl rfl, fixed_is (hi := 14) (lo := 0) (c := 128) 2 1 0 [(0x80, 15)] rfl rfl rfl rfl rfl⟩,
    field_is (hi := 19) (lo := 15) 1 a rfl rfl rfl]

theorem tgfind d a : Statement (.tgfind d a) := by
  rintro _ ⟨⟩
  rw [decode_72 _ (top_is (fixed_is (hi := 31) (lo := 25) (c := 114) 0 1 0 [(0x72, 7)] rfl rfl rfl rfl rfl) rfl),
    decode72,
    if_neg (fun c => fixed_not (hi := 14) (lo := 0) (c := 0) 3 1 0 0 15 [(0x100, 15)] rfl rfl rfl rfl rfl rfl c.2),
    if_neg (fun c => fixed_not (hi := 14) (lo := 0) (c := 128) 3 1 0 0 15 [(0x100, 15)] rfl rfl rfl rfl rfl rfl c.2),
    if_pos (fixed_is (hi := 14) (lo := 0) (c := 256) 3 1 0 [(0x100, 15)] rfl rfl rfl rfl rfl),
    field_is (hi := 24) (lo := 20) 1 d rfl rfl rfl,
    field_is (hi := 19) (lo := 15) 2 a rfl rfl rfl]

theorem tgclr a : Statement (.tgclr a) := by
  rintro _ ⟨⟩
  rw [decode_72 _ (top_is (fixed_is (hi := 31) (lo := 25) (c := 114) 0 1 5 [(0xE40, 12)] rfl rfl rfl rfl rfl) rfl),
    decode72,
    if_neg (fun c => fixed_not (hi := 14) (lo := 0) (c := 0) 2 1 0 0 15 [(0x180, 15)] rfl rfl rfl rfl rfl rfl c.2),
    if_neg (fun c => fixed_not (hi := 14) (lo := 0) (c := 128) 2 1 0 0 15 [(0x180, 15)] rfl rfl rfl rfl rfl rfl c.2),
    if_neg (fun c => fixed_not (hi := 14) (lo := 0) (c := 256) 2 1 0 0 15 [(0x180, 15)] rfl rfl rfl rfl rfl rfl c),
    if_pos ⟨fixed_is (hi := 24) (lo := 20) (c := 0) 0 1 0 [(0xE40, 12)] rfl rfl rfl rfl rfl, fixed_is (hi := 14) (lo := 0) (c := 384) 2 1 0 [(0x180, 15)] rfl rfl rfl rfl rfl⟩,
    field_is (hi := 19) (lo := 15) 1 a rfl rfl rfl]

theorem tgtest d a e : Statement (.tgtest d a e) := by
  rintro _ ⟨⟩
  rw [decode_72 _ (top_is (fixed_is (hi := 31) (lo := 25) (c := 114) 0 1 0 [(0x72, 7)] rfl rfl rfl rfl rfl) rfl),
    decode72,
    if_neg (fun c => fixed_not (hi := 14) (lo := 0) (c := 0) 3 1 0 7 8 [(0x4, 8)] rfl rfl rfl rfl rfl rfl c.2),
    if_neg (fun c => fixed_not (hi := 14) (lo := 0) (c := 128) 3 1 0 7 8 [(0x4, 8)] rfl rfl rfl rfl rfl rfl c.2),
    if_neg (fun c => fixed_not (hi := 14) (lo := 0) (c := 256) 3 1 0 7 8 [(0x4, 8)] rfl rfl rfl rfl rfl rfl c),
    if_neg (fun c => fixed_not (hi := 14) (lo := 0) (c := 384) 3 1 0 7 8 [(0x4, 8)] rfl rfl rfl rfl rfl rfl c.2),
    if_pos ⟨fixed_is (hi := 14) (lo := 7) (c := 4) 3 1 0 [(0x4, 8)] rfl rfl rfl rfl rfl, fixed_is (hi := 5) (lo := 0) (c := 0) 5 1 0 [(0x0, 6)] rfl rfl rfl rfl rfl⟩,
    field_is (hi := 24) (lo := 20) 1 d rfl rfl rfl,
    field_is (hi := 19) (lo := 15) 2 a rfl rfl rfl,
    flag_is (k := 6) 4 e rfl rfl rfl]

theorem ridx d a b : Statement (.ridx d a b) := by
  rintro _ ⟨⟩
  rw [decode_73 _ (top_is (fixed_is (hi := 31) (lo := 25) (c := 115) 0 1 0 [(0x73, 7)] rfl rfl rfl rfl rfl) rfl),
    decode73,
    if_pos (fixed_is (hi := 9) (lo := 0) (c := 0) 4 1 0 [(0x0, 10)] rfl rfl rfl rfl rfl),
    field_is (hi := 24) (lo := 20) 1 d rfl rfl rfl,
    field_is (hi := 19) (lo := 15) 2 a rfl rfl rfl,
    field_is (hi := 14) (lo := 10) 3 b rfl rfl rfl]

theorem rwait a b f p c : Statement (.rwait a b f p c) := by
  rintro _ ⟨⟩
  rw [decode_73 _ (top_is (fixed_is (hi := 31) (lo := 25) (c := 115) 0 1 5 [(0xE60, 12)] rfl rfl rfl rfl rfl) rfl),
    decode73,
    if_neg (fun c => fixed_not (hi := 9) (lo := 0) (c := 0) 3 1 0 8 2 [(0x1, 2)] rfl rfl rfl rfl rfl rfl c),
    if_pos ⟨fixed_is (hi := 24) (lo := 20) (c := 0) 0 1 0 [(0xE60, 12)] rfl rfl rfl rfl rfl, fixed_is (hi := 9) (lo := 8) (c := 1) 3 1 0 [(0x1, 2)] rfl rfl rfl rfl rfl, fixed_is (hi := 1) (lo := 0) (c := 0) 7 1 0 [(0x0, 2)] rfl rfl rfl rfl rfl⟩,
    field_is (hi := 19) (lo := 15) 1 a rfl rfl rfl,
    field_is (hi := 14) (lo := 10) 2 b rfl rfl rfl,
    flag_is (k := 7) 4 f rfl rfl rfl,
    flag_is (k := 6) 5 p rfl rfl rfl,
    field_is (hi := 5) (lo := 2) 6 c rfl rfl rfl]

theorem rflip a b f p c : Statement (.rflip a b f p c) := by
  rintro _ ⟨⟩
  rw [decode_73 _ (top_is (fixed_is (hi := 31) (lo := 25) (c := 115) 0 1 5 [(0xE60, 12)] rfl rfl rfl rfl rfl) rfl),
    decode73,
    if_neg (fun c => fixed_not (hi := 9) (lo := 0) (c := 0) 3 1 0 8 2 [(0x2, 2)] rfl rfl rfl rfl rfl rfl c),
    if_neg (fun c => fixed_not (hi := 9) (lo := 8) (c := 1) 3 1 0 0 2 [(0x2, 2)] rfl rfl rfl rfl rfl rfl c.2.1),
    if_pos ⟨fixed_is (hi := 24) (lo := 20) (c := 0) 0 1 0 [(0xE60, 12)] rfl rfl rfl rfl rfl, fixed_is (hi := 9) (lo := 8) (c := 2) 3 1 0 [(0x2, 2)] rfl rfl rfl rfl rfl, fixed_is (hi := 1) (lo := 0) (c := 0) 7 1 0 [(0x0, 2)] rfl rfl rfl rfl rfl⟩,
    field_is (hi := 19) (lo := 15) 1 a rfl rfl rfl,
    field_is (hi := 14) (lo := 10) 2 b rfl rfl rfl,
    flag_is (k := 7) 4 f rfl rfl rfl,
    flag_is (k := 6) 5 p rfl rfl rfl,
    field_is (hi := 5) (lo := 2) 6 c rfl rfl rfl]

theorem tacq d a t r k : Statement (.tacq d a t r k) := by
  rintro _ ⟨⟩
  rw [decode_74 _ (top_is (fixed_is (hi := 31) (lo := 25) (c := 116) 0 1 0 [(0x74, 7)] rfl rfl rfl rfl rfl) rfl),
    decode74,
    if_pos (fixed_is (hi := 5) (lo := 0) (c := 0) 6 1 0 [(0x0, 6)] rfl rfl rfl rfl rfl),
    field_is (hi := 24) (lo := 20) 1 d rfl rfl rfl,
    field_is (hi := 19) (lo := 15) 2 a rfl rfl rfl,
    field_is (hi := 14) (lo := 9) 3 t rfl rfl rfl,
    field_is (hi := 8) (lo := 7) 4 r rfl rfl rfl,
    flag_is (k := 6) 5 k rfl rfl rfl]

theorem trel d a : Statement (.trel d a) := by
  rintro _ ⟨⟩
  rw [decode_74 _ (top_is (fixed_is (hi := 31) (lo := 25) (c := 116) 0 1 0 [(0x74, 7)] rfl rfl rfl rfl rfl) rfl),
    decode74,
    if_neg (fun c => fixed_not (hi := 5) (lo := 0) (c := 0) 3 1 0 0 6 [(0x1, 15)] rfl rfl rfl rfl rfl rfl c),
    if_pos (fixed_is (hi := 14) (lo := 0) (c := 1) 3 1 0 [(0x1, 15)] rfl rfl rfl rfl rfl),
    field_is (hi := 24) (lo := 20) 1 d rfl rfl rfl,
    field_is (hi := 19) (lo := 15) 2 a rfl rfl rfl]

theorem cede o : Statement (.cede o) := by
  rintro _ ⟨⟩
  rw [decode_74 _ (top_is (fixed_is (hi := 31) (lo := 25) (c := 116) 0 1 19 [(0x3A00000, 26)] rfl rfl rfl rfl rfl) rfl),
    decode74,
    if_neg (fun c => fixed_not (hi := 5) (lo := 0) (c := 0) 2 1 0 0 4 [(0x2, 4)] rfl rfl rfl rfl rfl rfl c),
    if_neg (fun c => fixed_not (hi := 14) (lo := 0) (c := 1) 2 1 0 0 4 [(0x2, 4)] rfl rfl rfl rfl rfl rfl c),
    if_pos ⟨fixed_is (hi := 24) (lo := 6) (c := 0) 0 1 0 [(0x3A00000, 26)] rfl rfl rfl rfl rfl, fixed_is (hi := 3) (lo := 0) (c := 2) 2 1 0 [(0x2, 4)] rfl rfl rfl rfl rfl⟩,
    field_is (hi := 5) (lo := 4) 1 o rfl rfl rfl]

theorem tstat d a : Statement (.tstat d a) := by
  rintro _ ⟨⟩
  rw [decode_74 _ (top_is (fixed_is (hi := 31) (lo := 25) (c := 116) 0 1 0 [(0x74, 7)] rfl rfl rfl rfl rfl) rfl),
    decode74,
    if_neg (fun c => fixed_not (hi := 5) (lo := 0) (c := 0) 3 1 0 0 6 [(0x3, 15)] rfl rfl rfl rfl rfl rfl c),
    if_neg (fun c => fixed_not (hi := 14) (lo := 0) (c := 1) 3 1 0 0 15 [(0x3, 15)] rfl rfl rfl rfl rfl rfl c),
    if_neg (fun c => fixed_not (hi := 3) (lo := 0) (c := 2) 3 1 0 0 4 [(0x3, 15)] rfl rfl rfl rfl rfl rfl c.2),
    if_pos (fixed_is (hi := 14) (lo := 0) (c := 3) 3 1 0 [(0x3, 15)] rfl rfl rfl rfl rfl),
    field_is (hi := 24) (lo := 20) 1 d rfl rfl rfl,
    field_is (hi := 19) (lo := 15) 2 a rfl rfl rfl]

theorem mld d r c s gd : Statement (.mld d r c s gd) := by
  rintro _ ⟨⟩
  rw [decode_75 _ (top_is (fixed_is (hi := 31) (lo := 25) (c := 117) 0 1 0 [(0x75, 7)] rfl rfl rfl rfl rfl) rfl),
    decode75,
    if_pos (fixed_is (hi := 15) (lo := 10) (c := 0) 4 1 0 [(0x0, 6)] rfl rfl rfl rfl rfl),
    field_is (hi := 24) (lo := 22) 1 d rfl rfl rfl,
    field_is (hi := 21) (lo := 19) 2 r rfl rfl rfl,
    field_is (hi := 18) (lo := 16) 3 c rfl rfl rfl,
    field_is (hi := 9) (lo := 5) 5 s rfl rfl rfl,
    guard_is (flag_is 6 gd.n rfl rfl rfl) (field_is (hi := 3) (lo := 0) 7 gd.g rfl rfl rfl)]

theorem mldA d r c s gd : Statement (.mldA d r c s gd) := by
  rintro _ ⟨⟩
  rw [decode_75 _ (top_is (fixed_is (hi := 31) (lo := 25) (c := 117) 0 1 0 [(0x75, 7)] rfl rfl rfl rfl rfl) rfl),
    decode75,
    if_neg (fun c => fixed_not (hi := 15) (lo := 10) (c := 0) 4 1 0 0 6 [(0x1, 6)] rfl rfl rfl rfl rfl rfl c),
    if_pos (fixed_is (hi := 15) (lo := 10) (c := 1) 4 1 0 [(0x1, 6)] rfl rfl rfl rfl rfl),
    field_is (hi := 24) (lo := 22) 1 d rfl rfl rfl,
    field_is (hi := 21) (lo := 19) 2 r rfl rfl rfl,
    field_is (hi := 18) (lo := 16) 3 c rfl rfl rfl,
    field_is (hi := 9) (lo := 5) 5 s rfl rfl rfl,
    guard_is (flag_is 6 gd.n rfl rfl rfl) (field_is (hi := 3) (lo := 0) 7 gd.g rfl rfl rfl)]

theorem mst a s gd : Statement (.mst a s gd) := by
  rintro _ ⟨⟩
  rw [decode_75 _ (top_is (fixed_is (hi := 31) (lo := 25) (c := 117) 0 1 3 [(0x3A8, 10)] rfl rfl rfl rfl rfl) rfl),
    decode75,
    if_neg (fun c => fixed_not (hi := 15) (lo := 10) (c := 0) 2 1 0 0 6 [(0x2, 9)] rfl rfl rfl rfl rfl rfl c),
    if_neg (fun c => fixed_not (hi := 15) (lo := 10) (c := 1) 2 1 0 0 6 [(0x2, 9)] rfl rfl rfl rfl rfl rfl c),
    if_pos ⟨fixed_is (hi := 24) (lo := 22) (c := 0) 0 1 0 [(0x3A8, 10)] rfl rfl rfl rfl rfl, fixed_is (hi := 18) (lo := 10) (c := 2) 2 1 0 [(0x2, 9)] rfl rfl rfl rfl rfl⟩,
    field_is (hi := 21) (lo := 19) 1 a rfl rfl rfl,
    field_is (hi := 9) (lo := 5) 3 s rfl rfl rfl,
    guard_is (flag_is 4 gd.n rfl rfl rfl) (field_is (hi := 3) (lo := 0) 5 gd.g rfl rfl rfl)]

theorem mstA a s gd : Statement (.mstA a s gd) := by
  rintro _ ⟨⟩
  rw [decode_75 _ (top_is (fixed_is (hi := 31) (lo := 25) (c := 117) 0 1 3 [(0x3A8, 10)] rfl rfl rfl rfl rfl) rfl),
    decode75,
    if_neg (fun c => fixed_not (hi := 15) (lo := 10) (c := 0) 2 1 0 0 6 [(0x3, 9)] rfl rfl rfl rfl rfl rfl c),
    if_neg (fun c => fixed_not (hi := 15) (lo := 10) (c := 1) 2 1 0 0 6 [(0x3, 9)] rfl rfl rfl rfl rfl rfl c),
    if_neg (fun c => fixed_not (hi := 18) (lo := 10) (c := 2) 2 1 0 0 9 [(0x3, 9)] rfl rfl rfl rfl rfl rfl c.2),
    if_pos ⟨fixed_is (hi := 24) (lo := 22) (c := 0) 0 1 0 [(0x3A8, 10)] rfl rfl rfl rfl rfl, fixed_is (hi := 18) (lo := 10) (c := 3) 2 1 0 [(0x3, 9)] rfl rfl rfl rfl rfl⟩,
    field_is (hi := 21) (lo := 19) 1 a rfl rfl rfl,
    field_is (hi := 9) (lo := 5) 3 s rfl rfl rfl,
    guard_is (flag_is 4 gd.n rfl rfl rfl) (field_is (hi := 3) (lo := 0) 5 gd.g rfl rfl rfl)]

theorem mmov d a gd : Statement (.mmov d a gd) := by
  rintro _ ⟨⟩
  rw [decode_75 _ (top_is (fixed_is (hi := 31) (lo := 25) (c := 117) 0 1 0 [(0x75, 7)] rfl rfl rfl rfl rfl) rfl),
    decode75,
    if_neg (fun c => fixed_not (hi := 15) (lo := 10) (c := 0) 3 1 5 0 6 [(0x80, 14)] rfl rfl rfl rfl rfl rfl c),
    if_neg (fun c => fixed_not (hi := 15) (lo := 10) (c := 1) 3 1 5 0 6 [(0x80, 14)] rfl rfl rfl rfl rfl rfl c),
    if_neg (fun c => fixed_not (hi := 18) (lo := 10) (c := 2) 3 1 5 0 9 [(0x80, 14)] rfl rfl rfl rfl rfl rfl c.2),
    if_neg (fun c => fixed_not (hi := 18) (lo := 10) (c := 3) 3 1 5 0 9 [(0x80, 14)] rfl rfl rfl rfl rfl rfl c.2),
    if_pos (fixed_is (hi := 18) (lo := 5) (c := 128) 3 1 0 [(0x80, 14)] rfl rfl rfl rfl rfl),
    field_is (hi := 24) (lo := 22) 1 d rfl rfl rfl,
    field_is (hi := 21) (lo := 19) 2 a rfl rfl rfl,
    guard_is (flag_is 4 gd.n rfl rfl rfl) (field_is (hi := 3) (lo := 0) 5 gd.g rfl rfl rfl)]

theorem mget i a j v gd : Statement (.mget i a j v gd) := by
  rintro _ ⟨⟩
  rw [decode_75 _ (top_is (fixed_is (hi := 31) (lo := 25) (c := 117) 0 1 0 [(0x75, 7)] rfl rfl rfl rfl rfl) rfl),
    decode75,
    if_neg (fun c => fixed_not (hi := 15) (lo := 10) (c := 0) 4 1 0 0 6 [(0x5, 6)] rfl rfl rfl rfl rfl rfl c),
    if_neg (fun c => fixed_not (hi := 15) (lo := 10) (c := 1) 4 1 0 0 6 [(0x5, 6)] rfl rfl rfl rfl rfl rfl c),
    if_neg (fun c => fixed_not (hi := 18) (lo := 10) (c := 2) 4 1 0 0 6 [(0x5, 6)] rfl rfl rfl rfl rfl rfl c.2),
    if_neg (fun c => fixed_not (hi := 18) (lo := 10) (c := 3) 4 1 0 0 6 [(0x5, 6)] rfl rfl rfl rfl rfl rfl c.2),
    if_neg (fun c => fixed_not (hi := 18) (lo := 5) (c := 128) 4 1 0 5 6 [(0x5, 6)] rfl rfl rfl rfl rfl rfl c),
    if_pos (fixed_is (hi := 15) (lo := 10) (c := 5) 4 1 0 [(0x5, 6)] rfl rfl rfl rfl rfl),
    field_is (hi := 24) (lo := 22) 1 i rfl rfl rfl,
    field_is (hi := 21) (lo := 19) 2 a rfl rfl rfl,
    field_is (hi := 18) (lo := 16) 3 j rfl rfl rfl,
    field_is (hi := 9) (lo := 5) 5 v rfl rfl rfl,
    guard_is (flag_is 6 gd.n rfl rfl rfl) (field_is (hi := 3) (lo := 0) 7 gd.g rfl rfl rfl)]

theorem mset d i j v gd : Statement (.mset d i j v gd) := by
  rintro _ ⟨⟩
  rw [decode_75 _ (top_is (fixed_is (hi := 31) (lo := 25) (c := 117) 0 1 0 [(0x75, 7)] rfl rfl rfl rfl rfl) rfl),
    decode75,
    if_neg (fun c => fixed_not (hi := 15) (lo := 10) (c := 0) 4 1 0 0 6 [(0x6, 6)] rfl rfl rfl rfl rfl rfl c),
    if_neg (fun c => fixed_not (hi := 15) (lo := 10) (c := 1) 4 1 0 0 6 [(0x6, 6)] rfl rfl rfl rfl rfl rfl c),
    if_neg (fun c => fixed_not (hi := 18) (lo := 10) (c := 2) 4 1 0 0 6 [(0x6, 6)] rfl rfl rfl rfl rfl rfl c.2),
    if_neg (fun c => fixed_not (hi := 18) (lo := 10) (c := 3) 4 1 0 0 6 [(0x6, 6)] rfl rfl rfl rfl rfl rfl c.2),
    if_neg (fun c => fixed_not (hi := 18) (lo := 5) (c := 128) 4 1 0 5 6 [(0x6, 6)] rfl rfl rfl rfl rfl rfl c),
    if_neg (fun c => fixed_not (hi := 15) (lo := 10) (c := 5) 4 1 0 0 6 [(0x6, 6)] rfl rfl rfl rfl rfl rfl c),
    if_pos (fixed_is (hi := 15) (lo := 10) (c := 6) 4 1 0 [(0x6, 6)] rfl rfl rfl rfl rfl),
    field_is (hi := 24) (lo := 22) 1 d rfl rfl rfl,
    field_is (hi := 21) (lo := 19) 2 i rfl rfl rfl,
    field_is (hi := 18) (lo := 16) 3 j rfl rfl rfl,
    field_is (hi := 9) (lo := 5) 5 v rfl rfl rfl,
    guard_is (flag_is 6 gd.n rfl rfl rfl) (field_is (hi := 3) (lo := 0) 7 gd.g rfl rfl rfl)]

theorem mzero d r c gd : Statement (.mzero d r c gd) := by
  rintro _ ⟨⟩
  rw [decode_75 _ (top_is (fixed_is (hi := 31) (lo := 25) (c := 117) 0 1 0 [(0x75, 7)] rfl rfl rfl rfl rfl) rfl),
    decode75,
    if_neg (fun c => fixed_not (hi := 15) (lo := 10) (c := 0) 4 1 5 0 6 [(0xE0, 11)] rfl rfl rfl rfl rfl rfl c),
    if_neg (fun c => fixed_not (hi := 15) (lo := 10) (c := 1) 4 1 5 0 6 [(0xE0, 11)] rfl rfl rfl rfl rfl rfl c),
    if_neg (fun c => fixed_not (hi := 18) (lo := 10) (c := 2) 4 1 5 0 6 [(0xE0, 11)] rfl rfl rfl rfl rfl rfl c.2),
    if_neg (fun c => fixed_not (hi := 18) (lo := 10) (c := 3) 4 1 5 0 6 [(0xE0, 11)] rfl rfl rfl rfl rfl rfl c.2),
    if_neg (fun c => fixed_not (hi := 18) (lo := 5) (c := 128) 4 1 0 0 11 [(0xE0, 11)] rfl rfl rfl rfl rfl rfl c),
    if_neg (fun c => fixed_not (hi := 15) (lo := 10) (c := 5) 4 1 5 0 6 [(0xE0, 11)] rfl rfl rfl rfl rfl rfl c),
    if_neg (fun c => fixed_not (hi := 15) (lo := 10) (c := 6) 4 1 5 0 6 [(0xE0, 11)] rfl rfl rfl rfl rfl rfl c),
    if_pos (fixed_is (hi := 15) (lo := 5) (c := 224) 4 1 0 [(0xE0, 11)] rfl rfl rfl rfl rfl),
    field_is (hi := 24) (lo := 22) 1 d rfl rfl rfl,
    field_is (hi := 21) (lo := 19) 2 r rfl rfl rfl,
    field_is (hi := 18) (lo := 16) 3 c rfl rfl rfl,
    guard_is (flag_is 5 gd.n rfl rfl rfl) (field_is (hi := 3) (lo := 0) 6 gd.g rfl rfl rfl)]

theorem mident d r c gd : Statement (.mident d r c gd) := by
  rintro _ ⟨⟩
  rw [decode_75 _ (top_is (fixed_is (hi := 31) (lo := 25) (c := 117) 0 1 0 [(0x75, 7)] rfl rfl rfl rfl rfl) rfl),
    decode75,
    if_neg (fun c => fixed_not (hi := 15) (lo := 10) (c := 0) 4 1 5 0 6 [(0x100, 11)] rfl rfl rfl rfl rfl rfl c),
    if_neg (fun c => fixed_not (hi := 15) (lo := 10) (c := 1) 4 1 5 0 6 [(0x100, 11)] rfl rfl rfl rfl rfl rfl c),
    if_neg (fun c => fixed_not (hi := 18) (lo := 10) (c := 2) 4 1 5 0 6 [(0x100, 11)] rfl rfl rfl rfl rfl rfl c.2),
    if_neg (fun c => fixed_not (hi := 18) (lo := 10) (c := 3) 4 1 5 0 6 [(0x100, 11)] rfl rfl rfl rfl rfl rfl c.2),
    if_neg (fun c => fixed_not (hi := 18) (lo := 5) (c := 128) 4 1 0 0 11 [(0x100, 11)] rfl rfl rfl rfl rfl rfl c),
    if_neg (fun c => fixed_not (hi := 15) (lo := 10) (c := 5) 4 1 5 0 6 [(0x100, 11)] rfl rfl rfl rfl rfl rfl c),
    if_neg (fun c => fixed_not (hi := 15) (lo := 10) (c := 6) 4 1 5 0 6 [(0x100, 11)] rfl rfl rfl rfl rfl rfl c),
    if_neg (fun c => fixed_not (hi := 15) (lo := 5) (c := 224) 4 1 0 0 11 [(0x100, 11)] rfl rfl rfl rfl rfl rfl c),
    if_pos (fixed_is (hi := 15) (lo := 5) (c := 256) 4 1 0 [(0x100, 11)] rfl rfl rfl rfl rfl),
    field_is (hi := 24) (lo := 22) 1 d rfl rfl rfl,
    field_is (hi := 21) (lo := 19) 2 r rfl rfl rfl,
    field_is (hi := 18) (lo := 16) 3 c rfl rfl rfl,
    guard_is (flag_is 5 gd.n rfl rfl rfl) (field_is (hi := 3) (lo := 0) 6 gd.g rfl rfl rfl)]

theorem mtrn d a gd : Statement (.mtrn d a gd) := by
  rintro _ ⟨⟩
  rw [decode_75 _ (top_is (fixed_is (hi := 31) (lo := 25) (c := 117) 0 1 0 [(0x75, 7)] rfl rfl rfl rfl rfl) rfl),
    decode75,
    if_neg (fun c => fixed_not (hi := 15) (lo := 10) (c := 0) 3 1 5 0 6 [(0x120, 14)] rfl rfl rfl rfl rfl rfl c),
    if_neg (fun c => fixed_not (hi := 15) (lo := 10) (c := 1) 3 1 5 0 6 [(0x120, 14)] rfl rfl rfl rfl rfl rfl c),
    if_neg (fun c => fixed_not (hi := 18) (lo := 10) (c := 2) 3 1 5 0 9 [(0x120, 14)] rfl rfl rfl rfl rfl rfl c.2),
    if_neg (fun c => fixed_not (hi := 18) (lo := 10) (c := 3) 3 1 5 0 9 [(0x120, 14)] rfl rfl rfl rfl rfl rfl c.2),
    if_neg (fun c => fixed_not (hi := 18) (lo := 5) (c := 128) 3 1 0 0 14 [(0x120, 14)] rfl rfl rfl rfl rfl rfl c),
    if_neg (fun c => fixed_not (hi := 15) (lo := 10) (c := 5) 3 1 5 0 6 [(0x120, 14)] rfl rfl rfl rfl rfl rfl c),
    if_neg (fun c => fixed_not (hi := 15) (lo := 10) (c := 6) 3 1 5 0 6 [(0x120, 14)] rfl rfl rfl rfl rfl rfl c),
    if_neg (fun c => fixed_not (hi := 15) (lo := 5) (c := 224) 3 1 0 0 11 [(0x120, 14)] rfl rfl rfl rfl rfl rfl c),
    if_neg (fun c => fixed_not (hi := 15) (lo := 5) (c := 256) 3 1 0 0 11 [(0x120, 14)] rfl rfl rfl rfl rfl rfl c),
    if_pos (fixed_is (hi := 18) (lo := 5) (c := 288) 3 1 0 [(0x120, 14)] rfl rfl rfl rfl rfl),
    field_is (hi := 24) (lo := 22) 1 d rfl rfl rfl,
    field_is (hi := 21) (lo := 19) 2 a rfl rfl rfl,
    guard_is (flag_is 4 gd.n rfl rfl rfl) (field_is (hi := 3) (lo := 0) 5 gd.g rfl rfl rfl)]

theorem madd d a b gd : Statement (.madd d a b gd) := by
  rintro _ ⟨⟩
  rw [decode_76 _ (top_is (fixed_is (hi := 31) (lo := 25) (c := 118) 0 1 0 [(0x76, 7)] rfl rfl rfl rfl rfl) rfl),
    decode76,
    if_pos (fixed_is (hi := 15) (lo := 5) (c := 0) 4 1 0 [(0x0, 11)] rfl rfl rfl rfl rfl),
    field_is (hi := 24) (lo := 22) 1 d rfl rfl rfl,
    field_is (hi := 21) (lo := 19) 2 a rfl rfl rfl,
    field_is (hi := 18) (lo := 16) 3 b rfl rfl rfl,
    guard_is (flag_is 5 gd.n rfl rfl rfl) (field_is (hi := 3) (lo := 0) 6 gd.g rfl rfl rfl)]

theorem msub d a b gd : Statement (.msub d a b gd) := by
  rintro _ ⟨⟩
  rw [decode_76 _ (top_is (fixed_is (hi := 31) (lo := 25) (c := 118) 0 1 0 [(0x76, 7)] rfl rfl rfl rfl rfl) rfl),
    decode76,
    if_neg (fun c => fixed_not (hi := 15) (lo := 5) (c := 0) 4 1 0 0 11 [(0x20, 11)] rfl rfl rfl rfl rfl rfl c),
    if_pos (fixed_is (hi := 15) (lo := 5) (c := 32) 4 1 0 [(0x20, 11)] rfl rfl rfl rfl rfl),
    field_is (hi := 24) (lo := 22) 1 d rfl rfl rfl,
    field_is (hi := 21) (lo := 19) 2 a rfl rfl rfl,
    field_is (hi := 18) (lo := 16) 3 b rfl rfl rfl,
    guard_is (flag_is 5 gd.n rfl rfl rfl) (field_is (hi := 3) (lo := 0) 6 gd.g rfl rfl rfl)]

theorem mscl d a v gd : Statement (.mscl d a v gd) := by
  rintro _ ⟨⟩
  rw [decode_76 _ (top_is (fixed_is (hi := 31) (lo := 25) (c := 118) 0 1 0 [(0x76, 7)] rfl rfl rfl rfl rfl) rfl),
    decode76,
    if_neg (fun c => fixed_not (hi := 15) (lo := 5) (c := 0) 3 1 0 5 6 [(0x2, 9)] rfl rfl rfl rfl rfl rfl c),
    if_neg (fun c => fixed_not (hi := 15) (lo := 5) (c := 32) 3 1 0 5 6 [(0x2, 9)] rfl rfl rfl rfl rfl rfl c),
    if_pos (fixed_is (hi := 18) (lo := 10) (c := 2) 3 1 0 [(0x2, 9)] rfl rfl rfl rfl rfl),
    field_is (hi := 24) (lo := 22) 1 d rfl rfl rfl,
    field_is (hi := 21) (lo := 19) 2 a rfl rfl rfl,
    field_is (hi := 9) (lo := 5) 4 v rfl rfl rfl,
    guard_is (flag_is 5 gd.n rfl rfl rfl) (field_is (hi := 3) (lo := 0) 6 gd.g rfl rfl rfl)]

theorem mmul d a b gd : Statement (.mmul d a b gd) := by
  rintro _ ⟨⟩
  rw [decode_76 _ (top_is (fixed_is (hi := 31) (lo := 25) (c := 118) 0 1 0 [(0x76, 7)] rfl rfl rfl rfl rfl) rfl),
    decode76,
    if_neg (fun c => fixed_not (hi := 15) (lo := 5) (c := 0) 4 1 0 0 11 [(0x60, 11)] rfl rfl rfl rfl rfl rfl c),
    if_neg (fun c => fixed_not (hi := 15) (lo := 5) (c := 32) 4 1 0 0 11 [(0x60, 11)] rfl rfl rfl rfl rfl rfl c),
    if_neg (fun c => fixed_not (hi := 18) (lo := 10) (c := 2) 4 1 5 0 6 [(0x60, 11)] rfl rfl rfl rfl rfl rfl c),
    if_pos (fixed_is (hi := 15) (lo := 5) (c := 96) 4 1 0 [(0x60, 11)] rfl rfl rfl rfl rfl),
    field_is (hi := 24) (lo := 22) 1 d rfl rfl rfl,
    field_is (hi := 21) (lo := 19) 2 a rfl rfl rfl,
    field_is (hi := 18) (lo := 16) 3 b rfl rfl rfl,
    guard_is (flag_is 5 gd.n rfl rfl rfl) (field_is (hi := 3) (lo := 0) 6 gd.g rfl rfl rfl)]

theorem mmult d a b gd : Statement (.mmult d a b gd) := by
  rintro _ ⟨⟩
  rw [decode_76 _ (top_is (fixed_is (hi := 31) (lo := 25) (c := 118) 0 1 0 [(0x76, 7)] rfl rfl rfl rfl rfl) rfl),
    decode76,
    if_neg (fun c => fixed_not (hi := 15) (lo := 5) (c := 0) 4 1 0 0 11 [(0x80, 11)] rfl rfl rfl rfl rfl rfl c),
    if_neg (fun c => fixed_not (hi := 15) (lo := 5) (c := 32) 4 1 0 0 11 [(0x80, 11)] rfl rfl rfl rfl rfl rfl c),
    if_neg (fun c => fixed_not (hi := 18) (lo := 10) (c := 2) 4 1 5 0 6 [(0x80, 11)] rfl rfl rfl rfl rfl rfl c),
    if_neg (fun c => fixed_not (hi := 15) (lo := 5) (c := 96) 4 1 0 0 11 [(0x80, 11)] rfl rfl rfl rfl rfl rfl c),
    if_pos (fixed_is (hi := 15) (lo := 5) (c := 128) 4 1 0 [(0x80, 11)] rfl rfl rfl rfl rfl),
    field_is (hi := 24) (lo := 22) 1 d rfl rfl rfl,
    field_is (hi := 21) (lo := 19) 2 a rfl rfl rfl,
    field_is (hi := 18) (lo := 16) 3 b rfl rfl rfl,
    guard_is (flag_is 5 gd.n rfl rfl rfl) (field_is (hi := 3) (lo := 0) 6 gd.g rfl rfl rfl)]

theorem mfma d a b c gd : Statement (.mfma d a b c gd) := by
  rintro _ ⟨⟩
  rw [decode_76 _ (top_is (fixed_is (hi := 31) (lo := 25) (c := 118) 0 1 0 [(0x76, 7)] rfl rfl rfl rfl rfl) rfl),
    decode76,
    if_neg (fun c => fixed_not (hi := 15) (lo := 5) (c := 0) 4 1 0 3 8 [(0x14, 8)] rfl rfl rfl rfl rfl rfl c),
    if_neg (fun c => fixed_not (hi := 15) (lo := 5) (c := 32) 4 1 0 3 8 [(0x14, 8)] rfl rfl rfl rfl rfl rfl c),
    if_neg (fun c => fixed_not (hi := 18) (lo := 10) (c := 2) 4 1 2 0 6 [(0x14, 8)] rfl rfl rfl rfl rfl rfl c),
    if_neg (fun c => fixed_not (hi := 15) (lo := 5) (c := 96) 4 1 0 3 8 [(0x14, 8)] rfl rfl rfl rfl rfl rfl c),
    if_neg (fun c => fixed_not (hi := 15) (lo := 5) (c := 128) 4 1 0 3 8 [(0x14, 8)] rfl rfl rfl rfl rfl rfl c),
    if_pos (fixed_is (hi := 15) (lo := 8) (c := 20) 4 1 0 [(0x14, 8)] rfl rfl rfl rfl rfl),
    field_is (hi := 24) (lo := 22) 1 d rfl rfl rfl,
    field_is (hi := 21) (lo := 19) 2 a rfl rfl rfl,
    field_is (hi := 18) (lo := 16) 3 b rfl rfl rfl,
    field_is (hi := 7) (lo := 5) 5 c rfl rfl rfl,
    guard_is (flag_is 6 gd.n rfl rfl rfl) (field_is (hi := 3) (lo := 0) 7 gd.g rfl rfl rfl)]

theorem mchol d a gd : Statement (.mchol d a gd) := by
  rintro _ ⟨⟩
  rw [decode_77 _ (top_is (fixed_is (hi := 31) (lo := 25) (c := 119) 0 1 0 [(0x77, 7)] rfl rfl rfl rfl rfl) rfl),
    decode77,
    if_pos (fixed_is (hi := 18) (lo := 5) (c := 0) 3 1 0 [(0x0, 14)] rfl rfl rfl rfl rfl),
    field_is (hi := 24) (lo := 22) 1 d rfl rfl rfl,
    field_is (hi := 21) (lo := 19) 2 a rfl rfl rfl,
    guard_is (flag_is 4 gd.n rfl rfl rfl) (field_is (hi := 3) (lo := 0) 5 gd.g rfl rfl rfl)]

theorem mlu d a v gd : Statement (.mlu d a v gd) := by
  rintro _ ⟨⟩
  rw [decode_77 _ (top_is (fixed_is (hi := 31) (lo := 25) (c := 119) 0 1 0 [(0x77, 7)] rfl rfl rfl rfl rfl) rfl),
    decode77,
    if_neg (fun c => fixed_not (hi := 18) (lo := 5) (c := 0) 3 1 0 5 9 [(0x1, 9)] rfl rfl rfl rfl rfl rfl c),
    if_pos (fixed_is (hi := 18) (lo := 10) (c := 1) 3 1 0 [(0x1, 9)] rfl rfl rfl rfl rfl),
    field_is (hi := 24) (lo := 22) 1 d rfl rfl rfl,
    field_is (hi := 21) (lo := 19) 2 a rfl rfl rfl,
    field_is (hi := 9) (lo := 5) 4 v rfl rfl rfl,
    guard_is (flag_is 5 gd.n rfl rfl rfl) (field_is (hi := 3) (lo := 0) 6 gd.g rfl rfl rfl)]

theorem msolve d a b m gd : Statement (.msolve d a b m gd) := by
  rintro _ ⟨⟩
  rw [decode_77 _ (top_is (fixed_is (hi := 31) (lo := 25) (c := 119) 0 1 0 [(0x77, 7)] rfl rfl rfl rfl rfl) rfl),
    decode77,
    if_neg (fun c => fixed_not (hi := 18) (lo := 5) (c := 0) 4 1 0 2 9 [(0x10, 9)] rfl rfl rfl rfl rfl rfl c),
    if_neg (fun c => fixed_not (hi := 18) (lo := 10) (c := 1) 4 1 3 0 6 [(0x10, 9)] rfl rfl rfl rfl rfl rfl c),
    if_pos (fixed_is (hi := 15) (lo := 7) (c := 16) 4 1 0 [(0x10, 9)] rfl rfl rfl rfl rfl),
    field_is (hi := 24) (lo := 22) 1 d rfl rfl rfl,
    field_is (hi := 21) (lo := 19) 2 a rfl rfl rfl,
    field_is (hi := 18) (lo := 16) 3 b rfl rfl rfl,
    field_is (hi := 6) (lo := 5) 5 m rfl rfl rfl,
    guard_is (flag_is 6 gd.n rfl rfl rfl) (field_is (hi := 3) (lo := 0) 7 gd.g rfl rfl rfl)]

theorem mflg m k gd : Statement (.mflg m k gd) := by
  rintro _ ⟨⟩
  rw [decode_77 _ (top_is (fixed_is (hi := 31) (lo := 25) (c := 119) 0 1 5 [(0xEE0, 12)] rfl rfl rfl rfl rfl) rfl),
    decode77,
    if_neg (fun c => fixed_not (hi := 18) (lo := 5) (c := 0) 2 1 0 4 7 [(0x6, 7)] rfl rfl rfl rfl rfl rfl c),
    if_neg (fun c => fixed_not (hi := 18) (lo := 10) (c := 1) 2 1 1 0 6 [(0x6, 7)] rfl rfl rfl rfl rfl rfl c),
    if_neg (fun c => fixed_not (hi := 15) (lo := 7) (c := 16) 2 1 0 2 7 [(0x6, 7)] rfl rfl rfl rfl rfl rfl c),
    if_pos ⟨fixed_is (hi := 24) (lo := 20) (c := 0) 0 1 0 [(0xEE0, 12)] rfl rfl rfl rfl rfl, fixed_is (hi := 15) (lo := 9) (c := 6) 2 1 0 [(0x6, 7)] rfl rfl rfl rfl rfl⟩,
    field_is (hi := 19) (lo := 16) 1 m rfl rfl rfl,
    field_is (hi := 8) (lo := 5) 3 k rfl rfl rfl,
    guard_is (flag_is 4 gd.n rfl rfl rfl) (field_is (hi := 3) (lo := 0) 5 gd.g rfl rfl rfl)]

theorem gcmd d a b : Statement (.gcmd d a b) := by
  rintro _ ⟨⟩
  rw [decode_78 _ (top_is (fixed_is (hi := 31) (lo := 25) (c := 120) 0 1 0 [(0x78, 7)] rfl rfl rfl rfl rfl) rfl),
    decode78,
    if_pos (fixed_is (hi := 9) (lo := 0) (c := 0) 4 1 0 [(0x0, 10)] rfl rfl rfl rfl rfl),
    field_is (hi := 24) (lo := 20) 1 d rfl rfl rfl,
    field_is (hi := 19) (lo := 15) 2 a rfl rfl rfl,
    field_is (hi := 14) (lo := 10) 3 b rfl rfl rfl]

theorem grdy : Statement (.grdy) := by
  rintro _ ⟨⟩
  rw [decode_78 _ (top_is (fixed_is (hi := 31) (lo := 25) (c := 120) 0 1 25 [(0xF0000001, 32)] rfl rfl rfl rfl rfl) rfl),
    decode78,
    if_neg (fun c => fixed_not (hi := 9) (lo := 0) (c := 0) 0 1 0 0 10 [(0xF0000001, 32)] rfl rfl rfl rfl rfl rfl c),
    if_pos (fixed_is (hi := 24) (lo := 0) (c := 1) 0 1 0 [(0xF0000001, 32)] rfl rfl rfl rfl rfl)]

theorem gfence d : Statement (.gfence d) := by
  rintro _ ⟨⟩
  rw [decode_78 _ (top_is (fixed_is (hi := 31) (lo := 25) (c := 120) 0 1 0 [(0x78, 7)] rfl rfl rfl rfl rfl) rfl),
    decode78,
    if_neg (fun c => fixed_not (hi := 9) (lo := 0) (c := 0) 2 1 0 0 10 [(0x2, 20)] rfl rfl rfl rfl rfl rfl c),
    if_neg (fun c => fixed_not (hi := 24) (lo := 0) (c := 1) 2 1 0 0 20 [(0x2, 20)] rfl rfl rfl rfl rfl rfl c),
    if_pos (fixed_is (hi := 19) (lo := 0) (c := 2) 2 1 0 [(0x2, 20)] rfl rfl rfl rfl rfl),
    field_is (hi := 24) (lo := 20) 1 d rfl rfl rfl]

theorem gwait a : Statement (.gwait a) := by
  rintro _ ⟨⟩
  rw [decode_78 _ (top_is (fixed_is (hi := 31) (lo := 25) (c := 120) 0 1 5 [(0xF00, 12)] rfl rfl rfl rfl rfl) rfl),
    decode78,
    if_neg (fun c => fixed_not (hi := 9) (lo := 0) (c := 0) 2 1 0 0 10 [(0x3, 15)] rfl rfl rfl rfl rfl rfl c),
    if_neg (fun c => fixed_not (hi := 24) (lo := 0) (c := 1) 2 1 0 0 15 [(0x3, 15)] rfl rfl rfl rfl rfl rfl c),
    if_neg (fun c => fixed_not (hi := 19) (lo := 0) (c := 2) 2 1 0 0 15 [(0x3, 15)] rfl rfl rfl rfl rfl rfl c),
    if_pos ⟨fixed_is (hi := 24) (lo := 20) (c := 0) 0 1 0 [(0xF00, 12)] rfl rfl rfl rfl rfl, fixed_is (hi := 14) (lo := 0) (c := 3) 2 1 0 [(0x3, 15)] rfl rfl rfl rfl rfl⟩,
    field_is (hi := 19) (lo := 15) 1 a rfl rfl rfl]

theorem gwin a b : Statement (.gwin a b) := by
  rintro _ ⟨⟩
  rw [decode_78 _ (top_is (fixed_is (hi := 31) (lo := 25) (c := 120) 0 1 5 [(0xF00, 12)] rfl rfl rfl rfl rfl) rfl),
    decode78,
    if_neg (fun c => fixed_not (hi := 9) (lo := 0) (c := 0) 3 1 0 0 10 [(0x4, 10)] rfl rfl rfl rfl rfl rfl c),
    if_neg (fun c => fixed_not (hi := 24) (lo := 0) (c := 1) 3 1 0 0 10 [(0x4, 10)] rfl rfl rfl rfl rfl rfl c),
    if_neg (fun c => fixed_not (hi := 19) (lo := 0) (c := 2) 3 1 0 0 10 [(0x4, 10)] rfl rfl rfl rfl rfl rfl c),
    if_neg (fun c => fixed_not (hi := 14) (lo := 0) (c := 3) 3 1 0 0 10 [(0x4, 10)] rfl rfl rfl rfl rfl rfl c.2),
    if_pos ⟨fixed_is (hi := 24) (lo := 20) (c := 0) 0 1 0 [(0xF00, 12)] rfl rfl rfl rfl rfl, fixed_is (hi := 9) (lo := 0) (c := 4) 3 1 0 [(0x4, 10)] rfl rfl rfl rfl rfl⟩,
    field_is (hi := 19) (lo := 15) 1 a rfl rfl rfl,
    field_is (hi := 14) (lo := 10) 2 b rfl rfl rfl]

theorem gctr d a : Statement (.gctr d a) := by
  rintro _ ⟨⟩
  rw [decode_78 _ (top_is (fixed_is (hi := 31) (lo := 25) (c := 120) 0 1 0 [(0x78, 7)] rfl rfl rfl rfl rfl) rfl),
    decode78,
    if_neg (fun c => fixed_not (hi := 9) (lo := 0) (c := 0) 3 1 0 0 10 [(0x5, 15)] rfl rfl rfl rfl rfl rfl c),
    if_neg (fun c => fixed_not (hi := 24) (lo := 0) (c := 1) 3 1 0 0 15 [(0x5, 15)] rfl rfl rfl rfl rfl rfl c),
    if_neg (fun c => fixed_not (hi := 19) (lo := 0) (c := 2) 3 1 0 0 15 [(0x5, 15)] rfl rfl rfl rfl rfl rfl c),
    if_neg (fun c => fixed_not (hi := 14) (lo := 0) (c := 3) 3 1 0 0 15 [(0x5, 15)] rfl rfl rfl rfl rfl rfl c.2),
    if_neg (fun c => fixed_not (hi := 9) (lo := 0) (c := 4) 3 1 0 0 10 [(0x5, 15)] rfl rfl rfl rfl rfl rfl c.2),
    if_pos (fixed_is (hi := 14) (lo := 0) (c := 5) 3 1 0 [(0x5, 15)] rfl rfl rfl rfl rfl),
    field_is (hi := 24) (lo := 20) 1 d rfl rfl rfl,
    field_is (hi := 19) (lo := 15) 2 a rfl rfl rfl]

theorem gclr a : Statement (.gclr a) := by
  rintro _ ⟨⟩
  rw [decode_78 _ (top_is (fixed_is (hi := 31) (lo := 25) (c := 120) 0 1 5 [(0xF00, 12)] rfl rfl rfl rfl rfl) rfl),
    decode78,
    if_neg (fun c => fixed_not (hi := 9) (lo := 0) (c := 0) 2 1 0 0 10 [(0x6, 15)] rfl rfl rfl rfl rfl rfl c),
    if_neg (fun c => fixed_not (hi := 24) (lo := 0) (c := 1) 2 1 0 0 15 [(0x6, 15)] rfl rfl rfl rfl rfl rfl c),
    if_neg (fun c => fixed_not (hi := 19) (lo := 0) (c := 2) 2 1 0 0 15 [(0x6, 15)] rfl rfl rfl rfl rfl rfl c),
    if_neg (fun c => fixed_not (hi := 14) (lo := 0) (c := 3) 2 1 0 0 15 [(0x6, 15)] rfl rfl rfl rfl rfl rfl c.2),
    if_neg (fun c => fixed_not (hi := 9) (lo := 0) (c := 4) 2 1 0 0 10 [(0x6, 15)] rfl rfl rfl rfl rfl rfl c.2),
    if_neg (fun c => fixed_not (hi := 14) (lo := 0) (c := 5) 2 1 0 0 15 [(0x6, 15)] rfl rfl rfl rfl rfl rfl c),
    if_pos ⟨fixed_is (hi := 24) (lo := 20) (c := 0) 0 1 0 [(0xF00, 12)] rfl rfl rfl rfl rfl, fixed_is (hi := 14) (lo := 0) (c := 6) 2 1 0 [(0x6, 15)] rfl rfl rfl rfl rfl⟩,
    field_is (hi := 19) (lo := 15) 1 a rfl rfl rfl]

theorem gqry d b : Statement (.gqry d b) := by
  rintro _ ⟨⟩
  rw [decode_78 _ (top_is (fixed_is (hi := 31) (lo := 25) (c := 120) 0 1 0 [(0x78, 7)] rfl rfl rfl rfl rfl) rfl),
    decode78,
    if_neg (fun c => fixed_not (hi := 9) (lo := 0) (c := 0) 4 1 0 0 10 [(0x7, 10)] rfl rfl rfl rfl rfl rfl c),
    if_neg (fun c => fixed_not (hi := 24) (lo := 0) (c := 1) 4 1 0 0 10 [(0x7, 10)] rfl rfl rfl rfl rfl rfl c),
    if_neg (fun c => fixed_not (hi := 19) (lo := 0) (c := 2) 4 1 0 0 10 [(0x7, 10)] rfl rfl rfl rfl rfl rfl c),
    if_neg (fun c => fixed_not (hi := 14) (lo := 0) (c := 3) 4 1 0 0 10 [(0x7, 10)] rfl rfl rfl rfl rfl rfl c.2),
    if_neg (fun c => fixed_not (hi := 9) (lo := 0) (c := 4) 4 1 0 0 10 [(0x7, 10)] rfl rfl rfl rfl rfl rfl c.2),
    if_neg (fun c => fixed_not (hi := 14) (lo := 0) (c := 5) 4 1 0 0 10 [(0x7, 10)] rfl rfl rfl rfl rfl rfl c),
    if_neg (fun c => fixed_not (hi := 14) (lo := 0) (c := 6) 4 1 0 0 10 [(0x7, 10)] rfl rfl rfl rfl rfl rfl c.2),
    if_pos ⟨fixed_is (hi := 19) (lo := 15) (c := 0) 2 1 0 [(0x0, 5)] rfl rfl rfl rfl rfl, fixed_is (hi := 9) (lo := 0) (c := 7) 4 1 0 [(0x7, 10)] rfl rfl rfl rfl rfl⟩,
    field_is (hi := 24) (lo := 20) 1 d rfl rfl rfl,
    field_is (hi := 14) (lo := 10) 3 b rfl rfl rfl]

theorem vapp d a la m gd : Statement (.vapp d a la m gd) := by
  rintro _ ⟨⟩
  rw [decode_79 _ (top_is (fixed_is (hi := 31) (lo := 25) (c := 121) 0 1 0 [(0x79, 7)] rfl rfl rfl rfl rfl) rfl),
    decode79,
    if_pos (fixed_is (hi := 12) (lo := 7) (c := 0) 3 1 0 [(0x0, 6)] rfl rfl rfl rfl rfl),
    field_is (hi := 24) (lo := 19) 1 d rfl rfl rfl,
    field_is (hi := 18) (lo := 13) 2 a rfl rfl rfl,
    flag_is (k := 6) 4 la rfl rfl rfl,
    flag_is (k := 5) 5 m rfl rfl rfl,
    guard_is (flag_is 6 gd.n rfl rfl rfl) (field_is (hi := 3) (lo := 0) 7 gd.g rfl rfl rfl)]

theorem vseal d a la gd : Statement (.vseal d a la gd) := by
  rintro _ ⟨⟩
  rw [decode_79 _ (top_is (fixed_is (hi := 31) (lo := 25) (c := 121) 0 1 0 [(0x79, 7)] rfl rfl rfl rfl rfl) rfl),
    decode79,
    if_neg (fun c => fixed_not (hi := 12) (lo := 7) (c := 0) 3 1 0 0 6 [(0x1, 6)] rfl rfl rfl rfl rfl rfl c),
    if_pos ⟨fixed_is (hi := 12) (lo := 7) (c := 1) 3 1 0 [(0x1, 6)] rfl rfl rfl rfl rfl, fixed_is (hi := 5) (lo := 5) (c := 0) 5 1 0 [(0x0, 1)] rfl rfl rfl rfl rfl⟩,
    field_is (hi := 24) (lo := 19) 1 d rfl rfl rfl,
    field_is (hi := 18) (lo := 13) 2 a rfl rfl rfl,
    flag_is (k := 6) 4 la rfl rfl rfl,
    guard_is (flag_is 6 gd.n rfl rfl rfl) (field_is (hi := 3) (lo := 0) 7 gd.g rfl rfl rfl)]

theorem vconn d a la gd : Statement (.vconn d a la gd) := by
  rintro _ ⟨⟩
  rw [decode_79 _ (top_is (fixed_is (hi := 31) (lo := 25) (c := 121) 0 1 0 [(0x79, 7)] rfl rfl rfl rfl rfl) rfl),
    decode79,
    if_neg (fun c => fixed_not (hi := 12) (lo := 7) (c := 0) 3 1 0 0 6 [(0x2, 6)] rfl rfl rfl rfl rfl rfl c),
    if_neg (fun c => fixed_not (hi := 12) (lo := 7) (c := 1) 3 1 0 0 6 [(0x2, 6)] rfl rfl rfl rfl rfl rfl c.1),
    if_pos ⟨fixed_is (hi := 12) (lo := 7) (c := 2) 3 1 0 [(0x2, 6)] rfl rfl rfl rfl rfl, fixed_is (hi := 5) (lo := 5) (c := 0) 5 1 0 [(0x0, 1)] rfl rfl rfl rfl rfl⟩,
    field_is (hi := 24) (lo := 19) 1 d rfl rfl rfl,
    field_is (hi := 18) (lo := 13) 2 a rfl rfl rfl,
    flag_is (k := 6) 4 la rfl rfl rfl,
    guard_is (flag_is 6 gd.n rfl rfl rfl) (field_is (hi := 3) (lo := 0) 7 gd.g rfl rfl rfl)]

theorem vmerge d a la gd : Statement (.vmerge d a la gd) := by
  rintro _ ⟨⟩
  rw [decode_79 _ (top_is (fixed_is (hi := 31) (lo := 25) (c := 121) 0 1 0 [(0x79, 7)] rfl rfl rfl rfl rfl) rfl),
    decode79,
    if_neg (fun c => fixed_not (hi := 12) (lo := 7) (c := 0) 3 1 0 0 6 [(0x3, 6)] rfl rfl rfl rfl rfl rfl c),
    if_neg (fun c => fixed_not (hi := 12) (lo := 7) (c := 1) 3 1 0 0 6 [(0x3, 6)] rfl rfl rfl rfl rfl rfl c.1),
    if_neg (fun c => fixed_not (hi := 12) (lo := 7) (c := 2) 3 1 0 0 6 [(0x3, 6)] rfl rfl rfl rfl rfl rfl c.1),
    if_pos ⟨fixed_is (hi := 12) (lo := 7) (c := 3) 3 1 0 [(0x3, 6)] rfl rfl rfl rfl rfl, fixed_is (hi := 5) (lo := 5) (c := 0) 5 1 0 [(0x0, 1)] rfl rfl rfl rfl rfl⟩,
    field_is (hi := 24) (lo := 19) 1 d rfl rfl rfl,
    field_is (hi := 18) (lo := 13) 2 a rfl rfl rfl,
    flag_is (k := 6) 4 la rfl rfl rfl,
    guard_is (flag_is 6 gd.n rfl rfl rfl) (field_is (hi := 3) (lo := 0) 7 gd.g rfl rfl rfl)]

theorem vrwt d a la gd : Statement (.vrwt d a la gd) := by
  rintro _ ⟨⟩
  rw [decode_79 _ (top_is (fixed_is (hi := 31) (lo := 25) (c := 121) 0 1 0 [(0x79, 7)] rfl rfl rfl rfl rfl) rfl),
    decode79,
    if_neg (fun c => fixed_not (hi := 12) (lo := 7) (c := 0) 3 1 0 0 6 [(0x4, 6)] rfl rfl rfl rfl rfl rfl c),
    if_neg (fun c => fixed_not (hi := 12) (lo := 7) (c := 1) 3 1 0 0 6 [(0x4, 6)] rfl rfl rfl rfl rfl rfl c.1),
    if_neg (fun c => fixed_not (hi := 12) (lo := 7) (c := 2) 3 1 0 0 6 [(0x4, 6)] rfl rfl rfl rfl rfl rfl c.1),
    if_neg (fun c => fixed_not (hi := 12) (lo := 7) (c := 3) 3 1 0 0 6 [(0x4, 6)] rfl rfl rfl rfl rfl rfl c.1),
    if_pos ⟨fixed_is (hi := 12) (lo := 7) (c := 4) 3 1 0 [(0x4, 6)] rfl rfl rfl rfl rfl, fixed_is (hi := 5) (lo := 5) (c := 0) 5 1 0 [(0x0, 1)] rfl rfl rfl rfl rfl⟩,
    field_is (hi := 24) (lo := 19) 1 d rfl rfl rfl,
    field_is (hi := 18) (lo := 13) 2 a rfl rfl rfl,
    flag_is (k := 6) 4 la rfl rfl rfl,
    guard_is (flag_is 6 gd.n rfl rfl rfl) (field_is (hi := 3) (lo := 0) 7 gd.g rfl rfl rfl)]

theorem vget d a la gd : Statement (.vget d a la gd) := by
  rintro _ ⟨⟩
  rw [decode_79 _ (top_is (fixed_is (hi := 31) (lo := 25) (c := 121) 0 1 0 [(0x79, 7)] rfl rfl rfl rfl rfl) rfl),
    decode79,
    if_neg (fun c => fixed_not (hi := 12) (lo := 7) (c := 0) 3 1 0 0 6 [(0x5, 6)] rfl rfl rfl rfl rfl rfl c),
    if_neg (fun c => fixed_not (hi := 12) (lo := 7) (c := 1) 3 1 0 0 6 [(0x5, 6)] rfl rfl rfl rfl rfl rfl c.1),
    if_neg (fun c => fixed_not (hi := 12) (lo := 7) (c := 2) 3 1 0 0 6 [(0x5, 6)] rfl rfl rfl rfl rfl rfl c.1),
    if_neg (fun c => fixed_not (hi := 12) (lo := 7) (c := 3) 3 1 0 0 6 [(0x5, 6)] rfl rfl rfl rfl rfl rfl c.1),
    if_neg (fun c => fixed_not (hi := 12) (lo := 7) (c := 4) 3 1 0 0 6 [(0x5, 6)] rfl rfl rfl rfl rfl rfl c.1),
    if_pos ⟨fixed_is (hi := 12) (lo := 7) (c := 5) 3 1 0 [(0x5, 6)] rfl rfl rfl rfl rfl, fixed_is (hi := 5) (lo := 5) (c := 0) 5 1 0 [(0x0, 1)] rfl rfl rfl rfl rfl⟩,
    field_is (hi := 24) (lo := 19) 1 d rfl rfl rfl,
    field_is (hi := 18) (lo := 13) 2 a rfl rfl rfl,
    flag_is (k := 6) 4 la rfl rfl rfl,
    guard_is (flag_is 6 gd.n rfl rfl rfl) (field_is (hi := 3) (lo := 0) 7 gd.g rfl rfl rfl)]

theorem vref d a la gd : Statement (.vref d a la gd) := by
  rintro _ ⟨⟩
  rw [decode_79 _ (top_is (fixed_is (hi := 31) (lo := 25) (c := 121) 0 1 0 [(0x79, 7)] rfl rfl rfl rfl rfl) rfl),
    decode79,
    if_neg (fun c => fixed_not (hi := 12) (lo := 7) (c := 0) 3 1 0 0 6 [(0x6, 6)] rfl rfl rfl rfl rfl rfl c),
    if_neg (fun c => fixed_not (hi := 12) (lo := 7) (c := 1) 3 1 0 0 6 [(0x6, 6)] rfl rfl rfl rfl rfl rfl c.1),
    if_neg (fun c => fixed_not (hi := 12) (lo := 7) (c := 2) 3 1 0 0 6 [(0x6, 6)] rfl rfl rfl rfl rfl rfl c.1),
    if_neg (fun c => fixed_not (hi := 12) (lo := 7) (c := 3) 3 1 0 0 6 [(0x6, 6)] rfl rfl rfl rfl rfl rfl c.1),
    if_neg (fun c => fixed_not (hi := 12) (lo := 7) (c := 4) 3 1 0 0 6 [(0x6, 6)] rfl rfl rfl rfl rfl rfl c.1),
    if_neg (fun c => fixed_not (hi := 12) (lo := 7) (c := 5) 3 1 0 0 6 [(0x6, 6)] rfl rfl rfl rfl rfl rfl c.1),
    if_pos ⟨fixed_is (hi := 12) (lo := 7) (c := 6) 3 1 0 [(0x6, 6)] rfl rfl rfl rfl rfl, fixed_is (hi := 5) (lo := 5) (c := 0) 5 1 0 [(0x0, 1)] rfl rfl rfl rfl rfl⟩,
    field_is (hi := 24) (lo := 19) 1 d rfl rfl rfl,
    field_is (hi := 18) (lo := 13) 2 a rfl rfl rfl,
    flag_is (k := 6) 4 la rfl rfl rfl,
    guard_is (flag_is 6 gd.n rfl rfl rfl) (field_is (hi := 3) (lo := 0) 7 gd.g rfl rfl rfl)]

theorem vrel d a la gd : Statement (.vrel d a la gd) := by
  rintro _ ⟨⟩
  rw [decode_79 _ (top_is (fixed_is (hi := 31) (lo := 25) (c := 121) 0 1 0 [(0x79, 7)] rfl rfl rfl rfl rfl) rfl),
    decode79,
    if_neg (fun c => fixed_not (hi := 12) (lo := 7) (c := 0) 3 1 0 0 6 [(0x7, 6)] rfl rfl rfl rfl rfl rfl c),
    if_neg (fun c => fixed_not (hi := 12) (lo := 7) (c := 1) 3 1 0 0 6 [(0x7, 6)] rfl rfl rfl rfl rfl rfl c.1),
    if_neg (fun c => fixed_not (hi := 12) (lo := 7) (c := 2) 3 1 0 0 6 [(0x7, 6)] rfl rfl rfl rfl rfl rfl c.1),
    if_neg (fun c => fixed_not (hi := 12) (lo := 7) (c := 3) 3 1 0 0 6 [(0x7, 6)] rfl rfl rfl rfl rfl rfl c.1),
    if_neg (fun c => fixed_not (hi := 12) (lo := 7) (c := 4) 3 1 0 0 6 [(0x7, 6)] rfl rfl rfl rfl rfl rfl c.1),
    if_neg (fun c => fixed_not (hi := 12) (lo := 7) (c := 5) 3 1 0 0 6 [(0x7, 6)] rfl rfl rfl rfl rfl rfl c.1),
    if_neg (fun c => fixed_not (hi := 12) (lo := 7) (c := 6) 3 1 0 0 6 [(0x7, 6)] rfl rfl rfl rfl rfl rfl c.1),
    if_pos ⟨fixed_is (hi := 12) (lo := 7) (c := 7) 3 1 0 [(0x7, 6)] rfl rfl rfl rfl rfl, fixed_is (hi := 5) (lo := 5) (c := 0) 5 1 0 [(0x0, 1)] rfl rfl rfl rfl rfl⟩,
    field_is (hi := 24) (lo := 19) 1 d rfl rfl rfl,
    field_is (hi := 18) (lo := 13) 2 a rfl rfl rfl,
    flag_is (k := 6) 4 la rfl rfl rfl,
    guard_is (flag_is 6 gd.n rfl rfl rfl) (field_is (hi := 3) (lo := 0) 7 gd.g rfl rfl rfl)]

theorem vgen d a la gd : Statement (.vgen d a la gd) := by
  rintro _ ⟨⟩
  rw [decode_79 _ (top_is (fixed_is (hi := 31) (lo := 25) (c := 121) 0 1 0 [(0x79, 7)] rfl rfl rfl rfl rfl) rfl),
    decode79,
    if_neg (fun c => fixed_not (hi := 12) (lo := 7) (c := 0) 3 1 0 0 6 [(0x8, 6)] rfl rfl rfl rfl rfl rfl c),
    if_neg (fun c => fixed_not (hi := 12) (lo := 7) (c := 1) 3 1 0 0 6 [(0x8, 6)] rfl rfl rfl rfl rfl rfl c.1),
    if_neg (fun c => fixed_not (hi := 12) (lo := 7) (c := 2) 3 1 0 0 6 [(0x8, 6)] rfl rfl rfl rfl rfl rfl c.1),
    if_neg (fun c => fixed_not (hi := 12) (lo := 7) (c := 3) 3 1 0 0 6 [(0x8, 6)] rfl rfl rfl rfl rfl rfl c.1),
    if_neg (fun c => fixed_not (hi := 12) (lo := 7) (c := 4) 3 1 0 0 6 [(0x8, 6)] rfl rfl rfl rfl rfl rfl c.1),
    if_neg (fun c => fixed_not (hi := 12) (lo := 7) (c := 5) 3 1 0 0 6 [(0x8, 6)] rfl rfl rfl rfl rfl rfl c.1),
    if_neg (fun c => fixed_not (hi := 12) (lo := 7) (c := 6) 3 1 0 0 6 [(0x8, 6)] rfl rfl rfl rfl rfl rfl c.1),
    if_neg (fun c => fixed_not (hi := 12) (lo := 7) (c := 7) 3 1 0 0 6 [(0x8, 6)] rfl rfl rfl rfl rfl rfl c.1),
    if_pos ⟨fixed_is (hi := 12) (lo := 7) (c := 8) 3 1 0 [(0x8, 6)] rfl rfl rfl rfl rfl, fixed_is (hi := 5) (lo := 5) (c := 0) 5 1 0 [(0x0, 1)] rfl rfl rfl rfl rfl⟩,
    field_is (hi := 24) (lo := 19) 1 d rfl rfl rfl,
    field_is (hi := 18) (lo := 13) 2 a rfl rfl rfl,
    flag_is (k := 6) 4 la rfl rfl rfl,
    guard_is (flag_is 6 gd.n rfl rfl rfl) (field_is (hi := 3) (lo := 0) 7 gd.g rfl rfl rfl)]

theorem trace d a la m gd : Statement (.trace d a la m gd) := by
  rintro _ ⟨⟩
  rw [decode_7A _ (top_is (fixed_is (hi := 31) (lo := 25) (c := 122) 0 1 0 [(0x7A, 7)] rfl rfl rfl rfl rfl) rfl),
    decode7A,
    if_pos (fixed_is (hi := 12) (lo := 7) (c := 0) 3 1 0 [(0x0, 6)] rfl rfl rfl rfl rfl),
    field_is (hi := 24) (lo := 19) 1 d rfl rfl rfl,
    field_is (hi := 18) (lo := 13) 2 a rfl rfl rfl,
    flag_is (k := 6) 4 la rfl rfl rfl,
    flag_is (k := 5) 5 m rfl rfl rfl,
    guard_is (flag_is 6 gd.n rfl rfl rfl) (field_is (hi := 3) (lo := 0) 7 gd.g rfl rfl rfl)]

theorem traceAny d a la m gd : Statement (.traceAny d a la m gd) := by
  rintro _ ⟨⟩
  rw [decode_7A _ (top_is (fixed_is (hi := 31) (lo := 25) (c := 122) 0 1 0 [(0x7A, 7)] rfl rfl rfl rfl rfl) rfl),
    decode7A,
    if_neg (fun c => fixed_not (hi := 12) (lo := 7) (c := 0) 3 1 0 0 6 [(0x2, 6)] rfl rfl rfl rfl rfl rfl c),
    if_pos (fixed_is (hi := 12) (lo := 7) (c := 2) 3 1 0 [(0x2, 6)] rfl rfl rfl rfl rfl),
    field_is (hi := 24) (lo := 19) 1 d rfl rfl rfl,
    field_is (hi := 18) (lo := 13) 2 a rfl rfl rfl,
    flag_is (k := 6) 4 la rfl rfl rfl,
    flag_is (k := 5) 5 m rfl rfl rfl,
    guard_is (flag_is 6 gd.n rfl rfl rfl) (field_is (hi := 3) (lo := 0) 7 gd.g rfl rfl rfl)]

theorem hitget d a la gd : Statement (.hitget d a la gd) := by
  rintro _ ⟨⟩
  rw [decode_7A _ (top_is (fixed_is (hi := 31) (lo := 25) (c := 122) 0 1 0 [(0x7A, 7)] rfl rfl rfl rfl rfl) rfl),
    decode7A,
    if_neg (fun c => fixed_not (hi := 12) (lo := 7) (c := 0) 3 1 0 0 6 [(0x1, 6)] rfl rfl rfl rfl rfl rfl c),
    if_neg (fun c => fixed_not (hi := 12) (lo := 7) (c := 2) 3 1 0 0 6 [(0x1, 6)] rfl rfl rfl rfl rfl rfl c),
    if_pos ⟨fixed_is (hi := 12) (lo := 7) (c := 1) 3 1 0 [(0x1, 6)] rfl rfl rfl rfl rfl, fixed_is (hi := 5) (lo := 5) (c := 0) 5 1 0 [(0x0, 1)] rfl rfl rfl rfl rfl⟩,
    field_is (hi := 24) (lo := 19) 1 d rfl rfl rfl,
    field_is (hi := 18) (lo := 13) 2 a rfl rfl rfl,
    flag_is (k := 6) 4 la rfl rfl rfl,
    guard_is (flag_is 6 gd.n rfl rfl rfl) (field_is (hi := 3) (lo := 0) 7 gd.g rfl rfl rfl)]

theorem trap c : Statement (.trap c) := by
  rintro _ ⟨⟩
  rw [decode_7B _ (top_is (fixed_is (hi := 31) (lo := 25) (c := 123) 0 1 0 [(0x7B, 7)] rfl rfl rfl rfl rfl) rfl),
    decode7B,
    if_pos (fixed_is (hi := 9) (lo := 0) (c := 0) 2 1 0 [(0x0, 10)] rfl rfl rfl rfl rfl),
    field_is (hi := 24) (lo := 10) 1 c rfl rfl rfl]

theorem tret : Statement (.tret) := by
  rintro _ ⟨⟩
  rw [decode_7B _ (top_is (fixed_is (hi := 31) (lo := 25) (c := 123) 0 1 25 [(0xF6000001, 32)] rfl rfl rfl rfl rfl) rfl),
    decode7B,
    if_neg (fun c => fixed_not (hi := 9) (lo := 0) (c := 0) 0 1 0 0 10 [(0xF6000001, 32)] rfl rfl rfl rfl rfl rfl c),
    if_pos (fixed_is (hi := 24) (lo := 0) (c := 1) 0 1 0 [(0xF6000001, 32)] rfl rfl rfl rfl rfl)]

theorem cclr a : Statement (.cclr a) := by
  rintro _ ⟨⟩
  rw [decode_7B _ (top_is (fixed_is (hi := 31) (lo := 25) (c := 123) 0 1 5 [(0xF60, 12)] rfl rfl rfl rfl rfl) rfl),
    decode7B,
    if_neg (fun c => fixed_not (hi := 9) (lo := 0) (c := 0) 2 1 0 0 10 [(0x2, 15)] rfl rfl rfl rfl rfl rfl c),
    if_neg (fun c => fixed_not (hi := 24) (lo := 0) (c := 1) 2 1 0 0 15 [(0x2, 15)] rfl rfl rfl rfl rfl rfl c),
    if_pos ⟨fixed_is (hi := 24) (lo := 20) (c := 0) 0 1 0 [(0xF60, 12)] rfl rfl rfl rfl rfl, fixed_is (hi := 14) (lo := 0) (c := 2) 2 1 0 [(0x2, 15)] rfl rfl rfl rfl rfl⟩,
    field_is (hi := 19) (lo := 15) 1 a rfl rfl rfl]

theorem resv d : Statement (.resv d) := by
  rintro _ ⟨⟩
  rw [decode_7B _ (top_is (fixed_is (hi := 31) (lo := 25) (c := 123) 0 1 0 [(0x7B, 7)] rfl rfl rfl rfl rfl) rfl),
    decode7B,
    if_neg (fun c => fixed_not (hi := 9) (lo := 0) (c := 0) 2 1 0 0 10 [(0x3, 20)] rfl rfl rfl rfl rfl rfl c),
    if_neg (fun c => fixed_not (hi := 24) (lo := 0) (c := 1) 2 1 0 0 20 [(0x3, 20)] rfl rfl rfl rfl rfl rfl c),
    if_neg (fun c => fixed_not (hi := 14) (lo := 0) (c := 2) 2 1 0 0 15 [(0x3, 20)] rfl rfl rfl rfl rfl rfl c.2),
    if_pos (fixed_is (hi := 19) (lo := 0) (c := 3) 2 1 0 [(0x3, 20)] rfl rfl rfl rfl rfl),
    field_is (hi := 24) (lo := 20) 1 d rfl rfl rfl]

theorem lvq : Statement (.lvq) := by
  rintro _ ⟨⟩
  rw [decode_7B _ (top_is (fixed_is (hi := 31) (lo := 25) (c := 123) 0 1 25 [(0xF6000004, 32)] rfl rfl rfl rfl rfl) rfl),
    decode7B,
    if_neg (fun c => fixed_not (hi := 9) (lo := 0) (c := 0) 0 1 0 0 10 [(0xF6000004, 32)] rfl rfl rfl rfl rfl rfl c),
    if_neg (fun c => fixed_not (hi := 24) (lo := 0) (c := 1) 0 1 0 0 25 [(0xF6000004, 32)] rfl rfl rfl rfl rfl rfl c),
    if_neg (fun c => fixed_not (hi := 14) (lo := 0) (c := 2) 0 1 0 0 15 [(0xF6000004, 32)] rfl rfl rfl rfl rfl rfl c.2),
    if_neg (fun c => fixed_not (hi := 19) (lo := 0) (c := 3) 0 1 0 0 20 [(0xF6000004, 32)] rfl rfl rfl rfl rfl rfl c),
    if_pos (fixed_is (hi := 24) (lo := 0) (c := 4) 0 1 0 [(0xF6000004, 32)] rfl rfl rfl rfl rfl)]

theorem lvqSeg : Statement (.lvqSeg) := by
  rintro _ ⟨⟩
  rw [decode_7B _ (top_is (fixed_is (hi := 31) (lo := 25) (c := 123) 0 1 25 [(0xF6000005, 32)] rfl rfl rfl rfl rfl) rfl),
    decode7B,
    if_neg (fun c => fixed_not (hi := 9) (lo := 0) (c := 0) 0 1 0 0 10 [(0xF6000005, 32)] rfl rfl rfl rfl rfl rfl c),
    if_neg (fun c => fixed_not (hi := 24) (lo := 0) (c := 1) 0 1 0 0 25 [(0xF6000005, 32)] rfl rfl rfl rfl rfl rfl c),
    if_neg (fun c => fixed_not (hi := 14) (lo := 0) (c := 2) 0 1 0 0 15 [(0xF6000005, 32)] rfl rfl rfl rfl rfl rfl c.2),
    if_neg (fun c => fixed_not (hi := 19) (lo := 0) (c := 3) 0 1 0 0 20 [(0xF6000005, 32)] rfl rfl rfl rfl rfl rfl c),
    if_neg (fun c => fixed_not (hi := 24) (lo := 0) (c := 4) 0 1 0 0 25 [(0xF6000005, 32)] rfl rfl rfl rfl rfl rfl c),
    if_pos (fixed_is (hi := 24) (lo := 0) (c := 5) 0 1 0 [(0xF6000005, 32)] rfl rfl rfl rfl rfl)]

theorem mark d a b : Statement (.mark d a b) := by
  rintro _ ⟨⟩
  rw [decode_7B _ (top_is (fixed_is (hi := 31) (lo := 25) (c := 123) 0 1 0 [(0x7B, 7)] rfl rfl rfl rfl rfl) rfl),
    decode7B,
    if_neg (fun c => fixed_not (hi := 9) (lo := 0) (c := 0) 4 1 0 0 10 [(0x6, 10)] rfl rfl rfl rfl rfl rfl c),
    if_neg (fun c => fixed_not (hi := 24) (lo := 0) (c := 1) 4 1 0 0 10 [(0x6, 10)] rfl rfl rfl rfl rfl rfl c),
    if_neg (fun c => fixed_not (hi := 14) (lo := 0) (c := 2) 4 1 0 0 10 [(0x6, 10)] rfl rfl rfl rfl rfl rfl c.2),
    if_neg (fun c => fixed_not (hi := 19) (lo := 0) (c := 3) 4 1 0 0 10 [(0x6, 10)] rfl rfl rfl rfl rfl rfl c),
    if_neg (fun c => fixed_not (hi := 24) (lo := 0) (c := 4) 4 1 0 0 10 [(0x6, 10)] rfl rfl rfl rfl rfl rfl c),
    if_neg (fun c => fixed_not (hi := 24) (lo := 0) (c := 5) 4 1 0 0 10 [(0x6, 10)] rfl rfl rfl rfl rfl rfl c),
    if_pos (fixed_is (hi := 9) (lo := 0) (c := 6) 4 1 0 [(0x6, 10)] rfl rfl rfl rfl rfl),
    field_is (hi := 24) (lo := 20) 1 d rfl rfl rfl,
    field_is (hi := 19) (lo := 15) 2 a rfl rfl rfl,
    field_is (hi := 14) (lo := 10) 3 b rfl rfl rfl]

theorem hctr d a : Statement (.hctr d a) := by
  rintro _ ⟨⟩
  rw [decode_7B _ (top_is (fixed_is (hi := 31) (lo := 25) (c := 123) 0 1 0 [(0x7B, 7)] rfl rfl rfl rfl rfl) rfl),
    decode7B,
    if_neg (fun c => fixed_not (hi := 9) (lo := 0) (c := 0) 3 1 0 0 10 [(0x7, 15)] rfl rfl rfl rfl rfl rfl c),
    if_neg (fun c => fixed_not (hi := 24) (lo := 0) (c := 1) 3 1 0 0 15 [(0x7, 15)] rfl rfl rfl rfl rfl rfl c),
    if_neg (fun c => fixed_not (hi := 14) (lo := 0) (c := 2) 3 1 0 0 15 [(0x7, 15)] rfl rfl rfl rfl rfl rfl c.2),
    if_neg (fun c => fixed_not (hi := 19) (lo := 0) (c := 3) 3 1 0 0 15 [(0x7, 15)] rfl rfl rfl rfl rfl rfl c),
    if_neg (fun c => fixed_not (hi := 24) (lo := 0) (c := 4) 3 1 0 0 15 [(0x7, 15)] rfl rfl rfl rfl rfl rfl c),
    if_neg (fun c => fixed_not (hi := 24) (lo := 0) (c := 5) 3 1 0 0 15 [(0x7, 15)] rfl rfl rfl rfl rfl rfl c),
    if_neg (fun c => fixed_not (hi := 9) (lo := 0) (c := 6) 3 1 0 0 10 [(0x7, 15)] rfl rfl rfl rfl rfl rfl c),
    if_pos (fixed_is (hi := 14) (lo := 0) (c := 7) 3 1 0 [(0x7, 15)] rfl rfl rfl rfl rfl),
    field_is (hi := 24) (lo := 20) 1 d rfl rfl rfl,
    field_is (hi := 19) (lo := 15) 2 a rfl rfl rfl]

theorem dbrk d a : Statement (.dbrk d a) := by
  rintro _ ⟨⟩
  rw [decode_7B _ (top_is (fixed_is (hi := 31) (lo := 25) (c := 123) 0 1 0 [(0x7B, 7)] rfl rfl rfl rfl rfl) rfl),
    decode7B,
    if_neg (fun c => fixed_not (hi := 9) (lo := 0) (c := 0) 3 1 0 0 10 [(0x8, 15)] rfl rfl rfl rfl rfl rfl c),
    if_neg (fun c => fixed_not (hi := 24) (lo := 0) (c := 1) 3 1 0 0 15 [(0x8, 15)] rfl rfl rfl rfl rfl rfl c),
    if_neg (fun c => fixed_not (hi := 14) (lo := 0) (c := 2) 3 1 0 0 15 [(0x8, 15)] rfl rfl rfl rfl rfl rfl c.2),
    if_neg (fun c => fixed_not (hi := 19) (lo := 0) (c := 3) 3 1 0 0 15 [(0x8, 15)] rfl rfl rfl rfl rfl rfl c),
    if_neg (fun c => fixed_not (hi := 24) (lo := 0) (c := 4) 3 1 0 0 15 [(0x8, 15)] rfl rfl rfl rfl rfl rfl c),
    if_neg (fun c => fixed_not (hi := 24) (lo := 0) (c := 5) 3 1 0 0 15 [(0x8, 15)] rfl rfl rfl rfl rfl rfl c),
    if_neg (fun c => fixed_not (hi := 9) (lo := 0) (c := 6) 3 1 0 0 10 [(0x8, 15)] rfl rfl rfl rfl rfl rfl c),
    if_neg (fun c => fixed_not (hi := 14) (lo := 0) (c := 7) 3 1 0 0 15 [(0x8, 15)] rfl rfl rfl rfl rfl rfl c),
    if_pos (fixed_is (hi := 14) (lo := 0) (c := 8) 3 1 0 [(0x8, 15)] rfl rfl rfl rfl rfl),
    field_is (hi := 24) (lo := 20) 1 d rfl rfl rfl,
    field_is (hi := 19) (lo := 15) 2 a rfl rfl rfl]

theorem himm p : Statement (.himm p) := by
  rintro _ ⟨⟩
  rw [decode_7F _ (top_is (fixed_is (hi := 31) (lo := 25) (c := 127) 0 1 4 [(0x7F0, 11)] rfl rfl rfl rfl rfl) rfl),
    decode7F,
    if_pos (fixed_is (hi := 24) (lo := 21) (c := 0) 0 1 0 [(0x7F0, 11)] rfl rfl rfl rfl rfl),
    field_is (hi := 20) (lo := 0) 1 p rfl rfl rfl]

theorem hold a b c : Statement (.hold a b c) := by
  rintro _ ⟨⟩
  rw [decode_7F _ (top_is (fixed_is (hi := 31) (lo := 25) (c := 127) 0 1 4 [(0x7F1, 11)] rfl rfl rfl rfl rfl) rfl),
    decode7F,
    if_neg (fun c => fixed_not (hi := 24) (lo := 21) (c := 0) 0 1 0 0 4 [(0x7F1, 11)] rfl rfl rfl rfl rfl rfl c),
    if_pos ⟨fixed_is (hi := 24) (lo := 21) (c := 1) 0 1 0 [(0x7F1, 11)] rfl rfl rfl rfl rfl, fixed_is (hi := 14) (lo := 0) (c := 0) 4 1 0 [(0x0, 15)] rfl rfl rfl rfl rfl⟩,
    field_is (hi := 20) (lo := 19) 1 a rfl rfl rfl,
    field_is (hi := 18) (lo := 17) 2 b rfl rfl rfl,
    field_is (hi := 16) (lo := 15) 3 c rfl rfl rfl]

theorem hsrc v w s t : Statement (.hsrc v w s t) := by
  rintro _ ⟨⟩
  rw [decode_7F _ (top_is (fixed_is (hi := 31) (lo := 25) (c := 127) 0 1 4 [(0x7F2, 11)] rfl rfl rfl rfl rfl) rfl),
    decode7F,
    if_neg (fun c => fixed_not (hi := 24) (lo := 21) (c := 0) 0 1 0 0 4 [(0x7F2, 11)] rfl rfl rfl rfl rfl rfl c),
    if_neg (fun c => fixed_not (hi := 24) (lo := 21) (c := 1) 0 1 0 0 4 [(0x7F2, 11)] rfl rfl rfl rfl rfl rfl c.1),
    if_pos ⟨fixed_is (hi := 24) (lo := 21) (c := 2) 0 1 0 [(0x7F2, 11)] rfl rfl rfl rfl rfl, fixed_is (hi := 7) (lo := 0) (c := 0) 5 1 0 [(0x0, 8)] rfl rfl rfl rfl rfl⟩,
    field_is (hi := 20) (lo := 15) 1 v rfl rfl rfl,
    flag_is (k := 14) 2 w rfl rfl rfl,
    field_is (hi := 13) (lo := 9) 3 s rfl rfl rfl,
    flag_is (k := 8) 4 t rfl rfl rfl]

theorem hmod r f c p o s : Statement (.hmod r f c p o s) := by
  rintro _ ⟨⟩
  rw [decode_7F _ (top_is (fixed_is (hi := 31) (lo := 25) (c := 127) 0 1 4 [(0x7F3, 11)] rfl rfl rfl rfl rfl) rfl),
    decode7F,
    if_neg (fun c => fixed_not (hi := 24) (lo := 21) (c := 0) 0 1 0 0 4 [(0x7F3, 11)] rfl rfl rfl rfl rfl rfl c),
    if_neg (fun c => fixed_not (hi := 24) (lo := 21) (c := 1) 0 1 0 0 4 [(0x7F3, 11)] rfl rfl rfl rfl rfl rfl c.1),
    if_neg (fun c => fixed_not (hi := 24) (lo := 21) (c := 2) 0 1 0 0 4 [(0x7F3, 11)] rfl rfl rfl rfl rfl rfl c.1),
    if_pos ⟨fixed_is (hi := 24) (lo := 21) (c := 3) 0 1 0 [(0x7F3, 11)] rfl rfl rfl rfl rfl, fixed_is (hi := 14) (lo := 14) (c := 0) 4 1 0 [(0x0, 1)] rfl rfl rfl rfl rfl, fixed_is (hi := 4) (lo := 0) (c := 0) 8 1 0 [(0x0, 5)] rfl rfl rfl rfl rfl⟩,
    field_is (hi := 20) (lo := 18) 1 r rfl rfl rfl,
    flag_is (k := 17) 2 f rfl rfl rfl,
    field_is (hi := 16) (lo := 15) 3 c rfl rfl rfl,
    field_is (hi := 13) (lo := 12) 5 p rfl rfl rfl,
    field_is (hi := 11) (lo := 9) 6 o rfl rfl rfl,
    field_is (hi := 8) (lo := 5) 7 s rfl rfl rfl]

theorem hfree a b c : Statement (.hfree a b c) := by
  rintro _ ⟨⟩
  rw [decode_7F _ (top_is (fixed_is (hi := 31) (lo := 25) (c := 127) 0 1 4 [(0x7F4, 11)] rfl rfl rfl rfl rfl) rfl),
    decode7F,
    if_neg (fun c => fixed_not (hi := 24) (lo := 21) (c := 0) 0 1 0 0 4 [(0x7F4, 11)] rfl rfl rfl rfl rfl rfl c),
    if_neg (fun c => fixed_not (hi := 24) (lo := 21) (c := 1) 0 1 0 0 4 [(0x7F4, 11)] rfl rfl rfl rfl rfl rfl c.1),
    if_neg (fun c => fixed_not (hi := 24) (lo := 21) (c := 2) 0 1 0 0 4 [(0x7F4, 11)] rfl rfl rfl rfl rfl rfl c.1),
    if_neg (fun c => fixed_not (hi := 24) (lo := 21) (c := 3) 0 1 0 0 4 [(0x7F4, 11)] rfl rfl rfl rfl rfl rfl c.1),
    if_pos (fixed_is (hi := 24) (lo := 21) (c := 4) 0 1 0 [(0x7F4, 11)] rfl rfl rfl rfl rfl),
    field_is (hi := 20) (lo := 14) 1 a rfl rfl rfl,
    field_is (hi := 13) (lo := 7) 2 b rfl rfl rfl,
    field_is (hi := 6) (lo := 0) 3 c rfl rfl rfl]

theorem registerWrite a0 a1 a2 : Statement (.registerWrite a0 a1 a2) := nofun

theorem freplyReplay a0 a1 : Statement (.freplyReplay a0 a1) := nofun

theorem freplyFatalXlate a0 a1 : Statement (.freplyFatalXlate a0 a1) := nofun

theorem freplyFatalWprot a0 a1 : Statement (.freplyFatalWprot a0 a1) := nofun

theorem freplyIgnored a0 a1 : Statement (.freplyIgnored a0 a1) := nofun

theorem shootdownStart a0 a1 : Statement (.shootdownStart a0 a1) := nofun

theorem shootdownComplete a0 : Statement (.shootdownComplete a0) := nofun

theorem firmwareDownload a0 : Statement (.firmwareDownload a0) := nofun

theorem firmwareDownloadDone a0 a1 : Statement (.firmwareDownloadDone a0 a1) := nofun

theorem attestationRequest a0 : Statement (.attestationRequest a0) := nofun

theorem attestationReport : Statement .attestationReport := nofun

theorem partitionSwapOut a0 : Statement (.partitionSwapOut a0) := nofun

theorem partitionSwapIn a0 : Statement (.partitionSwapIn a0) := nofun

theorem partitionSwapDone a0 : Statement (.partitionSwapDone a0) := nofun

theorem hatchClear a0 : Statement (.hatchClear a0) := nofun

theorem launchRingWordWrite a0 a1 a2 : Statement (.launchRingWordWrite a0 a1 a2) := nofun

theorem modidWrite a0 : Statement (.modidWrite a0) := nofun

theorem ptclWrite a0 a1 : Statement (.ptclWrite a0 a1) := nofun

theorem xrteWrite a0 a1 : Statement (.xrteWrite a0 a1) := nofun

theorem stippleEnable a0 : Statement (.stippleEnable a0) := nofun

theorem launchRecordTake a0 a1 : Statement (.launchRecordTake a0 a1) := nofun

theorem blockPlacement a0 a1 a2 : Statement (.blockPlacement a0 a1 a2) := nofun

theorem launchCompletion a0 : Statement (.launchCompletion a0) := nofun

theorem blockEviction a0 : Statement (.blockEviction a0) := nofun

theorem registerDeadlockBreak a0 a1 : Statement (.registerDeadlockBreak a0 a1) := nofun

theorem blockRestore a0 a1 : Statement (.blockRestore a0 a1) := nofun

theorem blockMigration a0 a1 a2 : Statement (.blockMigration a0 a1 a2) := nofun

theorem coreLeavesService a0 : Statement (.coreLeavesService a0) := nofun

theorem forwardedArrival a0 a1 : Statement (.forwardedArrival a0 a1) := nofun

theorem forwardingEntryExpiry a0 a1 : Statement (.forwardingEntryExpiry a0 a1) := nofun

theorem taskRecordArrival a0 : Statement (.taskRecordArrival a0) := nofun

theorem overflowRecordEntry a0 a1 : Statement (.overflowRecordEntry a0 a1) := nofun

theorem taskDispatch a0 a1 : Statement (.taskDispatch a0 a1) := nofun

theorem registerGrant a0 a1 : Statement (.registerGrant a0 a1) := nofun

theorem wakeConditionMet a0 : Statement (.wakeConditionMet a0) := nofun

theorem barrierCompletion a0 : Statement (.barrierCompletion a0) := nofun

theorem cohortBarrierCompletion a0 a1 : Statement (.cohortBarrierCompletion a0 a1) := nofun

theorem napExpiry a0 : Statement (.napExpiry a0) := nofun

theorem pageWalk a0 a1 a2 a3 : Statement (.pageWalk a0 a1 a2 a3) := nofun

theorem faultBufferEntry a0 : Statement (.faultBufferEntry a0) := nofun

theorem faultRecordWrite a0 : Statement (.faultRecordWrite a0) := nofun

theorem tagCompletion a0 a1 : Statement (.tagCompletion a0 a1) := nofun

theorem loadReturn a0 : Statement (.loadReturn a0) := nofun

theorem atomicRequestArrival a0 a1 : Statement (.atomicRequestArrival a0 a1) := nofun

theorem atomicAcknowledgement a0 a1 : Statement (.atomicAcknowledgement a0 a1) := nofun

theorem replayAnswer a0 a1 : Statement (.replayAnswer a0 a1) := nofun

theorem retransmitTimeout a0 a1 : Statement (.retransmitTimeout a0 a1) := nofun

theorem linkCorrectableError a0 a1 : Statement (.linkCorrectableError a0 a1) := nofun

theorem sequenceWindowExpiry a0 a1 a2 : Statement (.sequenceWindowExpiry a0 a1 a2) := nofun

theorem promotion a0 : Statement (.promotion a0) := nofun

theorem tileRequestArrival a0 : Statement (.tileRequestArrival a0) := nofun

theorem recallArrival a0 : Statement (.recallArrival a0) := nofun

theorem recallResend a0 : Statement (.recallResend a0) := nofun

theorem surrenderWaveStart a0 : Statement (.surrenderWaveStart a0) := nofun

theorem surrenderBoundExpiry a0 : Statement (.surrenderBoundExpiry a0) := nofun

theorem tileDelivery a0 : Statement (.tileDelivery a0) := nofun

theorem graverCommandStart a0 a1 : Statement (.graverCommandStart a0 a1) := nofun

theorem graverCommandComplete a0 a1 : Statement (.graverCommandComplete a0 a1) := nofun

theorem graverCommandFault a0 a1 a2 a3 : Statement (.graverCommandFault a0 a1 a2 a3) := nofun

theorem vertexRetirement a0 a1 : Statement (.vertexRetirement a0 a1) := nofun

theorem traceCompletion a0 a1 : Statement (.traceCompletion a0 a1) := nofun

theorem handlerEntry a0 : Statement (.handlerEntry a0) := nofun

theorem fpWindowClose a0 a1 : Statement (.fpWindowClose a0 a1) := nofun

theorem uncorrectableEccError a0 : Statement (.uncorrectableEccError a0) := nofun

theorem quantumCountExpiry a0 : Statement (.quantumCountExpiry a0) := nofun

theorem quantumBoundaryCommit a0 : Statement (.quantumBoundaryCommit a0) := nofun

theorem notchSegmentRelease a0 : Statement (.notchSegmentRelease a0) := nofun

theorem sample a0 : Statement (.sample a0) := nofun

theorem etchTs a0 : Statement (.etchTs a0) := nofun

theorem powerUp a0 a1 : Statement (.powerUp a0 a1) := nofun

theorem powerLimitThrottle a0 : Statement (.powerLimitThrottle a0) := nofun

theorem thermalHalt a0 : Statement (.thermalHalt a0) := nofun

theorem failureRecovery a0 a1 a2 : Statement (.failureRecovery a0 a1 a2) := nofun

theorem fabricTrafficArrival a0 : Statement (.fabricTrafficArrival a0) := nofun

theorem hostCxlStore a0 a1 : Statement (.hostCxlStore a0 a1) := nofun

theorem hostCxlRead a0 a1 : Statement (.hostCxlRead a0 a1) := nofun

theorem nonInstructionEncoding a0 : Statement (.nonInstructionEncoding a0) := nofun

theorem storeArrivalAtHome a0 a1 : Statement (.storeArrivalAtHome a0 a1) := nofun

theorem storeAcknowledgement a0 a1 : Statement (.storeAcknowledgement a0 a1) := nofun

theorem engineAccessError a0 a1 a2 a3 : Statement (.engineAccessError a0 a1 a2 a3) := nofun

theorem stippleResultReturn a0 a1 : Statement (.stippleResultReturn a0 a1) := nofun

theorem executiveEndsLaunch a0 : Statement (.executiveEndsLaunch a0) := nofun

theorem registerPoolRepair a0 a1 a2 : Statement (.registerPoolRepair a0 a1 a2) := nofun

theorem emptyIssueCycle a0 a1 : Statement (.emptyIssueCycle a0 a1) := nofun

theorem instructionFetchReturn a0 : Statement (.instructionFetchReturn a0) := nofun

theorem c0RequestAdmitted a0 a1 : Statement (.c0RequestAdmitted a0 a1) := nofun

theorem exvosLinkStateChange a0 a1 : Statement (.exvosLinkStateChange a0 a1) := nofun

end Sys2Proof.Laws.RoundTrip
end

