-- ==== Sys2Proof/Laws/DecodeExact.lean ====
section
/-! SUPPORT. The decoder answers an instruction for no word but the one that the encoder gives it, one lemma for each major opcode: a
word with a reserved field that is not 0, or with a value that its entry does not assign, is no instruction (R33). -/
namespace Sys2Proof.Laws.DecodeExact

open Sys2Proof.Laws.RoundTrip (bits_toNat)

theorem bit_toNat (w : Word) (i : Nat) : (bit w i).toNat = w.toNat / 2 ^ i % 2 := by
  simp only [bit, BitVec.getLsbD, Nat.testBit, Nat.shiftRight_eq_div_pow, Nat.one_and_eq_mod_two]
  rcases Nat.mod_two_eq_zero_or_one (w.toNat / 2 ^ i) with h | h <;> simp [h]

theorem bits_val {w : Word} {hi lo : Nat} {c : BitVec (hi - lo + 1)} (p m n : Nat) (hp : 2 ^ lo = p) (hm : 2 ^ (hi - lo + 1) = m)
    (hn : c.toNat = n) (h : bits w hi lo = c) : w.toNat / p % m = n := by
  rw [← hp, ← hm, ← hn, ← h, bits_toNat]

/-- A field of a word, behind the word's bits above it. -/
theorem next_field {w : Word} (k lo n x : Nat) (hk : lo + n = k) (hx : x % 2 ^ n = w.toNat / 2 ^ lo % 2 ^ n) :
    w.toNat / 2 ^ k * 2 ^ n + x % 2 ^ n = w.toNat / 2 ^ lo := by
  subst hk
  rw [hx, Nat.pow_add, ← Nat.div_div_eq_div_mul, Nat.mul_comm, Nat.div_add_mod]

theorem first_field {w : Word} (lo n x : Nat) (hk : lo + n = 32) (hx : x % 2 ^ n = w.toNat / 2 ^ lo % 2 ^ n) :
    0 * 2 ^ n + x % 2 ^ n = w.toNat / 2 ^ lo := by
  rw [← next_field 32 lo n x hk hx, Nat.div_eq_of_lt w.isLt]

theorem all_fields {w : Word} {n : Nat} (h : n = w.toNat / 2 ^ 0) : BitVec.ofNat 32 n = w := by
  rw [h, Nat.pow_zero, Nat.div_one]; exact BitVec.ofNat_toNat 32 w |>.trans (BitVec.setWidth_eq w)

theorem bits_field (w : Word) (hi lo : Nat) : (bits w hi lo).toNat % 2 ^ (hi - lo + 1) = w.toNat / 2 ^ lo % 2 ^ (hi - lo + 1) := by
  rw [bits_toNat, Nat.mod_mod]

theorem bit_field (w : Word) (i : Nat) : (bit w i).toNat % 2 ^ 1 = w.toNat / 2 ^ i % 2 ^ 1 := by
  rw [bit_toNat]; exact Nat.mod_mod _ 2

theorem decode01 (w : Word) (i : Instr) (hm : w.toNat / 33554432 % 128 = 1) (h : Sys2Proof.decode01 w = .ok i) : encode? i = some w := by
  have := w.isLt
  unfold Sys2Proof.decode01 at h
  cases h
  have f0 : 0x1 % 2 ^ 7 = w.toNat / 2 ^ 25 % 2 ^ 7 := by omega
  exact congrArg some (all_fields (by simp only [List.foldl]; rw [first_field 25 7 _ rfl f0, next_field 25 22 3 _ rfl (bits_field w 24 22), next_field 22 18 4 _ rfl (bits_field w 21 18), next_field 18 17 1 _ rfl (bit_field w 17), next_field 17 0 17 _ rfl (bits_field w 16 0)]))

theorem decode02 (w : Word) (i : Instr) (hm : w.toNat / 33554432 % 128 = 2) (h : Sys2Proof.decode02 w = .ok i) : encode? i = some w := by
  have := w.isLt
  unfold Sys2Proof.decode02 at h
  cases h
  have f0 : 0x2 % 2 ^ 7 = w.toNat / 2 ^ 25 % 2 ^ 7 := by omega
  exact congrArg some (all_fields (by simp only [List.foldl]; rw [first_field 25 7 _ rfl f0, next_field 25 20 5 _ rfl (bits_field w 24 20), next_field 20 0 20 _ rfl (bits_field w 19 0)]))

theorem decode03 (w : Word) (i : Instr) (hm : w.toNat / 33554432 % 128 = 3) (h : Sys2Proof.decode03 w = .ok i) : encode? i = some w := by
  have := w.isLt
  unfold Sys2Proof.decode03 at h
  by_cases c : bits w 24 20 = 0 ∧ bits w 14 0 = 0
  · rw [if_pos c] at h
    cases h
    have := bits_val 1048576 32 0 rfl rfl rfl c.1
    have := bits_val 1 32768 0 rfl rfl rfl c.2
    clear c
    have f0 : 0x60 % 2 ^ 12 = w.toNat / 2 ^ 20 % 2 ^ 12 := by omega
    have f2 : 0x0 % 2 ^ 15 = w.toNat / 2 ^ 0 % 2 ^ 15 := by omega
    exact congrArg some (all_fields (by simp only [List.foldl]; rw [first_field 20 12 _ rfl f0, next_field 20 15 5 _ rfl (bits_field w 19 15), next_field 15 0 15 _ rfl f2]))
  rw [if_neg c] at h
  clear c
  by_cases c : bits w 14 0 = 1
  · rw [if_pos c] at h
    cases h
    have := bits_val 1 32768 1 rfl rfl rfl c
    clear c
    have f0 : 0x3 % 2 ^ 7 = w.toNat / 2 ^ 25 % 2 ^ 7 := by omega
    have f3 : 0x1 % 2 ^ 15 = w.toNat / 2 ^ 0 % 2 ^ 15 := by omega
    exact congrArg some (all_fields (by simp only [List.foldl]; rw [first_field 25 7 _ rfl f0, next_field 25 20 5 _ rfl (bits_field w 24 20), next_field 20 15 5 _ rfl (bits_field w 19 15), next_field 15 0 15 _ rfl f3]))
  rw [if_neg c] at h
  clear c
  by_cases c : bits w 24 20 = 0 ∧ bits w 14 0 = 2
  · rw [if_pos c] at h
    cases h
    have := bits_val 1048576 32 0 rfl rfl rfl c.1
    have := bits_val 1 32768 2 rfl rfl rfl c.2
    clear c
    have f0 : 0x60 % 2 ^ 12 = w.toNat / 2 ^ 20 % 2 ^ 12 := by omega
    have f2 : 0x2 % 2 ^ 15 = w.toNat / 2 ^ 0 % 2 ^ 15 := by omega
    exact congrArg some (all_fields (by simp only [List.foldl]; rw [first_field 20 12 _ rfl f0, next_field 20 15 5 _ rfl (bits_field w 19 15), next_field 15 0 15 _ rfl f2]))
  rw [if_neg c] at h
  clear c
  by_cases c : bits w 24 0 = 3
  · rw [if_pos c] at h
    cases h
    have := bits_val 1 33554432 3 rfl rfl rfl c
    clear c
    have f0 : 0x6000003 % 2 ^ 32 = w.toNat / 2 ^ 0 % 2 ^ 32 := by omega
    exact congrArg some (all_fields (by simp only [List.foldl]; rw [first_field 0 32 _ rfl f0]))
  rw [if_neg c] at h
  clear c
  by_cases c : bits w 24 0 = 4
  · rw [if_pos c] at h
    cases h
    have := bits_val 1 33554432 4 rfl rfl rfl c
    clear c
    have f0 : 0x6000004 % 2 ^ 32 = w.toNat / 2 ^ 0 % 2 ^ 32 := by omega
    exact congrArg some (all_fields (by simp only [List.foldl]; rw [first_field 0 32 _ rfl f0]))
  rw [if_neg c] at h
  clear c
  by_cases c : bits w 24 0 = 5
  · rw [if_pos c] at h
    cases h
    have := bits_val 1 33554432 5 rfl rfl rfl c
    clear c
    have f0 : 0x6000005 % 2 ^ 32 = w.toNat / 2 ^ 0 % 2 ^ 32 := by omega
    exact congrArg some (all_fields (by simp only [List.foldl]; rw [first_field 0 32 _ rfl f0]))
  rw [if_neg c] at h
  clear c
  by_cases c : bits w 24 20 = 0 ∧ bits w 14 0 = 6
  · rw [if_pos c] at h
    cases h
    have := bits_val 1048576 32 0 rfl rfl rfl c.1
    have := bits_val 1 32768 6 rfl rfl rfl c.2
    clear c
    have f0 : 0x60 % 2 ^ 12 = w.toNat / 2 ^ 20 % 2 ^ 12 := by omega
    have f2 : 0x6 % 2 ^ 15 = w.toNat / 2 ^ 0 % 2 ^ 15 := by omega
    exact congrArg some (all_fields (by simp only [List.foldl]; rw [first_field 20 12 _ rfl f0, next_field 20 15 5 _ rfl (bits_field w 19 15), next_field 15 0 15 _ rfl f2]))
  rw [if_neg c] at h
  clear c
  cases h

theorem decode04 (w : Word) (i : Instr) (hm : w.toNat / 33554432 % 128 = 4) (h : Sys2Proof.decode04 w = .ok i) : encode? i = some w := by
  have := w.isLt
  unfold Sys2Proof.decode04 at h
  by_cases c : bits w 24 0 = 0
  · rw [if_pos c] at h
    cases h
    have := bits_val 1 33554432 0 rfl rfl rfl c
    clear c
    have f0 : 0x8000000 % 2 ^ 32 = w.toNat / 2 ^ 0 % 2 ^ 32 := by omega
    exact congrArg some (all_fields (by simp only [List.foldl]; rw [first_field 0 32 _ rfl f0]))
  rw [if_neg c] at h
  clear c
  by_cases c : bits w 24 20 = 0 ∧ bits w 14 0 = 1
  · rw [if_pos c] at h
    cases h
    have := bits_val 1048576 32 0 rfl rfl rfl c.1
    have := bits_val 1 32768 1 rfl rfl rfl c.2
    clear c
    have f0 : 0x80 % 2 ^ 12 = w.toNat / 2 ^ 20 % 2 ^ 12 := by omega
    have f2 : 0x1 % 2 ^ 15 = w.toNat / 2 ^ 0 % 2 ^ 15 := by omega
    exact congrArg some (all_fields (by simp only [List.foldl]; rw [first_field 20 12 _ rfl f0, next_field 20 15 5 _ rfl (bits_field w 19 15), next_field 15 0 15 _ rfl f2]))
  rw [if_neg c] at h
  clear c
  cases h

theorem decode05 (w : Word) (i : Instr) (hm : w.toNat / 33554432 % 128 = 5) (h : Sys2Proof.decode05 w = .ok i) : encode? i = some w := by
  have := w.isLt
  unfold Sys2Proof.decode05 at h
  by_cases c : bits w 18 6 = 0
  · rw [if_pos c] at h
    cases h
    have := bits_val 64 8192 0 rfl rfl rfl c
    clear c
    have f0 : 0x5 % 2 ^ 7 = w.toNat / 2 ^ 25 % 2 ^ 7 := by omega
    have f2 : 0x0 % 2 ^ 13 = w.toNat / 2 ^ 6 % 2 ^ 13 := by omega
    exact congrArg some (all_fields (by simp only [List.foldl, guardOf]; rw [first_field 25 7 _ rfl f0, next_field 25 19 6 _ rfl (bits_field w 24 19), next_field 19 6 13 _ rfl f2, next_field 6 5 1 _ rfl (bit_field w 5), next_field 5 4 1 _ rfl (bit_field w 4), next_field 4 0 4 _ rfl (bits_field w 3 0)]))
  rw [if_neg c] at h
  clear c
  cases h

theorem decode08 (w : Word) (i : Instr) (hm : w.toNat / 33554432 % 128 = 8) (h : Sys2Proof.decode08 w = .ok i) : encode? i = some w := by
  have := w.isLt
  unfold Sys2Proof.decode08 at h
  by_cases c : bits w 9 9 = 0 ∧ bits w 7 0 = 0
  · rw [if_pos c] at h
    cases h
    have := bits_val 512 2 0 rfl rfl rfl c.1
    have := bits_val 1 256 0 rfl rfl rfl c.2
    clear c
    have f0 : 0x8 % 2 ^ 7 = w.toNat / 2 ^ 25 % 2 ^ 7 := by omega
    have f4 : 0x0 % 2 ^ 1 = w.toNat / 2 ^ 9 % 2 ^ 1 := by omega
    have f6 : 0x0 % 2 ^ 8 = w.toNat / 2 ^ 0 % 2 ^ 8 := by omega
    exact congrArg some (all_fields (by simp only [List.foldl]; rw [first_field 25 7 _ rfl f0, next_field 25 20 5 _ rfl (bits_field w 24 20), next_field 20 15 5 _ rfl (bits_field w 19 15), next_field 15 10 5 _ rfl (bits_field w 14 10), next_field 10 9 1 _ rfl f4, next_field 9 8 1 _ rfl (bit_field w 8), next_field 8 0 8 _ rfl f6]))
  rw [if_neg c] at h
  clear c
  by_cases c : bits w 9 9 = 0 ∧ bits w 7 0 = 1
  · rw [if_pos c] at h
    cases h
    have := bits_val 512 2 0 rfl rfl rfl c.1
    have := bits_val 1 256 1 rfl rfl rfl c.2
    clear c
    have f0 : 0x8 % 2 ^ 7 = w.toNat / 2 ^ 25 % 2 ^ 7 := by omega
    have f4 : 0x0 % 2 ^ 1 = w.toNat / 2 ^ 9 % 2 ^ 1 := by omega
    have f6 : 0x1 % 2 ^ 8 = w.toNat / 2 ^ 0 % 2 ^ 8 := by omega
    exact congrArg some (all_fields (by simp only [List.foldl]; rw [first_field 25 7 _ rfl f0, next_field 25 20 5 _ rfl (bits_field w 24 20), next_field 20 15 5 _ rfl (bits_field w 19 15), next_field 15 10 5 _ rfl (bits_field w 14 10), next_field 10 9 1 _ rfl f4, next_field 9 8 1 _ rfl (bit_field w 8), next_field 8 0 8 _ rfl f6]))
  rw [if_neg c] at h
  clear c
  by_cases c : bits w 9 9 = 0 ∧ bits w 7 0 = 2
  · rw [if_pos c] at h
    cases h
    have := bits_val 512 2 0 rfl rfl rfl c.1
    have := bits_val 1 256 2 rfl rfl rfl c.2
    clear c
    have f0 : 0x8 % 2 ^ 7 = w.toNat / 2 ^ 25 % 2 ^ 7 := by omega
    have f4 : 0x0 % 2 ^ 1 = w.toNat / 2 ^ 9 % 2 ^ 1 := by omega
    have f6 : 0x2 % 2 ^ 8 = w.toNat / 2 ^ 0 % 2 ^ 8 := by omega
    exact congrArg some (all_fields (by simp only [List.foldl]; rw [first_field 25 7 _ rfl f0, next_field 25 20 5 _ rfl (bits_field w 24 20), next_field 20 15 5 _ rfl (bits_field w 19 15), next_field 15 10 5 _ rfl (bits_field w 14 10), next_field 10 9 1 _ rfl f4, next_field 9 8 1 _ rfl (bit_field w 8), next_field 8 0 8 _ rfl f6]))
  rw [if_neg c] at h
  clear c
  by_cases c : bits w 9 9 = 0 ∧ bits w 6 0 = 3
  · rw [if_pos c] at h
    cases h
    have := bits_val 512 2 0 rfl rfl rfl c.1
    have := bits_val 1 128 3 rfl rfl rfl c.2
    clear c
    have f0 : 0x8 % 2 ^ 7 = w.toNat / 2 ^ 25 % 2 ^ 7 := by omega
    have f4 : 0x0 % 2 ^ 1 = w.toNat / 2 ^ 9 % 2 ^ 1 := by omega
    have f7 : 0x3 % 2 ^ 7 = w.toNat / 2 ^ 0 % 2 ^ 7 := by omega
    exact congrArg some (all_fields (by simp only [List.foldl]; rw [first_field 25 7 _ rfl f0, next_field 25 20 5 _ rfl (bits_field w 24 20), next_field 20 15 5 _ rfl (bits_field w 19 15), next_field 15 10 5 _ rfl (bits_field w 14 10), next_field 10 9 1 _ rfl f4, next_field 9 8 1 _ rfl (bit_field w 8), next_field 8 7 1 _ rfl (bit_field w 7), next_field 7 0 7 _ rfl f7]))
  rw [if_neg c] at h
  clear c
  by_cases c : bits w 9 9 = 0 ∧ bits w 7 0 = 4
  · rw [if_pos c] at h
    cases h
    have := bits_val 512 2 0 rfl rfl rfl c.1
    have := bits_val 1 256 4 rfl rfl rfl c.2
    clear c
    have f0 : 0x8 % 2 ^ 7 = w.toNat / 2 ^ 25 % 2 ^ 7 := by omega
    have f4 : 0x0 % 2 ^ 1 = w.toNat / 2 ^ 9 % 2 ^ 1 := by omega
    have f6 : 0x4 % 2 ^ 8 = w.toNat / 2 ^ 0 % 2 ^ 8 := by omega
    exact congrArg some (all_fields (by simp only [List.foldl]; rw [first_field 25 7 _ rfl f0, next_field 25 20 5 _ rfl (bits_field w 24 20), next_field 20 15 5 _ rfl (bits_field w 19 15), next_field 15 10 5 _ rfl (bits_field w 14 10), next_field 10 9 1 _ rfl f4, next_field 9 8 1 _ rfl (bit_field w 8), next_field 8 0 8 _ rfl f6]))
  rw [if_neg c] at h
  clear c
  by_cases c : bits w 9 9 = 0 ∧ bits w 7 0 = 5
  · rw [if_pos c] at h
    cases h
    have := bits_val 512 2 0 rfl rfl rfl c.1
    have := bits_val 1 256 5 rfl rfl rfl c.2
    clear c
    have f0 : 0x8 % 2 ^ 7 = w.toNat / 2 ^ 25 % 2 ^ 7 := by omega
    have f4 : 0x0 % 2 ^ 1 = w.toNat / 2 ^ 9 % 2 ^ 1 := by omega
    have f6 : 0x5 % 2 ^ 8 = w.toNat / 2 ^ 0 % 2 ^ 8 := by omega
    exact congrArg some (all_fields (by simp only [List.foldl]; rw [first_field 25 7 _ rfl f0, next_field 25 20 5 _ rfl (bits_field w 24 20), next_field 20 15 5 _ rfl (bits_field w 19 15), next_field 15 10 5 _ rfl (bits_field w 14 10), next_field 10 9 1 _ rfl f4, next_field 9 8 1 _ rfl (bit_field w 8), next_field 8 0 8 _ rfl f6]))
  rw [if_neg c] at h
  clear c
  by_cases c : bits w 9 9 = 0 ∧ bits w 7 0 = 6
  · rw [if_pos c] at h
    cases h
    have := bits_val 512 2 0 rfl rfl rfl c.1
    have := bits_val 1 256 6 rfl rfl rfl c.2
    clear c
    have f0 : 0x8 % 2 ^ 7 = w.toNat / 2 ^ 25 % 2 ^ 7 := by omega
    have f4 : 0x0 % 2 ^ 1 = w.toNat / 2 ^ 9 % 2 ^ 1 := by omega
    have f6 : 0x6 % 2 ^ 8 = w.toNat / 2 ^ 0 % 2 ^ 8 := by omega
    exact congrArg some (all_fields (by simp only [List.foldl]; rw [first_field 25 7 _ rfl f0, next_field 25 20 5 _ rfl (bits_field w 24 20), next_field 20 15 5 _ rfl (bits_field w 19 15), next_field 15 10 5 _ rfl (bits_field w 14 10), next_field 10 9 1 _ rfl f4, next_field 9 8 1 _ rfl (bit_field w 8), next_field 8 0 8 _ rfl f6]))
  rw [if_neg c] at h
  clear c
  by_cases c : bits w 9 9 = 0 ∧ bits w 7 0 = 7
  · rw [if_pos c] at h
    cases h
    have := bits_val 512 2 0 rfl rfl rfl c.1
    have := bits_val 1 256 7 rfl rfl rfl c.2
    clear c
    have f0 : 0x8 % 2 ^ 7 = w.toNat / 2 ^ 25 % 2 ^ 7 := by omega
    have f4 : 0x0 % 2 ^ 1 = w.toNat / 2 ^ 9 % 2 ^ 1 := by omega
    have f6 : 0x7 % 2 ^ 8 = w.toNat / 2 ^ 0 % 2 ^ 8 := by omega
    exact congrArg some (all_fields (by simp only [List.foldl]; rw [first_field 25 7 _ rfl f0, next_field 25 20 5 _ rfl (bits_field w 24 20), next_field 20 15 5 _ rfl (bits_field w 19 15), next_field 15 10 5 _ rfl (bits_field w 14 10), next_field 10 9 1 _ rfl f4, next_field 9 8 1 _ rfl (bit_field w 8), next_field 8 0 8 _ rfl f6]))
  rw [if_neg c] at h
  clear c
  by_cases c : bits w 9 9 = 0 ∧ bits w 7 0 = 8
  · rw [if_pos c] at h
    cases h
    have := bits_val 512 2 0 rfl rfl rfl c.1
    have := bits_val 1 256 8 rfl rfl rfl c.2
    clear c
    have f0 : 0x8 % 2 ^ 7 = w.toNat / 2 ^ 25 % 2 ^ 7 := by omega
    have f4 : 0x0 % 2 ^ 1 = w.toNat / 2 ^ 9 % 2 ^ 1 := by omega
    have f6 : 0x8 % 2 ^ 8 = w.toNat / 2 ^ 0 % 2 ^ 8 := by omega
    exact congrArg some (all_fields (by simp only [List.foldl]; rw [first_field 25 7 _ rfl f0, next_field 25 20 5 _ rfl (bits_field w 24 20), next_field 20 15 5 _ rfl (bits_field w 19 15), next_field 15 10 5 _ rfl (bits_field w 14 10), next_field 10 9 1 _ rfl f4, next_field 9 8 1 _ rfl (bit_field w 8), next_field 8 0 8 _ rfl f6]))
  rw [if_neg c] at h
  clear c
  by_cases c : bits w 9 9 = 0 ∧ bits w 7 0 = 9
  · rw [if_pos c] at h
    cases h
    have := bits_val 512 2 0 rfl rfl rfl c.1
    have := bits_val 1 256 9 rfl rfl rfl c.2
    clear c
    have f0 : 0x8 % 2 ^ 7 = w.toNat / 2 ^ 25 % 2 ^ 7 := by omega
    have f4 : 0x0 % 2 ^ 1 = w.toNat / 2 ^ 9 % 2 ^ 1 := by omega
    have f6 : 0x9 % 2 ^ 8 = w.toNat / 2 ^ 0 % 2 ^ 8 := by omega
    exact congrArg some (all_fields (by simp only [List.foldl]; rw [first_field 25 7 _ rfl f0, next_field 25 20 5 _ rfl (bits_field w 24 20), next_field 20 15 5 _ rfl (bits_field w 19 15), next_field 15 10 5 _ rfl (bits_field w 14 10), next_field 10 9 1 _ rfl f4, next_field 9 8 1 _ rfl (bit_field w 8), next_field 8 0 8 _ rfl f6]))
  rw [if_neg c] at h
  clear c
  by_cases c : bits w 9 9 = 0 ∧ bits w 6 0 = 10
  · rw [if_pos c] at h
    cases h
    have := bits_val 512 2 0 rfl rfl rfl c.1
    have := bits_val 1 128 10 rfl rfl rfl c.2
    clear c
    have f0 : 0x8 % 2 ^ 7 = w.toNat / 2 ^ 25 % 2 ^ 7 := by omega
    have f4 : 0x0 % 2 ^ 1 = w.toNat / 2 ^ 9 % 2 ^ 1 := by omega
    have f7 : 0xA % 2 ^ 7 = w.toNat / 2 ^ 0 % 2 ^ 7 := by omega
    exact congrArg some (all_fields (by simp only [List.foldl]; rw [first_field 25 7 _ rfl f0, next_field 25 20 5 _ rfl (bits_field w 24 20), next_field 20 15 5 _ rfl (bits_field w 19 15), next_field 15 10 5 _ rfl (bits_field w 14 10), next_field 10 9 1 _ rfl f4, next_field 9 8 1 _ rfl (bit_field w 8), next_field 8 7 1 _ rfl (bit_field w 7), next_field 7 0 7 _ rfl f7]))
  rw [if_neg c] at h
  clear c
  by_cases c : bits w 9 9 = 0 ∧ bits w 6 0 = 11
  · rw [if_pos c] at h
    cases h
    have := bits_val 512 2 0 rfl rfl rfl c.1
    have := bits_val 1 128 11 rfl rfl rfl c.2
    clear c
    have f0 : 0x8 % 2 ^ 7 = w.toNat / 2 ^ 25 % 2 ^ 7 := by omega
    have f4 : 0x0 % 2 ^ 1 = w.toNat / 2 ^ 9 % 2 ^ 1 := by omega
    have f7 : 0xB % 2 ^ 7 = w.toNat / 2 ^ 0 % 2 ^ 7 := by omega
    exact congrArg some (all_fields (by simp only [List.foldl]; rw [first_field 25 7 _ rfl f0, next_field 25 20 5 _ rfl (bits_field w 24 20), next_field 20 15 5 _ rfl (bits_field w 19 15), next_field 15 10 5 _ rfl (bits_field w 14 10), next_field 10 9 1 _ rfl f4, next_field 9 8 1 _ rfl (bit_field w 8), next_field 8 7 1 _ rfl (bit_field w 7), next_field 7 0 7 _ rfl f7]))
  rw [if_neg c] at h
  clear c
  by_cases c : bits w 9 9 = 0 ∧ bits w 3 0 = 12
  · rw [if_pos c] at h
    cases h
    have := bits_val 512 2 0 rfl rfl rfl c.1
    have := bits_val 1 16 12 rfl rfl rfl c.2
    clear c
    have f0 : 0x8 % 2 ^ 7 = w.toNat / 2 ^ 25 % 2 ^ 7 := by omega
    have f4 : 0x0 % 2 ^ 1 = w.toNat / 2 ^ 9 % 2 ^ 1 := by omega
    have f7 : 0xC % 2 ^ 4 = w.toNat / 2 ^ 0 % 2 ^ 4 := by omega
    exact congrArg some (all_fields (by simp only [List.foldl]; rw [first_field 25 7 _ rfl f0, next_field 25 20 5 _ rfl (bits_field w 24 20), next_field 20 15 5 _ rfl (bits_field w 19 15), next_field 15 10 5 _ rfl (bits_field w 14 10), next_field 10 9 1 _ rfl f4, next_field 9 8 1 _ rfl (bit_field w 8), next_field 8 4 4 _ rfl (bits_field w 7 4), next_field 4 0 4 _ rfl f7]))
  rw [if_neg c] at h
  clear c
  by_cases c : bits w 9 9 = 0 ∧ bits w 7 0 = 13
  · rw [if_pos c] at h
    cases h
    have := bits_val 512 2 0 rfl rfl rfl c.1
    have := bits_val 1 256 13 rfl rfl rfl c.2
    clear c
    have f0 : 0x8 % 2 ^ 7 = w.toNat / 2 ^ 25 % 2 ^ 7 := by omega
    have f4 : 0x0 % 2 ^ 1 = w.toNat / 2 ^ 9 % 2 ^ 1 := by omega
    have f6 : 0xD % 2 ^ 8 = w.toNat / 2 ^ 0 % 2 ^ 8 := by omega
    exact congrArg some (all_fields (by simp only [List.foldl]; rw [first_field 25 7 _ rfl f0, next_field 25 20 5 _ rfl (bits_field w 24 20), next_field 20 15 5 _ rfl (bits_field w 19 15), next_field 15 10 5 _ rfl (bits_field w 14 10), next_field 10 9 1 _ rfl f4, next_field 9 8 1 _ rfl (bit_field w 8), next_field 8 0 8 _ rfl f6]))
  rw [if_neg c] at h
  clear c
  by_cases c : bits w 14 0 = 14
  · rw [if_pos c] at h
    cases h
    have := bits_val 1 32768 14 rfl rfl rfl c
    clear c
    have f0 : 0x8 % 2 ^ 7 = w.toNat / 2 ^ 25 % 2 ^ 7 := by omega
    have f3 : 0xE % 2 ^ 15 = w.toNat / 2 ^ 0 % 2 ^ 15 := by omega
    exact congrArg some (all_fields (by simp only [List.foldl]; rw [first_field 25 7 _ rfl f0, next_field 25 20 5 _ rfl (bits_field w 24 20), next_field 20 15 5 _ rfl (bits_field w 19 15), next_field 15 0 15 _ rfl f3]))
  rw [if_neg c] at h
  clear c
  by_cases c : bits w 9 9 = 0 ∧ bits w 3 0 = 15
  · rw [if_pos c] at h
    cases h
    have := bits_val 512 2 0 rfl rfl rfl c.1
    have := bits_val 1 16 15 rfl rfl rfl c.2
    clear c
    have f0 : 0x8 % 2 ^ 7 = w.toNat / 2 ^ 25 % 2 ^ 7 := by omega
    have f4 : 0x0 % 2 ^ 1 = w.toNat / 2 ^ 9 % 2 ^ 1 := by omega
    have f7 : 0xF % 2 ^ 4 = w.toNat / 2 ^ 0 % 2 ^ 4 := by omega
    exact congrArg some (all_fields (by simp only [List.foldl]; rw [first_field 25 7 _ rfl f0, next_field 25 20 5 _ rfl (bits_field w 24 20), next_field 20 15 5 _ rfl (bits_field w 19 15), next_field 15 10 5 _ rfl (bits_field w 14 10), next_field 10 9 1 _ rfl f4, next_field 9 8 1 _ rfl (bit_field w 8), next_field 8 4 4 _ rfl (bits_field w 7 4), next_field 4 0 4 _ rfl f7]))
  rw [if_neg c] at h
  clear c
  cases h

theorem decode09 (w : Word) (i : Instr) (hm : w.toNat / 33554432 % 128 = 9) (h : Sys2Proof.decode09 w = .ok i) : encode? i = some w := by
  have := w.isLt
  unfold Sys2Proof.decode09 at h
  cases h
  have f0 : 0x9 % 2 ^ 7 = w.toNat / 2 ^ 25 % 2 ^ 7 := by omega
  exact congrArg some (all_fields (by simp only [List.foldl]; rw [first_field 25 7 _ rfl f0, next_field 25 20 5 _ rfl (bits_field w 24 20), next_field 20 0 20 _ rfl (bits_field w 19 0)]))

theorem decode0A (w : Word) (i : Instr) (hm : w.toNat / 33554432 % 128 = 10) (h : Sys2Proof.decode0A w = .ok i) : encode? i = some w := by
  have := w.isLt
  unfold Sys2Proof.decode0A at h
  by_cases c : bits w 14 8 = 0 ∧ bits w 2 0 = 0
  · rw [if_pos c] at h
    cases h
    have := bits_val 256 128 0 rfl rfl rfl c.1
    have := bits_val 1 8 0 rfl rfl rfl c.2
    clear c
    have f0 : 0xA % 2 ^ 7 = w.toNat / 2 ^ 25 % 2 ^ 7 := by omega
    have f3 : 0x0 % 2 ^ 7 = w.toNat / 2 ^ 8 % 2 ^ 7 := by omega
    have f6 : 0x0 % 2 ^ 3 = w.toNat / 2 ^ 0 % 2 ^ 3 := by omega
    exact congrArg some (all_fields (by simp only [List.foldl]; rw [first_field 25 7 _ rfl f0, next_field 25 20 5 _ rfl (bits_field w 24 20), next_field 20 15 5 _ rfl (bits_field w 19 15), next_field 15 8 7 _ rfl f3, next_field 8 5 3 _ rfl (bits_field w 7 5), next_field 5 3 2 _ rfl (bits_field w 4 3), next_field 3 0 3 _ rfl f6]))
  rw [if_neg c] at h
  clear c
  by_cases c : bits w 24 20 = 0 ∧ bits w 9 8 = 1 ∧ bits w 2 0 = 0
  · rw [if_pos c] at h
    cases h
    have := bits_val 1048576 32 0 rfl rfl rfl c.1
    have := bits_val 256 4 1 rfl rfl rfl c.2.1
    have := bits_val 1 8 0 rfl rfl rfl c.2.2
    clear c
    have f0 : 0x140 % 2 ^ 12 = w.toNat / 2 ^ 20 % 2 ^ 12 := by omega
    have f3 : 0x1 % 2 ^ 2 = w.toNat / 2 ^ 8 % 2 ^ 2 := by omega
    have f6 : 0x0 % 2 ^ 3 = w.toNat / 2 ^ 0 % 2 ^ 3 := by omega
    exact congrArg some (all_fields (by simp only [List.foldl]; rw [first_field 20 12 _ rfl f0, next_field 20 15 5 _ rfl (bits_field w 19 15), next_field 15 10 5 _ rfl (bits_field w 14 10), next_field 10 8 2 _ rfl f3, next_field 8 5 3 _ rfl (bits_field w 7 5), next_field 5 3 2 _ rfl (bits_field w 4 3), next_field 3 0 3 _ rfl f6]))
  rw [if_neg c] at h
  clear c
  cases h

theorem decode0B (w : Word) (i : Instr) (hm : w.toNat / 33554432 % 128 = 11) (h : Sys2Proof.decode0B w = .ok i) : encode? i = some w := by
  have := w.isLt
  unfold Sys2Proof.decode0B at h
  by_cases c : bits w 19 10 = 0 ∧ bits w 8 8 = 0
  · rw [if_pos c] at h
    cases h
    have := bits_val 1024 1024 0 rfl rfl rfl c.1
    have := bits_val 256 2 0 rfl rfl rfl c.2
    clear c
    have f0 : 0xB % 2 ^ 7 = w.toNat / 2 ^ 25 % 2 ^ 7 := by omega
    have f2 : 0x0 % 2 ^ 10 = w.toNat / 2 ^ 10 % 2 ^ 10 := by omega
    have f4 : 0x0 % 2 ^ 1 = w.toNat / 2 ^ 8 % 2 ^ 1 := by omega
    exact congrArg some (all_fields (by simp only [List.foldl]; rw [first_field 25 7 _ rfl f0, next_field 25 20 5 _ rfl (bits_field w 24 20), next_field 20 10 10 _ rfl f2, next_field 10 9 1 _ rfl (bit_field w 9), next_field 9 8 1 _ rfl f4, next_field 8 0 8 _ rfl (bits_field w 7 0)]))
  rw [if_neg c] at h
  clear c
  by_cases c : bits w 24 20 = 0 ∧ bits w 14 8 = 1
  · rw [if_pos c] at h
    cases h
    have := bits_val 1048576 32 0 rfl rfl rfl c.1
    have := bits_val 256 128 1 rfl rfl rfl c.2
    clear c
    have f0 : 0x160 % 2 ^ 12 = w.toNat / 2 ^ 20 % 2 ^ 12 := by omega
    have f2 : 0x1 % 2 ^ 7 = w.toNat / 2 ^ 8 % 2 ^ 7 := by omega
    exact congrArg some (all_fields (by simp only [List.foldl]; rw [first_field 20 12 _ rfl f0, next_field 20 15 5 _ rfl (bits_field w 19 15), next_field 15 8 7 _ rfl f2, next_field 8 0 8 _ rfl (bits_field w 7 0)]))
  rw [if_neg c] at h
  clear c
  cases h

theorem decode10 (w : Word) (i : Instr) (hm : w.toNat / 33554432 % 128 = 16) (h : Sys2Proof.decode10 w = .ok i) : encode? i = some w := by
  have := w.isLt
  unfold Sys2Proof.decode10 at h
  cases h
  have f0 : 0x10 % 2 ^ 7 = w.toNat / 2 ^ 25 % 2 ^ 7 := by omega
  exact congrArg some (all_fields (by simp only [List.foldl, guardOf]; rw [first_field 25 7 _ rfl f0, next_field 25 19 6 _ rfl (bits_field w 24 19), next_field 19 13 6 _ rfl (bits_field w 18 13), next_field 13 7 6 _ rfl (bits_field w 12 7), next_field 7 6 1 _ rfl (bit_field w 6), next_field 6 5 1 _ rfl (bit_field w 5), next_field 5 4 1 _ rfl (bit_field w 4), next_field 4 0 4 _ rfl (bits_field w 3 0)]))

theorem decode11 (w : Word) (i : Instr) (hm : w.toNat / 33554432 % 128 = 17) (h : Sys2Proof.decode11 w = .ok i) : encode? i = some w := by
  have := w.isLt
  unfold Sys2Proof.decode11 at h
  cases h
  have f0 : 0x11 % 2 ^ 7 = w.toNat / 2 ^ 25 % 2 ^ 7 := by omega
  exact congrArg some (all_fields (by simp only [List.foldl, guardOf]; rw [first_field 25 7 _ rfl f0, next_field 25 19 6 _ rfl (bits_field w 24 19), next_field 19 13 6 _ rfl (bits_field w 18 13), next_field 13 7 6 _ rfl (bits_field w 12 7), next_field 7 6 1 _ rfl (bit_field w 6), next_field 6 5 1 _ rfl (bit_field w 5), next_field 5 4 1 _ rfl (bit_field w 4), next_field 4 0 4 _ rfl (bits_field w 3 0)]))

theorem decode12 (w : Word) (i : Instr) (hm : w.toNat / 33554432 % 128 = 18) (h : Sys2Proof.decode12 w = .ok i) : encode? i = some w := by
  have := w.isLt
  unfold Sys2Proof.decode12 at h
  cases h
  have f0 : 0x12 % 2 ^ 7 = w.toNat / 2 ^ 25 % 2 ^ 7 := by omega
  exact congrArg some (all_fields (by simp only [List.foldl, guardOf]; rw [first_field 25 7 _ rfl f0, next_field 25 19 6 _ rfl (bits_field w 24 19), next_field 19 13 6 _ rfl (bits_field w 18 13), next_field 13 7 6 _ rfl (bits_field w 12 7), next_field 7 6 1 _ rfl (bit_field w 6), next_field 6 5 1 _ rfl (bit_field w 5), next_field 5 4 1 _ rfl (bit_field w 4), next_field 4 0 4 _ rfl (bits_field w 3 0)]))

theorem decode13 (w : Word) (i : Instr) (hm : w.toNat / 33554432 % 128 = 19) (h : Sys2Proof.decode13 w = .ok i) : encode? i = some w := by
  have := w.isLt
  unfold Sys2Proof.decode13 at h
  cases h
  have f0 : 0x13 % 2 ^ 7 = w.toNat / 2 ^ 25 % 2 ^ 7 := by omega
  exact congrArg some (all_fields (by simp only [List.foldl, guardOf]; rw [first_field 25 7 _ rfl f0, next_field 25 19 6 _ rfl (bits_field w 24 19), next_field 19 13 6 _ rfl (bits_field w 18 13), next_field 13 7 6 _ rfl (bits_field w 12 7), next_field 7 6 1 _ rfl (bit_field w 6), next_field 6 5 1 _ rfl (bit_field w 5), next_field 5 4 1 _ rfl (bit_field w 4), next_field 4 0 4 _ rfl (bits_field w 3 0)]))

theorem decode14 (w : Word) (i : Instr) (hm : w.toNat / 33554432 % 128 = 20) (h : Sys2Proof.decode14 w = .ok i) : encode? i = some w := by
  have := w.isLt
  unfold Sys2Proof.decode14 at h
  cases h
  have f0 : 0x14 % 2 ^ 7 = w.toNat / 2 ^ 25 % 2 ^ 7 := by omega
  exact congrArg some (all_fields (by simp only [List.foldl, guardOf]; rw [first_field 25 7 _ rfl f0, next_field 25 19 6 _ rfl (bits_field w 24 19), next_field 19 13 6 _ rfl (bits_field w 18 13), next_field 13 7 6 _ rfl (bits_field w 12 7), next_field 7 6 1 _ rfl (bit_field w 6), next_field 6 5 1 _ rfl (bit_field w 5), next_field 5 4 1 _ rfl (bit_field w 4), next_field 4 0 4 _ rfl (bits_field w 3 0)]))

theorem decode15 (w : Word) (i : Instr) (hm : w.toNat / 33554432 % 128 = 21) (h : Sys2Proof.decode15 w = .ok i) : encode? i = some w := by
  have := w.isLt
  unfold Sys2Proof.decode15 at h
  cases h
  have f0 : 0x15 % 2 ^ 7 = w.toNat / 2 ^ 25 % 2 ^ 7 := by omega
  exact congrArg some (all_fields (by simp only [List.foldl, guardOf]; rw [first_field 25 7 _ rfl f0, next_field 25 19 6 _ rfl (bits_field w 24 19), next_field 19 13 6 _ rfl (bits_field w 18 13), next_field 13 7 6 _ rfl (bits_field w 12 7), next_field 7 6 1 _ rfl (bit_field w 6), next_field 6 5 1 _ rfl (bit_field w 5), next_field 5 4 1 _ rfl (bit_field w 4), next_field 4 0 4 _ rfl (bits_field w 3 0)]))

theorem decode16 (w : Word) (i : Instr) (hm : w.toNat / 33554432 % 128 = 22) (h : Sys2Proof.decode16 w = .ok i) : encode? i = some w := by
  have := w.isLt
  unfold Sys2Proof.decode16 at h
  cases h
  have f0 : 0x16 % 2 ^ 7 = w.toNat / 2 ^ 25 % 2 ^ 7 := by omega
  exact congrArg some (all_fields (by simp only [List.foldl, guardOf]; rw [first_field 25 7 _ rfl f0, next_field 25 19 6 _ rfl (bits_field w 24 19), next_field 19 13 6 _ rfl (bits_field w 18 13), next_field 13 7 6 _ rfl (bits_field w 12 7), next_field 7 6 1 _ rfl (bit_field w 6), next_field 6 5 1 _ rfl (bit_field w 5), next_field 5 4 1 _ rfl (bit_field w 4), next_field 4 0 4 _ rfl (bits_field w 3 0)]))

theorem decode17 (w : Word) (i : Instr) (hm : w.toNat / 33554432 % 128 = 23) (h : Sys2Proof.decode17 w = .ok i) : encode? i = some w := by
  have := w.isLt
  unfold Sys2Proof.decode17 at h
  cases h
  have f0 : 0x17 % 2 ^ 7 = w.toNat / 2 ^ 25 % 2 ^ 7 := by omega
  exact congrArg some (all_fields (by simp only [List.foldl, guardOf]; rw [first_field 25 7 _ rfl f0, next_field 25 19 6 _ rfl (bits_field w 24 19), next_field 19 13 6 _ rfl (bits_field w 18 13), next_field 13 7 6 _ rfl (bits_field w 12 7), next_field 7 6 1 _ rfl (bit_field w 6), next_field 6 5 1 _ rfl (bit_field w 5), next_field 5 4 1 _ rfl (bit_field w 4), next_field 4 0 4 _ rfl (bits_field w 3 0)]))

theorem decode18 (w : Word) (i : Instr) (hm : w.toNat / 33554432 % 128 = 24) (h : Sys2Proof.decode18 w = .ok i) : encode? i = some w := by
  have := w.isLt
  unfold Sys2Proof.decode18 at h
  cases h
  have f0 : 0x18 % 2 ^ 7 = w.toNat / 2 ^ 25 % 2 ^ 7 := by omega
  exact congrArg some (all_fields (by simp only [List.foldl, guardOf]; rw [first_field 25 7 _ rfl f0, next_field 25 19 6 _ rfl (bits_field w 24 19), next_field 19 13 6 _ rfl (bits_field w 18 13), next_field 13 7 6 _ rfl (bits_field w 12 7), next_field 7 6 1 _ rfl (bit_field w 6), next_field 6 5 1 _ rfl (bit_field w 5), next_field 5 4 1 _ rfl (bit_field w 4), next_field 4 0 4 _ rfl (bits_field w 3 0)]))

theorem decode19 (w : Word) (i : Instr) (hm : w.toNat / 33554432 % 128 = 25) (h : Sys2Proof.decode19 w = .ok i) : encode? i = some w := by
  have := w.isLt
  unfold Sys2Proof.decode19 at h
  cases h
  have f0 : 0x19 % 2 ^ 7 = w.toNat / 2 ^ 25 % 2 ^ 7 := by omega
  exact congrArg some (all_fields (by simp only [List.foldl, guardOf]; rw [first_field 25 7 _ rfl f0, next_field 25 19 6 _ rfl (bits_field w 24 19), next_field 19 13 6 _ rfl (bits_field w 18 13), next_field 13 7 6 _ rfl (bits_field w 12 7), next_field 7 6 1 _ rfl (bit_field w 6), next_field 6 5 1 _ rfl (bit_field w 5), next_field 5 4 1 _ rfl (bit_field w 4), next_field 4 0 4 _ rfl (bits_field w 3 0)]))

theorem decode1A (w : Word) (i : Instr) (hm : w.toNat / 33554432 % 128 = 26) (h : Sys2Proof.decode1A w = .ok i) : encode? i = some w := by
  have := w.isLt
  unfold Sys2Proof.decode1A at h
  cases h
  have f0 : 0x1A % 2 ^ 7 = w.toNat / 2 ^ 25 % 2 ^ 7 := by omega
  exact congrArg some (all_fields (by simp only [List.foldl, guardOf]; rw [first_field 25 7 _ rfl f0, next_field 25 19 6 _ rfl (bits_field w 24 19), next_field 19 13 6 _ rfl (bits_field w 18 13), next_field 13 7 6 _ rfl (bits_field w 12 7), next_field 7 6 1 _ rfl (bit_field w 6), next_field 6 5 1 _ rfl (bit_field w 5), next_field 5 4 1 _ rfl (bit_field w 4), next_field 4 0 4 _ rfl (bits_field w 3 0)]))

theorem decode1B (w : Word) (i : Instr) (hm : w.toNat / 33554432 % 128 = 27) (h : Sys2Proof.decode1B w = .ok i) : encode? i = some w := by
  have := w.isLt
  unfold Sys2Proof.decode1B at h
  cases h
  have f0 : 0x1B % 2 ^ 7 = w.toNat / 2 ^ 25 % 2 ^ 7 := by omega
  exact congrArg some (all_fields (by simp only [List.foldl, guardOf]; rw [first_field 25 7 _ rfl f0, next_field 25 19 6 _ rfl (bits_field w 24 19), next_field 19 13 6 _ rfl (bits_field w 18 13), next_field 13 7 6 _ rfl (bits_field w 12 7), next_field 7 6 1 _ rfl (bit_field w 6), next_field 6 5 1 _ rfl (bit_field w 5), next_field 5 4 1 _ rfl (bit_field w 4), next_field 4 0 4 _ rfl (bits_field w 3 0)]))

theorem decode1C (w : Word) (i : Instr) (hm : w.toNat / 33554432 % 128 = 28) (h : Sys2Proof.decode1C w = .ok i) : encode? i = some w := by
  have := w.isLt
  unfold Sys2Proof.decode1C at h
  cases h
  have f0 : 0x1C % 2 ^ 7 = w.toNat / 2 ^ 25 % 2 ^ 7 := by omega
  exact congrArg some (all_fields (by simp only [List.foldl, guardOf]; rw [first_field 25 7 _ rfl f0, next_field 25 19 6 _ rfl (bits_field w 24 19), next_field 19 13 6 _ rfl (bits_field w 18 13), next_field 13 7 6 _ rfl (bits_field w 12 7), next_field 7 6 1 _ rfl (bit_field w 6), next_field 6 5 1 _ rfl (bit_field w 5), next_field 5 4 1 _ rfl (bit_field w 4), next_field 4 0 4 _ rfl (bits_field w 3 0)]))

theorem decode1D (w : Word) (i : Instr) (hm : w.toNat / 33554432 % 128 = 29) (h : Sys2Proof.decode1D w = .ok i) : encode? i = some w := by
  have := w.isLt
  unfold Sys2Proof.decode1D at h
  cases h
  have f0 : 0x1D % 2 ^ 7 = w.toNat / 2 ^ 25 % 2 ^ 7 := by omega
  exact congrArg some (all_fields (by simp only [List.foldl, guardOf]; rw [first_field 25 7 _ rfl f0, next_field 25 19 6 _ rfl (bits_field w 24 19), next_field 19 13 6 _ rfl (bits_field w 18 13), next_field 13 7 6 _ rfl (bits_field w 12 7), next_field 7 6 1 _ rfl (bit_field w 6), next_field 6 5 1 _ rfl (bit_field w 5), next_field 5 4 1 _ rfl (bit_field w 4), next_field 4 0 4 _ rfl (bits_field w 3 0)]))

theorem decode1E (w : Word) (i : Instr) (hm : w.toNat / 33554432 % 128 = 30) (h : Sys2Proof.decode1E w = .ok i) : encode? i = some w := by
  have := w.isLt
  unfold Sys2Proof.decode1E at h
  cases h
  have f0 : 0x1E % 2 ^ 7 = w.toNat / 2 ^ 25 % 2 ^ 7 := by omega
  exact congrArg some (all_fields (by simp only [List.foldl, guardOf]; rw [first_field 25 7 _ rfl f0, next_field 25 19 6 _ rfl (bits_field w 24 19), next_field 19 13 6 _ rfl (bits_field w 18 13), next_field 13 7 6 _ rfl (bits_field w 12 7), next_field 7 6 1 _ rfl (bit_field w 6), next_field 6 5 1 _ rfl (bit_field w 5), next_field 5 4 1 _ rfl (bit_field w 4), next_field 4 0 4 _ rfl (bits_field w 3 0)]))

theorem decode1F (w : Word) (i : Instr) (hm : w.toNat / 33554432 % 128 = 31) (h : Sys2Proof.decode1F w = .ok i) : encode? i = some w := by
  have := w.isLt
  unfold Sys2Proof.decode1F at h
  cases h
  have f0 : 0x1F % 2 ^ 7 = w.toNat / 2 ^ 25 % 2 ^ 7 := by omega
  exact congrArg some (all_fields (by simp only [List.foldl, guardOf]; rw [first_field 25 7 _ rfl f0, next_field 25 19 6 _ rfl (bits_field w 24 19), next_field 19 13 6 _ rfl (bits_field w 18 13), next_field 13 7 6 _ rfl (bits_field w 12 7), next_field 7 6 1 _ rfl (bit_field w 6), next_field 6 5 1 _ rfl (bit_field w 5), next_field 5 4 1 _ rfl (bit_field w 4), next_field 4 0 4 _ rfl (bits_field w 3 0)]))

theorem decode20 (w : Word) (i : Instr) (hm : w.toNat / 33554432 % 128 = 32) (h : Sys2Proof.decode20 w = .ok i) : encode? i = some w := by
  have := w.isLt
  unfold Sys2Proof.decode20 at h
  cases h
  have f0 : 0x20 % 2 ^ 7 = w.toNat / 2 ^ 25 % 2 ^ 7 := by omega
  exact congrArg some (all_fields (by simp only [List.foldl, guardOf]; rw [first_field 25 7 _ rfl f0, next_field 25 19 6 _ rfl (bits_field w 24 19), next_field 19 13 6 _ rfl (bits_field w 18 13), next_field 13 5 8 _ rfl (bits_field w 12 5), next_field 5 4 1 _ rfl (bit_field w 4), next_field 4 0 4 _ rfl (bits_field w 3 0)]))

theorem decode21 (w : Word) (i : Instr) (hm : w.toNat / 33554432 % 128 = 33) (h : Sys2Proof.decode21 w = .ok i) : encode? i = some w := by
  have := w.isLt
  unfold Sys2Proof.decode21 at h
  cases h
  have f0 : 0x21 % 2 ^ 7 = w.toNat / 2 ^ 25 % 2 ^ 7 := by omega
  exact congrArg some (all_fields (by simp only [List.foldl, guardOf]; rw [first_field 25 7 _ rfl f0, next_field 25 19 6 _ rfl (bits_field w 24 19), next_field 19 13 6 _ rfl (bits_field w 18 13), next_field 13 5 8 _ rfl (bits_field w 12 5), next_field 5 4 1 _ rfl (bit_field w 4), next_field 4 0 4 _ rfl (bits_field w 3 0)]))

theorem decode22 (w : Word) (i : Instr) (hm : w.toNat / 33554432 % 128 = 34) (h : Sys2Proof.decode22 w = .ok i) : encode? i = some w := by
  have := w.isLt
  unfold Sys2Proof.decode22 at h
  cases h
  have f0 : 0x22 % 2 ^ 7 = w.toNat / 2 ^ 25 % 2 ^ 7 := by omega
  exact congrArg some (all_fields (by simp only [List.foldl, guardOf]; rw [first_field 25 7 _ rfl f0, next_field 25 19 6 _ rfl (bits_field w 24 19), next_field 19 13 6 _ rfl (bits_field w 18 13), next_field 13 5 8 _ rfl (bits_field w 12 5), next_field 5 4 1 _ rfl (bit_field w 4), next_field 4 0 4 _ rfl (bits_field w 3 0)]))

theorem decode23 (w : Word) (i : Instr) (hm : w.toNat / 33554432 % 128 = 35) (h : Sys2Proof.decode23 w = .ok i) : encode? i = some w := by
  have := w.isLt
  unfold Sys2Proof.decode23 at h
  cases h
  have f0 : 0x23 % 2 ^ 7 = w.toNat / 2 ^ 25 % 2 ^ 7 := by omega
  exact congrArg some (all_fields (by simp only [List.foldl, guardOf]; rw [first_field 25 7 _ rfl f0, next_field 25 19 6 _ rfl (bits_field w 24 19), next_field 19 13 6 _ rfl (bits_field w 18 13), next_field 13 5 8 _ rfl (bits_field w 12 5), next_field 5 4 1 _ rfl (bit_field w 4), next_field 4 0 4 _ rfl (bits_field w 3 0)]))

theorem decode24 (w : Word) (i : Instr) (hm : w.toNat / 33554432 % 128 = 36) (h : Sys2Proof.decode24 w = .ok i) : encode? i = some w := by
  have := w.isLt
  unfold Sys2Proof.decode24 at h
  cases h
  have f0 : 0x24 % 2 ^ 7 = w.toNat / 2 ^ 25 % 2 ^ 7 := by omega
  exact congrArg some (all_fields (by simp only [List.foldl, guardOf]; rw [first_field 25 7 _ rfl f0, next_field 25 19 6 _ rfl (bits_field w 24 19), next_field 19 13 6 _ rfl (bits_field w 18 13), next_field 13 5 8 _ rfl (bits_field w 12 5), next_field 5 4 1 _ rfl (bit_field w 4), next_field 4 0 4 _ rfl (bits_field w 3 0)]))

theorem decode25 (w : Word) (i : Instr) (hm : w.toNat / 33554432 % 128 = 37) (h : Sys2Proof.decode25 w = .ok i) : encode? i = some w := by
  have := w.isLt
  unfold Sys2Proof.decode25 at h
  cases h
  have f0 : 0x25 % 2 ^ 7 = w.toNat / 2 ^ 25 % 2 ^ 7 := by omega
  exact congrArg some (all_fields (by simp only [List.foldl, guardOf]; rw [first_field 25 7 _ rfl f0, next_field 25 19 6 _ rfl (bits_field w 24 19), next_field 19 5 14 _ rfl (bits_field w 18 5), next_field 5 4 1 _ rfl (bit_field w 4), next_field 4 0 4 _ rfl (bits_field w 3 0)]))

theorem decode26 (w : Word) (i : Instr) (hm : w.toNat / 33554432 % 128 = 38) (h : Sys2Proof.decode26 w = .ok i) : encode? i = some w := by
  have := w.isLt
  unfold Sys2Proof.decode26 at h
  by_cases c : bits w 12 7 = 0 ∧ bits w 5 5 = 0
  · rw [if_pos c] at h
    cases h
    have := bits_val 128 64 0 rfl rfl rfl c.1
    have := bits_val 32 2 0 rfl rfl rfl c.2
    clear c
    have f0 : 0x26 % 2 ^ 7 = w.toNat / 2 ^ 25 % 2 ^ 7 := by omega
    have f3 : 0x0 % 2 ^ 6 = w.toNat / 2 ^ 7 % 2 ^ 6 := by omega
    have f5 : 0x0 % 2 ^ 1 = w.toNat / 2 ^ 5 % 2 ^ 1 := by omega
    exact congrArg some (all_fields (by simp only [List.foldl, guardOf]; rw [first_field 25 7 _ rfl f0, next_field 25 19 6 _ rfl (bits_field w 24 19), next_field 19 13 6 _ rfl (bits_field w 18 13), next_field 13 7 6 _ rfl f3, next_field 7 6 1 _ rfl (bit_field w 6), next_field 6 5 1 _ rfl f5, next_field 5 4 1 _ rfl (bit_field w 4), next_field 4 0 4 _ rfl (bits_field w 3 0)]))
  rw [if_neg c] at h
  clear c
  by_cases c : bits w 12 7 = 1 ∧ bits w 5 5 = 0
  · rw [if_pos c] at h
    cases h
    have := bits_val 128 64 1 rfl rfl rfl c.1
    have := bits_val 32 2 0 rfl rfl rfl c.2
    clear c
    have f0 : 0x26 % 2 ^ 7 = w.toNat / 2 ^ 25 % 2 ^ 7 := by omega
    have f3 : 0x1 % 2 ^ 6 = w.toNat / 2 ^ 7 % 2 ^ 6 := by omega
    have f5 : 0x0 % 2 ^ 1 = w.toNat / 2 ^ 5 % 2 ^ 1 := by omega
    exact congrArg some (all_fields (by simp only [List.foldl, guardOf]; rw [first_field 25 7 _ rfl f0, next_field 25 19 6 _ rfl (bits_field w 24 19), next_field 19 13 6 _ rfl (bits_field w 18 13), next_field 13 7 6 _ rfl f3, next_field 7 6 1 _ rfl (bit_field w 6), next_field 6 5 1 _ rfl f5, next_field 5 4 1 _ rfl (bit_field w 4), next_field 4 0 4 _ rfl (bits_field w 3 0)]))
  rw [if_neg c] at h
  clear c
  by_cases c : bits w 12 7 = 2 ∧ bits w 5 5 = 0
  · rw [if_pos c] at h
    cases h
    have := bits_val 128 64 2 rfl rfl rfl c.1
    have := bits_val 32 2 0 rfl rfl rfl c.2
    clear c
    have f0 : 0x26 % 2 ^ 7 = w.toNat / 2 ^ 25 % 2 ^ 7 := by omega
    have f3 : 0x2 % 2 ^ 6 = w.toNat / 2 ^ 7 % 2 ^ 6 := by omega
    have f5 : 0x0 % 2 ^ 1 = w.toNat / 2 ^ 5 % 2 ^ 1 := by omega
    exact congrArg some (all_fields (by simp only [List.foldl, guardOf]; rw [first_field 25 7 _ rfl f0, next_field 25 19 6 _ rfl (bits_field w 24 19), next_field 19 13 6 _ rfl (bits_field w 18 13), next_field 13 7 6 _ rfl f3, next_field 7 6 1 _ rfl (bit_field w 6), next_field 6 5 1 _ rfl f5, next_field 5 4 1 _ rfl (bit_field w 4), next_field 4 0 4 _ rfl (bits_field w 3 0)]))
  rw [if_neg c] at h
  clear c
  by_cases c : bits w 12 7 = 3 ∧ bits w 5 5 = 0
  · rw [if_pos c] at h
    cases h
    have := bits_val 128 64 3 rfl rfl rfl c.1
    have := bits_val 32 2 0 rfl rfl rfl c.2
    clear c
    have f0 : 0x26 % 2 ^ 7 = w.toNat / 2 ^ 25 % 2 ^ 7 := by omega
    have f3 : 0x3 % 2 ^ 6 = w.toNat / 2 ^ 7 % 2 ^ 6 := by omega
    have f5 : 0x0 % 2 ^ 1 = w.toNat / 2 ^ 5 % 2 ^ 1 := by omega
    exact congrArg some (all_fields (by simp only [List.foldl, guardOf]; rw [first_field 25 7 _ rfl f0, next_field 25 19 6 _ rfl (bits_field w 24 19), next_field 19 13 6 _ rfl (bits_field w 18 13), next_field 13 7 6 _ rfl f3, next_field 7 6 1 _ rfl (bit_field w 6), next_field 6 5 1 _ rfl f5, next_field 5 4 1 _ rfl (bit_field w 4), next_field 4 0 4 _ rfl (bits_field w 3 0)]))
  rw [if_neg c] at h
  clear c
  by_cases c : bits w 12 7 = 4 ∧ bits w 5 5 = 0
  · rw [if_pos c] at h
    cases h
    have := bits_val 128 64 4 rfl rfl rfl c.1
    have := bits_val 32 2 0 rfl rfl rfl c.2
    clear c
    have f0 : 0x26 % 2 ^ 7 = w.toNat / 2 ^ 25 % 2 ^ 7 := by omega
    have f3 : 0x4 % 2 ^ 6 = w.toNat / 2 ^ 7 % 2 ^ 6 := by omega
    have f5 : 0x0 % 2 ^ 1 = w.toNat / 2 ^ 5 % 2 ^ 1 := by omega
    exact congrArg some (all_fields (by simp only [List.foldl, guardOf]; rw [first_field 25 7 _ rfl f0, next_field 25 19 6 _ rfl (bits_field w 24 19), next_field 19 13 6 _ rfl (bits_field w 18 13), next_field 13 7 6 _ rfl f3, next_field 7 6 1 _ rfl (bit_field w 6), next_field 6 5 1 _ rfl f5, next_field 5 4 1 _ rfl (bit_field w 4), next_field 4 0 4 _ rfl (bits_field w 3 0)]))
  rw [if_neg c] at h
  clear c
  by_cases c : bits w 12 7 = 5 ∧ bits w 5 5 = 0
  · rw [if_pos c] at h
    cases h
    have := bits_val 128 64 5 rfl rfl rfl c.1
    have := bits_val 32 2 0 rfl rfl rfl c.2
    clear c
    have f0 : 0x26 % 2 ^ 7 = w.toNat / 2 ^ 25 % 2 ^ 7 := by omega
    have f3 : 0x5 % 2 ^ 6 = w.toNat / 2 ^ 7 % 2 ^ 6 := by omega
    have f5 : 0x0 % 2 ^ 1 = w.toNat / 2 ^ 5 % 2 ^ 1 := by omega
    exact congrArg some (all_fields (by simp only [List.foldl, guardOf]; rw [first_field 25 7 _ rfl f0, next_field 25 19 6 _ rfl (bits_field w 24 19), next_field 19 13 6 _ rfl (bits_field w 18 13), next_field 13 7 6 _ rfl f3, next_field 7 6 1 _ rfl (bit_field w 6), next_field 6 5 1 _ rfl f5, next_field 5 4 1 _ rfl (bit_field w 4), next_field 4 0 4 _ rfl (bits_field w 3 0)]))
  rw [if_neg c] at h
  clear c
  cases h

theorem decode27 (w : Word) (i : Instr) (hm : w.toNat / 33554432 % 128 = 39) (h : Sys2Proof.decode27 w = .ok i) : encode? i = some w := by
  have := w.isLt
  unfold Sys2Proof.decode27 at h
  by_cases c : bits w 12 7 = 0
  · rw [if_pos c] at h
    cases h
    have := bits_val 128 64 0 rfl rfl rfl c
    clear c
    have f0 : 0x27 % 2 ^ 7 = w.toNat / 2 ^ 25 % 2 ^ 7 := by omega
    have f3 : 0x0 % 2 ^ 6 = w.toNat / 2 ^ 7 % 2 ^ 6 := by omega
    exact congrArg some (all_fields (by simp only [List.foldl, guardOf]; rw [first_field 25 7 _ rfl f0, next_field 25 19 6 _ rfl (bits_field w 24 19), next_field 19 13 6 _ rfl (bits_field w 18 13), next_field 13 7 6 _ rfl f3, next_field 7 6 1 _ rfl (bit_field w 6), next_field 6 5 1 _ rfl (bit_field w 5), next_field 5 4 1 _ rfl (bit_field w 4), next_field 4 0 4 _ rfl (bits_field w 3 0)]))
  rw [if_neg c] at h
  clear c
  by_cases c : bits w 12 7 = 1 ∧ bits w 5 5 = 0
  · rw [if_pos c] at h
    cases h
    have := bits_val 128 64 1 rfl rfl rfl c.1
    have := bits_val 32 2 0 rfl rfl rfl c.2
    clear c
    have f0 : 0x27 % 2 ^ 7 = w.toNat / 2 ^ 25 % 2 ^ 7 := by omega
    have f3 : 0x1 % 2 ^ 6 = w.toNat / 2 ^ 7 % 2 ^ 6 := by omega
    have f5 : 0x0 % 2 ^ 1 = w.toNat / 2 ^ 5 % 2 ^ 1 := by omega
    exact congrArg some (all_fields (by simp only [List.foldl, guardOf]; rw [first_field 25 7 _ rfl f0, next_field 25 19 6 _ rfl (bits_field w 24 19), next_field 19 13 6 _ rfl (bits_field w 18 13), next_field 13 7 6 _ rfl f3, next_field 7 6 1 _ rfl (bit_field w 6), next_field 6 5 1 _ rfl f5, next_field 5 4 1 _ rfl (bit_field w 4), next_field 4 0 4 _ rfl (bits_field w 3 0)]))
  rw [if_neg c] at h
  clear c
  cases h

theorem decode28 (w : Word) (i : Instr) (hm : w.toNat / 33554432 % 128 = 40) (h : Sys2Proof.decode28 w = .ok i) : encode? i = some w := by
  have := w.isLt
  unfold Sys2Proof.decode28 at h
  cases h
  have f0 : 0x28 % 2 ^ 7 = w.toNat / 2 ^ 25 % 2 ^ 7 := by omega
  exact congrArg some (all_fields (by simp only [List.foldl, guardOf]; rw [first_field 25 7 _ rfl f0, next_field 25 19 6 _ rfl (bits_field w 24 19), next_field 19 13 6 _ rfl (bits_field w 18 13), next_field 13 7 6 _ rfl (bits_field w 12 7), next_field 7 6 1 _ rfl (bit_field w 6), next_field 6 5 1 _ rfl (bit_field w 5), next_field 5 4 1 _ rfl (bit_field w 4), next_field 4 0 4 _ rfl (bits_field w 3 0)]))

theorem decode29 (w : Word) (i : Instr) (hm : w.toNat / 33554432 % 128 = 41) (h : Sys2Proof.decode29 w = .ok i) : encode? i = some w := by
  have := w.isLt
  unfold Sys2Proof.decode29 at h
  cases h
  have f0 : 0x29 % 2 ^ 7 = w.toNat / 2 ^ 25 % 2 ^ 7 := by omega
  exact congrArg some (all_fields (by simp only [List.foldl, guardOf]; rw [first_field 25 7 _ rfl f0, next_field 25 19 6 _ rfl (bits_field w 24 19), next_field 19 13 6 _ rfl (bits_field w 18 13), next_field 13 7 6 _ rfl (bits_field w 12 7), next_field 7 6 1 _ rfl (bit_field w 6), next_field 6 5 1 _ rfl (bit_field w 5), next_field 5 4 1 _ rfl (bit_field w 4), next_field 4 0 4 _ rfl (bits_field w 3 0)]))

theorem decode2A (w : Word) (i : Instr) (hm : w.toNat / 33554432 % 128 = 42) (h : Sys2Proof.decode2A w = .ok i) : encode? i = some w := by
  have := w.isLt
  unfold Sys2Proof.decode2A at h
  cases h
  have f0 : 0x2A % 2 ^ 7 = w.toNat / 2 ^ 25 % 2 ^ 7 := by omega
  exact congrArg some (all_fields (by simp only [List.foldl, guardOf]; rw [first_field 25 7 _ rfl f0, next_field 25 19 6 _ rfl (bits_field w 24 19), next_field 19 13 6 _ rfl (bits_field w 18 13), next_field 13 8 5 _ rfl (bits_field w 12 8), next_field 8 5 3 _ rfl (bits_field w 7 5), next_field 5 4 1 _ rfl (bit_field w 4), next_field 4 0 4 _ rfl (bits_field w 3 0)]))

theorem decode30 (w : Word) (i : Instr) (hm : w.toNat / 33554432 % 128 = 48) (h : Sys2Proof.decode30 w = .ok i) : encode? i = some w := by
  have := w.isLt
  unfold Sys2Proof.decode30 at h
  cases h
  have f0 : 0x30 % 2 ^ 7 = w.toNat / 2 ^ 25 % 2 ^ 7 := by omega
  exact congrArg some (all_fields (by simp only [List.foldl, guardOf]; rw [first_field 25 7 _ rfl f0, next_field 25 21 4 _ rfl (bits_field w 24 21), next_field 21 17 4 _ rfl (bits_field w 20 17), next_field 17 11 6 _ rfl (bits_field w 16 11), next_field 11 5 6 _ rfl (bits_field w 10 5), next_field 5 4 1 _ rfl (bit_field w 4), next_field 4 0 4 _ rfl (bits_field w 3 0)]))

theorem decode31 (w : Word) (i : Instr) (hm : w.toNat / 33554432 % 128 = 49) (h : Sys2Proof.decode31 w = .ok i) : encode? i = some w := by
  have := w.isLt
  unfold Sys2Proof.decode31 at h
  cases h
  have f0 : 0x31 % 2 ^ 7 = w.toNat / 2 ^ 25 % 2 ^ 7 := by omega
  exact congrArg some (all_fields (by simp only [List.foldl, guardOf]; rw [first_field 25 7 _ rfl f0, next_field 25 21 4 _ rfl (bits_field w 24 21), next_field 21 17 4 _ rfl (bits_field w 20 17), next_field 17 11 6 _ rfl (bits_field w 16 11), next_field 11 5 6 _ rfl (bits_field w 10 5), next_field 5 4 1 _ rfl (bit_field w 4), next_field 4 0 4 _ rfl (bits_field w 3 0)]))

theorem decode32 (w : Word) (i : Instr) (hm : w.toNat / 33554432 % 128 = 50) (h : Sys2Proof.decode32 w = .ok i) : encode? i = some w := by
  have := w.isLt
  unfold Sys2Proof.decode32 at h
  by_cases c : bits w 12 7 = 0
  · rw [if_pos c] at h
    cases h
    have := bits_val 128 64 0 rfl rfl rfl c
    clear c
    have f0 : 0x32 % 2 ^ 7 = w.toNat / 2 ^ 25 % 2 ^ 7 := by omega
    have f4 : 0x0 % 2 ^ 6 = w.toNat / 2 ^ 7 % 2 ^ 6 := by omega
    exact congrArg some (all_fields (by simp only [List.foldl, guardOf]; rw [first_field 25 7 _ rfl f0, next_field 25 21 4 _ rfl (bits_field w 24 21), next_field 21 17 4 _ rfl (bits_field w 20 17), next_field 17 13 4 _ rfl (bits_field w 16 13), next_field 13 7 6 _ rfl f4, next_field 7 5 2 _ rfl (bits_field w 6 5), next_field 5 4 1 _ rfl (bit_field w 4), next_field 4 0 4 _ rfl (bits_field w 3 0)]))
  rw [if_neg c] at h
  clear c
  by_cases c : bits w 12 7 = 2
  · rw [if_pos c] at h
    cases h
    have := bits_val 128 64 2 rfl rfl rfl c
    clear c
    have f0 : 0x32 % 2 ^ 7 = w.toNat / 2 ^ 25 % 2 ^ 7 := by omega
    have f4 : 0x2 % 2 ^ 6 = w.toNat / 2 ^ 7 % 2 ^ 6 := by omega
    exact congrArg some (all_fields (by simp only [List.foldl, guardOf]; rw [first_field 25 7 _ rfl f0, next_field 25 21 4 _ rfl (bits_field w 24 21), next_field 21 17 4 _ rfl (bits_field w 20 17), next_field 17 13 4 _ rfl (bits_field w 16 13), next_field 13 7 6 _ rfl f4, next_field 7 5 2 _ rfl (bits_field w 6 5), next_field 5 4 1 _ rfl (bit_field w 4), next_field 4 0 4 _ rfl (bits_field w 3 0)]))
  rw [if_neg c] at h
  clear c
  by_cases c : bits w 12 7 = 4
  · rw [if_pos c] at h
    cases h
    have := bits_val 128 64 4 rfl rfl rfl c
    clear c
    have f0 : 0x32 % 2 ^ 7 = w.toNat / 2 ^ 25 % 2 ^ 7 := by omega
    have f4 : 0x4 % 2 ^ 6 = w.toNat / 2 ^ 7 % 2 ^ 6 := by omega
    exact congrArg some (all_fields (by simp only [List.foldl, guardOf]; rw [first_field 25 7 _ rfl f0, next_field 25 21 4 _ rfl (bits_field w 24 21), next_field 21 17 4 _ rfl (bits_field w 20 17), next_field 17 13 4 _ rfl (bits_field w 16 13), next_field 13 7 6 _ rfl f4, next_field 7 5 2 _ rfl (bits_field w 6 5), next_field 5 4 1 _ rfl (bit_field w 4), next_field 4 0 4 _ rfl (bits_field w 3 0)]))
  rw [if_neg c] at h
  clear c
  by_cases c : bits w 16 5 = 24
  · rw [if_pos c] at h
    cases h
    have := bits_val 32 4096 24 rfl rfl rfl c
    clear c
    have f0 : 0x32 % 2 ^ 7 = w.toNat / 2 ^ 25 % 2 ^ 7 := by omega
    have f3 : 0x18 % 2 ^ 12 = w.toNat / 2 ^ 5 % 2 ^ 12 := by omega
    exact congrArg some (all_fields (by simp only [List.foldl, guardOf]; rw [first_field 25 7 _ rfl f0, next_field 25 21 4 _ rfl (bits_field w 24 21), next_field 21 17 4 _ rfl (bits_field w 20 17), next_field 17 5 12 _ rfl f3, next_field 5 4 1 _ rfl (bit_field w 4), next_field 4 0 4 _ rfl (bits_field w 3 0)]))
  rw [if_neg c] at h
  clear c
  by_cases c : bits w 20 6 = 16
  · rw [if_pos c] at h
    cases h
    have := bits_val 64 32768 16 rfl rfl rfl c
    clear c
    have f0 : 0x32 % 2 ^ 7 = w.toNat / 2 ^ 25 % 2 ^ 7 := by omega
    have f2 : 0x10 % 2 ^ 15 = w.toNat / 2 ^ 6 % 2 ^ 15 := by omega
    exact congrArg some (all_fields (by simp only [List.foldl, guardOf]; rw [first_field 25 7 _ rfl f0, next_field 25 21 4 _ rfl (bits_field w 24 21), next_field 21 6 15 _ rfl f2, next_field 6 5 1 _ rfl (bit_field w 5), next_field 5 4 1 _ rfl (bit_field w 4), next_field 4 0 4 _ rfl (bits_field w 3 0)]))
  rw [if_neg c] at h
  clear c
  cases h

theorem decode33 (w : Word) (i : Instr) (hm : w.toNat / 33554432 % 128 = 51) (h : Sys2Proof.decode33 w = .ok i) : encode? i = some w := by
  have := w.isLt
  unfold Sys2Proof.decode33 at h
  by_cases c : bits w 12 5 = 0
  · rw [if_pos c] at h
    cases h
    have := bits_val 32 256 0 rfl rfl rfl c
    clear c
    have f0 : 0x33 % 2 ^ 7 = w.toNat / 2 ^ 25 % 2 ^ 7 := by omega
    have f3 : 0x0 % 2 ^ 8 = w.toNat / 2 ^ 5 % 2 ^ 8 := by omega
    exact congrArg some (all_fields (by simp only [List.foldl, guardOf]; rw [first_field 25 7 _ rfl f0, next_field 25 21 4 _ rfl (bits_field w 24 21), next_field 21 13 8 _ rfl (bits_field w 20 13), next_field 13 5 8 _ rfl f3, next_field 5 4 1 _ rfl (bit_field w 4), next_field 4 0 4 _ rfl (bits_field w 3 0)]))
  rw [if_neg c] at h
  clear c
  by_cases c : bits w 12 5 = 8
  · rw [if_pos c] at h
    cases h
    have := bits_val 32 256 8 rfl rfl rfl c
    clear c
    have f0 : 0x33 % 2 ^ 7 = w.toNat / 2 ^ 25 % 2 ^ 7 := by omega
    have f3 : 0x8 % 2 ^ 8 = w.toNat / 2 ^ 5 % 2 ^ 8 := by omega
    exact congrArg some (all_fields (by simp only [List.foldl, guardOf]; rw [first_field 25 7 _ rfl f0, next_field 25 21 4 _ rfl (bits_field w 24 21), next_field 21 13 8 _ rfl (bits_field w 20 13), next_field 13 5 8 _ rfl f3, next_field 5 4 1 _ rfl (bit_field w 4), next_field 4 0 4 _ rfl (bits_field w 3 0)]))
  rw [if_neg c] at h
  clear c
  by_cases c : bits w 12 5 = 16
  · rw [if_pos c] at h
    cases h
    have := bits_val 32 256 16 rfl rfl rfl c
    clear c
    have f0 : 0x33 % 2 ^ 7 = w.toNat / 2 ^ 25 % 2 ^ 7 := by omega
    have f3 : 0x10 % 2 ^ 8 = w.toNat / 2 ^ 5 % 2 ^ 8 := by omega
    exact congrArg some (all_fields (by simp only [List.foldl, guardOf]; rw [first_field 25 7 _ rfl f0, next_field 25 21 4 _ rfl (bits_field w 24 21), next_field 21 13 8 _ rfl (bits_field w 20 13), next_field 13 5 8 _ rfl f3, next_field 5 4 1 _ rfl (bit_field w 4), next_field 4 0 4 _ rfl (bits_field w 3 0)]))
  rw [if_neg c] at h
  clear c
  by_cases c : bits w 12 5 = 24
  · rw [if_pos c] at h
    cases h
    have := bits_val 32 256 24 rfl rfl rfl c
    clear c
    have f0 : 0x33 % 2 ^ 7 = w.toNat / 2 ^ 25 % 2 ^ 7 := by omega
    have f3 : 0x18 % 2 ^ 8 = w.toNat / 2 ^ 5 % 2 ^ 8 := by omega
    exact congrArg some (all_fields (by simp only [List.foldl, guardOf]; rw [first_field 25 7 _ rfl f0, next_field 25 21 4 _ rfl (bits_field w 24 21), next_field 21 13 8 _ rfl (bits_field w 20 13), next_field 13 5 8 _ rfl f3, next_field 5 4 1 _ rfl (bit_field w 4), next_field 4 0 4 _ rfl (bits_field w 3 0)]))
  rw [if_neg c] at h
  clear c
  by_cases c : bits w 12 5 = 32
  · rw [if_pos c] at h
    cases h
    have := bits_val 32 256 32 rfl rfl rfl c
    clear c
    have f0 : 0x33 % 2 ^ 7 = w.toNat / 2 ^ 25 % 2 ^ 7 := by omega
    have f3 : 0x20 % 2 ^ 8 = w.toNat / 2 ^ 5 % 2 ^ 8 := by omega
    exact congrArg some (all_fields (by simp only [List.foldl, guardOf]; rw [first_field 25 7 _ rfl f0, next_field 25 21 4 _ rfl (bits_field w 24 21), next_field 21 13 8 _ rfl (bits_field w 20 13), next_field 13 5 8 _ rfl f3, next_field 5 4 1 _ rfl (bit_field w 4), next_field 4 0 4 _ rfl (bits_field w 3 0)]))
  rw [if_neg c] at h
  clear c
  by_cases c : bits w 24 21 = 0 ∧ bits w 12 0 = 1295
  · rw [if_pos c] at h
    cases h
    have := bits_val 2097152 16 0 rfl rfl rfl c.1
    have := bits_val 1 8192 1295 rfl rfl (by simp) c.2
    clear c
    have f0 : 0x330 % 2 ^ 11 = w.toNat / 2 ^ 21 % 2 ^ 11 := by omega
    have f2 : 0x50F % 2 ^ 13 = w.toNat / 2 ^ 0 % 2 ^ 13 := by omega
    exact congrArg some (all_fields (by simp only [List.foldl]; rw [first_field 21 11 _ rfl f0, next_field 21 13 8 _ rfl (bits_field w 20 13), next_field 13 0 13 _ rfl f2]))
  rw [if_neg c] at h
  clear c
  by_cases c : bits w 24 21 = 0 ∧ bits w 12 0 = 1551
  · rw [if_pos c] at h
    cases h
    have := bits_val 2097152 16 0 rfl rfl rfl c.1
    have := bits_val 1 8192 1551 rfl rfl (by simp) c.2
    clear c
    have f0 : 0x330 % 2 ^ 11 = w.toNat / 2 ^ 21 % 2 ^ 11 := by omega
    have f2 : 0x60F % 2 ^ 13 = w.toNat / 2 ^ 0 % 2 ^ 13 := by omega
    exact congrArg some (all_fields (by simp only [List.foldl]; rw [first_field 21 11 _ rfl f0, next_field 21 13 8 _ rfl (bits_field w 20 13), next_field 13 0 13 _ rfl f2]))
  rw [if_neg c] at h
  clear c
  cases h

theorem decode34 (w : Word) (i : Instr) (hm : w.toNat / 33554432 % 128 = 52) (h : Sys2Proof.decode34 w = .ok i) : encode? i = some w := by
  have := w.isLt
  unfold Sys2Proof.decode34 at h
  by_cases c : bits w 10 5 = 0
  · rw [if_pos c] at h
    cases h
    have := bits_val 32 64 0 rfl rfl rfl c
    clear c
    have f0 : 0x34 % 2 ^ 7 = w.toNat / 2 ^ 25 % 2 ^ 7 := by omega
    have f4 : 0x0 % 2 ^ 6 = w.toNat / 2 ^ 5 % 2 ^ 6 := by omega
    exact congrArg some (all_fields (by simp only [List.foldl, guardOf]; rw [first_field 25 7 _ rfl f0, next_field 25 21 4 _ rfl (bits_field w 24 21), next_field 21 17 4 _ rfl (bits_field w 20 17), next_field 17 11 6 _ rfl (bits_field w 16 11), next_field 11 5 6 _ rfl f4, next_field 5 4 1 _ rfl (bit_field w 4), next_field 4 0 4 _ rfl (bits_field w 3 0)]))
  rw [if_neg c] at h
  clear c
  cases h

theorem decode38 (w : Word) (i : Instr) (hm : w.toNat / 33554432 % 128 = 56) (h : Sys2Proof.decode38 w = .ok i) : encode? i = some w := by
  have := w.isLt
  unfold Sys2Proof.decode38 at h
  cases h
  have f0 : 0x38 % 2 ^ 7 = w.toNat / 2 ^ 25 % 2 ^ 7 := by omega
  exact congrArg some (all_fields (by simp only [List.foldl, guardOf]; rw [first_field 25 7 _ rfl f0, next_field 25 19 6 _ rfl (bits_field w 24 19), next_field 19 13 6 _ rfl (bits_field w 18 13), next_field 13 7 6 _ rfl (bits_field w 12 7), next_field 7 6 1 _ rfl (bit_field w 6), next_field 6 5 1 _ rfl (bit_field w 5), next_field 5 4 1 _ rfl (bit_field w 4), next_field 4 0 4 _ rfl (bits_field w 3 0)]))

theorem decode39 (w : Word) (i : Instr) (hm : w.toNat / 33554432 % 128 = 57) (h : Sys2Proof.decode39 w = .ok i) : encode? i = some w := by
  have := w.isLt
  unfold Sys2Proof.decode39 at h
  cases h
  have f0 : 0x39 % 2 ^ 7 = w.toNat / 2 ^ 25 % 2 ^ 7 := by omega
  exact congrArg some (all_fields (by simp only [List.foldl, guardOf]; rw [first_field 25 7 _ rfl f0, next_field 25 19 6 _ rfl (bits_field w 24 19), next_field 19 13 6 _ rfl (bits_field w 18 13), next_field 13 7 6 _ rfl (bits_field w 12 7), next_field 7 6 1 _ rfl (bit_field w 6), next_field 6 5 1 _ rfl (bit_field w 5), next_field 5 4 1 _ rfl (bit_field w 4), next_field 4 0 4 _ rfl (bits_field w 3 0)]))

theorem decode3A (w : Word) (i : Instr) (hm : w.toNat / 33554432 % 128 = 58) (h : Sys2Proof.decode3A w = .ok i) : encode? i = some w := by
  have := w.isLt
  unfold Sys2Proof.decode3A at h
  cases h
  have f0 : 0x3A % 2 ^ 7 = w.toNat / 2 ^ 25 % 2 ^ 7 := by omega
  exact congrArg some (all_fields (by simp only [List.foldl, guardOf]; rw [first_field 25 7 _ rfl f0, next_field 25 19 6 _ rfl (bits_field w 24 19), next_field 19 13 6 _ rfl (bits_field w 18 13), next_field 13 7 6 _ rfl (bits_field w 12 7), next_field 7 6 1 _ rfl (bit_field w 6), next_field 6 5 1 _ rfl (bit_field w 5), next_field 5 4 1 _ rfl (bit_field w 4), next_field 4 0 4 _ rfl (bits_field w 3 0)]))

theorem decode3B (w : Word) (i : Instr) (hm : w.toNat / 33554432 % 128 = 59) (h : Sys2Proof.decode3B w = .ok i) : encode? i = some w := by
  have := w.isLt
  unfold Sys2Proof.decode3B at h
  cases h
  have f0 : 0x3B % 2 ^ 7 = w.toNat / 2 ^ 25 % 2 ^ 7 := by omega
  exact congrArg some (all_fields (by simp only [List.foldl, guardOf]; rw [first_field 25 7 _ rfl f0, next_field 25 19 6 _ rfl (bits_field w 24 19), next_field 19 13 6 _ rfl (bits_field w 18 13), next_field 13 7 6 _ rfl (bits_field w 12 7), next_field 7 6 1 _ rfl (bit_field w 6), next_field 6 5 1 _ rfl (bit_field w 5), next_field 5 4 1 _ rfl (bit_field w 4), next_field 4 0 4 _ rfl (bits_field w 3 0)]))

theorem decode3C (w : Word) (i : Instr) (hm : w.toNat / 33554432 % 128 = 60) (h : Sys2Proof.decode3C w = .ok i) : encode? i = some w := by
  have := w.isLt
  unfold Sys2Proof.decode3C at h
  cases h
  have f0 : 0x3C % 2 ^ 7 = w.toNat / 2 ^ 25 % 2 ^ 7 := by omega
  exact congrArg some (all_fields (by simp only [List.foldl, guardOf]; rw [first_field 25 7 _ rfl f0, next_field 25 19 6 _ rfl (bits_field w 24 19), next_field 19 13 6 _ rfl (bits_field w 18 13), next_field 13 7 6 _ rfl (bits_field w 12 7), next_field 7 6 1 _ rfl (bit_field w 6), next_field 6 5 1 _ rfl (bit_field w 5), next_field 5 4 1 _ rfl (bit_field w 4), next_field 4 0 4 _ rfl (bits_field w 3 0)]))

theorem decode3D (w : Word) (i : Instr) (hm : w.toNat / 33554432 % 128 = 61) (h : Sys2Proof.decode3D w = .ok i) : encode? i = some w := by
  have := w.isLt
  unfold Sys2Proof.decode3D at h
  cases h
  have f0 : 0x3D % 2 ^ 7 = w.toNat / 2 ^ 25 % 2 ^ 7 := by omega
  exact congrArg some (all_fields (by simp only [List.foldl, guardOf]; rw [first_field 25 7 _ rfl f0, next_field 25 19 6 _ rfl (bits_field w 24 19), next_field 19 13 6 _ rfl (bits_field w 18 13), next_field 13 7 6 _ rfl (bits_field w 12 7), next_field 7 6 1 _ rfl (bit_field w 6), next_field 6 5 1 _ rfl (bit_field w 5), next_field 5 4 1 _ rfl (bit_field w 4), next_field 4 0 4 _ rfl (bits_field w 3 0)]))

theorem decode3E (w : Word) (i : Instr) (hm : w.toNat / 33554432 % 128 = 62) (h : Sys2Proof.decode3E w = .ok i) : encode? i = some w := by
  have := w.isLt
  unfold Sys2Proof.decode3E at h
  by_cases c : bits w 12 7 = 0
  · rw [if_pos c] at h
    cases h
    have := bits_val 128 64 0 rfl rfl rfl c
    clear c
    have f0 : 0x3E % 2 ^ 7 = w.toNat / 2 ^ 25 % 2 ^ 7 := by omega
    have f3 : 0x0 % 2 ^ 6 = w.toNat / 2 ^ 7 % 2 ^ 6 := by omega
    exact congrArg some (all_fields (by simp only [List.foldl, guardOf]; rw [first_field 25 7 _ rfl f0, next_field 25 19 6 _ rfl (bits_field w 24 19), next_field 19 13 6 _ rfl (bits_field w 18 13), next_field 13 7 6 _ rfl f3, next_field 7 6 1 _ rfl (bit_field w 6), next_field 6 5 1 _ rfl (bit_field w 5), next_field 5 4 1 _ rfl (bit_field w 4), next_field 4 0 4 _ rfl (bits_field w 3 0)]))
  rw [if_neg c] at h
  clear c
  by_cases c : bits w 12 7 = 1
  · rw [if_pos c] at h
    cases h
    have := bits_val 128 64 1 rfl rfl rfl c
    clear c
    have f0 : 0x3E % 2 ^ 7 = w.toNat / 2 ^ 25 % 2 ^ 7 := by omega
    have f3 : 0x1 % 2 ^ 6 = w.toNat / 2 ^ 7 % 2 ^ 6 := by omega
    exact congrArg some (all_fields (by simp only [List.foldl, guardOf]; rw [first_field 25 7 _ rfl f0, next_field 25 19 6 _ rfl (bits_field w 24 19), next_field 19 13 6 _ rfl (bits_field w 18 13), next_field 13 7 6 _ rfl f3, next_field 7 6 1 _ rfl (bit_field w 6), next_field 6 5 1 _ rfl (bit_field w 5), next_field 5 4 1 _ rfl (bit_field w 4), next_field 4 0 4 _ rfl (bits_field w 3 0)]))
  rw [if_neg c] at h
  clear c
  by_cases c : bits w 12 7 = 2
  · rw [if_pos c] at h
    cases h
    have := bits_val 128 64 2 rfl rfl rfl c
    clear c
    have f0 : 0x3E % 2 ^ 7 = w.toNat / 2 ^ 25 % 2 ^ 7 := by omega
    have f3 : 0x2 % 2 ^ 6 = w.toNat / 2 ^ 7 % 2 ^ 6 := by omega
    exact congrArg some (all_fields (by simp only [List.foldl, guardOf]; rw [first_field 25 7 _ rfl f0, next_field 25 19 6 _ rfl (bits_field w 24 19), next_field 19 13 6 _ rfl (bits_field w 18 13), next_field 13 7 6 _ rfl f3, next_field 7 6 1 _ rfl (bit_field w 6), next_field 6 5 1 _ rfl (bit_field w 5), next_field 5 4 1 _ rfl (bit_field w 4), next_field 4 0 4 _ rfl (bits_field w 3 0)]))
  rw [if_neg c] at h
  clear c
  by_cases c : bits w 12 7 = 3
  · rw [if_pos c] at h
    cases h
    have := bits_val 128 64 3 rfl rfl rfl c
    clear c
    have f0 : 0x3E % 2 ^ 7 = w.toNat / 2 ^ 25 % 2 ^ 7 := by omega
    have f3 : 0x3 % 2 ^ 6 = w.toNat / 2 ^ 7 % 2 ^ 6 := by omega
    exact congrArg some (all_fields (by simp only [List.foldl, guardOf]; rw [first_field 25 7 _ rfl f0, next_field 25 19 6 _ rfl (bits_field w 24 19), next_field 19 13 6 _ rfl (bits_field w 18 13), next_field 13 7 6 _ rfl f3, next_field 7 6 1 _ rfl (bit_field w 6), next_field 6 5 1 _ rfl (bit_field w 5), next_field 5 4 1 _ rfl (bit_field w 4), next_field 4 0 4 _ rfl (bits_field w 3 0)]))
  rw [if_neg c] at h
  clear c
  by_cases c : bits w 12 7 = 4
  · rw [if_pos c] at h
    cases h
    have := bits_val 128 64 4 rfl rfl rfl c
    clear c
    have f0 : 0x3E % 2 ^ 7 = w.toNat / 2 ^ 25 % 2 ^ 7 := by omega
    have f3 : 0x4 % 2 ^ 6 = w.toNat / 2 ^ 7 % 2 ^ 6 := by omega
    exact congrArg some (all_fields (by simp only [List.foldl, guardOf]; rw [first_field 25 7 _ rfl f0, next_field 25 19 6 _ rfl (bits_field w 24 19), next_field 19 13 6 _ rfl (bits_field w 18 13), next_field 13 7 6 _ rfl f3, next_field 7 6 1 _ rfl (bit_field w 6), next_field 6 5 1 _ rfl (bit_field w 5), next_field 5 4 1 _ rfl (bit_field w 4), next_field 4 0 4 _ rfl (bits_field w 3 0)]))
  rw [if_neg c] at h
  clear c
  by_cases c : bits w 12 7 = 5 ∧ bits w 5 5 = 0
  · rw [if_pos c] at h
    cases h
    have := bits_val 128 64 5 rfl rfl rfl c.1
    have := bits_val 32 2 0 rfl rfl rfl c.2
    clear c
    have f0 : 0x3E % 2 ^ 7 = w.toNat / 2 ^ 25 % 2 ^ 7 := by omega
    have f3 : 0x5 % 2 ^ 6 = w.toNat / 2 ^ 7 % 2 ^ 6 := by omega
    have f5 : 0x0 % 2 ^ 1 = w.toNat / 2 ^ 5 % 2 ^ 1 := by omega
    exact congrArg some (all_fields (by simp only [List.foldl, guardOf]; rw [first_field 25 7 _ rfl f0, next_field 25 19 6 _ rfl (bits_field w 24 19), next_field 19 13 6 _ rfl (bits_field w 18 13), next_field 13 7 6 _ rfl f3, next_field 7 6 1 _ rfl (bit_field w 6), next_field 6 5 1 _ rfl f5, next_field 5 4 1 _ rfl (bit_field w 4), next_field 4 0 4 _ rfl (bits_field w 3 0)]))
  rw [if_neg c] at h
  clear c
  by_cases c : bits w 12 7 = 6 ∧ bits w 5 5 = 0
  · rw [if_pos c] at h
    cases h
    have := bits_val 128 64 6 rfl rfl rfl c.1
    have := bits_val 32 2 0 rfl rfl rfl c.2
    clear c
    have f0 : 0x3E % 2 ^ 7 = w.toNat / 2 ^ 25 % 2 ^ 7 := by omega
    have f3 : 0x6 % 2 ^ 6 = w.toNat / 2 ^ 7 % 2 ^ 6 := by omega
    have f5 : 0x0 % 2 ^ 1 = w.toNat / 2 ^ 5 % 2 ^ 1 := by omega
    exact congrArg some (all_fields (by simp only [List.foldl, guardOf]; rw [first_field 25 7 _ rfl f0, next_field 25 19 6 _ rfl (bits_field w 24 19), next_field 19 13 6 _ rfl (bits_field w 18 13), next_field 13 7 6 _ rfl f3, next_field 7 6 1 _ rfl (bit_field w 6), next_field 6 5 1 _ rfl f5, next_field 5 4 1 _ rfl (bit_field w 4), next_field 4 0 4 _ rfl (bits_field w 3 0)]))
  rw [if_neg c] at h
  clear c
  by_cases c : bits w 12 7 = 7 ∧ bits w 5 5 = 0
  · rw [if_pos c] at h
    cases h
    have := bits_val 128 64 7 rfl rfl rfl c.1
    have := bits_val 32 2 0 rfl rfl rfl c.2
    clear c
    have f0 : 0x3E % 2 ^ 7 = w.toNat / 2 ^ 25 % 2 ^ 7 := by omega
    have f3 : 0x7 % 2 ^ 6 = w.toNat / 2 ^ 7 % 2 ^ 6 := by omega
    have f5 : 0x0 % 2 ^ 1 = w.toNat / 2 ^ 5 % 2 ^ 1 := by omega
    exact congrArg some (all_fields (by simp only [List.foldl, guardOf]; rw [first_field 25 7 _ rfl f0, next_field 25 19 6 _ rfl (bits_field w 24 19), next_field 19 13 6 _ rfl (bits_field w 18 13), next_field 13 7 6 _ rfl f3, next_field 7 6 1 _ rfl (bit_field w 6), next_field 6 5 1 _ rfl f5, next_field 5 4 1 _ rfl (bit_field w 4), next_field 4 0 4 _ rfl (bits_field w 3 0)]))
  rw [if_neg c] at h
  clear c
  by_cases c : bits w 12 7 = 8 ∧ bits w 5 5 = 0
  · rw [if_pos c] at h
    cases h
    have := bits_val 128 64 8 rfl rfl rfl c.1
    have := bits_val 32 2 0 rfl rfl rfl c.2
    clear c
    have f0 : 0x3E % 2 ^ 7 = w.toNat / 2 ^ 25 % 2 ^ 7 := by omega
    have f3 : 0x8 % 2 ^ 6 = w.toNat / 2 ^ 7 % 2 ^ 6 := by omega
    have f5 : 0x0 % 2 ^ 1 = w.toNat / 2 ^ 5 % 2 ^ 1 := by omega
    exact congrArg some (all_fields (by simp only [List.foldl, guardOf]; rw [first_field 25 7 _ rfl f0, next_field 25 19 6 _ rfl (bits_field w 24 19), next_field 19 13 6 _ rfl (bits_field w 18 13), next_field 13 7 6 _ rfl f3, next_field 7 6 1 _ rfl (bit_field w 6), next_field 6 5 1 _ rfl f5, next_field 5 4 1 _ rfl (bit_field w 4), next_field 4 0 4 _ rfl (bits_field w 3 0)]))
  rw [if_neg c] at h
  clear c
  by_cases c : bits w 12 7 = 9
  · rw [if_pos c] at h
    cases h
    have := bits_val 128 64 9 rfl rfl rfl c
    clear c
    have f0 : 0x3E % 2 ^ 7 = w.toNat / 2 ^ 25 % 2 ^ 7 := by omega
    have f3 : 0x9 % 2 ^ 6 = w.toNat / 2 ^ 7 % 2 ^ 6 := by omega
    exact congrArg some (all_fields (by simp only [List.foldl, guardOf]; rw [first_field 25 7 _ rfl f0, next_field 25 19 6 _ rfl (bits_field w 24 19), next_field 19 13 6 _ rfl (bits_field w 18 13), next_field 13 7 6 _ rfl f3, next_field 7 6 1 _ rfl (bit_field w 6), next_field 6 5 1 _ rfl (bit_field w 5), next_field 5 4 1 _ rfl (bit_field w 4), next_field 4 0 4 _ rfl (bits_field w 3 0)]))
  rw [if_neg c] at h
  clear c
  by_cases c : bits w 12 7 = 10
  · rw [if_pos c] at h
    cases h
    have := bits_val 128 64 10 rfl rfl rfl c
    clear c
    have f0 : 0x3E % 2 ^ 7 = w.toNat / 2 ^ 25 % 2 ^ 7 := by omega
    have f3 : 0xA % 2 ^ 6 = w.toNat / 2 ^ 7 % 2 ^ 6 := by omega
    exact congrArg some (all_fields (by simp only [List.foldl, guardOf]; rw [first_field 25 7 _ rfl f0, next_field 25 19 6 _ rfl (bits_field w 24 19), next_field 19 13 6 _ rfl (bits_field w 18 13), next_field 13 7 6 _ rfl f3, next_field 7 6 1 _ rfl (bit_field w 6), next_field 6 5 1 _ rfl (bit_field w 5), next_field 5 4 1 _ rfl (bit_field w 4), next_field 4 0 4 _ rfl (bits_field w 3 0)]))
  rw [if_neg c] at h
  clear c
  cases h

theorem decode3F (w : Word) (i : Instr) (hm : w.toNat / 33554432 % 128 = 63) (h : Sys2Proof.decode3F w = .ok i) : encode? i = some w := by
  have := w.isLt
  unfold Sys2Proof.decode3F at h
  cases h
  have f0 : 0x3F % 2 ^ 7 = w.toNat / 2 ^ 25 % 2 ^ 7 := by omega
  exact congrArg some (all_fields (by simp only [List.foldl, guardOf]; rw [first_field 25 7 _ rfl f0, next_field 25 19 6 _ rfl (bits_field w 24 19), next_field 19 13 6 _ rfl (bits_field w 18 13), next_field 13 7 6 _ rfl (bits_field w 12 7), next_field 7 6 1 _ rfl (bit_field w 6), next_field 6 5 1 _ rfl (bit_field w 5), next_field 5 4 1 _ rfl (bit_field w 4), next_field 4 0 4 _ rfl (bits_field w 3 0)]))

theorem decode40 (w : Word) (i : Instr) (hm : w.toNat / 33554432 % 128 = 64) (h : Sys2Proof.decode40 w = .ok i) : encode? i = some w := by
  have := w.isLt
  unfold Sys2Proof.decode40 at h
  cases h
  have f0 : 0x40 % 2 ^ 7 = w.toNat / 2 ^ 25 % 2 ^ 7 := by omega
  exact congrArg some (all_fields (by simp only [List.foldl, guardOf]; rw [first_field 25 7 _ rfl f0, next_field 25 19 6 _ rfl (bits_field w 24 19), next_field 19 13 6 _ rfl (bits_field w 18 13), next_field 13 7 6 _ rfl (bits_field w 12 7), next_field 7 6 1 _ rfl (bit_field w 6), next_field 6 5 1 _ rfl (bit_field w 5), next_field 5 4 1 _ rfl (bit_field w 4), next_field 4 0 4 _ rfl (bits_field w 3 0)]))

theorem decode41 (w : Word) (i : Instr) (hm : w.toNat / 33554432 % 128 = 65) (h : Sys2Proof.decode41 w = .ok i) : encode? i = some w := by
  have := w.isLt
  unfold Sys2Proof.decode41 at h
  cases h
  have f0 : 0x41 % 2 ^ 7 = w.toNat / 2 ^ 25 % 2 ^ 7 := by omega
  exact congrArg some (all_fields (by simp only [List.foldl, guardOf]; rw [first_field 25 7 _ rfl f0, next_field 25 19 6 _ rfl (bits_field w 24 19), next_field 19 13 6 _ rfl (bits_field w 18 13), next_field 13 7 6 _ rfl (bits_field w 12 7), next_field 7 6 1 _ rfl (bit_field w 6), next_field 6 5 1 _ rfl (bit_field w 5), next_field 5 4 1 _ rfl (bit_field w 4), next_field 4 0 4 _ rfl (bits_field w 3 0)]))

theorem decode42 (w : Word) (i : Instr) (hm : w.toNat / 33554432 % 128 = 66) (h : Sys2Proof.decode42 w = .ok i) : encode? i = some w := by
  have := w.isLt
  unfold Sys2Proof.decode42 at h
  cases h
  have f0 : 0x42 % 2 ^ 7 = w.toNat / 2 ^ 25 % 2 ^ 7 := by omega
  exact congrArg some (all_fields (by simp only [List.foldl, guardOf]; rw [first_field 25 7 _ rfl f0, next_field 25 19 6 _ rfl (bits_field w 24 19), next_field 19 13 6 _ rfl (bits_field w 18 13), next_field 13 7 6 _ rfl (bits_field w 12 7), next_field 7 6 1 _ rfl (bit_field w 6), next_field 6 5 1 _ rfl (bit_field w 5), next_field 5 4 1 _ rfl (bit_field w 4), next_field 4 0 4 _ rfl (bits_field w 3 0)]))

theorem decode43 (w : Word) (i : Instr) (hm : w.toNat / 33554432 % 128 = 67) (h : Sys2Proof.decode43 w = .ok i) : encode? i = some w := by
  have := w.isLt
  unfold Sys2Proof.decode43 at h
  cases h
  have f0 : 0x43 % 2 ^ 7 = w.toNat / 2 ^ 25 % 2 ^ 7 := by omega
  exact congrArg some (all_fields (by simp only [List.foldl, guardOf]; rw [first_field 25 7 _ rfl f0, next_field 25 19 6 _ rfl (bits_field w 24 19), next_field 19 13 6 _ rfl (bits_field w 18 13), next_field 13 7 6 _ rfl (bits_field w 12 7), next_field 7 6 1 _ rfl (bit_field w 6), next_field 6 5 1 _ rfl (bit_field w 5), next_field 5 4 1 _ rfl (bit_field w 4), next_field 4 0 4 _ rfl (bits_field w 3 0)]))

theorem decode44 (w : Word) (i : Instr) (hm : w.toNat / 33554432 % 128 = 68) (h : Sys2Proof.decode44 w = .ok i) : encode? i = some w := by
  have := w.isLt
  unfold Sys2Proof.decode44 at h
  cases h
  have f0 : 0x44 % 2 ^ 7 = w.toNat / 2 ^ 25 % 2 ^ 7 := by omega
  exact congrArg some (all_fields (by simp only [List.foldl, guardOf]; rw [first_field 25 7 _ rfl f0, next_field 25 19 6 _ rfl (bits_field w 24 19), next_field 19 13 6 _ rfl (bits_field w 18 13), next_field 13 7 6 _ rfl (bits_field w 12 7), next_field 7 6 1 _ rfl (bit_field w 6), next_field 6 5 1 _ rfl (bit_field w 5), next_field 5 4 1 _ rfl (bit_field w 4), next_field 4 0 4 _ rfl (bits_field w 3 0)]))

theorem decode45 (w : Word) (i : Instr) (hm : w.toNat / 33554432 % 128 = 69) (h : Sys2Proof.decode45 w = .ok i) : encode? i = some w := by
  have := w.isLt
  unfold Sys2Proof.decode45 at h
  cases h
  have f0 : 0x45 % 2 ^ 7 = w.toNat / 2 ^ 25 % 2 ^ 7 := by omega
  exact congrArg some (all_fields (by simp only [List.foldl, guardOf]; rw [first_field 25 7 _ rfl f0, next_field 25 19 6 _ rfl (bits_field w 24 19), next_field 19 13 6 _ rfl (bits_field w 18 13), next_field 13 7 6 _ rfl (bits_field w 12 7), next_field 7 6 1 _ rfl (bit_field w 6), next_field 6 5 1 _ rfl (bit_field w 5), next_field 5 4 1 _ rfl (bit_field w 4), next_field 4 0 4 _ rfl (bits_field w 3 0)]))

theorem decode46 (w : Word) (i : Instr) (hm : w.toNat / 33554432 % 128 = 70) (h : Sys2Proof.decode46 w = .ok i) : encode? i = some w := by
  have := w.isLt
  unfold Sys2Proof.decode46 at h
  cases h
  have f0 : 0x46 % 2 ^ 7 = w.toNat / 2 ^ 25 % 2 ^ 7 := by omega
  exact congrArg some (all_fields (by simp only [List.foldl, guardOf]; rw [first_field 25 7 _ rfl f0, next_field 25 19 6 _ rfl (bits_field w 24 19), next_field 19 13 6 _ rfl (bits_field w 18 13), next_field 13 7 6 _ rfl (bits_field w 12 7), next_field 7 6 1 _ rfl (bit_field w 6), next_field 6 5 1 _ rfl (bit_field w 5), next_field 5 4 1 _ rfl (bit_field w 4), next_field 4 0 4 _ rfl (bits_field w 3 0)]))

theorem decode47 (w : Word) (i : Instr) (hm : w.toNat / 33554432 % 128 = 71) (h : Sys2Proof.decode47 w = .ok i) : encode? i = some w := by
  have := w.isLt
  unfold Sys2Proof.decode47 at h
  cases h
  have f0 : 0x47 % 2 ^ 7 = w.toNat / 2 ^ 25 % 2 ^ 7 := by omega
  exact congrArg some (all_fields (by simp only [List.foldl, guardOf]; rw [first_field 25 7 _ rfl f0, next_field 25 19 6 _ rfl (bits_field w 24 19), next_field 19 13 6 _ rfl (bits_field w 18 13), next_field 13 7 6 _ rfl (bits_field w 12 7), next_field 7 6 1 _ rfl (bit_field w 6), next_field 6 5 1 _ rfl (bit_field w 5), next_field 5 4 1 _ rfl (bit_field w 4), next_field 4 0 4 _ rfl (bits_field w 3 0)]))

theorem decode48 (w : Word) (i : Instr) (hm : w.toNat / 33554432 % 128 = 72) (h : Sys2Proof.decode48 w = .ok i) : encode? i = some w := by
  have := w.isLt
  unfold Sys2Proof.decode48 at h
  cases h
  have f0 : 0x48 % 2 ^ 7 = w.toNat / 2 ^ 25 % 2 ^ 7 := by omega
  exact congrArg some (all_fields (by simp only [List.foldl, guardOf]; rw [first_field 25 7 _ rfl f0, next_field 25 19 6 _ rfl (bits_field w 24 19), next_field 19 13 6 _ rfl (bits_field w 18 13), next_field 13 7 6 _ rfl (bits_field w 12 7), next_field 7 6 1 _ rfl (bit_field w 6), next_field 6 5 1 _ rfl (bit_field w 5), next_field 5 4 1 _ rfl (bit_field w 4), next_field 4 0 4 _ rfl (bits_field w 3 0)]))

theorem decode49 (w : Word) (i : Instr) (hm : w.toNat / 33554432 % 128 = 73) (h : Sys2Proof.decode49 w = .ok i) : encode? i = some w := by
  have := w.isLt
  unfold Sys2Proof.decode49 at h
  cases h
  have f0 : 0x49 % 2 ^ 7 = w.toNat / 2 ^ 25 % 2 ^ 7 := by omega
  exact congrArg some (all_fields (by simp only [List.foldl, guardOf]; rw [first_field 25 7 _ rfl f0, next_field 25 19 6 _ rfl (bits_field w 24 19), next_field 19 13 6 _ rfl (bits_field w 18 13), next_field 13 7 6 _ rfl (bits_field w 12 7), next_field 7 6 1 _ rfl (bit_field w 6), next_field 6 5 1 _ rfl (bit_field w 5), next_field 5 4 1 _ rfl (bit_field w 4), next_field 4 0 4 _ rfl (bits_field w 3 0)]))

theorem decode4A (w : Word) (i : Instr) (hm : w.toNat / 33554432 % 128 = 74) (h : Sys2Proof.decode4A w = .ok i) : encode? i = some w := by
  have := w.isLt
  unfold Sys2Proof.decode4A at h
  cases h
  have f0 : 0x4A % 2 ^ 7 = w.toNat / 2 ^ 25 % 2 ^ 7 := by omega
  exact congrArg some (all_fields (by simp only [List.foldl, guardOf]; rw [first_field 25 7 _ rfl f0, next_field 25 19 6 _ rfl (bits_field w 24 19), next_field 19 13 6 _ rfl (bits_field w 18 13), next_field 13 7 6 _ rfl (bits_field w 12 7), next_field 7 6 1 _ rfl (bit_field w 6), next_field 6 5 1 _ rfl (bit_field w 5), next_field 5 4 1 _ rfl (bit_field w 4), next_field 4 0 4 _ rfl (bits_field w 3 0)]))

theorem decode4B (w : Word) (i : Instr) (hm : w.toNat / 33554432 % 128 = 75) (h : Sys2Proof.decode4B w = .ok i) : encode? i = some w := by
  have := w.isLt
  unfold Sys2Proof.decode4B at h
  cases h
  have f0 : 0x4B % 2 ^ 7 = w.toNat / 2 ^ 25 % 2 ^ 7 := by omega
  exact congrArg some (all_fields (by simp only [List.foldl, guardOf]; rw [first_field 25 7 _ rfl f0, next_field 25 19 6 _ rfl (bits_field w 24 19), next_field 19 13 6 _ rfl (bits_field w 18 13), next_field 13 7 6 _ rfl (bits_field w 12 7), next_field 7 6 1 _ rfl (bit_field w 6), next_field 6 5 1 _ rfl (bit_field w 5), next_field 5 4 1 _ rfl (bit_field w 4), next_field 4 0 4 _ rfl (bits_field w 3 0)]))

theorem decode4C (w : Word) (i : Instr) (hm : w.toNat / 33554432 % 128 = 76) (h : Sys2Proof.decode4C w = .ok i) : encode? i = some w := by
  have := w.isLt
  unfold Sys2Proof.decode4C at h
  cases h
  have f0 : 0x4C % 2 ^ 7 = w.toNat / 2 ^ 25 % 2 ^ 7 := by omega
  exact congrArg some (all_fields (by simp only [List.foldl, guardOf]; rw [first_field 25 7 _ rfl f0, next_field 25 19 6 _ rfl (bits_field w 24 19), next_field 19 13 6 _ rfl (bits_field w 18 13), next_field 13 7 6 _ rfl (bits_field w 12 7), next_field 7 6 1 _ rfl (bit_field w 6), next_field 6 5 1 _ rfl (bit_field w 5), next_field 5 4 1 _ rfl (bit_field w 4), next_field 4 0 4 _ rfl (bits_field w 3 0)]))

theorem decode4D (w : Word) (i : Instr) (hm : w.toNat / 33554432 % 128 = 77) (h : Sys2Proof.decode4D w = .ok i) : encode? i = some w := by
  have := w.isLt
  unfold Sys2Proof.decode4D at h
  cases h
  have f0 : 0x4D % 2 ^ 7 = w.toNat / 2 ^ 25 % 2 ^ 7 := by omega
  exact congrArg some (all_fields (by simp only [List.foldl, guardOf]; rw [first_field 25 7 _ rfl f0, next_field 25 19 6 _ rfl (bits_field w 24 19), next_field 19 13 6 _ rfl (bits_field w 18 13), next_field 13 7 6 _ rfl (bits_field w 12 7), next_field 7 6 1 _ rfl (bit_field w 6), next_field 6 5 1 _ rfl (bit_field w 5), next_field 5 4 1 _ rfl (bit_field w 4), next_field 4 0 4 _ rfl (bits_field w 3 0)]))

theorem decode4E (w : Word) (i : Instr) (hm : w.toNat / 33554432 % 128 = 78) (h : Sys2Proof.decode4E w = .ok i) : encode? i = some w := by
  have := w.isLt
  unfold Sys2Proof.decode4E at h
  cases h
  have f0 : 0x4E % 2 ^ 7 = w.toNat / 2 ^ 25 % 2 ^ 7 := by omega
  exact congrArg some (all_fields (by simp only [List.foldl, guardOf]; rw [first_field 25 7 _ rfl f0, next_field 25 19 6 _ rfl (bits_field w 24 19), next_field 19 13 6 _ rfl (bits_field w 18 13), next_field 13 7 6 _ rfl (bits_field w 12 7), next_field 7 6 1 _ rfl (bit_field w 6), next_field 6 5 1 _ rfl (bit_field w 5), next_field 5 4 1 _ rfl (bit_field w 4), next_field 4 0 4 _ rfl (bits_field w 3 0)]))

theorem decode4F (w : Word) (i : Instr) (hm : w.toNat / 33554432 % 128 = 79) (h : Sys2Proof.decode4F w = .ok i) : encode? i = some w := by
  have := w.isLt
  unfold Sys2Proof.decode4F at h
  cases h
  have f0 : 0x4F % 2 ^ 7 = w.toNat / 2 ^ 25 % 2 ^ 7 := by omega
  exact congrArg some (all_fields (by simp only [List.foldl, guardOf]; rw [first_field 25 7 _ rfl f0, next_field 25 19 6 _ rfl (bits_field w 24 19), next_field 19 13 6 _ rfl (bits_field w 18 13), next_field 13 7 6 _ rfl (bits_field w 12 7), next_field 7 6 1 _ rfl (bit_field w 6), next_field 6 5 1 _ rfl (bit_field w 5), next_field 5 4 1 _ rfl (bit_field w 4), next_field 4 0 4 _ rfl (bits_field w 3 0)]))

theorem decode50 (w : Word) (i : Instr) (hm : w.toNat / 33554432 % 128 = 80) (h : Sys2Proof.decode50 w = .ok i) : encode? i = some w := by
  have := w.isLt
  unfold Sys2Proof.decode50 at h
  cases h
  have f0 : 0x50 % 2 ^ 7 = w.toNat / 2 ^ 25 % 2 ^ 7 := by omega
  exact congrArg some (all_fields (by simp only [List.foldl, guardOf]; rw [first_field 25 7 _ rfl f0, next_field 25 19 6 _ rfl (bits_field w 24 19), next_field 19 13 6 _ rfl (bits_field w 18 13), next_field 13 9 4 _ rfl (bits_field w 12 9), next_field 9 7 2 _ rfl (bits_field w 8 7), next_field 7 6 1 _ rfl (bit_field w 6), next_field 6 5 1 _ rfl (bit_field w 5), next_field 5 4 1 _ rfl (bit_field w 4), next_field 4 0 4 _ rfl (bits_field w 3 0)]))

theorem decode51 (w : Word) (i : Instr) (hm : w.toNat / 33554432 % 128 = 81) (h : Sys2Proof.decode51 w = .ok i) : encode? i = some w := by
  have := w.isLt
  unfold Sys2Proof.decode51 at h
  cases h
  have f0 : 0x51 % 2 ^ 7 = w.toNat / 2 ^ 25 % 2 ^ 7 := by omega
  exact congrArg some (all_fields (by simp only [List.foldl, guardOf]; rw [first_field 25 7 _ rfl f0, next_field 25 19 6 _ rfl (bits_field w 24 19), next_field 19 13 6 _ rfl (bits_field w 18 13), next_field 13 7 6 _ rfl (bits_field w 12 7), next_field 7 6 1 _ rfl (bit_field w 6), next_field 6 5 1 _ rfl (bit_field w 5), next_field 5 4 1 _ rfl (bit_field w 4), next_field 4 0 4 _ rfl (bits_field w 3 0)]))

theorem decode52 (w : Word) (i : Instr) (hm : w.toNat / 33554432 % 128 = 82) (h : Sys2Proof.decode52 w = .ok i) : encode? i = some w := by
  have := w.isLt
  unfold Sys2Proof.decode52 at h
  cases h
  have f0 : 0x52 % 2 ^ 7 = w.toNat / 2 ^ 25 % 2 ^ 7 := by omega
  exact congrArg some (all_fields (by simp only [List.foldl, guardOf]; rw [first_field 25 7 _ rfl f0, next_field 25 19 6 _ rfl (bits_field w 24 19), next_field 19 13 6 _ rfl (bits_field w 18 13), next_field 13 7 6 _ rfl (bits_field w 12 7), next_field 7 6 1 _ rfl (bit_field w 6), next_field 6 5 1 _ rfl (bit_field w 5), next_field 5 4 1 _ rfl (bit_field w 4), next_field 4 0 4 _ rfl (bits_field w 3 0)]))

theorem decode53 (w : Word) (i : Instr) (hm : w.toNat / 33554432 % 128 = 83) (h : Sys2Proof.decode53 w = .ok i) : encode? i = some w := by
  have := w.isLt
  unfold Sys2Proof.decode53 at h
  by_cases c : bits w 5 5 = 0
  · rw [if_pos c] at h
    cases h
    have := bits_val 32 2 0 rfl rfl rfl c
    clear c
    have f0 : 0x53 % 2 ^ 7 = w.toNat / 2 ^ 25 % 2 ^ 7 := by omega
    have f6 : 0x0 % 2 ^ 1 = w.toNat / 2 ^ 5 % 2 ^ 1 := by omega
    exact congrArg some (all_fields (by simp only [List.foldl, guardOf]; rw [first_field 25 7 _ rfl f0, next_field 25 19 6 _ rfl (bits_field w 24 19), next_field 19 13 6 _ rfl (bits_field w 18 13), next_field 13 9 4 _ rfl (bits_field w 12 9), next_field 9 7 2 _ rfl (bits_field w 8 7), next_field 7 6 1 _ rfl (bit_field w 6), next_field 6 5 1 _ rfl f6, next_field 5 4 1 _ rfl (bit_field w 4), next_field 4 0 4 _ rfl (bits_field w 3 0)]))
  rw [if_neg c] at h
  clear c
  cases h

theorem decode54 (w : Word) (i : Instr) (hm : w.toNat / 33554432 % 128 = 84) (h : Sys2Proof.decode54 w = .ok i) : encode? i = some w := by
  have := w.isLt
  unfold Sys2Proof.decode54 at h
  by_cases c : bits w 12 12 = 0
  · rw [if_pos c] at h
    cases h
    have := bits_val 4096 2 0 rfl rfl rfl c
    clear c
    have f0 : 0x54 % 2 ^ 7 = w.toNat / 2 ^ 25 % 2 ^ 7 := by omega
    have f3 : 0x0 % 2 ^ 1 = w.toNat / 2 ^ 12 % 2 ^ 1 := by omega
    exact congrArg some (all_fields (by simp only [List.foldl, guardOf]; rw [first_field 25 7 _ rfl f0, next_field 25 19 6 _ rfl (bits_field w 24 19), next_field 19 13 6 _ rfl (bits_field w 18 13), next_field 13 12 1 _ rfl f3, next_field 12 7 5 _ rfl (bits_field w 11 7), next_field 7 6 1 _ rfl (bit_field w 6), next_field 6 5 1 _ rfl (bit_field w 5), next_field 5 4 1 _ rfl (bit_field w 4), next_field 4 0 4 _ rfl (bits_field w 3 0)]))
  rw [if_neg c] at h
  clear c
  cases h

theorem decode55 (w : Word) (i : Instr) (hm : w.toNat / 33554432 % 128 = 85) (h : Sys2Proof.decode55 w = .ok i) : encode? i = some w := by
  have := w.isLt
  unfold Sys2Proof.decode55 at h
  by_cases c : bits w 9 7 = 0
  · rw [if_pos c] at h
    cases h
    have := bits_val 128 8 0 rfl rfl rfl c
    clear c
    have f0 : 0x55 % 2 ^ 7 = w.toNat / 2 ^ 25 % 2 ^ 7 := by omega
    have f4 : 0x0 % 2 ^ 3 = w.toNat / 2 ^ 7 % 2 ^ 3 := by omega
    exact congrArg some (all_fields (by simp only [List.foldl, guardOf]; rw [first_field 25 7 _ rfl f0, next_field 25 19 6 _ rfl (bits_field w 24 19), next_field 19 13 6 _ rfl (bits_field w 18 13), next_field 13 10 3 _ rfl (bits_field w 12 10), next_field 10 7 3 _ rfl f4, next_field 7 6 1 _ rfl (bit_field w 6), next_field 6 5 1 _ rfl (bit_field w 5), next_field 5 4 1 _ rfl (bit_field w 4), next_field 4 0 4 _ rfl (bits_field w 3 0)]))
  rw [if_neg c] at h
  clear c
  cases h

theorem decode56 (w : Word) (i : Instr) (hm : w.toNat / 33554432 % 128 = 86) (h : Sys2Proof.decode56 w = .ok i) : encode? i = some w := by
  have := w.isLt
  unfold Sys2Proof.decode56 at h
  cases h
  have f0 : 0x56 % 2 ^ 7 = w.toNat / 2 ^ 25 % 2 ^ 7 := by omega
  exact congrArg some (all_fields (by simp only [List.foldl, guardOf]; rw [first_field 25 7 _ rfl f0, next_field 25 21 4 _ rfl (bits_field w 24 21), next_field 21 17 4 _ rfl (bits_field w 20 17), next_field 17 11 6 _ rfl (bits_field w 16 11), next_field 11 5 6 _ rfl (bits_field w 10 5), next_field 5 4 1 _ rfl (bit_field w 4), next_field 4 0 4 _ rfl (bits_field w 3 0)]))

theorem decode57 (w : Word) (i : Instr) (hm : w.toNat / 33554432 % 128 = 87) (h : Sys2Proof.decode57 w = .ok i) : encode? i = some w := by
  have := w.isLt
  unfold Sys2Proof.decode57 at h
  by_cases c : bits w 24 20 = 0 ∧ bits w 14 0 = 0
  · rw [if_pos c] at h
    cases h
    have := bits_val 1048576 32 0 rfl rfl rfl c.1
    have := bits_val 1 32768 0 rfl rfl rfl c.2
    clear c
    have f0 : 0xAE0 % 2 ^ 12 = w.toNat / 2 ^ 20 % 2 ^ 12 := by omega
    have f2 : 0x0 % 2 ^ 15 = w.toNat / 2 ^ 0 % 2 ^ 15 := by omega
    exact congrArg some (all_fields (by simp only [List.foldl]; rw [first_field 20 12 _ rfl f0, next_field 20 15 5 _ rfl (bits_field w 19 15), next_field 15 0 15 _ rfl f2]))
  rw [if_neg c] at h
  clear c
  cases h

theorem decode58 (w : Word) (i : Instr) (hm : w.toNat / 33554432 % 128 = 88) (h : Sys2Proof.decode58 w = .ok i) : encode? i = some w := by
  have := w.isLt
  unfold Sys2Proof.decode58 at h
  cases h
  have f0 : 0x58 % 2 ^ 7 = w.toNat / 2 ^ 25 % 2 ^ 7 := by omega
  exact congrArg some (all_fields (by simp only [List.foldl, guardOf]; rw [first_field 25 7 _ rfl f0, next_field 25 19 6 _ rfl (bits_field w 24 19), next_field 19 13 6 _ rfl (bits_field w 18 13), next_field 13 7 6 _ rfl (bits_field w 12 7), next_field 7 6 1 _ rfl (bit_field w 6), next_field 6 5 1 _ rfl (bit_field w 5), next_field 5 4 1 _ rfl (bit_field w 4), next_field 4 0 4 _ rfl (bits_field w 3 0)]))

theorem decode59 (w : Word) (i : Instr) (hm : w.toNat / 33554432 % 128 = 89) (h : Sys2Proof.decode59 w = .ok i) : encode? i = some w := by
  have := w.isLt
  unfold Sys2Proof.decode59 at h
  cases h
  have f0 : 0x59 % 2 ^ 7 = w.toNat / 2 ^ 25 % 2 ^ 7 := by omega
  exact congrArg some (all_fields (by simp only [List.foldl, guardOf]; rw [first_field 25 7 _ rfl f0, next_field 25 19 6 _ rfl (bits_field w 24 19), next_field 19 13 6 _ rfl (bits_field w 18 13), next_field 13 5 8 _ rfl (bits_field w 12 5), next_field 5 4 1 _ rfl (bit_field w 4), next_field 4 0 4 _ rfl (bits_field w 3 0)]))

theorem decode5A (w : Word) (i : Instr) (hm : w.toNat / 33554432 % 128 = 90) (h : Sys2Proof.decode5A w = .ok i) : encode? i = some w := by
  have := w.isLt
  unfold Sys2Proof.decode5A at h
  cases h
  have f0 : 0x5A % 2 ^ 7 = w.toNat / 2 ^ 25 % 2 ^ 7 := by omega
  exact congrArg some (all_fields (by simp only [List.foldl, guardOf]; rw [first_field 25 7 _ rfl f0, next_field 25 19 6 _ rfl (bits_field w 24 19), next_field 19 13 6 _ rfl (bits_field w 18 13), next_field 13 5 8 _ rfl (bits_field w 12 5), next_field 5 4 1 _ rfl (bit_field w 4), next_field 4 0 4 _ rfl (bits_field w 3 0)]))

theorem decode5B (w : Word) (i : Instr) (hm : w.toNat / 33554432 % 128 = 91) (h : Sys2Proof.decode5B w = .ok i) : encode? i = some w := by
  have := w.isLt
  unfold Sys2Proof.decode5B at h
  cases h
  have f0 : 0x5B % 2 ^ 7 = w.toNat / 2 ^ 25 % 2 ^ 7 := by omega
  exact congrArg some (all_fields (by simp only [List.foldl, guardOf]; rw [first_field 25 7 _ rfl f0, next_field 25 19 6 _ rfl (bits_field w 24 19), next_field 19 13 6 _ rfl (bits_field w 18 13), next_field 13 5 8 _ rfl (bits_field w 12 5), next_field 5 4 1 _ rfl (bit_field w 4), next_field 4 0 4 _ rfl (bits_field w 3 0)]))

theorem decode5C (w : Word) (i : Instr) (hm : w.toNat / 33554432 % 128 = 92) (h : Sys2Proof.decode5C w = .ok i) : encode? i = some w := by
  have := w.isLt
  unfold Sys2Proof.decode5C at h
  cases h
  have f0 : 0x5C % 2 ^ 7 = w.toNat / 2 ^ 25 % 2 ^ 7 := by omega
  exact congrArg some (all_fields (by simp only [List.foldl, guardOf]; rw [first_field 25 7 _ rfl f0, next_field 25 19 6 _ rfl (bits_field w 24 19), next_field 19 13 6 _ rfl (bits_field w 18 13), next_field 13 8 5 _ rfl (bits_field w 12 8), next_field 8 5 3 _ rfl (bits_field w 7 5), next_field 5 4 1 _ rfl (bit_field w 4), next_field 4 0 4 _ rfl (bits_field w 3 0)]))

theorem decode5D (w : Word) (i : Instr) (hm : w.toNat / 33554432 % 128 = 93) (h : Sys2Proof.decode5D w = .ok i) : encode? i = some w := by
  have := w.isLt
  unfold Sys2Proof.decode5D at h
  by_cases c : bits w 7 6 = 0
  · rw [if_pos c] at h
    cases h
    have := bits_val 64 4 0 rfl rfl rfl c
    clear c
    have f0 : 0x5D % 2 ^ 7 = w.toNat / 2 ^ 25 % 2 ^ 7 := by omega
    have f4 : 0x0 % 2 ^ 2 = w.toNat / 2 ^ 6 % 2 ^ 2 := by omega
    exact congrArg some (all_fields (by simp only [List.foldl, guardOf]; rw [first_field 25 7 _ rfl f0, next_field 25 19 6 _ rfl (bits_field w 24 19), next_field 19 13 6 _ rfl (bits_field w 18 13), next_field 13 8 5 _ rfl (bits_field w 12 8), next_field 8 6 2 _ rfl f4, next_field 6 5 1 _ rfl (bit_field w 5), next_field 5 4 1 _ rfl (bit_field w 4), next_field 4 0 4 _ rfl (bits_field w 3 0)]))
  rw [if_neg c] at h
  clear c
  cases h

theorem decode5E (w : Word) (i : Instr) (hm : w.toNat / 33554432 % 128 = 94) (h : Sys2Proof.decode5E w = .ok i) : encode? i = some w := by
  have := w.isLt
  unfold Sys2Proof.decode5E at h
  by_cases c : bits w 5 5 = 0
  · rw [if_pos c] at h
    cases h
    have := bits_val 32 2 0 rfl rfl rfl c
    clear c
    have f0 : 0x5E % 2 ^ 7 = w.toNat / 2 ^ 25 % 2 ^ 7 := by omega
    have f5 : 0x0 % 2 ^ 1 = w.toNat / 2 ^ 5 % 2 ^ 1 := by omega
    exact congrArg some (all_fields (by simp only [List.foldl, guardOf]; rw [first_field 25 7 _ rfl f0, next_field 25 19 6 _ rfl (bits_field w 24 19), next_field 19 13 6 _ rfl (bits_field w 18 13), next_field 13 7 6 _ rfl (bits_field w 12 7), next_field 7 6 1 _ rfl (bit_field w 6), next_field 6 5 1 _ rfl f5, next_field 5 4 1 _ rfl (bit_field w 4), next_field 4 0 4 _ rfl (bits_field w 3 0)]))
  rw [if_neg c] at h
  clear c
  cases h

theorem decode5F (w : Word) (i : Instr) (hm : w.toNat / 33554432 % 128 = 95) (h : Sys2Proof.decode5F w = .ok i) : encode? i = some w := by
  have := w.isLt
  unfold Sys2Proof.decode5F at h
  cases h
  have f0 : 0x5F % 2 ^ 7 = w.toNat / 2 ^ 25 % 2 ^ 7 := by omega
  exact congrArg some (all_fields (by simp only [List.foldl, guardOf]; rw [first_field 25 7 _ rfl f0, next_field 25 19 6 _ rfl (bits_field w 24 19), next_field 19 13 6 _ rfl (bits_field w 18 13), next_field 13 7 6 _ rfl (bits_field w 12 7), next_field 7 6 1 _ rfl (bit_field w 6), next_field 6 5 1 _ rfl (bit_field w 5), next_field 5 4 1 _ rfl (bit_field w 4), next_field 4 0 4 _ rfl (bits_field w 3 0)]))

theorem decode60 (w : Word) (i : Instr) (hm : w.toNat / 33554432 % 128 = 96) (h : Sys2Proof.decode60 w = .ok i) : encode? i = some w := by
  have := w.isLt
  unfold Sys2Proof.decode60 at h
  cases h
  have f0 : 0x60 % 2 ^ 7 = w.toNat / 2 ^ 25 % 2 ^ 7 := by omega
  exact congrArg some (all_fields (by simp only [List.foldl, guardOf]; rw [first_field 25 7 _ rfl f0, next_field 25 19 6 _ rfl (bits_field w 24 19), next_field 19 18 1 _ rfl (bit_field w 18), next_field 18 17 1 _ rfl (bit_field w 17), next_field 17 13 4 _ rfl (bits_field w 16 13), next_field 13 8 5 _ rfl (bits_field w 12 8), next_field 8 5 3 _ rfl (bits_field w 7 5), next_field 5 4 1 _ rfl (bit_field w 4), next_field 4 0 4 _ rfl (bits_field w 3 0)]))

theorem decode61 (w : Word) (i : Instr) (hm : w.toNat / 33554432 % 128 = 97) (h : Sys2Proof.decode61 w = .ok i) : encode? i = some w := by
  have := w.isLt
  unfold Sys2Proof.decode61 at h
  cases h
  have f0 : 0x61 % 2 ^ 7 = w.toNat / 2 ^ 25 % 2 ^ 7 := by omega
  exact congrArg some (all_fields (by simp only [List.foldl, guardOf]; rw [first_field 25 7 _ rfl f0, next_field 25 19 6 _ rfl (bits_field w 24 19), next_field 19 18 1 _ rfl (bit_field w 18), next_field 18 17 1 _ rfl (bit_field w 17), next_field 17 13 4 _ rfl (bits_field w 16 13), next_field 13 8 5 _ rfl (bits_field w 12 8), next_field 8 5 3 _ rfl (bits_field w 7 5), next_field 5 4 1 _ rfl (bit_field w 4), next_field 4 0 4 _ rfl (bits_field w 3 0)]))

theorem decode62 (w : Word) (i : Instr) (hm : w.toNat / 33554432 % 128 = 98) (h : Sys2Proof.decode62 w = .ok i) : encode? i = some w := by
  have := w.isLt
  unfold Sys2Proof.decode62 at h
  cases h
  have f0 : 0x62 % 2 ^ 7 = w.toNat / 2 ^ 25 % 2 ^ 7 := by omega
  exact congrArg some (all_fields (by simp only [List.foldl, guardOf]; rw [first_field 25 7 _ rfl f0, next_field 25 19 6 _ rfl (bits_field w 24 19), next_field 19 18 1 _ rfl (bit_field w 18), next_field 18 17 1 _ rfl (bit_field w 17), next_field 17 13 4 _ rfl (bits_field w 16 13), next_field 13 8 5 _ rfl (bits_field w 12 8), next_field 8 5 3 _ rfl (bits_field w 7 5), next_field 5 4 1 _ rfl (bit_field w 4), next_field 4 0 4 _ rfl (bits_field w 3 0)]))

theorem decode63 (w : Word) (i : Instr) (hm : w.toNat / 33554432 % 128 = 99) (h : Sys2Proof.decode63 w = .ok i) : encode? i = some w := by
  have := w.isLt
  unfold Sys2Proof.decode63 at h
  cases h
  have f0 : 0x63 % 2 ^ 7 = w.toNat / 2 ^ 25 % 2 ^ 7 := by omega
  exact congrArg some (all_fields (by simp only [List.foldl, guardOf]; rw [first_field 25 7 _ rfl f0, next_field 25 19 6 _ rfl (bits_field w 24 19), next_field 19 18 1 _ rfl (bit_field w 18), next_field 18 17 1 _ rfl (bit_field w 17), next_field 17 13 4 _ rfl (bits_field w 16 13), next_field 13 8 5 _ rfl (bits_field w 12 8), next_field 8 5 3 _ rfl (bits_field w 7 5), next_field 5 4 1 _ rfl (bit_field w 4), next_field 4 0 4 _ rfl (bits_field w 3 0)]))

theorem decode64 (w : Word) (i : Instr) (hm : w.toNat / 33554432 % 128 = 100) (h : Sys2Proof.decode64 w = .ok i) : encode? i = some w := by
  have := w.isLt
  unfold Sys2Proof.decode64 at h
  cases h
  have f0 : 0x64 % 2 ^ 7 = w.toNat / 2 ^ 25 % 2 ^ 7 := by omega
  exact congrArg some (all_fields (by simp only [List.foldl, guardOf]; rw [first_field 25 7 _ rfl f0, next_field 25 19 6 _ rfl (bits_field w 24 19), next_field 19 18 1 _ rfl (bit_field w 18), next_field 18 17 1 _ rfl (bit_field w 17), next_field 17 13 4 _ rfl (bits_field w 16 13), next_field 13 8 5 _ rfl (bits_field w 12 8), next_field 8 5 3 _ rfl (bits_field w 7 5), next_field 5 4 1 _ rfl (bit_field w 4), next_field 4 0 4 _ rfl (bits_field w 3 0)]))

theorem decode65 (w : Word) (i : Instr) (hm : w.toNat / 33554432 % 128 = 101) (h : Sys2Proof.decode65 w = .ok i) : encode? i = some w := by
  have := w.isLt
  unfold Sys2Proof.decode65 at h
  cases h
  have f0 : 0x65 % 2 ^ 7 = w.toNat / 2 ^ 25 % 2 ^ 7 := by omega
  exact congrArg some (all_fields (by simp only [List.foldl, guardOf]; rw [first_field 25 7 _ rfl f0, next_field 25 19 6 _ rfl (bits_field w 24 19), next_field 19 18 1 _ rfl (bit_field w 18), next_field 18 17 1 _ rfl (bit_field w 17), next_field 17 13 4 _ rfl (bits_field w 16 13), next_field 13 8 5 _ rfl (bits_field w 12 8), next_field 8 5 3 _ rfl (bits_field w 7 5), next_field 5 4 1 _ rfl (bit_field w 4), next_field 4 0 4 _ rfl (bits_field w 3 0)]))

theorem decode66 (w : Word) (i : Instr) (hm : w.toNat / 33554432 % 128 = 102) (h : Sys2Proof.decode66 w = .ok i) : encode? i = some w := by
  have := w.isLt
  unfold Sys2Proof.decode66 at h
  cases h
  have f0 : 0x66 % 2 ^ 7 = w.toNat / 2 ^ 25 % 2 ^ 7 := by omega
  exact congrArg some (all_fields (by simp only [List.foldl, guardOf]; rw [first_field 25 7 _ rfl f0, next_field 25 19 6 _ rfl (bits_field w 24 19), next_field 19 18 1 _ rfl (bit_field w 18), next_field 18 17 1 _ rfl (bit_field w 17), next_field 17 13 4 _ rfl (bits_field w 16 13), next_field 13 8 5 _ rfl (bits_field w 12 8), next_field 8 5 3 _ rfl (bits_field w 7 5), next_field 5 4 1 _ rfl (bit_field w 4), next_field 4 0 4 _ rfl (bits_field w 3 0)]))

theorem decode67 (w : Word) (i : Instr) (hm : w.toNat / 33554432 % 128 = 103) (h : Sys2Proof.decode67 w = .ok i) : encode? i = some w := by
  have := w.isLt
  unfold Sys2Proof.decode67 at h
  cases h
  have f0 : 0x67 % 2 ^ 7 = w.toNat / 2 ^ 25 % 2 ^ 7 := by omega
  exact congrArg some (all_fields (by simp only [List.foldl, guardOf]; rw [first_field 25 7 _ rfl f0, next_field 25 19 6 _ rfl (bits_field w 24 19), next_field 19 18 1 _ rfl (bit_field w 18), next_field 18 17 1 _ rfl (bit_field w 17), next_field 17 13 4 _ rfl (bits_field w 16 13), next_field 13 8 5 _ rfl (bits_field w 12 8), next_field 8 5 3 _ rfl (bits_field w 7 5), next_field 5 4 1 _ rfl (bit_field w 4), next_field 4 0 4 _ rfl (bits_field w 3 0)]))

theorem decode68 (w : Word) (i : Instr) (hm : w.toNat / 33554432 % 128 = 104) (h : Sys2Proof.decode68 w = .ok i) : encode? i = some w := by
  have := w.isLt
  unfold Sys2Proof.decode68 at h
  by_cases c : bits w 7 6 = 0
  · rw [if_pos c] at h
    cases h
    have := bits_val 64 4 0 rfl rfl rfl c
    clear c
    have f0 : 0x68 % 2 ^ 7 = w.toNat / 2 ^ 25 % 2 ^ 7 := by omega
    have f4 : 0x0 % 2 ^ 2 = w.toNat / 2 ^ 6 % 2 ^ 2 := by omega
    exact congrArg some (all_fields (by simp only [List.foldl, guardOf]; rw [first_field 25 7 _ rfl f0, next_field 25 19 6 _ rfl (bits_field w 24 19), next_field 19 13 6 _ rfl (bits_field w 18 13), next_field 13 8 5 _ rfl (bits_field w 12 8), next_field 8 6 2 _ rfl f4, next_field 6 5 1 _ rfl (bit_field w 5), next_field 5 4 1 _ rfl (bit_field w 4), next_field 4 0 4 _ rfl (bits_field w 3 0)]))
  rw [if_neg c] at h
  clear c
  cases h

theorem decode69 (w : Word) (i : Instr) (hm : w.toNat / 33554432 % 128 = 105) (h : Sys2Proof.decode69 w = .ok i) : encode? i = some w := by
  have := w.isLt
  unfold Sys2Proof.decode69 at h
  by_cases c : bits w 7 6 = 0
  · rw [if_pos c] at h
    cases h
    have := bits_val 64 4 0 rfl rfl rfl c
    clear c
    have f0 : 0x69 % 2 ^ 7 = w.toNat / 2 ^ 25 % 2 ^ 7 := by omega
    have f4 : 0x0 % 2 ^ 2 = w.toNat / 2 ^ 6 % 2 ^ 2 := by omega
    exact congrArg some (all_fields (by simp only [List.foldl, guardOf]; rw [first_field 25 7 _ rfl f0, next_field 25 19 6 _ rfl (bits_field w 24 19), next_field 19 13 6 _ rfl (bits_field w 18 13), next_field 13 8 5 _ rfl (bits_field w 12 8), next_field 8 6 2 _ rfl f4, next_field 6 5 1 _ rfl (bit_field w 5), next_field 5 4 1 _ rfl (bit_field w 4), next_field 4 0 4 _ rfl (bits_field w 3 0)]))
  rw [if_neg c] at h
  clear c
  cases h

theorem decode6A (w : Word) (i : Instr) (hm : w.toNat / 33554432 % 128 = 106) (h : Sys2Proof.decode6A w = .ok i) : encode? i = some w := by
  have := w.isLt
  unfold Sys2Proof.decode6A at h
  by_cases c : bits w 7 5 = 0
  · rw [if_pos c] at h
    cases h
    have := bits_val 32 8 0 rfl rfl rfl c
    clear c
    have f0 : 0x6A % 2 ^ 7 = w.toNat / 2 ^ 25 % 2 ^ 7 := by omega
    have f6 : 0x0 % 2 ^ 3 = w.toNat / 2 ^ 5 % 2 ^ 3 := by omega
    exact congrArg some (all_fields (by simp only [List.foldl, guardOf]; rw [first_field 25 7 _ rfl f0, next_field 25 19 6 _ rfl (bits_field w 24 19), next_field 19 18 1 _ rfl (bit_field w 18), next_field 18 17 1 _ rfl (bit_field w 17), next_field 17 13 4 _ rfl (bits_field w 16 13), next_field 13 8 5 _ rfl (bits_field w 12 8), next_field 8 5 3 _ rfl f6, next_field 5 4 1 _ rfl (bit_field w 4), next_field 4 0 4 _ rfl (bits_field w 3 0)]))
  rw [if_neg c] at h
  clear c
  by_cases c : bits w 7 5 = 1
  · rw [if_pos c] at h
    cases h
    have := bits_val 32 8 1 rfl rfl rfl c
    clear c
    have f0 : 0x6A % 2 ^ 7 = w.toNat / 2 ^ 25 % 2 ^ 7 := by omega
    have f6 : 0x1 % 2 ^ 3 = w.toNat / 2 ^ 5 % 2 ^ 3 := by omega
    exact congrArg some (all_fields (by simp only [List.foldl, guardOf]; rw [first_field 25 7 _ rfl f0, next_field 25 19 6 _ rfl (bits_field w 24 19), next_field 19 18 1 _ rfl (bit_field w 18), next_field 18 17 1 _ rfl (bit_field w 17), next_field 17 13 4 _ rfl (bits_field w 16 13), next_field 13 8 5 _ rfl (bits_field w 12 8), next_field 8 5 3 _ rfl f6, next_field 5 4 1 _ rfl (bit_field w 4), next_field 4 0 4 _ rfl (bits_field w 3 0)]))
  rw [if_neg c] at h
  clear c
  by_cases c : bits w 7 5 = 2
  · rw [if_pos c] at h
    cases h
    have := bits_val 32 8 2 rfl rfl rfl c
    clear c
    have f0 : 0x6A % 2 ^ 7 = w.toNat / 2 ^ 25 % 2 ^ 7 := by omega
    have f6 : 0x2 % 2 ^ 3 = w.toNat / 2 ^ 5 % 2 ^ 3 := by omega
    exact congrArg some (all_fields (by simp only [List.foldl, guardOf]; rw [first_field 25 7 _ rfl f0, next_field 25 19 6 _ rfl (bits_field w 24 19), next_field 19 18 1 _ rfl (bit_field w 18), next_field 18 17 1 _ rfl (bit_field w 17), next_field 17 13 4 _ rfl (bits_field w 16 13), next_field 13 8 5 _ rfl (bits_field w 12 8), next_field 8 5 3 _ rfl f6, next_field 5 4 1 _ rfl (bit_field w 4), next_field 4 0 4 _ rfl (bits_field w 3 0)]))
  rw [if_neg c] at h
  clear c
  cases h

theorem decode6B (w : Word) (i : Instr) (hm : w.toNat / 33554432 % 128 = 107) (h : Sys2Proof.decode6B w = .ok i) : encode? i = some w := by
  have := w.isLt
  unfold Sys2Proof.decode6B at h
  by_cases c : bits w 24 20 = 0 ∧ bits w 14 8 = 0
  · rw [if_pos c] at h
    cases h
    have := bits_val 1048576 32 0 rfl rfl rfl c.1
    have := bits_val 256 128 0 rfl rfl rfl c.2
    clear c
    have f0 : 0xD60 % 2 ^ 12 = w.toNat / 2 ^ 20 % 2 ^ 12 := by omega
    have f2 : 0x0 % 2 ^ 7 = w.toNat / 2 ^ 8 % 2 ^ 7 := by omega
    exact congrArg some (all_fields (by simp only [List.foldl]; rw [first_field 20 12 _ rfl f0, next_field 20 15 5 _ rfl (bits_field w 19 15), next_field 15 8 7 _ rfl f2, next_field 8 0 8 _ rfl (bits_field w 7 0)]))
  rw [if_neg c] at h
  clear c
  by_cases c : bits w 24 20 = 0 ∧ bits w 14 8 = 1
  · rw [if_pos c] at h
    cases h
    have := bits_val 1048576 32 0 rfl rfl rfl c.1
    have := bits_val 256 128 1 rfl rfl rfl c.2
    clear c
    have f0 : 0xD60 % 2 ^ 12 = w.toNat / 2 ^ 20 % 2 ^ 12 := by omega
    have f2 : 0x1 % 2 ^ 7 = w.toNat / 2 ^ 8 % 2 ^ 7 := by omega
    exact congrArg some (all_fields (by simp only [List.foldl]; rw [first_field 20 12 _ rfl f0, next_field 20 15 5 _ rfl (bits_field w 19 15), next_field 15 8 7 _ rfl f2, next_field 8 0 8 _ rfl (bits_field w 7 0)]))
  rw [if_neg c] at h
  clear c
  by_cases c : bits w 24 8 = 2
  · rw [if_pos c] at h
    cases h
    have := bits_val 256 131072 2 rfl rfl rfl c
    clear c
    have f0 : 0xD60002 % 2 ^ 24 = w.toNat / 2 ^ 8 % 2 ^ 24 := by omega
    exact congrArg some (all_fields (by simp only [List.foldl]; rw [first_field 8 24 _ rfl f0, next_field 8 0 8 _ rfl (bits_field w 7 0)]))
  rw [if_neg c] at h
  clear c
  cases h

theorem decode6C (w : Word) (i : Instr) (hm : w.toNat / 33554432 % 128 = 108) (h : Sys2Proof.decode6C w = .ok i) : encode? i = some w := by
  have := w.isLt
  unfold Sys2Proof.decode6C at h
  cases h
  have f0 : 0x6C % 2 ^ 7 = w.toNat / 2 ^ 25 % 2 ^ 7 := by omega
  exact congrArg some (all_fields (by simp only [List.foldl, guardOf]; rw [first_field 25 7 _ rfl f0, next_field 25 19 6 _ rfl (bits_field w 24 19), next_field 19 13 6 _ rfl (bits_field w 18 13), next_field 13 10 3 _ rfl (bits_field w 12 10), next_field 10 7 3 _ rfl (bits_field w 9 7), next_field 7 6 1 _ rfl (bit_field w 6), next_field 6 5 1 _ rfl (bit_field w 5), next_field 5 4 1 _ rfl (bit_field w 4), next_field 4 0 4 _ rfl (bits_field w 3 0)]))

theorem decode6D (w : Word) (i : Instr) (hm : w.toNat / 33554432 % 128 = 109) (h : Sys2Proof.decode6D w = .ok i) : encode? i = some w := by
  have := w.isLt
  unfold Sys2Proof.decode6D at h
  cases h
  have f0 : 0x6D % 2 ^ 7 = w.toNat / 2 ^ 25 % 2 ^ 7 := by omega
  exact congrArg some (all_fields (by simp only [List.foldl, guardOf]; rw [first_field 25 7 _ rfl f0, next_field 25 19 6 _ rfl (bits_field w 24 19), next_field 19 13 6 _ rfl (bits_field w 18 13), next_field 13 10 3 _ rfl (bits_field w 12 10), next_field 10 7 3 _ rfl (bits_field w 9 7), next_field 7 6 1 _ rfl (bit_field w 6), next_field 6 5 1 _ rfl (bit_field w 5), next_field 5 4 1 _ rfl (bit_field w 4), next_field 4 0 4 _ rfl (bits_field w 3 0)]))

theorem decode6E (w : Word) (i : Instr) (hm : w.toNat / 33554432 % 128 = 110) (h : Sys2Proof.decode6E w = .ok i) : encode? i = some w := by
  have := w.isLt
  unfold Sys2Proof.decode6E at h
  by_cases c : bits w 5 5 = 0
  · rw [if_pos c] at h
    cases h
    have := bits_val 32 2 0 rfl rfl rfl c
    clear c
    have f0 : 0x6E % 2 ^ 7 = w.toNat / 2 ^ 25 % 2 ^ 7 := by omega
    have f6 : 0x0 % 2 ^ 1 = w.toNat / 2 ^ 5 % 2 ^ 1 := by omega
    exact congrArg some (all_fields (by simp only [List.foldl, guardOf]; rw [first_field 25 7 _ rfl f0, next_field 25 19 6 _ rfl (bits_field w 24 19), next_field 19 13 6 _ rfl (bits_field w 18 13), next_field 13 10 3 _ rfl (bits_field w 12 10), next_field 10 7 3 _ rfl (bits_field w 9 7), next_field 7 6 1 _ rfl (bit_field w 6), next_field 6 5 1 _ rfl f6, next_field 5 4 1 _ rfl (bit_field w 4), next_field 4 0 4 _ rfl (bits_field w 3 0)]))
  rw [if_neg c] at h
  clear c
  cases h

theorem decode6F (w : Word) (i : Instr) (hm : w.toNat / 33554432 % 128 = 111) (h : Sys2Proof.decode6F w = .ok i) : encode? i = some w := by
  have := w.isLt
  unfold Sys2Proof.decode6F at h
  by_cases c : bits w 24 10 = 0 ∧ bits w 2 0 = 0
  · rw [if_pos c] at h
    cases h
    have := bits_val 1024 32768 0 rfl rfl rfl c.1
    have := bits_val 1 8 0 rfl rfl rfl c.2
    clear c
    have f0 : 0x378000 % 2 ^ 22 = w.toNat / 2 ^ 10 % 2 ^ 22 := by omega
    have f3 : 0x0 % 2 ^ 3 = w.toNat / 2 ^ 0 % 2 ^ 3 := by omega
    exact congrArg some (all_fields (by simp only [List.foldl]; rw [first_field 10 22 _ rfl f0, next_field 10 7 3 _ rfl (bits_field w 9 7), next_field 7 3 4 _ rfl (bits_field w 6 3), next_field 3 0 3 _ rfl f3]))
  rw [if_neg c] at h
  clear c
  cases h

theorem decode70 (w : Word) (i : Instr) (hm : w.toNat / 33554432 % 128 = 112) (h : Sys2Proof.decode70 w = .ok i) : encode? i = some w := by
  have := w.isLt
  unfold Sys2Proof.decode70 at h
  by_cases c : bits w 19 8 = 0 ∧ bits w 3 0 = 0
  · rw [if_pos c] at h
    cases h
    have := bits_val 256 4096 0 rfl rfl rfl c.1
    have := bits_val 1 16 0 rfl rfl rfl c.2
    clear c
    have f0 : 0x70 % 2 ^ 7 = w.toNat / 2 ^ 25 % 2 ^ 7 := by omega
    have f2 : 0x0 % 2 ^ 12 = w.toNat / 2 ^ 8 % 2 ^ 12 := by omega
    have f4 : 0x0 % 2 ^ 4 = w.toNat / 2 ^ 0 % 2 ^ 4 := by omega
    exact congrArg some (all_fields (by simp only [List.foldl]; rw [first_field 25 7 _ rfl f0, next_field 25 20 5 _ rfl (bits_field w 24 20), next_field 20 8 12 _ rfl f2, next_field 8 4 4 _ rfl (bits_field w 7 4), next_field 4 0 4 _ rfl f4]))
  rw [if_neg c] at h
  clear c
  by_cases c : bits w 24 20 = 0 ∧ bits w 14 8 = 1 ∧ bits w 3 0 = 0
  · rw [if_pos c] at h
    cases h
    have := bits_val 1048576 32 0 rfl rfl rfl c.1
    have := bits_val 256 128 1 rfl rfl rfl c.2.1
    have := bits_val 1 16 0 rfl rfl rfl c.2.2
    clear c
    have f0 : 0xE00 % 2 ^ 12 = w.toNat / 2 ^ 20 % 2 ^ 12 := by omega
    have f2 : 0x1 % 2 ^ 7 = w.toNat / 2 ^ 8 % 2 ^ 7 := by omega
    have f4 : 0x0 % 2 ^ 4 = w.toNat / 2 ^ 0 % 2 ^ 4 := by omega
    exact congrArg some (all_fields (by simp only [List.foldl]; rw [first_field 20 12 _ rfl f0, next_field 20 15 5 _ rfl (bits_field w 19 15), next_field 15 8 7 _ rfl f2, next_field 8 4 4 _ rfl (bits_field w 7 4), next_field 4 0 4 _ rfl f4]))
  rw [if_neg c] at h
  clear c
  by_cases c : bits w 14 8 = 2 ∧ bits w 3 0 = 0
  · rw [if_pos c] at h
    cases h
    have := bits_val 256 128 2 rfl rfl rfl c.1
    have := bits_val 1 16 0 rfl rfl rfl c.2
    clear c
    have f0 : 0x70 % 2 ^ 7 = w.toNat / 2 ^ 25 % 2 ^ 7 := by omega
    have f3 : 0x2 % 2 ^ 7 = w.toNat / 2 ^ 8 % 2 ^ 7 := by omega
    have f5 : 0x0 % 2 ^ 4 = w.toNat / 2 ^ 0 % 2 ^ 4 := by omega
    exact congrArg some (all_fields (by simp only [List.foldl]; rw [first_field 25 7 _ rfl f0, next_field 25 20 5 _ rfl (bits_field w 24 20), next_field 20 15 5 _ rfl (bits_field w 19 15), next_field 15 8 7 _ rfl f3, next_field 8 4 4 _ rfl (bits_field w 7 4), next_field 4 0 4 _ rfl f5]))
  rw [if_neg c] at h
  clear c
  by_cases c : bits w 14 8 = 3 ∧ bits w 3 0 = 0
  · rw [if_pos c] at h
    cases h
    have := bits_val 256 128 3 rfl rfl rfl c.1
    have := bits_val 1 16 0 rfl rfl rfl c.2
    clear c
    have f0 : 0x70 % 2 ^ 7 = w.toNat / 2 ^ 25 % 2 ^ 7 := by omega
    have f3 : 0x3 % 2 ^ 7 = w.toNat / 2 ^ 8 % 2 ^ 7 := by omega
    have f5 : 0x0 % 2 ^ 4 = w.toNat / 2 ^ 0 % 2 ^ 4 := by omega
    exact congrArg some (all_fields (by simp only [List.foldl]; rw [first_field 25 7 _ rfl f0, next_field 25 20 5 _ rfl (bits_field w 24 20), next_field 20 15 5 _ rfl (bits_field w 19 15), next_field 15 8 7 _ rfl f3, next_field 8 4 4 _ rfl (bits_field w 7 4), next_field 4 0 4 _ rfl f5]))
  rw [if_neg c] at h
  clear c
  cases h

theorem decode71 (w : Word) (i : Instr) (hm : w.toNat / 33554432 % 128 = 113) (h : Sys2Proof.decode71 w = .ok i) : encode? i = some w := by
  have := w.isLt
  unfold Sys2Proof.decode71 at h
  by_cases c : bits w 19 12 = 0 ∧ bits w 5 0 = 0
  · rw [if_pos c] at h
    cases h
    have := bits_val 4096 256 0 rfl rfl rfl c.1
    have := bits_val 1 64 0 rfl rfl rfl c.2
    clear c
    have f0 : 0x71 % 2 ^ 7 = w.toNat / 2 ^ 25 % 2 ^ 7 := by omega
    have f2 : 0x0 % 2 ^ 8 = w.toNat / 2 ^ 12 % 2 ^ 8 := by omega
    have f4 : 0x0 % 2 ^ 6 = w.toNat / 2 ^ 0 % 2 ^ 6 := by omega
    exact congrArg some (all_fields (by simp only [List.foldl]; rw [first_field 25 7 _ rfl f0, next_field 25 20 5 _ rfl (bits_field w 24 20), next_field 20 12 8 _ rfl f2, next_field 12 6 6 _ rfl (bits_field w 11 6), next_field 6 0 6 _ rfl f4]))
  rw [if_neg c] at h
  clear c
  by_cases c : bits w 2 0 = 1
  · rw [if_pos c] at h
    cases h
    have := bits_val 1 8 1 rfl rfl rfl c
    clear c
    have f0 : 0x71 % 2 ^ 7 = w.toNat / 2 ^ 25 % 2 ^ 7 := by omega
    have f6 : 0x1 % 2 ^ 3 = w.toNat / 2 ^ 0 % 2 ^ 3 := by omega
    exact congrArg some (all_fields (by simp only [List.foldl]; rw [first_field 25 7 _ rfl f0, next_field 25 20 5 _ rfl (bits_field w 24 20), next_field 20 12 8 _ rfl (bits_field w 19 12), next_field 12 6 6 _ rfl (bits_field w 11 6), next_field 6 4 2 _ rfl (bits_field w 5 4), next_field 4 3 1 _ rfl (bit_field w 3), next_field 3 0 3 _ rfl f6]))
  rw [if_neg c] at h
  clear c
  cases h

theorem decode72 (w : Word) (i : Instr) (hm : w.toNat / 33554432 % 128 = 114) (h : Sys2Proof.decode72 w = .ok i) : encode? i = some w := by
  have := w.isLt
  unfold Sys2Proof.decode72 at h
  by_cases c : bits w 24 20 = 0 ∧ bits w 14 0 = 0
  · rw [if_pos c] at h
    cases h
    have := bits_val 1048576 32 0 rfl rfl rfl c.1
    have := bits_val 1 32768 0 rfl rfl rfl c.2
    clear c
    have f0 : 0xE40 % 2 ^ 12 = w.toNat / 2 ^ 20 % 2 ^ 12 := by omega
    have f2 : 0x0 % 2 ^ 15 = w.toNat / 2 ^ 0 % 2 ^ 15 := by omega
    exact congrArg some (all_fields (by simp only [List.foldl]; rw [first_field 20 12 _ rfl f0, next_field 20 15 5 _ rfl (bits_field w 19 15), next_field 15 0 15 _ rfl f2]))
  rw [if_neg c] at h
  clear c
  by_cases c : bits w 24 20 = 0 ∧ bits w 14 0 = 128
  · rw [if_pos c] at h
    cases h
    have := bits_val 1048576 32 0 rfl rfl rfl c.1
    have := bits_val 1 32768 128 rfl rfl rfl c.2
    clear c
    have f0 : 0xE40 % 2 ^ 12 = w.toNat / 2 ^ 20 % 2 ^ 12 := by omega
    have f2 : 0x80 % 2 ^ 15 = w.toNat / 2 ^ 0 % 2 ^ 15 := by omega
    exact congrArg some (all_fields (by simp only [List.foldl]; rw [first_field 20 12 _ rfl f0, next_field 20 15 5 _ rfl (bits_field w 19 15), next_field 15 0 15 _ rfl f2]))
  rw [if_neg c] at h
  clear c
  by_cases c : bits w 14 0 = 256
  · rw [if_pos c] at h
    cases h
    have := bits_val 1 32768 256 rfl rfl rfl c
    clear c
    have f0 : 0x72 % 2 ^ 7 = w.toNat / 2 ^ 25 % 2 ^ 7 := by omega
    have f3 : 0x100 % 2 ^ 15 = w.toNat / 2 ^ 0 % 2 ^ 15 := by omega
    exact congrArg some (all_fields (by simp only [List.foldl]; rw [first_field 25 7 _ rfl f0, next_field 25 20 5 _ rfl (bits_field w 24 20), next_field 20 15 5 _ rfl (bits_field w 19 15), next_field 15 0 15 _ rfl f3]))
  rw [if_neg c] at h
  clear c
  by_cases c : bits w 24 20 = 0 ∧ bits w 14 0 = 384
  · rw [if_pos c] at h
    cases h
    have := bits_val 1048576 32 0 rfl rfl rfl c.1
    have := bits_val 1 32768 384 rfl rfl rfl c.2
    clear c
    have f0 : 0xE40 % 2 ^ 12 = w.toNat / 2 ^ 20 % 2 ^ 12 := by omega
    have f2 : 0x180 % 2 ^ 15 = w.toNat / 2 ^ 0 % 2 ^ 15 := by omega
    exact congrArg some (all_fields (by simp only [List.foldl]; rw [first_field 20 12 _ rfl f0, next_field 20 15 5 _ rfl (bits_field w 19 15), next_field 15 0 15 _ rfl f2]))
  rw [if_neg c] at h
  clear c
  by_cases c : bits w 14 7 = 4 ∧ bits w 5 0 = 0
  · rw [if_pos c] at h
    cases h
    have := bits_val 128 256 4 rfl rfl rfl c.1
    have := bits_val 1 64 0 rfl rfl rfl c.2
    clear c
    have f0 : 0x72 % 2 ^ 7 = w.toNat / 2 ^ 25 % 2 ^ 7 := by omega
    have f3 : 0x4 % 2 ^ 8 = w.toNat / 2 ^ 7 % 2 ^ 8 := by omega
    have f5 : 0x0 % 2 ^ 6 = w.toNat / 2 ^ 0 % 2 ^ 6 := by omega
    exact congrArg some (all_fields (by simp only [List.foldl]; rw [first_field 25 7 _ rfl f0, next_field 25 20 5 _ rfl (bits_field w 24 20), next_field 20 15 5 _ rfl (bits_field w 19 15), next_field 15 7 8 _ rfl f3, next_field 7 6 1 _ rfl (bit_field w 6), next_field 6 0 6 _ rfl f5]))
  rw [if_neg c] at h
  clear c
  cases h

theorem decode73 (w : Word) (i : Instr) (hm : w.toNat / 33554432 % 128 = 115) (h : Sys2Proof.decode73 w = .ok i) : encode? i = some w := by
  have := w.isLt
  unfold Sys2Proof.decode73 at h
  by_cases c : bits w 9 0 = 0
  · rw [if_pos c] at h
    cases h
    have := bits_val 1 1024 0 rfl rfl rfl c
    clear c
    have f0 : 0x73 % 2 ^ 7 = w.toNat / 2 ^ 25 % 2 ^ 7 := by omega
    have f4 : 0x0 % 2 ^ 10 = w.toNat / 2 ^ 0 % 2 ^ 10 := by omega
    exact congrArg some (all_fields (by simp only [List.foldl]; rw [first_field 25 7 _ rfl f0, next_field 25 20 5 _ rfl (bits_field w 24 20), next_field 20 15 5 _ rfl (bits_field w 19 15), next_field 15 10 5 _ rfl (bits_field w 14 10), next_field 10 0 10 _ rfl f4]))
  rw [if_neg c] at h
  clear c
  by_cases c : bits w 24 20 = 0 ∧ bits w 9 8 = 1 ∧ bits w 1 0 = 0
  · rw [if_pos c] at h
    cases h
    have := bits_val 1048576 32 0 rfl rfl rfl c.1
    have := bits_val 256 4 1 rfl rfl rfl c.2.1
    have := bits_val 1 4 0 rfl rfl rfl c.2.2
    clear c
    have f0 : 0xE60 % 2 ^ 12 = w.toNat / 2 ^ 20 % 2 ^ 12 := by omega
    have f3 : 0x1 % 2 ^ 2 = w.toNat / 2 ^ 8 % 2 ^ 2 := by omega
    have f7 : 0x0 % 2 ^ 2 = w.toNat / 2 ^ 0 % 2 ^ 2 := by omega
    exact congrArg some (all_fields (by simp only [List.foldl]; rw [first_field 20 12 _ rfl f0, next_field 20 15 5 _ rfl (bits_field w 19 15), next_field 15 10 5 _ rfl (bits_field w 14 10), next_field 10 8 2 _ rfl f3, next_field 8 7 1 _ rfl (bit_field w 7), next_field 7 6 1 _ rfl (bit_field w 6), next_field 6 2 4 _ rfl (bits_field w 5 2), next_field 2 0 2 _ rfl f7]))
  rw [if_neg c] at h
  clear c
  by_cases c : bits w 24 20 = 0 ∧ bits w 9 8 = 2 ∧ bits w 1 0 = 0
  · rw [if_pos c] at h
    cases h
    have := bits_val 1048576 32 0 rfl rfl rfl c.1
    have := bits_val 256 4 2 rfl rfl rfl c.2.1
    have := bits_val 1 4 0 rfl rfl rfl c.2.2
    clear c
    have f0 : 0xE60 % 2 ^ 12 = w.toNat / 2 ^ 20 % 2 ^ 12 := by omega
    have f3 : 0x2 % 2 ^ 2 = w.toNat / 2 ^ 8 % 2 ^ 2 := by omega
    have f7 : 0x0 % 2 ^ 2 = w.toNat / 2 ^ 0 % 2 ^ 2 := by omega
    exact congrArg some (all_fields (by simp only [List.foldl]; rw [first_field 20 12 _ rfl f0, next_field 20 15 5 _ rfl (bits_field w 19 15), next_field 15 10 5 _ rfl (bits_field w 14 10), next_field 10 8 2 _ rfl f3, next_field 8 7 1 _ rfl (bit_field w 7), next_field 7 6 1 _ rfl (bit_field w 6), next_field 6 2 4 _ rfl (bits_field w 5 2), next_field 2 0 2 _ rfl f7]))
  rw [if_neg c] at h
  clear c
  cases h

theorem decode74 (w : Word) (i : Instr) (hm : w.toNat / 33554432 % 128 = 116) (h : Sys2Proof.decode74 w = .ok i) : encode? i = some w := by
  have := w.isLt
  unfold Sys2Proof.decode74 at h
  by_cases c : bits w 5 0 = 0
  · rw [if_pos c] at h
    cases h
    have := bits_val 1 64 0 rfl rfl rfl c
    clear c
    have f0 : 0x74 % 2 ^ 7 = w.toNat / 2 ^ 25 % 2 ^ 7 := by omega
    have f6 : 0x0 % 2 ^ 6 = w.toNat / 2 ^ 0 % 2 ^ 6 := by omega
    exact congrArg some (all_fields (by simp only [List.foldl]; rw [first_field 25 7 _ rfl f0, next_field 25 20 5 _ rfl (bits_field w 24 20), next_field 20 15 5 _ rfl (bits_field w 19 15), next_field 15 9 6 _ rfl (bits_field w 14 9), next_field 9 7 2 _ rfl (bits_field w 8 7), next_field 7 6 1 _ rfl (bit_field w 6), next_field 6 0 6 _ rfl f6]))
  rw [if_neg c] at h
  clear c
  by_cases c : bits w 14 0 = 1
  · rw [if_pos c] at h
    cases h
    have := bits_val 1 32768 1 rfl rfl rfl c
    clear c
    have f0 : 0x74 % 2 ^ 7 = w.toNat / 2 ^ 25 % 2 ^ 7 := by omega
    have f3 : 0x1 % 2 ^ 15 = w.toNat / 2 ^ 0 % 2 ^ 15 := by omega
    exact congrArg some (all_fields (by simp only [List.foldl]; rw [first_field 25 7 _ rfl f0, next_field 25 20 5 _ rfl (bits_field w 24 20), next_field 20 15 5 _ rfl (bits_field w 19 15), next_field 15 0 15 _ rfl f3]))
  rw [if_neg c] at h
  clear c
  by_cases c : bits w 24 6 = 0 ∧ bits w 3 0 = 2
  · rw [if_pos c] at h
    cases h
    have := bits_val 64 524288 0 rfl rfl rfl c.1
    have := bits_val 1 16 2 rfl rfl rfl c.2
    clear c
    have f0 : 0x3A00000 % 2 ^ 26 = w.toNat / 2 ^ 6 % 2 ^ 26 := by omega
    have f2 : 0x2 % 2 ^ 4 = w.toNat / 2 ^ 0 % 2 ^ 4 := by omega
    exact congrArg some (all_fields (by simp only [List.foldl]; rw [first_field 6 26 _ rfl f0, next_field 6 4 2 _ rfl (bits_field w 5 4), next_field 4 0 4 _ rfl f2]))
  rw [if_neg c] at h
  clear c
  by_cases c : bits w 14 0 = 3
  · rw [if_pos c] at h
    cases h
    have := bits_val 1 32768 3 rfl rfl rfl c
    clear c
    have f0 : 0x74 % 2 ^ 7 = w.toNat / 2 ^ 25 % 2 ^ 7 := by omega
    have f3 : 0x3 % 2 ^ 15 = w.toNat / 2 ^ 0 % 2 ^ 15 := by omega
    exact congrArg some (all_fields (by simp only [List.foldl]; rw [first_field 25 7 _ rfl f0, next_field 25 20 5 _ rfl (bits_field w 24 20), next_field 20 15 5 _ rfl (bits_field w 19 15), next_field 15 0 15 _ rfl f3]))
  rw [if_neg c] at h
  clear c
  cases h

theorem decode75 (w : Word) (i : Instr) (hm : w.toNat / 33554432 % 128 = 117) (h : Sys2Proof.decode75 w = .ok i) : encode? i = some w := by
  have := w.isLt
  unfold Sys2Proof.decode75 at h
  by_cases c : bits w 15 10 = 0
  · rw [if_pos c] at h
    cases h
    have := bits_val 1024 64 0 rfl rfl rfl c
    clear c
    have f0 : 0x75 % 2 ^ 7 = w.toNat / 2 ^ 25 % 2 ^ 7 := by omega
    have f4 : 0x0 % 2 ^ 6 = w.toNat / 2 ^ 10 % 2 ^ 6 := by omega
    exact congrArg some (all_fields (by simp only [List.foldl, guardOf]; rw [first_field 25 7 _ rfl f0, next_field 25 22 3 _ rfl (bits_field w 24 22), next_field 22 19 3 _ rfl (bits_field w 21 19), next_field 19 16 3 _ rfl (bits_field w 18 16), next_field 16 10 6 _ rfl f4, next_field 10 5 5 _ rfl (bits_field w 9 5), next_field 5 4 1 _ rfl (bit_field w 4), next_field 4 0 4 _ rfl (bits_field w 3 0)]))
  rw [if_neg c] at h
  clear c
  by_cases c : bits w 15 10 = 1
  · rw [if_pos c] at h
    cases h
    have := bits_val 1024 64 1 rfl rfl rfl c
    clear c
    have f0 : 0x75 % 2 ^ 7 = w.toNat / 2 ^ 25 % 2 ^ 7 := by omega
    have f4 : 0x1 % 2 ^ 6 = w.toNat / 2 ^ 10 % 2 ^ 6 := by omega
    exact congrArg some (all_fields (by simp only [List.foldl, guardOf]; rw [first_field 25 7 _ rfl f0, next_field 25 22 3 _ rfl (bits_field w 24 22), next_field 22 19 3 _ rfl (bits_field w 21 19), next_field 19 16 3 _ rfl (bits_field w 18 16), next_field 16 10 6 _ rfl f4, next_field 10 5 5 _ rfl (bits_field w 9 5), next_field 5 4 1 _ rfl (bit_field w 4), next_field 4 0 4 _ rfl (bits_field w 3 0)]))
  rw [if_neg c] at h
  clear c
  by_cases c : bits w 24 22 = 0 ∧ bits w 18 10 = 2
  · rw [if_pos c] at h
    cases h
    have := bits_val 4194304 8 0 rfl rfl rfl c.1
    have := bits_val 1024 512 2 rfl rfl rfl c.2
    clear c
    have f0 : 0x3A8 % 2 ^ 10 = w.toNat / 2 ^ 22 % 2 ^ 10 := by omega
    have f2 : 0x2 % 2 ^ 9 = w.toNat / 2 ^ 10 % 2 ^ 9 := by omega
    exact congrArg some (all_fields (by simp only [List.foldl, guardOf]; rw [first_field 22 10 _ rfl f0, next_field 22 19 3 _ rfl (bits_field w 21 19), next_field 19 10 9 _ rfl f2, next_field 10 5 5 _ rfl (bits_field w 9 5), next_field 5 4 1 _ rfl (bit_field w 4), next_field 4 0 4 _ rfl (bits_field w 3 0)]))
  rw [if_neg c] at h
  clear c
  by_cases c : bits w 24 22 = 0 ∧ bits w 18 10 = 3
  · rw [if_pos c] at h
    cases h
    have := bits_val 4194304 8 0 rfl rfl rfl c.1
    have := bits_val 1024 512 3 rfl rfl rfl c.2
    clear c
    have f0 : 0x3A8 % 2 ^ 10 = w.toNat / 2 ^ 22 % 2 ^ 10 := by omega
    have f2 : 0x3 % 2 ^ 9 = w.toNat / 2 ^ 10 % 2 ^ 9 := by omega
    exact congrArg some (all_fields (by simp only [List.foldl, guardOf]; rw [first_field 22 10 _ rfl f0, next_field 22 19 3 _ rfl (bits_field w 21 19), next_field 19 10 9 _ rfl f2, next_field 10 5 5 _ rfl (bits_field w 9 5), next_field 5 4 1 _ rfl (bit_field w 4), next_field 4 0 4 _ rfl (bits_field w 3 0)]))
  rw [if_neg c] at h
  clear c
  by_cases c : bits w 18 5 = 128
  · rw [if_pos c] at h
    cases h
    have := bits_val 32 16384 128 rfl rfl rfl c
    clear c
    have f0 : 0x75 % 2 ^ 7 = w.toNat / 2 ^ 25 % 2 ^ 7 := by omega
    have f3 : 0x80 % 2 ^ 14 = w.toNat / 2 ^ 5 % 2 ^ 14 := by omega
    exact congrArg some (all_fields (by simp only [List.foldl, guardOf]; rw [first_field 25 7 _ rfl f0, next_field 25 22 3 _ rfl (bits_field w 24 22), next_field 22 19 3 _ rfl (bits_field w 21 19), next_field 19 5 14 _ rfl f3, next_field 5 4 1 _ rfl (bit_field w 4), next_field 4 0 4 _ rfl (bits_field w 3 0)]))
  rw [if_neg c] at h
  clear c
  by_cases c : bits w 15 10 = 5
  · rw [if_pos c] at h
    cases h
    have := bits_val 1024 64 5 rfl rfl rfl c
    clear c
    have f0 : 0x75 % 2 ^ 7 = w.toNat / 2 ^ 25 % 2 ^ 7 := by omega
    have f4 : 0x5 % 2 ^ 6 = w.toNat / 2 ^ 10 % 2 ^ 6 := by omega
    exact congrArg some (all_fields (by simp only [List.foldl, guardOf]; rw [first_field 25 7 _ rfl f0, next_field 25 22 3 _ rfl (bits_field w 24 22), next_field 22 19 3 _ rfl (bits_field w 21 19), next_field 19 16 3 _ rfl (bits_field w 18 16), next_field 16 10 6 _ rfl f4, next_field 10 5 5 _ rfl (bits_field w 9 5), next_field 5 4 1 _ rfl (bit_field w 4), next_field 4 0 4 _ rfl (bits_field w 3 0)]))
  rw [if_neg c] at h
  clear c
  by_cases c : bits w 15 10 = 6
  · rw [if_pos c] at h
    cases h
    have := bits_val 1024 64 6 rfl rfl rfl c
    clear c
    have f0 : 0x75 % 2 ^ 7 = w.toNat / 2 ^ 25 % 2 ^ 7 := by omega
    have f4 : 0x6 % 2 ^ 6 = w.toNat / 2 ^ 10 % 2 ^ 6 := by omega
    exact congrArg some (all_fields (by simp only [List.foldl, guardOf]; rw [first_field 25 7 _ rfl f0, next_field 25 22 3 _ rfl (bits_field w 24 22), next_field 22 19 3 _ rfl (bits_field w 21 19), next_field 19 16 3 _ rfl (bits_field w 18 16), next_field 16 10 6 _ rfl f4, next_field 10 5 5 _ rfl (bits_field w 9 5), next_field 5 4 1 _ rfl (bit_field w 4), next_field 4 0 4 _ rfl (bits_field w 3 0)]))
  rw [if_neg c] at h
  clear c
  by_cases c : bits w 15 5 = 224
  · rw [if_pos c] at h
    cases h
    have := bits_val 32 2048 224 rfl rfl rfl c
    clear c
    have f0 : 0x75 % 2 ^ 7 = w.toNat / 2 ^ 25 % 2 ^ 7 := by omega
    have f4 : 0xE0 % 2 ^ 11 = w.toNat / 2 ^ 5 % 2 ^ 11 := by omega
    exact congrArg some (all_fields (by simp only [List.foldl, guardOf]; rw [first_field 25 7 _ rfl f0, next_field 25 22 3 _ rfl (bits_field w 24 22), next_field 22 19 3 _ rfl (bits_field w 21 19), next_field 19 16 3 _ rfl (bits_field w 18 16), next_field 16 5 11 _ rfl f4, next_field 5 4 1 _ rfl (bit_field w 4), next_field 4 0 4 _ rfl (bits_field w 3 0)]))
  rw [if_neg c] at h
  clear c
  by_cases c : bits w 15 5 = 256
  · rw [if_pos c] at h
    cases h
    have := bits_val 32 2048 256 rfl rfl rfl c
    clear c
    have f0 : 0x75 % 2 ^ 7 = w.toNat / 2 ^ 25 % 2 ^ 7 := by omega
    have f4 : 0x100 % 2 ^ 11 = w.toNat / 2 ^ 5 % 2 ^ 11 := by omega
    exact congrArg some (all_fields (by simp only [List.foldl, guardOf]; rw [first_field 25 7 _ rfl f0, next_field 25 22 3 _ rfl (bits_field w 24 22), next_field 22 19 3 _ rfl (bits_field w 21 19), next_field 19 16 3 _ rfl (bits_field w 18 16), next_field 16 5 11 _ rfl f4, next_field 5 4 1 _ rfl (bit_field w 4), next_field 4 0 4 _ rfl (bits_field w 3 0)]))
  rw [if_neg c] at h
  clear c
  by_cases c : bits w 18 5 = 288
  · rw [if_pos c] at h
    cases h
    have := bits_val 32 16384 288 rfl rfl rfl c
    clear c
    have f0 : 0x75 % 2 ^ 7 = w.toNat / 2 ^ 25 % 2 ^ 7 := by omega
    have f3 : 0x120 % 2 ^ 14 = w.toNat / 2 ^ 5 % 2 ^ 14 := by omega
    exact congrArg some (all_fields (by simp only [List.foldl, guardOf]; rw [first_field 25 7 _ rfl f0, next_field 25 22 3 _ rfl (bits_field w 24 22), next_field 22 19 3 _ rfl (bits_field w 21 19), next_field 19 5 14 _ rfl f3, next_field 5 4 1 _ rfl (bit_field w 4), next_field 4 0 4 _ rfl (bits_field w 3 0)]))
  rw [if_neg c] at h
  clear c
  cases h

theorem decode76 (w : Word) (i : Instr) (hm : w.toNat / 33554432 % 128 = 118) (h : Sys2Proof.decode76 w = .ok i) : encode? i = some w := by
  have := w.isLt
  unfold Sys2Proof.decode76 at h
  by_cases c : bits w 15 5 = 0
  · rw [if_pos c] at h
    cases h
    have := bits_val 32 2048 0 rfl rfl rfl c
    clear c
    have f0 : 0x76 % 2 ^ 7 = w.toNat / 2 ^ 25 % 2 ^ 7 := by omega
    have f4 : 0x0 % 2 ^ 11 = w.toNat / 2 ^ 5 % 2 ^ 11 := by omega
    exact congrArg some (all_fields (by simp only [List.foldl, guardOf]; rw [first_field 25 7 _ rfl f0, next_field 25 22 3 _ rfl (bits_field w 24 22), next_field 22 19 3 _ rfl (bits_field w 21 19), next_field 19 16 3 _ rfl (bits_field w 18 16), next_field 16 5 11 _ rfl f4, next_field 5 4 1 _ rfl (bit_field w 4), next_field 4 0 4 _ rfl (bits_field w 3 0)]))
  rw [if_neg c] at h
  clear c
  by_cases c : bits w 15 5 = 32
  · rw [if_pos c] at h
    cases h
    have := bits_val 32 2048 32 rfl rfl rfl c
    clear c
    have f0 : 0x76 % 2 ^ 7 = w.toNat / 2 ^ 25 % 2 ^ 7 := by omega
    have f4 : 0x20 % 2 ^ 11 = w.toNat / 2 ^ 5 % 2 ^ 11 := by omega
    exact congrArg some (all_fields (by simp only [List.foldl, guardOf]; rw [first_field 25 7 _ rfl f0, next_field 25 22 3 _ rfl (bits_field w 24 22), next_field 22 19 3 _ rfl (bits_field w 21 19), next_field 19 16 3 _ rfl (bits_field w 18 16), next_field 16 5 11 _ rfl f4, next_field 5 4 1 _ rfl (bit_field w 4), next_field 4 0 4 _ rfl (bits_field w 3 0)]))
  rw [if_neg c] at h
  clear c
  by_cases c : bits w 18 10 = 2
  · rw [if_pos c] at h
    cases h
    have := bits_val 1024 512 2 rfl rfl rfl c
    clear c
    have f0 : 0x76 % 2 ^ 7 = w.toNat / 2 ^ 25 % 2 ^ 7 := by omega
    have f3 : 0x2 % 2 ^ 9 = w.toNat / 2 ^ 10 % 2 ^ 9 := by omega
    exact congrArg some (all_fields (by simp only [List.foldl, guardOf]; rw [first_field 25 7 _ rfl f0, next_field 25 22 3 _ rfl (bits_field w 24 22), next_field 22 19 3 _ rfl (bits_field w 21 19), next_field 19 10 9 _ rfl f3, next_field 10 5 5 _ rfl (bits_field w 9 5), next_field 5 4 1 _ rfl (bit_field w 4), next_field 4 0 4 _ rfl (bits_field w 3 0)]))
  rw [if_neg c] at h
  clear c
  by_cases c : bits w 15 5 = 96
  · rw [if_pos c] at h
    cases h
    have := bits_val 32 2048 96 rfl rfl rfl c
    clear c
    have f0 : 0x76 % 2 ^ 7 = w.toNat / 2 ^ 25 % 2 ^ 7 := by omega
    have f4 : 0x60 % 2 ^ 11 = w.toNat / 2 ^ 5 % 2 ^ 11 := by omega
    exact congrArg some (all_fields (by simp only [List.foldl, guardOf]; rw [first_field 25 7 _ rfl f0, next_field 25 22 3 _ rfl (bits_field w 24 22), next_field 22 19 3 _ rfl (bits_field w 21 19), next_field 19 16 3 _ rfl (bits_field w 18 16), next_field 16 5 11 _ rfl f4, next_field 5 4 1 _ rfl (bit_field w 4), next_field 4 0 4 _ rfl (bits_field w 3 0)]))
  rw [if_neg c] at h
  clear c
  by_cases c : bits w 15 5 = 128
  · rw [if_pos c] at h
    cases h
    have := bits_val 32 2048 128 rfl rfl rfl c
    clear c
    have f0 : 0x76 % 2 ^ 7 = w.toNat / 2 ^ 25 % 2 ^ 7 := by omega
    have f4 : 0x80 % 2 ^ 11 = w.toNat / 2 ^ 5 % 2 ^ 11 := by omega
    exact congrArg some (all_fields (by simp only [List.foldl, guardOf]; rw [first_field 25 7 _ rfl f0, next_field 25 22 3 _ rfl (bits_field w 24 22), next_field 22 19 3 _ rfl (bits_field w 21 19), next_field 19 16 3 _ rfl (bits_field w 18 16), next_field 16 5 11 _ rfl f4, next_field 5 4 1 _ rfl (bit_field w 4), next_field 4 0 4 _ rfl (bits_field w 3 0)]))
  rw [if_neg c] at h
  clear c
  by_cases c : bits w 15 8 = 20
  · rw [if_pos c] at h
    cases h
    have := bits_val 256 256 20 rfl rfl rfl c
    clear c
    have f0 : 0x76 % 2 ^ 7 = w.toNat / 2 ^ 25 % 2 ^ 7 := by omega
    have f4 : 0x14 % 2 ^ 8 = w.toNat / 2 ^ 8 % 2 ^ 8 := by omega
    exact congrArg some (all_fields (by simp only [List.foldl, guardOf]; rw [first_field 25 7 _ rfl f0, next_field 25 22 3 _ rfl (bits_field w 24 22), next_field 22 19 3 _ rfl (bits_field w 21 19), next_field 19 16 3 _ rfl (bits_field w 18 16), next_field 16 8 8 _ rfl f4, next_field 8 5 3 _ rfl (bits_field w 7 5), next_field 5 4 1 _ rfl (bit_field w 4), next_field 4 0 4 _ rfl (bits_field w 3 0)]))
  rw [if_neg c] at h
  clear c
  cases h

theorem decode77 (w : Word) (i : Instr) (hm : w.toNat / 33554432 % 128 = 119) (h : Sys2Proof.decode77 w = .ok i) : encode? i = some w := by
  have := w.isLt
  unfold Sys2Proof.decode77 at h
  by_cases c : bits w 18 5 = 0
  · rw [if_pos c] at h
    cases h
    have := bits_val 32 16384 0 rfl rfl rfl c
    clear c
    have f0 : 0x77 % 2 ^ 7 = w.toNat / 2 ^ 25 % 2 ^ 7 := by omega
    have f3 : 0x0 % 2 ^ 14 = w.toNat / 2 ^ 5 % 2 ^ 14 := by omega
    exact congrArg some (all_fields (by simp only [List.foldl, guardOf]; rw [first_field 25 7 _ rfl f0, next_field 25 22 3 _ rfl (bits_field w 24 22), next_field 22 19 3 _ rfl (bits_field w 21 19), next_field 19 5 14 _ rfl f3, next_field 5 4 1 _ rfl (bit_field w 4), next_field 4 0 4 _ rfl (bits_field w 3 0)]))
  rw [if_neg c] at h
  clear c
  by_cases c : bits w 18 10 = 1
  · rw [if_pos c] at h
    cases h
    have := bits_val 1024 512 1 rfl rfl rfl c
    clear c
    have f0 : 0x77 % 2 ^ 7 = w.toNat / 2 ^ 25 % 2 ^ 7 := by omega
    have f3 : 0x1 % 2 ^ 9 = w.toNat / 2 ^ 10 % 2 ^ 9 := by omega
    exact congrArg some (all_fields (by simp only [List.foldl, guardOf]; rw [first_field 25 7 _ rfl f0, next_field 25 22 3 _ rfl (bits_field w 24 22), next_field 22 19 3 _ rfl (bits_field w 21 19), next_field 19 10 9 _ rfl f3, next_field 10 5 5 _ rfl (bits_field w 9 5), next_field 5 4 1 _ rfl (bit_field w 4), next_field 4 0 4 _ rfl (bits_field w 3 0)]))
  rw [if_neg c] at h
  clear c
  by_cases c : bits w 15 7 = 16
  · rw [if_pos c] at h
    cases h
    have := bits_val 128 512 16 rfl rfl rfl c
    clear c
    have f0 : 0x77 % 2 ^ 7 = w.toNat / 2 ^ 25 % 2 ^ 7 := by omega
    have f4 : 0x10 % 2 ^ 9 = w.toNat / 2 ^ 7 % 2 ^ 9 := by omega
    exact congrArg some (all_fields (by simp only [List.foldl, guardOf]; rw [first_field 25 7 _ rfl f0, next_field 25 22 3 _ rfl (bits_field w 24 22), next_field 22 19 3 _ rfl (bits_field w 21 19), next_field 19 16 3 _ rfl (bits_field w 18 16), next_field 16 7 9 _ rfl f4, next_field 7 5 2 _ rfl (bits_field w 6 5), next_field 5 4 1 _ rfl (bit_field w 4), next_field 4 0 4 _ rfl (bits_field w 3 0)]))
  rw [if_neg c] at h
  clear c
  by_cases c : bits w 24 20 = 0 ∧ bits w 15 9 = 6
  · rw [if_pos c] at h
    cases h
    have := bits_val 1048576 32 0 rfl rfl rfl c.1
    have := bits_val 512 128 6 rfl rfl rfl c.2
    clear c
    have f0 : 0xEE0 % 2 ^ 12 = w.toNat / 2 ^ 20 % 2 ^ 12 := by omega
    have f2 : 0x6 % 2 ^ 7 = w.toNat / 2 ^ 9 % 2 ^ 7 := by omega
    exact congrArg some (all_fields (by simp only [List.foldl, guardOf]; rw [first_field 20 12 _ rfl f0, next_field 20 16 4 _ rfl (bits_field w 19 16), next_field 16 9 7 _ rfl f2, next_field 9 5 4 _ rfl (bits_field w 8 5), next_field 5 4 1 _ rfl (bit_field w 4), next_field 4 0 4 _ rfl (bits_field w 3 0)]))
  rw [if_neg c] at h
  clear c
  cases h

theorem decode78 (w : Word) (i : Instr) (hm : w.toNat / 33554432 % 128 = 120) (h : Sys2Proof.decode78 w = .ok i) : encode? i = some w := by
  have := w.isLt
  unfold Sys2Proof.decode78 at h
  by_cases c : bits w 9 0 = 0
  · rw [if_pos c] at h
    cases h
    have := bits_val 1 1024 0 rfl rfl rfl c
    clear c
    have f0 : 0x78 % 2 ^ 7 = w.toNat / 2 ^ 25 % 2 ^ 7 := by omega
    have f4 : 0x0 % 2 ^ 10 = w.toNat / 2 ^ 0 % 2 ^ 10 := by omega
    exact congrArg some (all_fields (by simp only [List.foldl]; rw [first_field 25 7 _ rfl f0, next_field 25 20 5 _ rfl (bits_field w 24 20), next_field 20 15 5 _ rfl (bits_field w 19 15), next_field 15 10 5 _ rfl (bits_field w 14 10), next_field 10 0 10 _ rfl f4]))
  rw [if_neg c] at h
  clear c
  by_cases c : bits w 24 0 = 1
  · rw [if_pos c] at h
    cases h
    have := bits_val 1 33554432 1 rfl rfl rfl c
    clear c
    have f0 : 0xF0000001 % 2 ^ 32 = w.toNat / 2 ^ 0 % 2 ^ 32 := by omega
    exact congrArg some (all_fields (by simp only [List.foldl]; rw [first_field 0 32 _ rfl f0]))
  rw [if_neg c] at h
  clear c
  by_cases c : bits w 19 0 = 2
  · rw [if_pos c] at h
    cases h
    have := bits_val 1 1048576 2 rfl rfl rfl c
    clear c
    have f0 : 0x78 % 2 ^ 7 = w.toNat / 2 ^ 25 % 2 ^ 7 := by omega
    have f2 : 0x2 % 2 ^ 20 = w.toNat / 2 ^ 0 % 2 ^ 20 := by omega
    exact congrArg some (all_fields (by simp only [List.foldl]; rw [first_field 25 7 _ rfl f0, next_field 25 20 5 _ rfl (bits_field w 24 20), next_field 20 0 20 _ rfl f2]))
  rw [if_neg c] at h
  clear c
  by_cases c : bits w 24 20 = 0 ∧ bits w 14 0 = 3
  · rw [if_pos c] at h
    cases h
    have := bits_val 1048576 32 0 rfl rfl rfl c.1
    have := bits_val 1 32768 3 rfl rfl rfl c.2
    clear c
    have f0 : 0xF00 % 2 ^ 12 = w.toNat / 2 ^ 20 % 2 ^ 12 := by omega
    have f2 : 0x3 % 2 ^ 15 = w.toNat / 2 ^ 0 % 2 ^ 15 := by omega
    exact congrArg some (all_fields (by simp only [List.foldl]; rw [first_field 20 12 _ rfl f0, next_field 20 15 5 _ rfl (bits_field w 19 15), next_field 15 0 15 _ rfl f2]))
  rw [if_neg c] at h
  clear c
  by_cases c : bits w 24 20 = 0 ∧ bits w 9 0 = 4
  · rw [if_pos c] at h
    cases h
    have := bits_val 1048576 32 0 rfl rfl rfl c.1
    have := bits_val 1 1024 4 rfl rfl rfl c.2
    clear c
    have f0 : 0xF00 % 2 ^ 12 = w.toNat / 2 ^ 20 % 2 ^ 12 := by omega
    have f3 : 0x4 % 2 ^ 10 = w.toNat / 2 ^ 0 % 2 ^ 10 := by omega
    exact congrArg some (all_fields (by simp only [List.foldl]; rw [first_field 20 12 _ rfl f0, next_field 20 15 5 _ rfl (bits_field w 19 15), next_field 15 10 5 _ rfl (bits_field w 14 10), next_field 10 0 10 _ rfl f3]))
  rw [if_neg c] at h
  clear c
  by_cases c : bits w 14 0 = 5
  · rw [if_pos c] at h
    cases h
    have := bits_val 1 32768 5 rfl rfl rfl c
    clear c
    have f0 : 0x78 % 2 ^ 7 = w.toNat / 2 ^ 25 % 2 ^ 7 := by omega
    have f3 : 0x5 % 2 ^ 15 = w.toNat / 2 ^ 0 % 2 ^ 15 := by omega
    exact congrArg some (all_fields (by simp only [List.foldl]; rw [first_field 25 7 _ rfl f0, next_field 25 20 5 _ rfl (bits_field w 24 20), next_field 20 15 5 _ rfl (bits_field w 19 15), next_field 15 0 15 _ rfl f3]))
  rw [if_neg c] at h
  clear c
  by_cases c : bits w 24 20 = 0 ∧ bits w 14 0 = 6
  · rw [if_pos c] at h
    cases h
    have := bits_val 1048576 32 0 rfl rfl rfl c.1
    have := bits_val 1 32768 6 rfl rfl rfl c.2
    clear c
    have f0 : 0xF00 % 2 ^ 12 = w.toNat / 2 ^ 20 % 2 ^ 12 := by omega
    have f2 : 0x6 % 2 ^ 15 = w.toNat / 2 ^ 0 % 2 ^ 15 := by omega
    exact congrArg some (all_fields (by simp only [List.foldl]; rw [first_field 20 12 _ rfl f0, next_field 20 15 5 _ rfl (bits_field w 19 15), next_field 15 0 15 _ rfl f2]))
  rw [if_neg c] at h
  clear c
  by_cases c : bits w 19 15 = 0 ∧ bits w 9 0 = 7
  · rw [if_pos c] at h
    cases h
    have := bits_val 32768 32 0 rfl rfl rfl c.1
    have := bits_val 1 1024 7 rfl rfl rfl c.2
    clear c
    have f0 : 0x78 % 2 ^ 7 = w.toNat / 2 ^ 25 % 2 ^ 7 := by omega
    have f2 : 0x0 % 2 ^ 5 = w.toNat / 2 ^ 15 % 2 ^ 5 := by omega
    have f4 : 0x7 % 2 ^ 10 = w.toNat / 2 ^ 0 % 2 ^ 10 := by omega
    exact congrArg some (all_fields (by simp only [List.foldl]; rw [first_field 25 7 _ rfl f0, next_field 25 20 5 _ rfl (bits_field w 24 20), next_field 20 15 5 _ rfl f2, next_field 15 10 5 _ rfl (bits_field w 14 10), next_field 10 0 10 _ rfl f4]))
  rw [if_neg c] at h
  clear c
  cases h

theorem decode79 (w : Word) (i : Instr) (hm : w.toNat / 33554432 % 128 = 121) (h : Sys2Proof.decode79 w = .ok i) : encode? i = some w := by
  have := w.isLt
  unfold Sys2Proof.decode79 at h
  by_cases c : bits w 12 7 = 0
  · rw [if_pos c] at h
    cases h
    have := bits_val 128 64 0 rfl rfl rfl c
    clear c
    have f0 : 0x79 % 2 ^ 7 = w.toNat / 2 ^ 25 % 2 ^ 7 := by omega
    have f3 : 0x0 % 2 ^ 6 = w.toNat / 2 ^ 7 % 2 ^ 6 := by omega
    exact congrArg some (all_fields (by simp only [List.foldl, guardOf]; rw [first_field 25 7 _ rfl f0, next_field 25 19 6 _ rfl (bits_field w 24 19), next_field 19 13 6 _ rfl (bits_field w 18 13), next_field 13 7 6 _ rfl f3, next_field 7 6 1 _ rfl (bit_field w 6), next_field 6 5 1 _ rfl (bit_field w 5), next_field 5 4 1 _ rfl (bit_field w 4), next_field 4 0 4 _ rfl (bits_field w 3 0)]))
  rw [if_neg c] at h
  clear c
  by_cases c : bits w 12 7 = 1 ∧ bits w 5 5 = 0
  · rw [if_pos c] at h
    cases h
    have := bits_val 128 64 1 rfl rfl rfl c.1
    have := bits_val 32 2 0 rfl rfl rfl c.2
    clear c
    have f0 : 0x79 % 2 ^ 7 = w.toNat / 2 ^ 25 % 2 ^ 7 := by omega
    have f3 : 0x1 % 2 ^ 6 = w.toNat / 2 ^ 7 % 2 ^ 6 := by omega
    have f5 : 0x0 % 2 ^ 1 = w.toNat / 2 ^ 5 % 2 ^ 1 := by omega
    exact congrArg some (all_fields (by simp only [List.foldl, guardOf]; rw [first_field 25 7 _ rfl f0, next_field 25 19 6 _ rfl (bits_field w 24 19), next_field 19 13 6 _ rfl (bits_field w 18 13), next_field 13 7 6 _ rfl f3, next_field 7 6 1 _ rfl (bit_field w 6), next_field 6 5 1 _ rfl f5, next_field 5 4 1 _ rfl (bit_field w 4), next_field 4 0 4 _ rfl (bits_field w 3 0)]))
  rw [if_neg c] at h
  clear c
  by_cases c : bits w 12 7 = 2 ∧ bits w 5 5 = 0
  · rw [if_pos c] at h
    cases h
    have := bits_val 128 64 2 rfl rfl rfl c.1
    have := bits_val 32 2 0 rfl rfl rfl c.2
    clear c
    have f0 : 0x79 % 2 ^ 7 = w.toNat / 2 ^ 25 % 2 ^ 7 := by omega
    have f3 : 0x2 % 2 ^ 6 = w.toNat / 2 ^ 7 % 2 ^ 6 := by omega
    have f5 : 0x0 % 2 ^ 1 = w.toNat / 2 ^ 5 % 2 ^ 1 := by omega
    exact congrArg some (all_fields (by simp only [List.foldl, guardOf]; rw [first_field 25 7 _ rfl f0, next_field 25 19 6 _ rfl (bits_field w 24 19), next_field 19 13 6 _ rfl (bits_field w 18 13), next_field 13 7 6 _ rfl f3, next_field 7 6 1 _ rfl (bit_field w 6), next_field 6 5 1 _ rfl f5, next_field 5 4 1 _ rfl (bit_field w 4), next_field 4 0 4 _ rfl (bits_field w 3 0)]))
  rw [if_neg c] at h
  clear c
  by_cases c : bits w 12 7 = 3 ∧ bits w 5 5 = 0
  · rw [if_pos c] at h
    cases h
    have := bits_val 128 64 3 rfl rfl rfl c.1
    have := bits_val 32 2 0 rfl rfl rfl c.2
    clear c
    have f0 : 0x79 % 2 ^ 7 = w.toNat / 2 ^ 25 % 2 ^ 7 := by omega
    have f3 : 0x3 % 2 ^ 6 = w.toNat / 2 ^ 7 % 2 ^ 6 := by omega
    have f5 : 0x0 % 2 ^ 1 = w.toNat / 2 ^ 5 % 2 ^ 1 := by omega
    exact congrArg some (all_fields (by simp only [List.foldl, guardOf]; rw [first_field 25 7 _ rfl f0, next_field 25 19 6 _ rfl (bits_field w 24 19), next_field 19 13 6 _ rfl (bits_field w 18 13), next_field 13 7 6 _ rfl f3, next_field 7 6 1 _ rfl (bit_field w 6), next_field 6 5 1 _ rfl f5, next_field 5 4 1 _ rfl (bit_field w 4), next_field 4 0 4 _ rfl (bits_field w 3 0)]))
  rw [if_neg c] at h
  clear c
  by_cases c : bits w 12 7 = 4 ∧ bits w 5 5 = 0
  · rw [if_pos c] at h
    cases h
    have := bits_val 128 64 4 rfl rfl rfl c.1
    have := bits_val 32 2 0 rfl rfl rfl c.2
    clear c
    have f0 : 0x79 % 2 ^ 7 = w.toNat / 2 ^ 25 % 2 ^ 7 := by omega
    have f3 : 0x4 % 2 ^ 6 = w.toNat / 2 ^ 7 % 2 ^ 6 := by omega
    have f5 : 0x0 % 2 ^ 1 = w.toNat / 2 ^ 5 % 2 ^ 1 := by omega
    exact congrArg some (all_fields (by simp only [List.foldl, guardOf]; rw [first_field 25 7 _ rfl f0, next_field 25 19 6 _ rfl (bits_field w 24 19), next_field 19 13 6 _ rfl (bits_field w 18 13), next_field 13 7 6 _ rfl f3, next_field 7 6 1 _ rfl (bit_field w 6), next_field 6 5 1 _ rfl f5, next_field 5 4 1 _ rfl (bit_field w 4), next_field 4 0 4 _ rfl (bits_field w 3 0)]))
  rw [if_neg c] at h
  clear c
  by_cases c : bits w 12 7 = 5 ∧ bits w 5 5 = 0
  · rw [if_pos c] at h
    cases h
    have := bits_val 128 64 5 rfl rfl rfl c.1
    have := bits_val 32 2 0 rfl rfl rfl c.2
    clear c
    have f0 : 0x79 % 2 ^ 7 = w.toNat / 2 ^ 25 % 2 ^ 7 := by omega
    have f3 : 0x5 % 2 ^ 6 = w.toNat / 2 ^ 7 % 2 ^ 6 := by omega
    have f5 : 0x0 % 2 ^ 1 = w.toNat / 2 ^ 5 % 2 ^ 1 := by omega
    exact congrArg some (all_fields (by simp only [List.foldl, guardOf]; rw [first_field 25 7 _ rfl f0, next_field 25 19 6 _ rfl (bits_field w 24 19), next_field 19 13 6 _ rfl (bits_field w 18 13), next_field 13 7 6 _ rfl f3, next_field 7 6 1 _ rfl (bit_field w 6), next_field 6 5 1 _ rfl f5, next_field 5 4 1 _ rfl (bit_field w 4), next_field 4 0 4 _ rfl (bits_field w 3 0)]))
  rw [if_neg c] at h
  clear c
  by_cases c : bits w 12 7 = 6 ∧ bits w 5 5 = 0
  · rw [if_pos c] at h
    cases h
    have := bits_val 128 64 6 rfl rfl rfl c.1
    have := bits_val 32 2 0 rfl rfl rfl c.2
    clear c
    have f0 : 0x79 % 2 ^ 7 = w.toNat / 2 ^ 25 % 2 ^ 7 := by omega
    have f3 : 0x6 % 2 ^ 6 = w.toNat / 2 ^ 7 % 2 ^ 6 := by omega
    have f5 : 0x0 % 2 ^ 1 = w.toNat / 2 ^ 5 % 2 ^ 1 := by omega
    exact congrArg some (all_fields (by simp only [List.foldl, guardOf]; rw [first_field 25 7 _ rfl f0, next_field 25 19 6 _ rfl (bits_field w 24 19), next_field 19 13 6 _ rfl (bits_field w 18 13), next_field 13 7 6 _ rfl f3, next_field 7 6 1 _ rfl (bit_field w 6), next_field 6 5 1 _ rfl f5, next_field 5 4 1 _ rfl (bit_field w 4), next_field 4 0 4 _ rfl (bits_field w 3 0)]))
  rw [if_neg c] at h
  clear c
  by_cases c : bits w 12 7 = 7 ∧ bits w 5 5 = 0
  · rw [if_pos c] at h
    cases h
    have := bits_val 128 64 7 rfl rfl rfl c.1
    have := bits_val 32 2 0 rfl rfl rfl c.2
    clear c
    have f0 : 0x79 % 2 ^ 7 = w.toNat / 2 ^ 25 % 2 ^ 7 := by omega
    have f3 : 0x7 % 2 ^ 6 = w.toNat / 2 ^ 7 % 2 ^ 6 := by omega
    have f5 : 0x0 % 2 ^ 1 = w.toNat / 2 ^ 5 % 2 ^ 1 := by omega
    exact congrArg some (all_fields (by simp only [List.foldl, guardOf]; rw [first_field 25 7 _ rfl f0, next_field 25 19 6 _ rfl (bits_field w 24 19), next_field 19 13 6 _ rfl (bits_field w 18 13), next_field 13 7 6 _ rfl f3, next_field 7 6 1 _ rfl (bit_field w 6), next_field 6 5 1 _ rfl f5, next_field 5 4 1 _ rfl (bit_field w 4), next_field 4 0 4 _ rfl (bits_field w 3 0)]))
  rw [if_neg c] at h
  clear c
  by_cases c : bits w 12 7 = 8 ∧ bits w 5 5 = 0
  · rw [if_pos c] at h
    cases h
    have := bits_val 128 64 8 rfl rfl rfl c.1
    have := bits_val 32 2 0 rfl rfl rfl c.2
    clear c
    have f0 : 0x79 % 2 ^ 7 = w.toNat / 2 ^ 25 % 2 ^ 7 := by omega
    have f3 : 0x8 % 2 ^ 6 = w.toNat / 2 ^ 7 % 2 ^ 6 := by omega
    have f5 : 0x0 % 2 ^ 1 = w.toNat / 2 ^ 5 % 2 ^ 1 := by omega
    exact congrArg some (all_fields (by simp only [List.foldl, guardOf]; rw [first_field 25 7 _ rfl f0, next_field 25 19 6 _ rfl (bits_field w 24 19), next_field 19 13 6 _ rfl (bits_field w 18 13), next_field 13 7 6 _ rfl f3, next_field 7 6 1 _ rfl (bit_field w 6), next_field 6 5 1 _ rfl f5, next_field 5 4 1 _ rfl (bit_field w 4), next_field 4 0 4 _ rfl (bits_field w 3 0)]))
  rw [if_neg c] at h
  clear c
  cases h

theorem decode7A (w : Word) (i : Instr) (hm : w.toNat / 33554432 % 128 = 122) (h : Sys2Proof.decode7A w = .ok i) : encode? i = some w := by
  have := w.isLt
  unfold Sys2Proof.decode7A at h
  by_cases c : bits w 12 7 = 0
  · rw [if_pos c] at h
    cases h
    have := bits_val 128 64 0 rfl rfl rfl c
    clear c
    have f0 : 0x7A % 2 ^ 7 = w.toNat / 2 ^ 25 % 2 ^ 7 := by omega
    have f3 : 0x0 % 2 ^ 6 = w.toNat / 2 ^ 7 % 2 ^ 6 := by omega
    exact congrArg some (all_fields (by simp only [List.foldl, guardOf]; rw [first_field 25 7 _ rfl f0, next_field 25 19 6 _ rfl (bits_field w 24 19), next_field 19 13 6 _ rfl (bits_field w 18 13), next_field 13 7 6 _ rfl f3, next_field 7 6 1 _ rfl (bit_field w 6), next_field 6 5 1 _ rfl (bit_field w 5), next_field 5 4 1 _ rfl (bit_field w 4), next_field 4 0 4 _ rfl (bits_field w 3 0)]))
  rw [if_neg c] at h
  clear c
  by_cases c : bits w 12 7 = 2
  · rw [if_pos c] at h
    cases h
    have := bits_val 128 64 2 rfl rfl rfl c
    clear c
    have f0 : 0x7A % 2 ^ 7 = w.toNat / 2 ^ 25 % 2 ^ 7 := by omega
    have f3 : 0x2 % 2 ^ 6 = w.toNat / 2 ^ 7 % 2 ^ 6 := by omega
    exact congrArg some (all_fields (by simp only [List.foldl, guardOf]; rw [first_field 25 7 _ rfl f0, next_field 25 19 6 _ rfl (bits_field w 24 19), next_field 19 13 6 _ rfl (bits_field w 18 13), next_field 13 7 6 _ rfl f3, next_field 7 6 1 _ rfl (bit_field w 6), next_field 6 5 1 _ rfl (bit_field w 5), next_field 5 4 1 _ rfl (bit_field w 4), next_field 4 0 4 _ rfl (bits_field w 3 0)]))
  rw [if_neg c] at h
  clear c
  by_cases c : bits w 12 7 = 1 ∧ bits w 5 5 = 0
  · rw [if_pos c] at h
    cases h
    have := bits_val 128 64 1 rfl rfl rfl c.1
    have := bits_val 32 2 0 rfl rfl rfl c.2
    clear c
    have f0 : 0x7A % 2 ^ 7 = w.toNat / 2 ^ 25 % 2 ^ 7 := by omega
    have f3 : 0x1 % 2 ^ 6 = w.toNat / 2 ^ 7 % 2 ^ 6 := by omega
    have f5 : 0x0 % 2 ^ 1 = w.toNat / 2 ^ 5 % 2 ^ 1 := by omega
    exact congrArg some (all_fields (by simp only [List.foldl, guardOf]; rw [first_field 25 7 _ rfl f0, next_field 25 19 6 _ rfl (bits_field w 24 19), next_field 19 13 6 _ rfl (bits_field w 18 13), next_field 13 7 6 _ rfl f3, next_field 7 6 1 _ rfl (bit_field w 6), next_field 6 5 1 _ rfl f5, next_field 5 4 1 _ rfl (bit_field w 4), next_field 4 0 4 _ rfl (bits_field w 3 0)]))
  rw [if_neg c] at h
  clear c
  cases h

theorem decode7B (w : Word) (i : Instr) (hm : w.toNat / 33554432 % 128 = 123) (h : Sys2Proof.decode7B w = .ok i) : encode? i = some w := by
  have := w.isLt
  unfold Sys2Proof.decode7B at h
  by_cases c : bits w 9 0 = 0
  · rw [if_pos c] at h
    cases h
    have := bits_val 1 1024 0 rfl rfl rfl c
    clear c
    have f0 : 0x7B % 2 ^ 7 = w.toNat / 2 ^ 25 % 2 ^ 7 := by omega
    have f2 : 0x0 % 2 ^ 10 = w.toNat / 2 ^ 0 % 2 ^ 10 := by omega
    exact congrArg some (all_fields (by simp only [List.foldl]; rw [first_field 25 7 _ rfl f0, next_field 25 10 15 _ rfl (bits_field w 24 10), next_field 10 0 10 _ rfl f2]))
  rw [if_neg c] at h
  clear c
  by_cases c : bits w 24 0 = 1
  · rw [if_pos c] at h
    cases h
    have := bits_val 1 33554432 1 rfl rfl rfl c
    clear c
    have f0 : 0xF6000001 % 2 ^ 32 = w.toNat / 2 ^ 0 % 2 ^ 32 := by omega
    exact congrArg some (all_fields (by simp only [List.foldl]; rw [first_field 0 32 _ rfl f0]))
  rw [if_neg c] at h
  clear c
  by_cases c : bits w 24 20 = 0 ∧ bits w 14 0 = 2
  · rw [if_pos c] at h
    cases h
    have := bits_val 1048576 32 0 rfl rfl rfl c.1
    have := bits_val 1 32768 2 rfl rfl rfl c.2
    clear c
    have f0 : 0xF60 % 2 ^ 12 = w.toNat / 2 ^ 20 % 2 ^ 12 := by omega
    have f2 : 0x2 % 2 ^ 15 = w.toNat / 2 ^ 0 % 2 ^ 15 := by omega
    exact congrArg some (all_fields (by simp only [List.foldl]; rw [first_field 20 12 _ rfl f0, next_field 20 15 5 _ rfl (bits_field w 19 15), next_field 15 0 15 _ rfl f2]))
  rw [if_neg c] at h
  clear c
  by_cases c : bits w 19 0 = 3
  · rw [if_pos c] at h
    cases h
    have := bits_val 1 1048576 3 rfl rfl rfl c
    clear c
    have f0 : 0x7B % 2 ^ 7 = w.toNat / 2 ^ 25 % 2 ^ 7 := by omega
    have f2 : 0x3 % 2 ^ 20 = w.toNat / 2 ^ 0 % 2 ^ 20 := by omega
    exact congrArg some (all_fields (by simp only [List.foldl]; rw [first_field 25 7 _ rfl f0, next_field 25 20 5 _ rfl (bits_field w 24 20), next_field 20 0 20 _ rfl f2]))
  rw [if_neg c] at h
  clear c
  by_cases c : bits w 24 0 = 4
  · rw [if_pos c] at h
    cases h
    have := bits_val 1 33554432 4 rfl rfl rfl c
    clear c
    have f0 : 0xF6000004 % 2 ^ 32 = w.toNat / 2 ^ 0 % 2 ^ 32 := by omega
    exact congrArg some (all_fields (by simp only [List.foldl]; rw [first_field 0 32 _ rfl f0]))
  rw [if_neg c] at h
  clear c
  by_cases c : bits w 24 0 = 5
  · rw [if_pos c] at h
    cases h
    have := bits_val 1 33554432 5 rfl rfl rfl c
    clear c
    have f0 : 0xF6000005 % 2 ^ 32 = w.toNat / 2 ^ 0 % 2 ^ 32 := by omega
    exact congrArg some (all_fields (by simp only [List.foldl]; rw [first_field 0 32 _ rfl f0]))
  rw [if_neg c] at h
  clear c
  by_cases c : bits w 9 0 = 6
  · rw [if_pos c] at h
    cases h
    have := bits_val 1 1024 6 rfl rfl rfl c
    clear c
    have f0 : 0x7B % 2 ^ 7 = w.toNat / 2 ^ 25 % 2 ^ 7 := by omega
    have f4 : 0x6 % 2 ^ 10 = w.toNat / 2 ^ 0 % 2 ^ 10 := by omega
    exact congrArg some (all_fields (by simp only [List.foldl]; rw [first_field 25 7 _ rfl f0, next_field 25 20 5 _ rfl (bits_field w 24 20), next_field 20 15 5 _ rfl (bits_field w 19 15), next_field 15 10 5 _ rfl (bits_field w 14 10), next_field 10 0 10 _ rfl f4]))
  rw [if_neg c] at h
  clear c
  by_cases c : bits w 14 0 = 7
  · rw [if_pos c] at h
    cases h
    have := bits_val 1 32768 7 rfl rfl rfl c
    clear c
    have f0 : 0x7B % 2 ^ 7 = w.toNat / 2 ^ 25 % 2 ^ 7 := by omega
    have f3 : 0x7 % 2 ^ 15 = w.toNat / 2 ^ 0 % 2 ^ 15 := by omega
    exact congrArg some (all_fields (by simp only [List.foldl]; rw [first_field 25 7 _ rfl f0, next_field 25 20 5 _ rfl (bits_field w 24 20), next_field 20 15 5 _ rfl (bits_field w 19 15), next_field 15 0 15 _ rfl f3]))
  rw [if_neg c] at h
  clear c
  by_cases c : bits w 14 0 = 8
  · rw [if_pos c] at h
    cases h
    have := bits_val 1 32768 8 rfl rfl rfl c
    clear c
    have f0 : 0x7B % 2 ^ 7 = w.toNat / 2 ^ 25 % 2 ^ 7 := by omega
    have f3 : 0x8 % 2 ^ 15 = w.toNat / 2 ^ 0 % 2 ^ 15 := by omega
    exact congrArg some (all_fields (by simp only [List.foldl]; rw [first_field 25 7 _ rfl f0, next_field 25 20 5 _ rfl (bits_field w 24 20), next_field 20 15 5 _ rfl (bits_field w 19 15), next_field 15 0 15 _ rfl f3]))
  rw [if_neg c] at h
  clear c
  cases h

theorem decode7F (w : Word) (i : Instr) (hm : w.toNat / 33554432 % 128 = 127) (h : Sys2Proof.decode7F w = .ok i) : encode? i = some w := by
  have := w.isLt
  unfold Sys2Proof.decode7F at h
  by_cases c : bits w 24 21 = 0
  · rw [if_pos c] at h
    cases h
    have := bits_val 2097152 16 0 rfl rfl rfl c
    clear c
    have f0 : 0x7F0 % 2 ^ 11 = w.toNat / 2 ^ 21 % 2 ^ 11 := by omega
    exact congrArg some (all_fields (by simp only [List.foldl]; rw [first_field 21 11 _ rfl f0, next_field 21 0 21 _ rfl (bits_field w 20 0)]))
  rw [if_neg c] at h
  clear c
  by_cases c : bits w 24 21 = 1 ∧ bits w 14 0 = 0
  · rw [if_pos c] at h
    cases h
    have := bits_val 2097152 16 1 rfl rfl rfl c.1
    have := bits_val 1 32768 0 rfl rfl rfl c.2
    clear c
    have f0 : 0x7F1 % 2 ^ 11 = w.toNat / 2 ^ 21 % 2 ^ 11 := by omega
    have f4 : 0x0 % 2 ^ 15 = w.toNat / 2 ^ 0 % 2 ^ 15 := by omega
    exact congrArg some (all_fields (by simp only [List.foldl]; rw [first_field 21 11 _ rfl f0, next_field 21 19 2 _ rfl (bits_field w 20 19), next_field 19 17 2 _ rfl (bits_field w 18 17), next_field 17 15 2 _ rfl (bits_field w 16 15), next_field 15 0 15 _ rfl f4]))
  rw [if_neg c] at h
  clear c
  by_cases c : bits w 24 21 = 2 ∧ bits w 7 0 = 0
  · rw [if_pos c] at h
    cases h
    have := bits_val 2097152 16 2 rfl rfl rfl c.1
    have := bits_val 1 256 0 rfl rfl rfl c.2
    clear c
    have f0 : 0x7F2 % 2 ^ 11 = w.toNat / 2 ^ 21 % 2 ^ 11 := by omega
    have f5 : 0x0 % 2 ^ 8 = w.toNat / 2 ^ 0 % 2 ^ 8 := by omega
    exact congrArg some (all_fields (by simp only [List.foldl]; rw [first_field 21 11 _ rfl f0, next_field 21 15 6 _ rfl (bits_field w 20 15), next_field 15 14 1 _ rfl (bit_field w 14), next_field 14 9 5 _ rfl (bits_field w 13 9), next_field 9 8 1 _ rfl (bit_field w 8), next_field 8 0 8 _ rfl f5]))
  rw [if_neg c] at h
  clear c
  by_cases c : bits w 24 21 = 3 ∧ bits w 14 14 = 0 ∧ bits w 4 0 = 0
  · rw [if_pos c] at h
    cases h
    have := bits_val 2097152 16 3 rfl rfl rfl c.1
    have := bits_val 16384 2 0 rfl rfl rfl c.2.1
    have := bits_val 1 32 0 rfl rfl rfl c.2.2
    clear c
    have f0 : 0x7F3 % 2 ^ 11 = w.toNat / 2 ^ 21 % 2 ^ 11 := by omega
    have f4 : 0x0 % 2 ^ 1 = w.toNat / 2 ^ 14 % 2 ^ 1 := by omega
    have f8 : 0x0 % 2 ^ 5 = w.toNat / 2 ^ 0 % 2 ^ 5 := by omega
    exact congrArg some (all_fields (by simp only [List.foldl]; rw [first_field 21 11 _ rfl f0, next_field 21 18 3 _ rfl (bits_field w 20 18), next_field 18 17 1 _ rfl (bit_field w 17), next_field 17 15 2 _ rfl (bits_field w 16 15), next_field 15 14 1 _ rfl f4, next_field 14 12 2 _ rfl (bits_field w 13 12), next_field 12 9 3 _ rfl (bits_field w 11 9), next_field 9 5 4 _ rfl (bits_field w 8 5), next_field 5 0 5 _ rfl f8]))
  rw [if_neg c] at h
  clear c
  by_cases c : bits w 24 21 = 4
  · rw [if_pos c] at h
    cases h
    have := bits_val 2097152 16 4 rfl rfl rfl c
    clear c
    have f0 : 0x7F4 % 2 ^ 11 = w.toNat / 2 ^ 21 % 2 ^ 11 := by omega
    exact congrArg some (all_fields (by simp only [List.foldl]; rw [first_field 21 11 _ rfl f0, next_field 21 14 7 _ rfl (bits_field w 20 14), next_field 14 7 7 _ rfl (bits_field w 13 7), next_field 7 0 7 _ rfl (bits_field w 6 0)]))
  rw [if_neg c] at h
  clear c
  split at h <;> cases h

/-- A word that decodes is the word of its instruction. -/
theorem decode_exact (w : Word) (i : Instr) (h : decode w = .ok i) : encode? i = some w := by
  unfold decode at h
  split at h
  · next e => exact decode01 w i (by rw [bits_toNat] at e; exact e) h
  · next e => exact decode02 w i (by rw [bits_toNat] at e; exact e) h
  · next e => exact decode03 w i (by rw [bits_toNat] at e; exact e) h
  · next e => exact decode04 w i (by rw [bits_toNat] at e; exact e) h
  · next e => exact decode05 w i (by rw [bits_toNat] at e; exact e) h
  · next e => exact decode08 w i (by rw [bits_toNat] at e; exact e) h
  · next e => exact decode09 w i (by rw [bits_toNat] at e; exact e) h
  · next e => exact decode0A w i (by rw [bits_toNat] at e; exact e) h
  · next e => exact decode0B w i (by rw [bits_toNat] at e; exact e) h
  · next e => exact decode10 w i (by rw [bits_toNat] at e; exact e) h
  · next e => exact decode11 w i (by rw [bits_toNat] at e; exact e) h
  · next e => exact decode12 w i (by rw [bits_toNat] at e; exact e) h
  · next e => exact decode13 w i (by rw [bits_toNat] at e; exact e) h
  · next e => exact decode14 w i (by rw [bits_toNat] at e; exact e) h
  · next e => exact decode15 w i (by rw [bits_toNat] at e; exact e) h
  · next e => exact decode16 w i (by rw [bits_toNat] at e; exact e) h
  · next e => exact decode17 w i (by rw [bits_toNat] at e; exact e) h
  · next e => exact decode18 w i (by rw [bits_toNat] at e; exact e) h
  · next e => exact decode19 w i (by rw [bits_toNat] at e; exact e) h
  · next e => exact decode1A w i (by rw [bits_toNat] at e; exact e) h
  · next e => exact decode1B w i (by rw [bits_toNat] at e; exact e) h
  · next e => exact decode1C w i (by rw [bits_toNat] at e; exact e) h
  · next e => exact decode1D w i (by rw [bits_toNat] at e; exact e) h
  · next e => exact decode1E w i (by rw [bits_toNat] at e; exact e) h
  · next e => exact decode1F w i (by rw [bits_toNat] at e; exact e) h
  · next e => exact decode20 w i (by rw [bits_toNat] at e; exact e) h
  · next e => exact decode21 w i (by rw [bits_toNat] at e; exact e) h
  · next e => exact decode22 w i (by rw [bits_toNat] at e; exact e) h
  · next e => exact decode23 w i (by rw [bits_toNat] at e; exact e) h
  · next e => exact decode24 w i (by rw [bits_toNat] at e; exact e) h
  · next e => exact decode25 w i (by rw [bits_toNat] at e; exact e) h
  · next e => exact decode26 w i (by rw [bits_toNat] at e; exact e) h
  · next e => exact decode27 w i (by rw [bits_toNat] at e; exact e) h
  · next e => exact decode28 w i (by rw [bits_toNat] at e; exact e) h
  · next e => exact decode29 w i (by rw [bits_toNat] at e; exact e) h
  · next e => exact decode2A w i (by rw [bits_toNat] at e; exact e) h
  · next e => exact decode30 w i (by rw [bits_toNat] at e; exact e) h
  · next e => exact decode31 w i (by rw [bits_toNat] at e; exact e) h
  · next e => exact decode32 w i (by rw [bits_toNat] at e; exact e) h
  · next e => exact decode33 w i (by rw [bits_toNat] at e; exact e) h
  · next e => exact decode34 w i (by rw [bits_toNat] at e; exact e) h
  · next e => exact decode38 w i (by rw [bits_toNat] at e; exact e) h
  · next e => exact decode39 w i (by rw [bits_toNat] at e; exact e) h
  · next e => exact decode3A w i (by rw [bits_toNat] at e; exact e) h
  · next e => exact decode3B w i (by rw [bits_toNat] at e; exact e) h
  · next e => exact decode3C w i (by rw [bits_toNat] at e; exact e) h
  · next e => exact decode3D w i (by rw [bits_toNat] at e; exact e) h
  · next e => exact decode3E w i (by rw [bits_toNat] at e; exact e) h
  · next e => exact decode3F w i (by rw [bits_toNat] at e; exact e) h
  · next e => exact decode40 w i (by rw [bits_toNat] at e; exact e) h
  · next e => exact decode41 w i (by rw [bits_toNat] at e; exact e) h
  · next e => exact decode42 w i (by rw [bits_toNat] at e; exact e) h
  · next e => exact decode43 w i (by rw [bits_toNat] at e; exact e) h
  · next e => exact decode44 w i (by rw [bits_toNat] at e; exact e) h
  · next e => exact decode45 w i (by rw [bits_toNat] at e; exact e) h
  · next e => exact decode46 w i (by rw [bits_toNat] at e; exact e) h
  · next e => exact decode47 w i (by rw [bits_toNat] at e; exact e) h
  · next e => exact decode48 w i (by rw [bits_toNat] at e; exact e) h
  · next e => exact decode49 w i (by rw [bits_toNat] at e; exact e) h
  · next e => exact decode4A w i (by rw [bits_toNat] at e; exact e) h
  · next e => exact decode4B w i (by rw [bits_toNat] at e; exact e) h
  · next e => exact decode4C w i (by rw [bits_toNat] at e; exact e) h
  · next e => exact decode4D w i (by rw [bits_toNat] at e; exact e) h
  · next e => exact decode4E w i (by rw [bits_toNat] at e; exact e) h
  · next e => exact decode4F w i (by rw [bits_toNat] at e; exact e) h
  · next e => exact decode50 w i (by rw [bits_toNat] at e; exact e) h
  · next e => exact decode51 w i (by rw [bits_toNat] at e; exact e) h
  · next e => exact decode52 w i (by rw [bits_toNat] at e; exact e) h
  · next e => exact decode53 w i (by rw [bits_toNat] at e; exact e) h
  · next e => exact decode54 w i (by rw [bits_toNat] at e; exact e) h
  · next e => exact decode55 w i (by rw [bits_toNat] at e; exact e) h
  · next e => exact decode56 w i (by rw [bits_toNat] at e; exact e) h
  · next e => exact decode57 w i (by rw [bits_toNat] at e; exact e) h
  · next e => exact decode58 w i (by rw [bits_toNat] at e; exact e) h
  · next e => exact decode59 w i (by rw [bits_toNat] at e; exact e) h
  · next e => exact decode5A w i (by rw [bits_toNat] at e; exact e) h
  · next e => exact decode5B w i (by rw [bits_toNat] at e; exact e) h
  · next e => exact decode5C w i (by rw [bits_toNat] at e; exact e) h
  · next e => exact decode5D w i (by rw [bits_toNat] at e; exact e) h
  · next e => exact decode5E w i (by rw [bits_toNat] at e; exact e) h
  · next e => exact decode5F w i (by rw [bits_toNat] at e; exact e) h
  · next e => exact decode60 w i (by rw [bits_toNat] at e; exact e) h
  · next e => exact decode61 w i (by rw [bits_toNat] at e; exact e) h
  · next e => exact decode62 w i (by rw [bits_toNat] at e; exact e) h
  · next e => exact decode63 w i (by rw [bits_toNat] at e; exact e) h
  · next e => exact decode64 w i (by rw [bits_toNat] at e; exact e) h
  · next e => exact decode65 w i (by rw [bits_toNat] at e; exact e) h
  · next e => exact decode66 w i (by rw [bits_toNat] at e; exact e) h
  · next e => exact decode67 w i (by rw [bits_toNat] at e; exact e) h
  · next e => exact decode68 w i (by rw [bits_toNat] at e; exact e) h
  · next e => exact decode69 w i (by rw [bits_toNat] at e; exact e) h
  · next e => exact decode6A w i (by rw [bits_toNat] at e; exact e) h
  · next e => exact decode6B w i (by rw [bits_toNat] at e; exact e) h
  · next e => exact decode6C w i (by rw [bits_toNat] at e; exact e) h
  · next e => exact decode6D w i (by rw [bits_toNat] at e; exact e) h
  · next e => exact decode6E w i (by rw [bits_toNat] at e; exact e) h
  · next e => exact decode6F w i (by rw [bits_toNat] at e; exact e) h
  · next e => exact decode70 w i (by rw [bits_toNat] at e; exact e) h
  · next e => exact decode71 w i (by rw [bits_toNat] at e; exact e) h
  · next e => exact decode72 w i (by rw [bits_toNat] at e; exact e) h
  · next e => exact decode73 w i (by rw [bits_toNat] at e; exact e) h
  · next e => exact decode74 w i (by rw [bits_toNat] at e; exact e) h
  · next e => exact decode75 w i (by rw [bits_toNat] at e; exact e) h
  · next e => exact decode76 w i (by rw [bits_toNat] at e; exact e) h
  · next e => exact decode77 w i (by rw [bits_toNat] at e; exact e) h
  · next e => exact decode78 w i (by rw [bits_toNat] at e; exact e) h
  · next e => exact decode79 w i (by rw [bits_toNat] at e; exact e) h
  · next e => exact decode7A w i (by rw [bits_toNat] at e; exact e) h
  · next e => exact decode7B w i (by rw [bits_toNat] at e; exact e) h
  · next e => exact decode7F w i (by rw [bits_toNat] at e; exact e) h
  · cases h

end Sys2Proof.Laws.DecodeExact
end

