-- ==== Sys2Proof/Laws/Dispatch.lean ====
section
/-! SUPPORT. `exec` of each constructor is its one meaning: the dispatch, once for every instruction and event. -/
namespace Sys2Proof.Machine

@[simp] theorem exec_bra {m k n o} {s : State} : exec (.bra m k n o) s = execBra m k n o s := rfl
@[simp] theorem exec_call {d im} {s : State} : exec (.call d im) s = execCall d im s := rfl
@[simp] theorem exec_jmps {a} {s : State} : exec (.jmps a) s = execJmps a s := rfl
@[simp] theorem exec_calls {d a} {s : State} : exec (.calls d a) s = execCalls d a s := rfl
@[simp] theorem exec_ret {a} {s : State} : exec (.ret a) s = execRet a s := rfl
@[simp] theorem exec_exit {s : State} : exec .exit s = execExit s := rfl
@[simp] theorem exec_rejoin {s : State} : exec .rejoin s = execRejoin s := rfl
@[simp] theorem exec_isync {s : State} : exec .isync s = execIsync s := rfl
@[simp] theorem exec_nap {a} {s : State} : exec (.nap a) s = execNap a s := rfl
@[simp] theorem exec_bar {s : State} : exec .bar s = execBar s := rfl
@[simp] theorem exec_cbar {a} {s : State} : exec (.cbar a) s = execCbar a s := rfl
@[simp] theorem exec_post {d m gd} {s : State} : exec (.post d m gd) s = execPost d m gd s := rfl
@[simp] theorem exec_sadd {d a b im} {s : State} : exec (.sadd d a b im) s = execSadd d a b im s := rfl
@[simp] theorem exec_ssub {d a b im} {s : State} : exec (.ssub d a b im) s = execSsub d a b im s := rfl
@[simp] theorem exec_smul {d a b im} {s : State} : exec (.smul d a b im) s = execSmul d a b im s := rfl
@[simp] theorem exec_smulh {d a b im u} {s : State} : exec (.smulh d a b im u) s = execSmulh d a b im u s := rfl
@[simp] theorem exec_sand {d a b im} {s : State} : exec (.sand d a b im) s = execSand d a b im s := rfl
@[simp] theorem exec_sor {d a b im} {s : State} : exec (.sor d a b im) s = execSor d a b im s := rfl
@[simp] theorem exec_sxor {d a b im} {s : State} : exec (.sxor d a b im) s = execSxor d a b im s := rfl
@[simp] theorem exec_sshl {d a b im} {s : State} : exec (.sshl d a b im) s = execSshl d a b im s := rfl
@[simp] theorem exec_sshr {d a b im} {s : State} : exec (.sshr d a b im) s = execSshr d a b im s := rfl
@[simp] theorem exec_ssar {d a b im} {s : State} : exec (.ssar d a b im) s = execSsar d a b im s := rfl
@[simp] theorem exec_smin {d a b im u} {s : State} : exec (.smin d a b im u) s = execSmin d a b im u s := rfl
@[simp] theorem exec_smax {d a b im u} {s : State} : exec (.smax d a b im u) s = execSmax d a b im u s := rfl
@[simp] theorem exec_scmp {d a b im c} {s : State} : exec (.scmp d a b im c) s = execScmp d a b im c s := rfl
@[simp] theorem exec_ssel {d a b im} {s : State} : exec (.ssel d a b im) s = execSsel d a b im s := rfl
@[simp] theorem exec_smov {d a} {s : State} : exec (.smov d a) s = execSmov d a s := rfl
@[simp] theorem exec_slea {d a b im c} {s : State} : exec (.slea d a b im c) s = execSlea d a b im c s := rfl
@[simp] theorem exec_smovi {d im} {s : State} : exec (.smovi d im) s = execSmovi d im s := rfl
@[simp] theorem exec_sld {d a w p} {s : State} : exec (.sld d a w p) s = execSld d a w p s := rfl
@[simp] theorem exec_sst {a b w p} {s : State} : exec (.sst a b w p) s = execSst a b w p s := rfl
@[simp] theorem exec_srd {d v n} {s : State} : exec (.srd d v n) s = execSrd d v n s := rfl
@[simp] theorem exec_swr {a n} {s : State} : exec (.swr a n) s = execSwr a n s := rfl
@[simp] theorem exec_vadd {d a b la lb gd} {s : State} : exec (.vadd d a b la lb gd) s = execVadd d a b la lb gd s := rfl
@[simp] theorem exec_vsub {d a b la lb gd} {s : State} : exec (.vsub d a b la lb gd) s = execVsub d a b la lb gd s := rfl
@[simp] theorem exec_vmul {d a b la lb gd} {s : State} : exec (.vmul d a b la lb gd) s = execVmul d a b la lb gd s := rfl
@[simp] theorem exec_vmulh {d a b la lb gd} {s : State} : exec (.vmulh d a b la lb gd) s = execVmulh d a b la lb gd s := rfl
@[simp] theorem exec_vand {d a b la lb gd} {s : State} : exec (.vand d a b la lb gd) s = execVand d a b la lb gd s := rfl
@[simp] theorem exec_vor {d a b la lb gd} {s : State} : exec (.vor d a b la lb gd) s = execVor d a b la lb gd s := rfl
@[simp] theorem exec_vxor {d a b la lb gd} {s : State} : exec (.vxor d a b la lb gd) s = execVxor d a b la lb gd s := rfl
@[simp] theorem exec_vshl {d a b la lb gd} {s : State} : exec (.vshl d a b la lb gd) s = execVshl d a b la lb gd s := rfl
@[simp] theorem exec_vshr {d a b la lb gd} {s : State} : exec (.vshr d a b la lb gd) s = execVshr d a b la lb gd s := rfl
@[simp] theorem exec_vsar {d a b la lb gd} {s : State} : exec (.vsar d a b la lb gd) s = execVsar d a b la lb gd s := rfl
@[simp] theorem exec_vmin {d a b la lb gd} {s : State} : exec (.vmin d a b la lb gd) s = execVmin d a b la lb gd s := rfl
@[simp] theorem exec_vmax {d a b la lb gd} {s : State} : exec (.vmax d a b la lb gd) s = execVmax d a b la lb gd s := rfl
@[simp] theorem exec_vminn {d a b la lb gd} {s : State} : exec (.vminn d a b la lb gd) s = execVminn d a b la lb gd s := rfl
@[simp] theorem exec_vmaxn {d a b la lb gd} {s : State} : exec (.vmaxn d a b la lb gd) s = execVmaxn d a b la lb gd s := rfl
@[simp] theorem exec_vaddc {d a b la lb gd} {s : State} : exec (.vaddc d a b la lb gd) s = execVaddc d a b la lb gd s := rfl
@[simp] theorem exec_vsubb {d a b la lb gd} {s : State} : exec (.vsubb d a b la lb gd) s = execVsubb d a b la lb gd s := rfl
@[simp] theorem exec_vaddi {d a im gd} {s : State} : exec (.vaddi d a im gd) s = execVaddi d a im gd s := rfl
@[simp] theorem exec_vshli {d a im gd} {s : State} : exec (.vshli d a im gd) s = execVshli d a im gd s := rfl
@[simp] theorem exec_vshri {d a im gd} {s : State} : exec (.vshri d a im gd) s = execVshri d a im gd s := rfl
@[simp] theorem exec_vsari {d a im gd} {s : State} : exec (.vsari d a im gd) s = execVsari d a im gd s := rfl
@[simp] theorem exec_vandi {d a im gd} {s : State} : exec (.vandi d a im gd) s = execVandi d a im gd s := rfl
@[simp] theorem exec_vmovi {d im gd} {s : State} : exec (.vmovi d im gd) s = execVmovi d im gd s := rfl
@[simp] theorem exec_vnot {d a la gd} {s : State} : exec (.vnot d a la gd) s = execVnot d a la gd s := rfl
@[simp] theorem exec_vneg {d a la gd} {s : State} : exec (.vneg d a la gd) s = execVneg d a la gd s := rfl
@[simp] theorem exec_vabs {d a la gd} {s : State} : exec (.vabs d a la gd) s = execVabs d a la gd s := rfl
@[simp] theorem exec_vclz {d a la gd} {s : State} : exec (.vclz d a la gd) s = execVclz d a la gd s := rfl
@[simp] theorem exec_vpopc {d a la gd} {s : State} : exec (.vpopc d a la gd) s = execVpopc d a la gd s := rfl
@[simp] theorem exec_vmov {d a la gd} {s : State} : exec (.vmov d a la gd) s = execVmov d a la gd s := rfl
@[simp] theorem exec_vbfe {d a la m gd} {s : State} : exec (.vbfe d a la m gd) s = execVbfe d a la m gd s := rfl
@[simp] theorem exec_vbfi {d a la gd} {s : State} : exec (.vbfi d a la gd) s = execVbfi d a la gd s := rfl
@[simp] theorem exec_vsel {d a b la lb gd} {s : State} : exec (.vsel d a b la lb gd) s = execVsel d a b la lb gd s := rfl
@[simp] theorem exec_vmad {d a b la lb gd} {s : State} : exec (.vmad d a b la lb gd) s = execVmad d a b la lb gd s := rfl
@[simp] theorem exec_vlea {d a sr h gd} {s : State} : exec (.vlea d a sr h gd) s = execVlea d a sr h gd s := rfl
@[simp] theorem exec_vcmp {k c a b gd} {s : State} : exec (.vcmp k c a b gd) s = execVcmp k c a b gd s := rfl
@[simp] theorem exec_fcmp {k c a b gd} {s : State} : exec (.fcmp k c a b gd) s = execFcmp k c a b gd s := rfl
@[simp] theorem exec_pand {d a b x gd} {s : State} : exec (.pand d a b x gd) s = execPand d a b x gd s := rfl
@[simp] theorem exec_por {d a b x gd} {s : State} : exec (.por d a b x gd) s = execPor d a b x gd s := rfl
@[simp] theorem exec_pxor {d a b x gd} {s : State} : exec (.pxor d a b x gd) s = execPxor d a b x gd s := rfl
@[simp] theorem exec_pnot {d a gd} {s : State} : exec (.pnot d a gd) s = execPnot d a gd s := rfl
@[simp] theorem exec_pset {d x gd} {s : State} : exec (.pset d x gd) s = execPset d x gd s := rfl
@[simp] theorem exec_ktov {k r gd} {s : State} : exec (.ktov k r gd) s = execKtov k r gd s := rfl
@[simp] theorem exec_vtok {k r gd} {s : State} : exec (.vtok k r gd) s = execVtok k r gd s := rfl
@[simp] theorem exec_ktos {k r gd} {s : State} : exec (.ktos k r gd) s = execKtos k r gd s := rfl
@[simp] theorem exec_stok {k r gd} {s : State} : exec (.stok k r gd) s = execStok k r gd s := rfl
@[simp] theorem exec_pcnt {k r gd} {s : State} : exec (.pcnt k r gd) s = execPcnt k r gd s := rfl
@[simp] theorem exec_xmget {r} {s : State} : exec (.xmget r) s = execXmget r s := rfl
@[simp] theorem exec_xmset {r} {s : State} : exec (.xmset r) s = execXmset r s := rfl
@[simp] theorem exec_vmatch {k c a gd} {s : State} : exec (.vmatch k c a gd) s = execVmatch k c a gd s := rfl
@[simp] theorem exec_fadd {d a b la lb gd} {s : State} : exec (.fadd d a b la lb gd) s = execFadd d a b la lb gd s := rfl
@[simp] theorem exec_fsub {d a b la lb gd} {s : State} : exec (.fsub d a b la lb gd) s = execFsub d a b la lb gd s := rfl
@[simp] theorem exec_fmul {d a b la lb gd} {s : State} : exec (.fmul d a b la lb gd) s = execFmul d a b la lb gd s := rfl
@[simp] theorem exec_ffma {d a b la lb gd} {s : State} : exec (.ffma d a b la lb gd) s = execFfma d a b la lb gd s := rfl
@[simp] theorem exec_fmin {d a b la lb gd} {s : State} : exec (.fmin d a b la lb gd) s = execFmin d a b la lb gd s := rfl
@[simp] theorem exec_fmax {d a b la lb gd} {s : State} : exec (.fmax d a b la lb gd) s = execFmax d a b la lb gd s := rfl
@[simp] theorem exec_fabs {d a la m gd} {s : State} : exec (.fabs d a la m gd) s = execFabs d a la m gd s := rfl
@[simp] theorem exec_fneg {d a la m gd} {s : State} : exec (.fneg d a la m gd) s = execFneg d a la m gd s := rfl
@[simp] theorem exec_frcp {d a la m gd} {s : State} : exec (.frcp d a la m gd) s = execFrcp d a la m gd s := rfl
@[simp] theorem exec_frsq {d a la m gd} {s : State} : exec (.frsq d a la m gd) s = execFrsq d a la m gd s := rfl
@[simp] theorem exec_fsqrt {d a la m gd} {s : State} : exec (.fsqrt d a la m gd) s = execFsqrt d a la m gd s := rfl
@[simp] theorem exec_fexp2 {d a la gd} {s : State} : exec (.fexp2 d a la gd) s = execFexp2 d a la gd s := rfl
@[simp] theorem exec_flog2 {d a la gd} {s : State} : exec (.flog2 d a la gd) s = execFlog2 d a la gd s := rfl
@[simp] theorem exec_fsin {d a la gd} {s : State} : exec (.fsin d a la gd) s = execFsin d a la gd s := rfl
@[simp] theorem exec_fcos {d a la gd} {s : State} : exec (.fcos d a la gd) s = execFcos d a la gd s := rfl
@[simp] theorem exec_frnd {d a la m gd} {s : State} : exec (.frnd d a la m gd) s = execFrnd d a la m gd s := rfl
@[simp] theorem exec_fclass {d a la m gd} {s : State} : exec (.fclass d a la m gd) s = execFclass d a la m gd s := rfl
@[simp] theorem exec_fdiv {d a b la lb gd} {s : State} : exec (.fdiv d a b la lb gd) s = execFdiv d a b la lb gd s := rfl
@[simp] theorem exec_hadd {d a b la lb gd} {s : State} : exec (.hadd d a b la lb gd) s = execHadd d a b la lb gd s := rfl
@[simp] theorem exec_hsub {d a b la lb gd} {s : State} : exec (.hsub d a b la lb gd) s = execHsub d a b la lb gd s := rfl
@[simp] theorem exec_hmul {d a b la lb gd} {s : State} : exec (.hmul d a b la lb gd) s = execHmul d a b la lb gd s := rfl
@[simp] theorem exec_hfma {d a b la lb gd} {s : State} : exec (.hfma d a b la lb gd) s = execHfma d a b la lb gd s := rfl
@[simp] theorem exec_hmin {d a b la lb gd} {s : State} : exec (.hmin d a b la lb gd) s = execHmin d a b la lb gd s := rfl
@[simp] theorem exec_hmax {d a b la lb gd} {s : State} : exec (.hmax d a b la lb gd) s = execHmax d a b la lb gd s := rfl
@[simp] theorem exec_badd {d a b la lb gd} {s : State} : exec (.badd d a b la lb gd) s = execBadd d a b la lb gd s := rfl
@[simp] theorem exec_bsub {d a b la lb gd} {s : State} : exec (.bsub d a b la lb gd) s = execBsub d a b la lb gd s := rfl
@[simp] theorem exec_bmul {d a b la lb gd} {s : State} : exec (.bmul d a b la lb gd) s = execBmul d a b la lb gd s := rfl
@[simp] theorem exec_bfma {d a b la lb gd} {s : State} : exec (.bfma d a b la lb gd) s = execBfma d a b la lb gd s := rfl
@[simp] theorem exec_bmin {d a b la lb gd} {s : State} : exec (.bmin d a b la lb gd) s = execBmin d a b la lb gd s := rfl
@[simp] theorem exec_bmax {d a b la lb gd} {s : State} : exec (.bmax d a b la lb gd) s = execBmax d a b la lb gd s := rfl
@[simp] theorem exec_dadd {d a b la lb gd} {s : State} : exec (.dadd d a b la lb gd) s = execDadd d a b la lb gd s := rfl
@[simp] theorem exec_dsub {d a b la lb gd} {s : State} : exec (.dsub d a b la lb gd) s = execDsub d a b la lb gd s := rfl
@[simp] theorem exec_dmul {d a b la lb gd} {s : State} : exec (.dmul d a b la lb gd) s = execDmul d a b la lb gd s := rfl
@[simp] theorem exec_dfma {d a b la lb gd} {s : State} : exec (.dfma d a b la lb gd) s = execDfma d a b la lb gd s := rfl
@[simp] theorem exec_cvt {d a c p la m gd} {s : State} : exec (.cvt d a c p la m gd) s = execCvt d a c p la m gd s := rfl
@[simp] theorem exec_cvts {d a b la lb gd} {s : State} : exec (.cvts d a b la lb gd) s = execCvts d a b la lb gd s := rfl
@[simp] theorem exec_pack {d a b la lb gd} {s : State} : exec (.pack d a b la lb gd) s = execPack d a b la lb gd s := rfl
@[simp] theorem exec_unpk {d a c p la gd} {s : State} : exec (.unpk d a c p la gd) s = execUnpk d a c p la gd s := rfl
@[simp] theorem exec_rnd {d a sr la m gd} {s : State} : exec (.rnd d a sr la m gd) s = execRnd d a sr la m gd s := rfl
@[simp] theorem exec_rslice {d a w la m gd} {s : State} : exec (.rslice d a w la m gd) s = execRslice d a w la m gd s := rfl
@[simp] theorem exec_rbern {k c a b gd} {s : State} : exec (.rbern k c a b gd) s = execRbern k c a b gd s := rfl
@[simp] theorem exec_rkey {a} {s : State} : exec (.rkey a) s = execRkey a s := rfl
@[simp] theorem exec_shfl {d a b la lb gd} {s : State} : exec (.shfl d a b la lb gd) s = execShfl d a b la lb gd s := rfl
@[simp] theorem exec_shfx {d a im gd} {s : State} : exec (.shfx d a im gd) s = execShfx d a im gd s := rfl
@[simp] theorem exec_shfu {d a im gd} {s : State} : exec (.shfu d a im gd) s = execShfu d a im gd s := rfl
@[simp] theorem exec_shfd {d a im gd} {s : State} : exec (.shfd d a im gd) s = execShfd d a im gd s := rfl
@[simp] theorem exec_bcst {d a sr x gd} {s : State} : exec (.bcst d a sr x gd) s = execBcst d a sr x gd s := rfl
@[simp] theorem exec_rdfl {k a sr w gd} {s : State} : exec (.rdfl k a sr w gd) s = execRdfl k a sr w gd s := rfl
@[simp] theorem exec_vred {d a f la gd} {s : State} : exec (.vred d a f la gd) s = execVred d a f la gd s := rfl
@[simp] theorem exec_vscan {d a f la e gd} {s : State} : exec (.vscan d a f la e gd) s = execVscan d a f la e gd s := rfl
@[simp] theorem exec_ld {d p q im sr w gd} {s : State} : exec (.ld d p q im sr w gd) s = execLd d p q im sr w gd s := rfl
@[simp] theorem exec_st {d p q im sr w gd} {s : State} : exec (.st d p q im sr w gd) s = execSt d p q im sr w gd s := rfl
@[simp] theorem exec_lda {d p q im sr w gd} {s : State} : exec (.lda d p q im sr w gd) s = execLda d p q im sr w gd s := rfl
@[simp] theorem exec_sta {d p q im sr w gd} {s : State} : exec (.sta d p q im sr w gd) s = execSta d p q im sr w gd s := rfl
@[simp] theorem exec_ldw {d p q im sr w gd} {s : State} : exec (.ldw d p q im sr w gd) s = execLdw d p q im sr w gd s := rfl
@[simp] theorem exec_stw {d p q im sr w gd} {s : State} : exec (.stw d p q im sr w gd) s = execStw d p q im sr w gd s := rfl
@[simp] theorem exec_ldc {d p q im sr w gd} {s : State} : exec (.ldc d p q im sr w gd) s = execLdc d p q im sr w gd s := rfl
@[simp] theorem exec_stc {d p q im sr w gd} {s : State} : exec (.stc d p q im sr w gd) s = execStc d p q im sr w gd s := rfl
@[simp] theorem exec_ldt {d a sr w gd} {s : State} : exec (.ldt d a sr w gd) s = execLdt d a sr w gd s := rfl
@[simp] theorem exec_stt {d a sr w gd} {s : State} : exec (.stt d a sr w gd) s = execStt d a sr w gd s := rfl
@[simp] theorem exec_pref {d p q im sr gd} {s : State} : exec (.pref d p q im sr gd) s = execPref d p q im sr gd s := rfl
@[simp] theorem exec_cflush {d p q im sr gd} {s : State} : exec (.cflush d p q im sr gd) s = execCflush d p q im sr gd s := rfl
@[simp] theorem exec_cinv {d p q im sr gd} {s : State} : exec (.cinv d p q im sr gd) s = execCinv d p q im sr gd s := rfl
@[simp] theorem exec_tidset {a t} {s : State} : exec (.tidset a t) s = execTidset a t s := rfl
@[simp] theorem exec_tidget {a t} {s : State} : exec (.tidget a t) s = execTidget a t s := rfl
@[simp] theorem exec_tidinv {t} {s : State} : exec (.tidinv t) s = execTidinv t s := rfl
@[simp] theorem exec_atom {d a f t la m gd} {s : State} : exec (.atom d a f t la m gd) s = execAtom d a f t la m gd s := rfl
@[simp] theorem exec_red {d a f t la m gd} {s : State} : exec (.red d a f t la m gd) s = execRed d a f t la m gd s := rfl
@[simp] theorem exec_atoma {d a f t la gd} {s : State} : exec (.atoma d a f t la gd) s = execAtoma d a f t la gd s := rfl
@[simp] theorem exec_fence {o sr} {s : State} : exec (.fence o sr) s = execFence o sr s := rfl
@[simp] theorem exec_bsrd {d r} {s : State} : exec (.bsrd d r) s = execBsrd d r s := rfl
@[simp] theorem exec_bswr {a r} {s : State} : exec (.bswr a r) s = execBswr a r s := rfl
@[simp] theorem exec_bsxch {d a r} {s : State} : exec (.bsxch d a r) s = execBsxch d a r s := rfl
@[simp] theorem exec_bsadd {d a r} {s : State} : exec (.bsadd d a r) s = execBsadd d a r s := rfl
@[simp] theorem exec_cpy {sr g} {s : State} : exec (.cpy sr g) s = execCpy sr g s := rfl
@[simp] theorem exec_cpyt {sr t g p r} {s : State} : exec (.cpyt sr t g p r) s = execCpyt sr t g p r s := rfl
@[simp] theorem exec_tgwait {a} {s : State} : exec (.tgwait a) s = execTgwait a s := rfl
@[simp] theorem exec_tgany {a} {s : State} : exec (.tgany a) s = execTgany a s := rfl
@[simp] theorem exec_tgfind {d a} {s : State} : exec (.tgfind d a) s = execTgfind d a s := rfl
@[simp] theorem exec_tgclr {a} {s : State} : exec (.tgclr a) s = execTgclr a s := rfl
@[simp] theorem exec_tgtest {d a e} {s : State} : exec (.tgtest d a e) s = execTgtest d a e s := rfl
@[simp] theorem exec_ridx {d a b} {s : State} : exec (.ridx d a b) s = execRidx d a b s := rfl
@[simp] theorem exec_rwait {a b f p c} {s : State} : exec (.rwait a b f p c) s = execRwait a b f p c s := rfl
@[simp] theorem exec_rflip {a b f p c} {s : State} : exec (.rflip a b f p c) s = execRflip a b f p c s := rfl
@[simp] theorem exec_tacq {d a t r k} {s : State} : exec (.tacq d a t r k) s = execTacq d a t r k s := rfl
@[simp] theorem exec_trel {d a} {s : State} : exec (.trel d a) s = execTrel d a s := rfl
@[simp] theorem exec_cede {o} {s : State} : exec (.cede o) s = execCede o s := rfl
@[simp] theorem exec_tstat {d a} {s : State} : exec (.tstat d a) s = execTstat d a s := rfl
@[simp] theorem exec_mld {d r c sr gd} {s : State} : exec (.mld d r c sr gd) s = execMld d r c sr gd s := rfl
@[simp] theorem exec_mldA {d r c sr gd} {s : State} : exec (.mldA d r c sr gd) s = execMldA d r c sr gd s := rfl
@[simp] theorem exec_mst {a sr gd} {s : State} : exec (.mst a sr gd) s = execMst a sr gd s := rfl
@[simp] theorem exec_mstA {a sr gd} {s : State} : exec (.mstA a sr gd) s = execMstA a sr gd s := rfl
@[simp] theorem exec_mmov {d a gd} {s : State} : exec (.mmov d a gd) s = execMmov d a gd s := rfl
@[simp] theorem exec_mget {im a j v gd} {s : State} : exec (.mget im a j v gd) s = execMget im a j v gd s := rfl
@[simp] theorem exec_mset {d im j v gd} {s : State} : exec (.mset d im j v gd) s = execMset d im j v gd s := rfl
@[simp] theorem exec_mzero {d r c gd} {s : State} : exec (.mzero d r c gd) s = execMzero d r c gd s := rfl
@[simp] theorem exec_mident {d r c gd} {s : State} : exec (.mident d r c gd) s = execMident d r c gd s := rfl
@[simp] theorem exec_mtrn {d a gd} {s : State} : exec (.mtrn d a gd) s = execMtrn d a gd s := rfl
@[simp] theorem exec_madd {d a b gd} {s : State} : exec (.madd d a b gd) s = execMadd d a b gd s := rfl
@[simp] theorem exec_msub {d a b gd} {s : State} : exec (.msub d a b gd) s = execMsub d a b gd s := rfl
@[simp] theorem exec_mscl {d a v gd} {s : State} : exec (.mscl d a v gd) s = execMscl d a v gd s := rfl
@[simp] theorem exec_mmul {d a b gd} {s : State} : exec (.mmul d a b gd) s = execMmul d a b gd s := rfl
@[simp] theorem exec_mmult {d a b gd} {s : State} : exec (.mmult d a b gd) s = execMmult d a b gd s := rfl
@[simp] theorem exec_mfma {d a b c gd} {s : State} : exec (.mfma d a b c gd) s = execMfma d a b c gd s := rfl
@[simp] theorem exec_mchol {d a gd} {s : State} : exec (.mchol d a gd) s = execMchol d a gd s := rfl
@[simp] theorem exec_mlu {d a v gd} {s : State} : exec (.mlu d a v gd) s = execMlu d a v gd s := rfl
@[simp] theorem exec_msolve {d a b m gd} {s : State} : exec (.msolve d a b m gd) s = execMsolve d a b m gd s := rfl
@[simp] theorem exec_mflg {m k gd} {s : State} : exec (.mflg m k gd) s = execMflg m k gd s := rfl
@[simp] theorem exec_gcmd {d a b} {s : State} : exec (.gcmd d a b) s = execGcmd d a b s := rfl
@[simp] theorem exec_grdy {s : State} : exec .grdy s = execGrdy s := rfl
@[simp] theorem exec_gfence {d} {s : State} : exec (.gfence d) s = execGfence d s := rfl
@[simp] theorem exec_gwait {a} {s : State} : exec (.gwait a) s = execGwait a s := rfl
@[simp] theorem exec_gwin {a b} {s : State} : exec (.gwin a b) s = execGwin a b s := rfl
@[simp] theorem exec_gctr {d a} {s : State} : exec (.gctr d a) s = execGctr d a s := rfl
@[simp] theorem exec_gclr {a} {s : State} : exec (.gclr a) s = execGclr a s := rfl
@[simp] theorem exec_gqry {d b} {s : State} : exec (.gqry d b) s = execGqry d b s := rfl
@[simp] theorem exec_vapp {d a la m gd} {s : State} : exec (.vapp d a la m gd) s = execVapp d a la m gd s := rfl
@[simp] theorem exec_vseal {d a la gd} {s : State} : exec (.vseal d a la gd) s = execVseal d a la gd s := rfl
@[simp] theorem exec_vconn {d a la gd} {s : State} : exec (.vconn d a la gd) s = execVconn d a la gd s := rfl
@[simp] theorem exec_vmerge {d a la gd} {s : State} : exec (.vmerge d a la gd) s = execVmerge d a la gd s := rfl
@[simp] theorem exec_vrwt {d a la gd} {s : State} : exec (.vrwt d a la gd) s = execVrwt d a la gd s := rfl
@[simp] theorem exec_vget {d a la gd} {s : State} : exec (.vget d a la gd) s = execVget d a la gd s := rfl
@[simp] theorem exec_vref {d a la gd} {s : State} : exec (.vref d a la gd) s = execVref d a la gd s := rfl
@[simp] theorem exec_vrel {d a la gd} {s : State} : exec (.vrel d a la gd) s = execVrel d a la gd s := rfl
@[simp] theorem exec_vgen {d a la gd} {s : State} : exec (.vgen d a la gd) s = execVgen d a la gd s := rfl
@[simp] theorem exec_trace {d a la m gd} {s : State} : exec (.trace d a la m gd) s = execTrace d a la m gd s := rfl
@[simp] theorem exec_traceAny {d a la m gd} {s : State} : exec (.traceAny d a la m gd) s = execTraceAny d a la m gd s := rfl
@[simp] theorem exec_hitget {d a la gd} {s : State} : exec (.hitget d a la gd) s = execHitget d a la gd s := rfl
@[simp] theorem exec_trap {c} {s : State} : exec (.trap c) s = execTrap c s := rfl
@[simp] theorem exec_tret {s : State} : exec .tret s = execTret s := rfl
@[simp] theorem exec_cclr {a} {s : State} : exec (.cclr a) s = execCclr a s := rfl
@[simp] theorem exec_resv {d} {s : State} : exec (.resv d) s = execResv d s := rfl
@[simp] theorem exec_lvq {s : State} : exec .lvq s = execLvq s := rfl
@[simp] theorem exec_lvqSeg {s : State} : exec .lvqSeg s = execLvqSeg s := rfl
@[simp] theorem exec_mark {d a b} {s : State} : exec (.mark d a b) s = execMark d a b s := rfl
@[simp] theorem exec_hctr {d a} {s : State} : exec (.hctr d a) s = execHctr d a s := rfl
@[simp] theorem exec_dbrk {d a} {s : State} : exec (.dbrk d a) s = execDbrk d a s := rfl
@[simp] theorem exec_himm {p} {s : State} : exec (.himm p) s = execHimm p s := rfl
@[simp] theorem exec_hold {a b c} {s : State} : exec (.hold a b c) s = execHold a b c s := rfl
@[simp] theorem exec_hsrc {v w sr t} {s : State} : exec (.hsrc v w sr t) s = execHsrc v w sr t s := rfl
@[simp] theorem exec_hmod {r f c p o sr} {s : State} : exec (.hmod r f c p o sr) s = execHmod r f c p o sr s := rfl
@[simp] theorem exec_hfree {a b c} {s : State} : exec (.hfree a b c) s = execHfree a b c s := rfl
@[simp] theorem exec_registerWrite {off size val} {s : State} : exec (.registerWrite off size val) s = execRegisterWrite off size val s := rfl
@[simp] theorem exec_freplyReplay {plate group} {s : State} : exec (.freplyReplay plate group) s = execFreplyReplay plate group s := rfl
@[simp] theorem exec_freplyFatalXlate {plate group} {s : State} : exec (.freplyFatalXlate plate group) s = execFreplyFatalXlate plate group s := rfl
@[simp] theorem exec_freplyFatalWprot {plate group} {s : State} : exec (.freplyFatalWprot plate group) s = execFreplyFatalWprot plate group s := rfl
@[simp] theorem exec_freplyIgnored {plate group} {s : State} : exec (.freplyIgnored plate group) s = execFreplyIgnored plate group s := rfl
@[simp] theorem exec_shootdownStart {control purge} {s : State} : exec (.shootdownStart control purge) s = execShootdownStart control purge s := rfl
@[simp] theorem exec_shootdownComplete {control} {s : State} : exec (.shootdownComplete control) s = execShootdownComplete control s := rfl
@[simp] theorem exec_firmwareDownload {kind} {s : State} : exec (.firmwareDownload kind) s = execFirmwareDownload kind s := rfl
@[simp] theorem exec_firmwareDownloadDone {sigOk lenOk} {s : State} : exec (.firmwareDownloadDone sigOk lenOk) s = execFirmwareDownloadDone sigOk lenOk s := rfl
@[simp] theorem exec_attestationRequest {addr} {s : State} : exec (.attestationRequest addr) s = execAttestationRequest addr s := rfl
@[simp] theorem exec_attestationReport {s : State} : exec .attestationReport s = execAttestationReport s := rfl
@[simp] theorem exec_partitionSwapOut {part} {s : State} : exec (.partitionSwapOut part) s = execPartitionSwapOut part s := rfl
@[simp] theorem exec_partitionSwapIn {part} {s : State} : exec (.partitionSwapIn part) s = execPartitionSwapIn part s := rfl
@[simp] theorem exec_partitionSwapDone {part} {s : State} : exec (.partitionSwapDone part) s = execPartitionSwapDone part s := rfl
@[simp] theorem exec_hatchClear {core} {s : State} : exec (.hatchClear core) s = execHatchClear core s := rfl
@[simp] theorem exec_launchRingWordWrite {part ring word} {s : State} : exec (.launchRingWordWrite part ring word) s = execLaunchRingWordWrite part ring word s := rfl
@[simp] theorem exec_modidWrite {val} {s : State} : exec (.modidWrite val) s = execModidWrite val s := rfl
@[simp] theorem exec_ptclWrite {part val} {s : State} : exec (.ptclWrite part val) s = execPtclWrite part val s := rfl
@[simp] theorem exec_xrteWrite {module val} {s : State} : exec (.xrteWrite module val) s = execXrteWrite module val s := rfl
@[simp] theorem exec_stippleEnable {val} {s : State} : exec (.stippleEnable val) s = execStippleEnable val s := rfl
@[simp] theorem exec_launchRecordTake {part ring} {s : State} : exec (.launchRecordTake part ring) s = execLaunchRecordTake part ring s := rfl
@[simp] theorem exec_blockPlacement {launch core q0} {s : State} : exec (.blockPlacement launch core q0) s = execBlockPlacement launch core q0 s := rfl
@[simp] theorem exec_launchCompletion {launch} {s : State} : exec (.launchCompletion launch) s = execLaunchCompletion launch s := rfl
@[simp] theorem exec_blockEviction {blk} {s : State} : exec (.blockEviction blk) s = execBlockEviction blk s := rfl
@[simp] theorem exec_registerDeadlockBreak {core quad} {s : State} : exec (.registerDeadlockBreak core quad) s = execRegisterDeadlockBreak core quad s := rfl
@[simp] theorem exec_blockRestore {blk q0} {s : State} : exec (.blockRestore blk q0) s = execBlockRestore blk q0 s := rfl
@[simp] theorem exec_blockMigration {blk core q0} {s : State} : exec (.blockMigration blk core q0) s = execBlockMigration blk core q0 s := rfl
@[simp] theorem exec_coreLeavesService {core} {s : State} : exec (.coreLeavesService core) s = execCoreLeavesService core s := rfl
@[simp] theorem exec_forwardedArrival {core blk} {s : State} : exec (.forwardedArrival core blk) s = execForwardedArrival core blk s := rfl
@[simp] theorem exec_forwardingEntryExpiry {core blk} {s : State} : exec (.forwardingEntryExpiry core blk) s = execForwardingEntryExpiry core blk s := rfl
@[simp] theorem exec_taskRecordArrival {pos} {s : State} : exec (.taskRecordArrival pos) s = execTaskRecordArrival pos s := rfl
@[simp] theorem exec_overflowRecordEntry {part pos} {s : State} : exec (.overflowRecordEntry part pos) s = execOverflowRecordEntry part pos s := rfl
@[simp] theorem exec_taskDispatch {core q0} {s : State} : exec (.taskDispatch core q0) s = execTaskDispatch core q0 s := rfl
@[simp] theorem exec_registerGrant {core quad} {s : State} : exec (.registerGrant core quad) s = execRegisterGrant core quad s := rfl
@[simp] theorem exec_wakeConditionMet {ent} {s : State} : exec (.wakeConditionMet ent) s = execWakeConditionMet ent s := rfl
@[simp] theorem exec_barrierCompletion {blk} {s : State} : exec (.barrierCompletion blk) s = execBarrierCompletion blk s := rfl
@[simp] theorem exec_cohortBarrierCompletion {launch cohort} {s : State} : exec (.cohortBarrierCompletion launch cohort) s = execCohortBarrierCompletion launch cohort s := rfl
@[simp] theorem exec_napExpiry {ent} {s : State} : exec (.napExpiry ent) s = execNapExpiry ent s := rfl
@[simp] theorem exec_pageWalk {core asid va acc} {s : State} : exec (.pageWalk core asid va acc) s = execPageWalk core asid va acc s := rfl
@[simp] theorem exec_faultBufferEntry {plate} {s : State} : exec (.faultBufferEntry plate) s = execFaultBufferEntry plate s := rfl
@[simp] theorem exec_faultRecordWrite {plate} {s : State} : exec (.faultRecordWrite plate) s = execFaultRecordWrite plate s := rfl
@[simp] theorem exec_tagCompletion {core cmd} {s : State} : exec (.tagCompletion core cmd) s = execTagCompletion core cmd s := rfl
@[simp] theorem exec_loadReturn {ent} {s : State} : exec (.loadReturn ent) s = execLoadReturn ent s := rfl
@[simp] theorem exec_atomicRequestArrival {core seq} {s : State} : exec (.atomicRequestArrival core seq) s = execAtomicRequestArrival core seq s := rfl
@[simp] theorem exec_atomicAcknowledgement {core seq} {s : State} : exec (.atomicAcknowledgement core seq) s = execAtomicAcknowledgement core seq s := rfl
@[simp] theorem exec_replayAnswer {core seq} {s : State} : exec (.replayAnswer core seq) s = execReplayAnswer core seq s := rfl
@[simp] theorem exec_retransmitTimeout {core seq} {s : State} : exec (.retransmitTimeout core seq) s = execRetransmitTimeout core seq s := rfl
@[simp] theorem exec_linkCorrectableError {core seq} {s : State} : exec (.linkCorrectableError core seq) s = execLinkCorrectableError core seq s := rfl
@[simp] theorem exec_sequenceWindowExpiry {unit source seq} {s : State} : exec (.sequenceWindowExpiry unit source seq) s = execSequenceWindowExpiry unit source seq s := rfl
@[simp] theorem exec_promotion {core} {s : State} : exec (.promotion core) s = execPromotion core s := rfl
@[simp] theorem exec_tileRequestArrival {req} {s : State} : exec (.tileRequestArrival req) s = execTileRequestArrival req s := rfl
@[simp] theorem exec_recallArrival {req} {s : State} : exec (.recallArrival req) s = execRecallArrival req s := rfl
@[simp] theorem exec_recallResend {req} {s : State} : exec (.recallResend req) s = execRecallResend req s := rfl
@[simp] theorem exec_surrenderWaveStart {core} {s : State} : exec (.surrenderWaveStart core) s = execSurrenderWaveStart core s := rfl
@[simp] theorem exec_surrenderBoundExpiry {core} {s : State} : exec (.surrenderBoundExpiry core) s = execSurrenderBoundExpiry core s := rfl
@[simp] theorem exec_tileDelivery {req} {s : State} : exec (.tileDelivery req) s = execTileDelivery req s := rfl
@[simp] theorem exec_graverCommandStart {blk slot} {s : State} : exec (.graverCommandStart blk slot) s = execGraverCommandStart blk slot s := rfl
@[simp] theorem exec_graverCommandComplete {blk slot} {s : State} : exec (.graverCommandComplete blk slot) s = execGraverCommandComplete blk slot s := rfl
@[simp] theorem exec_graverCommandFault {blk slot kind iter} {s : State} : exec (.graverCommandFault blk slot kind iter) s = execGraverCommandFault blk slot kind iter s := rfl
@[simp] theorem exec_vertexRetirement {plate slot} {s : State} : exec (.vertexRetirement plate slot) s = execVertexRetirement plate slot s := rfl
@[simp] theorem exec_traceCompletion {core cmd} {s : State} : exec (.traceCompletion core cmd) s = execTraceCompletion core cmd s := rfl
@[simp] theorem exec_handlerEntry {blk} {s : State} : exec (.handlerEntry blk) s = execHandlerEntry blk s := rfl
@[simp] theorem exec_fpWindowClose {blk slot} {s : State} : exec (.fpWindowClose blk slot) s = execFpWindowClose blk slot s := rfl
@[simp] theorem exec_uncorrectableEccError {ent} {s : State} : exec (.uncorrectableEccError ent) s = execUncorrectableEccError ent s := rfl
@[simp] theorem exec_quantumCountExpiry {ent} {s : State} : exec (.quantumCountExpiry ent) s = execQuantumCountExpiry ent s := rfl
@[simp] theorem exec_quantumBoundaryCommit {blk} {s : State} : exec (.quantumBoundaryCommit blk) s = execQuantumBoundaryCommit blk s := rfl
@[simp] theorem exec_notchSegmentRelease {launch} {s : State} : exec (.notchSegmentRelease launch) s = execNotchSegmentRelease launch s := rfl
@[simp] theorem exec_sample {core} {s : State} : exec (.sample core) s = execSample core s := rfl
@[simp] theorem exec_etchTs {core} {s : State} : exec (.etchTs core) s = execEtchTs core s := rfl
@[simp] theorem exec_powerUp {loaderOk recoveryOk} {s : State} : exec (.powerUp loaderOk recoveryOk) s = execPowerUp loaderOk recoveryOk s := rfl
@[simp] theorem exec_powerLimitThrottle {watts} {s : State} : exec (.powerLimitThrottle watts) s = execPowerLimitThrottle watts s := rfl
@[simp] theorem exec_thermalHalt {tj} {s : State} : exec (.thermalHalt tj) s = execThermalHalt tj s := rfl
@[simp] theorem exec_failureRecovery {routes ports x} {s : State} : exec (.failureRecovery routes ports x) s = execFailureRecovery routes ports x s := rfl
@[simp] theorem exec_fabricTrafficArrival {msg} {s : State} : exec (.fabricTrafficArrival msg) s = execFabricTrafficArrival msg s := rfl
@[simp] theorem exec_hostCxlStore {pa bytes} {s : State} : exec (.hostCxlStore pa bytes) s = execHostCxlStore pa bytes s := rfl
@[simp] theorem exec_hostCxlRead {pa len} {s : State} : exec (.hostCxlRead pa len) s = execHostCxlRead pa len s := rfl
@[simp] theorem exec_nonInstructionEncoding {word} {s : State} : exec (.nonInstructionEncoding word) s = execNonInstructionEncoding word s := rfl
@[simp] theorem exec_storeArrivalAtHome {core id} {s : State} : exec (.storeArrivalAtHome core id) s = execStoreArrivalAtHome core id s := rfl
@[simp] theorem exec_storeAcknowledgement {core id} {s : State} : exec (.storeAcknowledgement core id) s = execStoreAcknowledgement core id s := rfl
@[simp] theorem exec_engineAccessError {core cmd ecc run} {s : State} : exec (.engineAccessError core cmd ecc run) s = execEngineAccessError core cmd ecc run s := rfl
@[simp] theorem exec_stippleResultReturn {ent errLanes} {s : State} : exec (.stippleResultReturn ent errLanes) s = execStippleResultReturn ent errLanes s := rfl
@[simp] theorem exec_executiveEndsLaunch {blk} {s : State} : exec (.executiveEndsLaunch blk) s = execExecutiveEndsLaunch blk s := rfl
@[simp] theorem exec_registerPoolRepair {core quad size} {s : State} : exec (.registerPoolRepair core quad size) s = execRegisterPoolRepair core quad size s := rfl
@[simp] theorem exec_emptyIssueCycle {core quad} {s : State} : exec (.emptyIssueCycle core quad) s = execEmptyIssueCycle core quad s := rfl
@[simp] theorem exec_instructionFetchReturn {ent} {s : State} : exec (.instructionFetchReturn ent) s = execInstructionFetchReturn ent s := rfl
@[simp] theorem exec_c0RequestAdmitted {core id} {s : State} : exec (.c0RequestAdmitted core id) s = execC0RequestAdmitted core id s := rfl
@[simp] theorem exec_exvosLinkStateChange {port up} {s : State} : exec (.exvosLinkStateChange port up) s = execExvosLinkStateChange port up s := rfl

end Sys2Proof.Machine
end

