-- ==== Sys2Proof/Laws/Fabric.lean ====
section
/-! SUPPORT. What sending through the fabric changes (R422, R423): an account of a core, a route, and else nothing; when an instruction's
requests leave. -/
namespace Sys2Proof.Machine

/-! ### `charge` -/

theorem State.charge_none (s : State) (core prio bytes : Nat) (h : prio ≠ 0 ∨ bytes = 0) : s.charge core prio bytes = s := if_pos h

@[simp] theorem State.charge_mem (s : State) (core prio bytes : Nat) : (s.charge core prio bytes).mem = s.mem := by
  unfold State.charge; split <;> rfl
@[simp] theorem State.charge_blocks (s : State) (core prio bytes : Nat) : (s.charge core prio bytes).blocks = s.blocks := by
  unfold State.charge; split <;> rfl
@[simp] theorem State.charge_hub (s : State) (core prio bytes : Nat) : (s.charge core prio bytes).hub = s.hub := by
  unfold State.charge; split <;> rfl
@[simp] theorem State.charge_clu (s : State) (core prio bytes : Nat) : (s.charge core prio bytes).clu = s.clu := by
  unfold State.charge; split <;> rfl
@[simp] theorem State.charge_homes (s : State) (core prio bytes : Nat) : (s.charge core prio bytes).homes = s.homes := by
  unfold State.charge; split <;> rfl
@[simp] theorem State.charge_now (s : State) (core prio bytes : Nat) : (s.charge core prio bytes).now = s.now := by
  unfold State.charge; split <;> rfl
@[simp] theorem State.charge_fresh (s : State) (core prio bytes : Nat) : (s.charge core prio bytes).fresh = s.fresh := by
  unfold State.charge; split <;> rfl
@[simp] theorem State.charge_treqs (s : State) (core prio bytes : Nat) : (s.charge core prio bytes).treqs = s.treqs := by
  unfold State.charge; split <;> rfl
@[simp] theorem State.charge_tiles (s : State) (core prio bytes : Nat) : (s.charge core prio bytes).tiles = s.tiles := by
  unfold State.charge; split <;> rfl

/-- Only the account of the core that sends changes. -/
theorem State.charge_core (s : State) (core prio bytes n : Nat) :
    { (s.charge core prio bytes).core n with c0used := (s.core n).c0used, c0start := (s.core n).c0start } = s.core n := by
  unfold State.charge
  split
  · rfl
  · by_cases h : n = core
    · subst h; simp only [State.modCore, State.setCore, State.core, tgetD_tset, if_true]
    · simp only [State.modCore, State.setCore, State.core, tgetD_tset, if_neg h]

/-! ### Routes -/

theorem State.countDrop_mem (s : State) (m n : Nat) : (s.countDrop m n).mem = s.mem := rfl
theorem State.countDrop_blocks (s : State) (m n : Nat) : (s.countDrop m n).blocks = s.blocks := rfl
theorem State.countDrop_cores (s : State) (m n : Nat) : (s.countDrop m n).cores = s.cores := rfl

theorem State.sendOut_mem (s : State) (x : FabricMsg) : (s.sendOut x).mem = s.mem := by
  unfold State.sendOut; split <;> rfl
theorem State.sendOut_blocks (s : State) (x : FabricMsg) : (s.sendOut x).blocks = s.blocks := by
  unfold State.sendOut; split <;> rfl
theorem State.sendOut_cores (s : State) (x : FabricMsg) : (s.sendOut x).cores = s.cores := by
  unfold State.sendOut; split <;> rfl

/-! ### What leaves with an instruction -/

/-- An instruction's effect stands just when no route that carries old traffic holds a request of it, and the rate admits those of C0. -/
theorem Ctx.leave_ok (c c' d : Ctx) : c.leave c' = .ok d ↔
    d = c' ∧ (∀ m ∈ c'.sends, c.s.draining m = false) ∧ ¬ (c.launch.prio = 0 ∧ c'.sends ≠ [] ∧ c.s.admits c.core = false) := by
  unfold Ctx.leave
  cases h : c'.sends.find? fun m => c.s.draining m with
  | some m =>
    have hm := List.find?_some h
    have hi := List.mem_of_find?_eq_some h
    constructor
    · intro e; cases e
    · rintro ⟨-, hd, -⟩; simp [hd m hi] at hm
  | none =>
    have hd : ∀ m ∈ c'.sends, c.s.draining m = false := fun m hm => by simpa using List.find?_eq_none.1 h m hm
    by_cases hc : c.launch.prio = 0 ∧ c'.sends ≠ [] ∧ c.s.admits c.core = false
    · rw [if_pos hc]; exact ⟨fun e => (nomatch e), fun e => absurd hc e.2.2⟩
    · rw [if_neg hc]
      exact ⟨fun e => ⟨(Except.ok.inj e).symm, hd, hc⟩, fun e => congrArg Except.ok e.1.symm⟩

end Sys2Proof.Machine
end

