-- ==== Sys2Proof/Laws/Memory.lean ====
section
/-! SUPPORT. Memory: reading after writing, and that every memory operation keeps the canonical form. -/
namespace Sys2Proof.Machine

theorem memory_wf_iff {m : List Host.Cell} : Memory.wf m = true ↔ tsorted m = true ∧ ∀ c ∈ m, c.2 ≠ memDefault := by
  simp [Memory.wf, List.all_eq_true]

theorem memory_wf_set {m : List Host.Cell} (h : Memory.wf m = true) (a : Nat) (b : Byte) : Memory.wf (memSet m a b) = true := by
  obtain ⟨hs, hd⟩ := memory_wf_iff.mp h
  simp only [memSet]
  split
  · exact memory_wf_iff.mpr ⟨tsorted_tdel m a hs, fun c hc => hd c (mem_tdel hc)⟩
  · refine memory_wf_iff.mpr ⟨tsorted_tset m a b hs, fun c hc => ?_⟩
    rcases mem_tset hc with rfl | hc
    · assumption
    · exact hd c hc

theorem memory_wf_write {m : List Host.Cell} (h : Memory.wf m = true) (a : Nat) (bs : List Byte) :
    Memory.wf (memWrite m a bs) = true := by
  induction bs generalizing m a with
  | nil => exact h
  | cons b bs ih => exact ih (memory_wf_set h a b) (a + 1)

theorem memory_wf_filter {m : List Host.Cell} (h : Memory.wf m = true) (f : Host.Cell → Bool) :
    Memory.wf (m.filter f) = true := by
  obtain ⟨hs, hd⟩ := memory_wf_iff.mp h
  exact memory_wf_iff.mpr ⟨tsorted_filter m f hs, fun c hc => hd c (List.mem_filter.mp hc).1⟩

theorem memGet_set (m : List Host.Cell) (a x : Nat) (b : Byte) :
    memGet (memSet m a b) x = if x = a then b else memGet m x := by
  simp only [memGet, tgetD, memSet]
  by_cases hb : b = memDefault
  · simp only [hb, if_true, tget_tdel m x a]
    split <;> simp
  · simp only [hb, if_false, tget_tset]
    split <;> rfl

/-- A byte after a write: the written byte inside, the old one outside. -/
theorem memGet_write (m : List Host.Cell) (a x : Nat) (bs : List Byte) :
    memGet (memWrite m a bs) x = if a ≤ x ∧ x < a + bs.length then bs.getD (x - a) 0 else memGet m x := by
  induction bs generalizing m a with
  | nil =>
    rw [if_neg (by simp)]
    rfl
  | cons b bs ih =>
    simp only [memWrite, ih, memGet_set, List.length_cons]
    by_cases hx : x = a
    · subst hx
      rw [if_neg (by omega), if_pos rfl, if_pos (by omega), Nat.sub_self]
      rfl
    · by_cases h1 : a + 1 ≤ x ∧ x < a + 1 + bs.length
      · rw [if_pos h1, if_pos (by omega)]
        obtain ⟨k, hk⟩ : ∃ k, x - a = k + 1 := ⟨x - a - 1, by omega⟩
        rw [hk, List.getD_cons_succ]
        congr 1
        omega
      · rw [if_neg h1, if_neg hx, if_neg (by omega)]

theorem memRead_congr {m m' : List Host.Cell} {a n : Nat} (h : ∀ x, a ≤ x → x < a + n → memGet m x = memGet m' x) :
    memRead m a n = memRead m' a n := by
  induction n generalizing a with
  | zero => rfl
  | succ n ih =>
    simp only [memRead]
    rw [h a (by omega) (by omega), ih fun x h1 h2 => h x (by omega) (by omega)]

theorem memRead_length (m : List Host.Cell) (a n : Nat) : (memRead m a n).length = n := by
  induction n generalizing a with
  | zero => rfl
  | succ n ih => simp [memRead, ih]

theorem memRead_write_same (m : List Host.Cell) (a : Nat) (bs : List Byte) :
    memRead (memWrite m a bs) a bs.length = bs := by
  induction bs generalizing m a with
  | nil => rfl
  | cons b bs ih =>
    simp only [List.length_cons, memRead, memWrite]
    congr 1
    · rw [memGet_write, if_neg (by omega), memGet_set, if_pos rfl]
    · exact ih _ (a + 1)

theorem memRead_write_other (m : List Host.Cell) (a : Nat) (bs : List Byte) (x n : Nat)
    (hd : x + n ≤ a ∨ a + bs.length ≤ x) : memRead (memWrite m a bs) x n = memRead m x n :=
  memRead_congr fun y h1 h2 => by rw [memGet_write, if_neg (by omega)]

end Sys2Proof.Machine
end

