-- ==== Sys2Proof/Laws/Vector.lean ====
section
/-! SUPPORT. Writing vector registers: with room for the names that are not mapped, the writes succeed and give the registers that
the statements name (R175–R177). -/
namespace Sys2Proof.Claims

open Machine

theorem lanesOf_getElem {α : Type} (f : Fin 32 → α) (l : Nat) (h : l < 32) : (lanesOf f)[l] = f ⟨l, h⟩ := lanesOf_get f ⟨l, h⟩

theorem lanesMerge_eq {α : Type} (m : Mask) (f : Fin 32 → α) (old : Lanes α) :
    lanesMerge m f old = Vector.ofFn fun l => if inMask m l then f l else old[l] := by
  ext l h
  simp [lanesMerge, lanesOf_getElem]

/-- The writes of a list, one after the other. -/
def writes (ws : List (Nat × Mask × (Fin 32 → Word))) (c : Ctx) : Except Stop Ctx :=
  ws.foldlM (fun c w => c.wv w.1 w.2.1 w.2.2) c

/-- Room for k more entries of the context's wave. -/
def RoomFor (c : Ctx) (k : Nat) : Prop := RoomIn c c.w k

theorem room_ok {c : Ctx} {k : Nat} (h : RoomFor c (k + 1)) : c.room 1 = .ok () := by
  unfold RoomFor RoomIn MayTake at h
  rcases h with h | ⟨hc, h⟩
  · omega
  · unfold Ctx.room
    dsimp only
    rw [if_neg (by omega), if_neg]
    simp only [Bool.and_eq_true, decide_eq_true_eq, not_and]
    intro hh
    have := h.1 hh
    omega

theorem countP_set {α : Type} {p : α → Bool} {k : Nat} (v : Vector α k) (n : Nat) (h : n < k) (x : α) (h1 : p (v[n]) = false)
    (h2 : p x = true) : (v.set n x h).toList.countP p = v.toList.countP p + 1 := by
  have hl : n < v.toList.length := by simp [h]
  have h3 : (v.set n x h).toList = v.toList.set n x := by simp [Vector.toList]
  rw [h3, List.countP_set hl]
  simp [h2, h1]

theorem footprint_map {w : Wave} {n : Nat} (h : n < 64) (x : Lanes Word) (hn : w.v[n] = none) :
    ({ w with v := w.v.set n (some x) } : Wave).footprint = w.footprint + 1 := by
  simp only [Wave.footprint, mapFootprint]
  rw [countP_set w.v n h (some x) (by simp [hn]) rfl]
  omega

theorem footprint_remap {w : Wave} {n : Nat} (h : n < 64) (x : Lanes Word) (hn : w.v[n].isSome = true) :
    ({ w with v := w.v.set n (some x) } : Wave).footprint = w.footprint := by
  simp only [Wave.footprint, mapFootprint]
  have hl : n < w.v.toList.length := by simp [h]
  have h3 : (w.v.set n (some x) h).toList = w.v.toList.set n (some x) := by simp [Vector.toList]
  rw [h3, List.countP_set hl]
  have h4 : (w.v.toList[n]).isSome = true := by simp [hn]
  simp only [h4, Option.isSome_some, if_true]
  have : 0 < List.countP (fun x => x.isSome) w.v.toList := List.countP_pos_iff.mpr ⟨_, List.getElem_mem hl, h4⟩
  omega

theorem wv_ok {c : Ctx} {n : Nat} (h : n < 64) (m : Mask) (f : Fin 32 → Word)
    (hr : w.v[n].isSome = true ∨ c.room 1 = .ok ()) (hw : c.w = w) :
    c.wv n m f = .ok { c with w := { c.w with v := c.w.v.set n (some (lanesMerge m f ((c.w.v[n]).getD zeroLanes))) } } := by
  subst hw
  unfold Ctx.wv
  rw [dif_pos h]
  split
  · rename_i old hold
    simp [hold]
  · rename_i hold
    rcases hr with hr | hr
    · simp [hold] at hr
    · simp [hr, hold]

theorem writeV_one (v : Vector (Option (Lanes Word)) 64) (n : Nat) (h : n < 64) (m : Mask) (f : Fin 32 → Word) :
    writeV v [(n, m, f)] = v.set n (some (lanesMerge m f ((v[n]).getD zeroLanes))) := by
  simp only [writeV, List.foldl, lanesMerge_eq]
  ext1 k hk
  rw [Vector.getElem_ofFn, Vector.getElem_set]
  by_cases hkn : k = n
  · subst hkn
    simp only [if_true]
    rfl
  · rw [if_neg hkn, if_neg (Ne.symm hkn)]
    rfl

theorem writeV_cons (v : Vector (Option (Lanes Word)) 64) (n : Nat) (h : n < 64) (m : Mask) (f : Fin 32 → Word)
    (ws : List (Nat × Mask × (Fin 32 → Word))) :
    writeV v ((n, m, f) :: ws) = writeV (v.set n (some (lanesMerge m f ((v[n]).getD zeroLanes)))) ws := by
  have h1 : writeV v ([(n, m, f)] ++ ws) = writeV (writeV v [(n, m, f)]) ws := List.foldl_append
  exact h1.trans (congrArg (fun v => writeV v ws) (writeV_one v n h m f))

theorem unmapped_set {w : Wave} {n : Nat} (h : n < 64) (x : Lanes Word) {ns : List Nat} (hn : n ∉ ns) :
    unmapped { w with v := w.v.set n (some x) } ns = unmapped w ns := by
  unfold unmapped
  apply List.countP_congr
  intro m hm
  have : m ≠ n := fun e => hn (e ▸ hm)
  split
  · rw [Vector.getElem_set, if_neg (Ne.symm this)]
  · rfl

/-- With room, the writes succeed, and only the wave's vector registers change. -/
theorem writes_ok {c : Ctx} {ws : List (Nat × Mask × (Fin 32 → Word))} (h64 : ∀ n ∈ ws.map (·.1), n < 64)
    (hd : (ws.map (·.1)).Nodup) (hr : RoomFor c (unmapped c.w (ws.map (·.1)))) :
    ∃ w, writes ws c = .ok { c with w := w } ∧ w = { c.w with v := writeV c.w.v ws } ∧
      w.footprint = c.w.footprint + unmapped c.w (ws.map (·.1)) := by
  induction ws generalizing c with
  | nil => exact ⟨c.w, rfl, rfl, rfl⟩
  | cons a ws ih =>
    obtain ⟨n, m, f⟩ := a
    simp only [List.map_cons, List.mem_cons, forall_eq_or_imp, List.nodup_cons] at h64 hd
    have hn := h64.1
    have hcount : unmapped c.w (n :: ws.map (·.1)) = unmapped c.w (ws.map (·.1)) + if c.w.v[n].isNone then 1 else 0 := by
      simp [unmapped, List.countP_cons, hn]
    simp only [List.map_cons] at hr
    rw [hcount] at hr
    have hok := wv_ok (c := c) (w := c.w) hn m f (by
      by_cases hs : c.w.v[n].isSome = true
      · exact .inl hs
      · refine .inr (room_ok (k := unmapped c.w (ws.map (·.1))) ?_)
        have hs' : c.w.v[n].isNone = true := by simpa using hs
        rw [hs'] at hr
        exact hr) rfl
    have hfp : ({ c.w with v := c.w.v.set n (some (lanesMerge m f ((c.w.v[n]).getD zeroLanes))) } : Wave).footprint +
        unmapped c.w (ws.map (·.1)) = c.w.footprint + (unmapped c.w (ws.map (·.1)) + if c.w.v[n].isNone then 1 else 0) := by
      by_cases hs : c.w.v[n].isSome = true
      · rw [footprint_remap hn _ hs]
        have hs' : c.w.v[n].isNone = false := by simpa using hs
        simp [hs']
      · have hs' : c.w.v[n] = none := by simpa using hs
        rw [footprint_map hn _ hs', hs']
        simp; omega
    obtain ⟨w, h1, h2, h3⟩ := ih (c := { c with w := { c.w with v := c.w.v.set n (some (lanesMerge m f ((c.w.v[n]).getD zeroLanes))) } })
      h64.2 hd.2 (by
        dsimp only
        rw [unmapped_set hn _ hd.1]
        rcases hr with hr | hr
        · exact .inl (by omega)
        · refine .inr ?_
          unfold MayTake at hr ⊢
          rw [hfp]
          exact hr)
    refine ⟨w, ?_, ?_, ?_⟩
    · simp only [writes, List.foldlM_cons, hok]
      exact h1
    · rw [writeV_cons _ _ hn]
      exact h2
    · rw [List.map_cons, hcount, ← hfp, h3, unmapped_set hn _ hd.1]

/-- With room for the names that they map, an instruction's writes find their entries (R177). -/
theorem allot_writes {i : Instr} {c c1 : Ctx} {k : Nat} (hr : RoomIn c (freed i c) k) (h : c1.w.footprint = (freed i c).footprint + k)
    (hs : c1.sends = []) : c.allot c1 = .ok c1 := by
  rcases hr with rfl | hr
  · exact Ctx.allot_within (by have := freed_footprint_le i c; omega) hs
  · unfold Ctx.allot
    dsimp only
    rw [if_pos, Ctx.leave_local hs]
    rw [h]
    simp only [Bool.or_eq_true, decide_eq_true_eq]
    obtain ⟨-, -, h1 | h1 | h1⟩ := hr
    · exact .inl (.inl (.inr h1))
    · exact .inl (.inr h1)
    · exact .inr h1

theorem roomFor_freed {s : State} {i : Instr} {c : Ctx} {ns : List Nat} (h : Issues s i c) (hr : HasRoom i c ns) :
    RoomFor (c.freeReads (shape i)) (unmapped (c.freeReads (shape i)).w ns) := by
  unfold HasRoom at hr
  unfold RoomFor
  rw [freed_eq h]
  exact hr

/-- An instruction whose body writes vector registers retires with them written. -/
theorem writes_retires {s : State} {i : Instr} {c : Ctx} {body : Ctx → Except Stop Ctx} {ws : List (Nat × Mask × (Fin 32 → Word))}
    (h : Issues s i c) (he : exec i s = run i body s) (hb : body (c.freeReads (shape i)) = writes ws (c.freeReads (shape i)))
    (h64 : ∀ n ∈ ws.map (·.1), n < 64) (hd : (ws.map (·.1)).Nodup) (hr : HasRoom i c (ws.map (·.1))) :
    ∃ t w, exec i s = .next t ∧ Retires s c t w ∧
      noEntities w = noEntities { freed i c with v := writeV (freed i c).v ws } := by
  obtain ⟨w, h1, h2, h3⟩ := writes_ok h64 hd (roomFor_freed h hr)
  rw [freed_eq h] at h3
  obtain ⟨t, w', ha, hb', hc⟩ := retires_of_body h (hb.trans h1) (allot_writes hr h3 (issuing h.1).sends) (waveOnly_w _ _ (by rw [h2]) (by rw [h2]))
  refine ⟨t, w', he ▸ ha, hb', ?_⟩
  rw [hc, ← freed_eq h]
  exact congrArg noEntities h2

theorem check_fields {c : Ctx} (h : c.check = .ok ()) : fieldsOk c.i = true := by
  unfold Ctx.check at h
  dsimp only at h
  split at h
  · cases h
  · split at h
    · cases h
    · rename_i hn
      simp at hn
      exact hn.1.1

end Sys2Proof.Claims
end

