-- ==== Sys2Proof/Safety.lean ====
section
/-! DEFINITION. Safe runs: what claims about whole runs are stated over. -/
namespace Sys2Proof

open Machine

/-- States that k steps from s lead to. -/
def Reaches (s : State) : Nat → State → Prop
  | 0, t => t = s
  | k + 1, t => ∃ u, step s = .next u ∧ Reaches u k t

/-- A run of k steps from s stops nowhere. -/
def RunsFor (s : State) (k : Nat) : Prop := ∃ t, Reaches s k t

/-- Every state that a run from s reaches has a property. -/
def Always (P : State → Prop) (s : State) : Prop := ∀ k t, Reaches s k t → P t

end Sys2Proof
end

