-- ==== Sys2Proof/WellFormed.lean ====
section
/-! DEFINITION. Well-formed terms of the syntax: instruction words whose fields and guard the instruction set accepts (R27–R33), and
events whose core, quadrant, plate, partition and port numbers name one that the module has (R2). -/
namespace Sys2Proof

def coreOk (c : Nat) : Bool := decide (c < 288)
def quadOk (q : Nat) : Bool := decide (q < 4)
def plateOk (p : Nat) : Bool := decide (p < 2)
def partOk (p : Nat) : Bool := decide (p < 8)
/-- A wave slot of a block, 0–15, or 16 for its surrender wave. -/
def entOk (e : EntRef) : Bool := decide (e.slot ≤ 16)

/-- The numbers an event carries. -/
def eventOk (i : Instr) : Bool :=
  match i with
  | .registerWrite off size _ => decide (size = 4 ∨ size = 8) && decide (off % size = 0)
  | .freplyReplay p _ | .freplyFatalXlate p _ | .freplyFatalWprot p _ | .freplyIgnored p _ | .faultBufferEntry p
  | .faultRecordWrite p | .vertexRetirement p _ => plateOk p
  | .shootdownStart c _ | .shootdownComplete c => decide (c < 8)
  | .firmwareDownload k => decide (k.toNat ≤ 7)
  | .partitionSwapOut p | .partitionSwapIn p | .partitionSwapDone p | .ptclWrite p _ | .overflowRecordEntry p _ => partOk p
  | .launchRingWordWrite p r _ | .launchRecordTake p r => partOk p && decide (r < 64)
  | .hatchClear c | .coreLeavesService c | .promotion c | .surrenderWaveStart c | .surrenderBoundExpiry c | .sample c
  | .etchTs c | .tagCompletion c _ | .traceCompletion c _ | .storeArrivalAtHome c _ | .storeAcknowledgement c _
  | .engineAccessError c _ _ _ | .c0RequestAdmitted c _ | .atomicRequestArrival c _ | .atomicAcknowledgement c _
  | .replayAnswer c _ | .retransmitTimeout c _ | .linkCorrectableError c _ | .forwardedArrival c _
  | .forwardingEntryExpiry c _ | .pageWalk c _ _ _ => coreOk c
  | .blockPlacement _ c q | .blockMigration _ c q | .taskDispatch c q | .registerDeadlockBreak c q | .registerGrant c q
  | .registerPoolRepair c q _ | .emptyIssueCycle c q => coreOk c && quadOk q
  | .blockRestore _ q => quadOk q
  | .xrteWrite m _ => decide (m < 64)
  | .exvosLinkStateChange p _ => decide (p < 12)
  | .wakeConditionMet e | .napExpiry e | .loadReturn e | .uncorrectableEccError e | .quantumCountExpiry e
  | .stippleResultReturn e _ | .instructionFetchReturn e => entOk e
  | .cohortBarrierCompletion _ c => decide (c < 256)
  | .graverCommandFault _ _ k _ => decide (1 ≤ k.toNat ∧ k.toNat ≤ 5)
  | .hostCxlStore hdm bs => decide (bs.length ≤ 64) && decide (hdm + bs.length ≤ 384 * 2 ^ 30)
  | .hostCxlRead hdm n => decide (n ≤ 64) && decide (hdm + n ≤ 384 * 2 ^ 30)
  | .nonInstructionEncoding w =>
    match decode w with
    | .ok _ => false
    | .error _ => true
  | _ => true

/-- Is the term well-formed? -/
def Instr.wf (i : Instr) : Bool := Machine.fieldsOk i && (((Machine.shape i).guard.map Machine.guardOk).getD true) && eventOk i

end Sys2Proof
end

