-- ==== Sys2Proof/Tests/Slice0.lean ====
section
/-! SUPPORT. The model's own tests: ill-formed terms for each check of well-formedness, words written out from the encodings of the
spec, worked values of the spec, and for each statement concrete states and operands that meet its hypotheses, clause by clause. -/
namespace Sys2Proof.Tests
set_option maxRecDepth 200000
set_option Elab.async false
open Sys2Proof Machine Claims

/-- A property of a list's members is decided member by member, also where their type is finite. -/
def listAll {α : Type} (p : α → Prop) [DecidablePred p] (l : List α) : Decidable (∀ a ∈ l, p a) := List.decidableBAll p l

/-- What a word decodes to, and why it does not. -/
def gives (w : Word) : Option Instr := match decode w with
  | .ok i => some i
  | .error _ => none
def refuses (w : Word) : Option DecodeError := match decode w with
  | .ok _ => none
  | .error e => some e

/-! ### Small states -/

/-- One block of one wave with all lanes active, its word about to issue. -/
def st : State := State.reset.placeProgram []
/-- The block, its wave, the wave's parent entity, its launch, its core, changed. -/
def onBlock (f : Block → Block) (s : State) : State := s.modBlock 0 f
def onWave (f : Wave → Wave) (s : State) : State :=
  onBlock (fun b => { b with waves := b.waves.map fun p => if p.1 = 0 then (0, f p.2) else p }) s
def onEnt (f : Entity → Entity) (s : State) : State := onWave (fun w => { w with parent := f w.parent }) s
def onLaunch (f : Launch → Launch) (s : State) : State := s.modLaunch 0 f
def onCore (f : Core → Core) (s : State) : State := s.modCore 0 f
/-- Scalar and vector registers set. -/
def sreg (l : List (Nat × Nat)) (s : State) : State :=
  onWave (fun w => { w with s := l.foldl (fun v x => v.setIfInBounds x.1 (BitVec.ofNat 64 x.2)) w.s }) s
def vregs (ns : List Nat) (f : Nat → Nat → Nat) (s : State) : State :=
  onWave (fun w => { w with v := ns.foldl (fun v n => v.setIfInBounds n (some (lanesOf fun l => BitVec.ofNat 32 (f n l.val)))) w.v }) s
/-- Hints in front of the word. -/
def hinted (hs : List Instr) (s : State) : State := onEnt (fun e => { e with hints := hs, gpc := e.pc - 4 }) s
/-- A page of 4 KiB that the tables of address space 0 map and the core's TLB holds: virtual to physical, and whether it is of class N. -/
def page (va pa : Nat) (s : State) (nclass : Bool := false) : State :=
  let leaf := progTables + 3 * 4096 + 8 * (va / 4096)
  let st : LeafState := if nclass then .nclass else .normal
  onCore (fun c => { c with tlb := { asid := 0, va := va, pa := pa, bits := 12, st := st, w := true, x := true, d := true, ts := 0, leaf := leaf } :: c.tlb })
    { s with mem := memWrite s.mem leaf (leBytes (pa + 0xF3 + (if nclass then 8 else 0)) 8) }
def noGuard : Guard := { n := false, g := 15 }
def guardK (k : Reg4) : Guard := { n := false, g := k }
/-- The slices of the block. -/
def slices (w a c : Nat) (s : State) : State :=
  onBlock (fun b => { b with wslice := { base := 0, len := w }, aslice := { base := 0, len := a }, cslice := { base := 0, len := c } }) s
/-- A Level launch. -/
def levelled (s : State) : State :=
  onLaunch (fun l => { l with kd := { l.kd with level := true } }) (onBlock (fun b => { b with level := some { index := 0, open_ := { n := 0 } } }) s)
def tagged (ts : List Tag) (s : State) : State := onBlock (fun b => { b with tags := ts }) s

/-- An instruction that may issue in a state and whose context has a property. -/
def Meets (s : State) (i : Instr) (P : Ctx → Bool) : Prop := ∃ c, Issues s i c ∧ P c = true

def passes : Except Stop Unit → Bool
  | .ok _ => true
  | .error _ => false

theorem meets {s : State} {i : Instr} {P : Ctx → Bool}
    (h : (match s.issuer i with
      | some c => passes c.check && P c
      | none => false) = true) : Meets s i P := by
  split at h
  · next c hc =>
    refine ⟨c, ⟨hc, ?_⟩, ?_⟩
    · revert h; unfold passes; cases c.check with
      | ok u => intro; rfl
      | error e => intro h; simp at h
    · revert h; cases P c <;> simp
  · cases h

/-- a computation of an instruction that has come to a value with a property -/
def gets {α : Type} (x : Except Stop α) (P : α → Bool) : Bool :=
  match x with
  | .ok a => P a
  | .error _ => false
/-- a page of the core's own plate and one of the other plate, with two lanes active, and a release tag of core 5 at an address -/
def two (s : State) : State := onWave (fun w => { w with exited := 0xFFFFFFFC }) (onEnt (fun e => { e with xm := 3, arm := 3 }) s)
def near (s : State) : State := two (page 0x20000 0x400000 (page 0x10000 0x200000 s))
def far (s : State) : State := two (page 0x20000 (2 ^ 45 + 0x400000) s)
def tagAt (pa : Nat) (s : State) : State := { s with homes := [(homeOf pa, { tags := [{ word := pa, mod_ := 0, core := 5, at_ := 0 }] })] }
def racq : Instr := .hmod 0 false 0 0 3 6
def unsent (s : State) : State := onCore (fun k => { k with stores := [] }) s
def me : EntRef := { blk := 0, slot := 0, frag := false }
def busy (s : State) : State := onCore (fun k => { k with stores := [{ id := 0, ent := me, lane := 0, pa := 0, bytes := [0] }] }) s
/-- requests of the launch are of class C0 and its core has used its rate up; the route to the own module drains -/
def throttled (s : State) : State := onLaunch (fun l => { l with prio := 0 }) (onCore (fun k => { k with c0used := 10 ^ 9 }) s)
def drains (s : State) : State := s.modHub fun h => { h with xrte := [(0, { draining := true })] }

/-! ### Well-formedness: an ill-formed term for each check -/

theorem test_wf_good : (Instr.vadd 1 2 3 false false noGuard).wf = true ∧ (Instr.hatchClear 287).wf = true ∧ (Instr.sadd 31 0 0 false).wf = true := by decide +kernel
/-- guard codes 12–14 are no predicates (R29) -/
theorem test_wf_guard : (Instr.vadd 1 2 3 false false (guardK 12)).wf = false := by decide +kernel
/-- fields that an entry refuses: a condition code (R253), a pair at an odd register (R32), a width (R67) -/
theorem test_wf_fields : (Instr.scmp 1 2 3 false 6).wf = false ∧ (Instr.dadd 1 2 4 false false noGuard).wf = false ∧
    (Instr.ld 0 true false 0 0 7 noGuard).wf = false := by decide +kernel
theorem test_wf_core : (Instr.hatchClear 288).wf = false := by decide +kernel
theorem test_wf_quad : (Instr.registerGrant 0 4).wf = false ∧ (Instr.blockRestore 0 4).wf = false := by decide +kernel
theorem test_wf_plate : (Instr.freplyReplay 2 0).wf = false := by decide +kernel
theorem test_wf_part : (Instr.partitionSwapOut 8).wf = false ∧ (Instr.launchRingWordWrite 0 64 0).wf = false := by decide +kernel
theorem test_wf_ent : (Instr.napExpiry { blk := 0, slot := 17, frag := false }).wf = false := by decide +kernel
theorem test_wf_register : (Instr.registerWrite 4 8 0).wf = false ∧ (Instr.registerWrite 0 2 0).wf = false := by decide +kernel
theorem test_wf_sizes : (Instr.hostCxlRead 0 65).wf = false ∧ (Instr.hostCxlStore (2 ^ 52) [0]).wf = false := by decide +kernel
theorem test_wf_numbers : (Instr.shootdownComplete 8).wf = false ∧ (Instr.firmwareDownload 8).wf = false ∧ (Instr.xrteWrite 64 0).wf = false ∧
    (Instr.exvosLinkStateChange 12 true).wf = false ∧ (Instr.cohortBarrierCompletion 0 256).wf = false ∧
    (Instr.graverCommandFault 0 0 6 0).wf = false := by decide +kernel
/-- a word that is an instruction is no non-instruction encoding -/
theorem test_wf_word : (Instr.nonInstructionEncoding 0x08000000).wf = false ∧ (Instr.nonInstructionEncoding 0).wf = true := by decide +kernel

/-! ### Decoding: words of the spec's own listings, and words written out bit by bit from its encodings -/

/-- programs of chapters 15, 17 and 19: `SCMP.lt s8, s7, s4`, `SADD s7, s7, s12`, `SMOVI s12, 1`, `SRD s2, wslot`, `SRD v0, lane` -/
theorem test_decode_scalar : gives 0x1083902C = some (.scmp 8 7 4 false 2) ∧ gives 0x1073B000 = some (.sadd 7 7 12 false) ∧
    gives 0x12C00001 = some (.smovi 12 1) ∧ gives 0x16200001 = some (.srd 2 false 1) ∧ gives 0x16000200 = some (.srd 0 true 0) := by decide +kernel
/-- `VSHLI v0, v0, 2`, `VMOVI v3, 100`, `FCMP.lt k3, v2, v12`, `STOK k1, s2` -/
theorem test_decode_vector : gives 0x4200004F = some (.vshli 0 0 2 noGuard) ∧ gives 0x4A180C8F = some (.vmovi 3 100 noGuard) ∧
    gives 0x6264118F = some (.fcmp 3 2 2 12 noGuard) ∧ gives 0x6620430F = some (.stok 1 2 noGuard) := by decide +kernel
/-- `SHFX v6, v2, 16`, `VRED.argmax.f32 v4:v5, v2`, `ATOM.max.n64 v4:v5, [v6:v7]`, `FENCE.ar.dev`, `BSADD s5, b3, s6` -/
theorem test_decode_memory : gives 0xB230420F = some (.shfx 6 2 16 noGuard) ∧ gives 0xBC20458F = some (.vred 4 2 11 false noGuard) ∧
    gives 0xD820C98F = some (.atom 4 6 2 3 false false noGuard) ∧ gives 0xDE0002B0 = some (.fence 5 6) ∧
    gives 0xE0530330 = some (.bsadd 5 6 3) := by decide +kernel
/-- `CPYT`, `TGWAIT s12`, `TGCLR s12`, `RWAIT.a.block s9, s10`, `RFLIP.a.block s9, s10`, `RIDX s20, s21, s7`, `TACQ`, `CEDE.fin`, `.sum`, `.ref` -/
theorem test_decode_engines : gives 0xE2B00021 = some (.cpyt 11 0 0 2 false) ∧ gives 0xE4060000 = some (.tgwait 12) ∧
    gives 0xE4060180 = some (.tgclr 12) ∧ gives 0xE604A948 = some (.rwait 9 10 false true 2) ∧
    gives 0xE604AA48 = some (.rflip 9 10 false true 2) ∧ gives 0xE74A9C00 = some (.ridx 20 21 7) ∧
    gives 0xE9440680 = some (.tacq 20 8 3 1 false) ∧ gives 0xE8000002 = some (.cede 0) ∧ gives 0xE8000012 = some (.cede 1) ∧
    gives 0xE8000022 = some (.cede 2) := by decide +kernel
/-- `MLD.3x3 m0, [s4]`, `MMULT m2, m0, m0`, `MFLG.any k5` -/
theorem test_decode_matrix : gives 0xEA12008F = some (.mld 0 2 2 4 noGuard) ∧ gives 0xEC80100F = some (.mmult 2 0 0 noGuard) ∧
    gives 0xEE0F0CAF = some (.mflg 15 5 noGuard) := by decide +kernel
/-- the Graver's instructions -/
theorem test_decode_graver : gives 0xF0325000 = some (.gcmd 3 4 20) ∧ gives 0xF0000001 = some .grdy ∧ gives 0xF0600002 = some (.gfence 6) ∧
    gives 0xF0030003 = some (.gwait 6) ∧ gives 0xF0010C04 = some (.gwin 2 3) ∧ gives 0xF0A58005 = some (.gctr 10 11) ∧
    gives 0xF0058006 = some (.gclr 11) ∧ gives 0xF0C00407 = some (.gqry 12 1) := by decide +kernel
/-- the Stipple's and the ray unit's instructions -/
theorem test_decode_stipple : gives 0xF2A0000F = some (.vapp 20 0 false false noGuard) ∧ gives 0xF2B2808F = some (.vseal 22 20 false noGuard) ∧
    gives 0xF2C1010F = some (.vconn 24 8 false noGuard) ∧ gives 0xF2D1020F = some (.vrwt 26 8 false noGuard) ∧
    gives 0xF2F3E40F = some (.vgen 30 31 false noGuard) ∧ gives 0xF411000F = some (.trace 2 8 false false noGuard) ∧
    gives 0xF480408F = some (.hitget 16 2 false noGuard) := by decide +kernel
/-- hints: `HSRC` with an S register, and `HMOD` -/
theorem test_decode_hints : gives 0xFE401900 = some (.hsrc 0 false 12 true) ∧ gives 0xFE400F00 = some (.hsrc 0 false 7 true) ∧
    gives 0xFE401500 = some (.hsrc 0 false 10 true) ∧ gives 0xFE6004C0 = some (.hmod 0 false 0 0 2 6) := by decide +kernel
/-- `BRA.div k3, !n, -2`: 0000001 100 0011 1 11111111111111110 (R283); `BAR` (R293); `POST v8, guard k2`: 0000101 001000 0…0 0 0 0010 (R297) -/
theorem test_decode_control : gives 0b00000011000011111111111111111110 = some (.bra 4 3 true 0x1FFFE) ∧ gives 0x08000000 = some .bar ∧
    gives 0b00001010010000000000000000000010 = some (.post 8 false (guardK 2)) := by decide +kernel
/-- `FADD v1, v2, v3` with a last read of v3: 0111000 000001 000010 000011 0 1 0 1111 (R270); `CVT` code 2; `RKEY s4`; `TRAP 0x123`; `DBRK s5, s6` -/
theorem test_decode_floats : gives 0b01110000000010000100000110101111 = some (.fadd 1 2 3 false true noGuard) ∧
    gives 0b10100000000010000100010000001111 = some (.cvt 1 2 2 0 false false noGuard) ∧ gives 0b10101110000000100000000000000000 = some (.rkey 4) ∧
    gives 0b11110110000001001000110000000000 = some (.trap 0x123) ∧ gives 0b11110110010100110000000000001000 = some (.dbrk 5 6) := by decide +kernel
/-- what R33 names as no instruction -/
theorem test_decode_none : refuses 0 = some .reservedMajor ∧ refuses 0x0C000000 = some .reservedMajor ∧ refuses 0x06000007 = some .unassigned ∧
    refuses 0x08000002 = some .unassigned ∧ refuses 0xFEA00000 = some .hintKind := by decide +kernel

/-! ### Hypotheses met: registers -/

/-- hints in front of a word that takes none of them -/
abbrev Hinted (i : Instr) (h : Instr) (P : Ctx → Bool) : Prop := (((hinted [h] st).issuer i).map P) = some true
/-- `SADD s1, s2, s3`; `SCMP`-less forms write S[d], `VCMP.lt k1, v2, v3` a predicate -/
theorem witness_ScalarAndPredicateResults :
    Hinted (.smovi 1 2) (.hsrc 3 true 0 false) (fun c => c.x.vc.isSome && !c.armBusy) ∧ Hinted (.smovi 1 2) (.hmod 0 false 0 0 0 0) (fun c => c.x.hasMod && !c.armBusy) ∧
    Meets st (.sadd 1 2 3 false) (fun c => (scalarResult (.sadd 1 2 3 false) c).isSome) ∧
    Meets st (.vcmp 1 2 2 3 noGuard) (fun c => (predicateResult (.vcmp 1 2 2 3 noGuard) c).isSome) :=
  by and_intros <;> first | exact meets (by decide +kernel) | decide +kernel

/-- `VADD v1, v2, v3` onto an unmapped register, and onto a mapped one of a wave at its cap -/
def vmadI : Instr := .vmad 1 2 3 false false noGuard
theorem witness_VectorResults :
    ((st.issuer vmadI).map fun c => c.x.vc.isNone && !c.armBusy) = some true ∧
    Meets (hinted [.hsrc 4 true 0 false] st) vmadI (fun c => match vectorResult vmadI c with
      | some ws => decide (HasRoom vmadI c (ws.map (·.1)))
      | none => false) ∧
    Meets st (.vadd 1 2 3 false false noGuard) (fun c => match vectorResult (.vadd 1 2 3 false false noGuard) c with
      | some ws => decide (HasRoom (.vadd 1 2 3 false false noGuard) c (ws.map (·.1)))
      | none => false) ∧
    Meets (onWave (fun w => { w with floor := 1, cap := 1 }) (vregs [1] (fun _ l => l) st)) (.vadd 1 1 1 false false noGuard)
      (fun c => match vectorResult (.vadd 1 1 1 false false noGuard) c with
      | some ws => decide (HasRoom (.vadd 1 1 1 false false noGuard) c (ws.map (·.1)))
      | none => false) :=
  by and_intros <;> first | exact meets (by decide +kernel) | decide +kernel

/-- an outcome whose entries the wave may take (so that there is room), and with or without an enabled exception -/
def outcome (f : Option Outcome) (i : Instr) (c : Ctx) (enabled : Bool) : Bool :=
  match f with
  | some o => decide (MayTake c (dropped (freed i c) o) (takes i c o)) && decide (raised c o ≠ 0) == enabled
  | none => false

/-- `FADD`, `CVT` (FP32 to INT32), `VRED.add.i32`, `MADD`: no exception enabled -/
theorem witness_ArithmeticResults :
    Meets (vregs [2, 3] (fun _ _ => 0x3F800000) st) (.fadd 1 2 3 false false noGuard)
      (fun c => outcome (floatOutcome (.fadd 1 2 3 false false noGuard) c) (.fadd 1 2 3 false false noGuard) c false) ∧
    Meets st (.cvt 1 2 0 0 false false noGuard)
      (fun c => outcome (conversionOutcome (.cvt 1 2 0 0 false false noGuard) c) (.cvt 1 2 0 0 false false noGuard) c false) ∧
    Meets st (.vred 4 2 0 false noGuard)
      (fun c => outcome (reductionOutcome (.vred 4 2 0 false noGuard) c) (.vred 4 2 0 false noGuard) c false) ∧
    Meets st (.mmov 1 1 noGuard)
      (fun c => outcome (matrixOutcome (.mmov 1 1 noGuard) c) (.mmov 1 1 noGuard) c false) :=
  by and_intros <;> exact meets (by decide +kernel)

/-- ∞ − ∞ with INV enabled: `FSUB v1, v2, v2` outside a handler and a surrender wave -/
theorem witness_FlaggedExceptions :
    Meets (onWave (fun w => { w with fpx := 1 }) (vregs [2] (fun _ _ => 0x7F800000) st)) (.fsub 1 2 2 false false noGuard)
      (fun c => outcome (floatOutcome (.fsub 1 2 2 false false noGuard) c) (.fsub 1 2 2 false false noGuard) c true &&
        !c.isHandler && !c.isSurrender && decide (c.b.halt = none)) := meets (by decide +kernel)

/-- `SWR` of `fpx` and of `epc` outside a handler; `XMSET`; `RDFL` with and without lanes -/
theorem witness_SpecialRegisterWrites :
    Meets st (.swr 1 0x14) (fun _ => true) ∧ Meets st (.swr 1 0x12) (fun c => !c.isHandler) ∧ Meets st (.xmset 3) (fun _ => true) ∧
    Meets st (.rdfl 1 2 3 false noGuard) (fun c => decide (c.g ≠ 0)) ∧ Meets st (.rdfl 1 2 3 false (guardK 0)) (fun c => decide (c.g = 0)) :=
  by and_intros <;> exact meets (by decide +kernel)

/-! ### Hypotheses met: control -/

/-- `BRA`, `BRA.any`, `BRA.none`; `CALL`; `ISYNC`; `NAP` -/
theorem witness_Transfers : Hinted (.call 1 8) (.hsrc 0 false 2 true) (fun c => c.x.sc.isSome && !c.armBusy) ∧
    Hinted (.call 1 8) (.hmod 0 false 0 0 0 0) (fun c => c.x.hasMod && !c.armBusy) ∧
    Meets st (.bra 0 0 false 4) (fun c => taken c 0 0 false) ∧ Meets st (.bra 3 1 false 4) (fun c => taken c 3 1 false) ∧
    Meets st (.bra 1 1 false 4) (fun c => !taken c 1 1 false) ∧ Meets st (.call 1 8) (fun _ => true) ∧ Meets st .isync (fun _ => true) ∧
    Meets st (.nap 1) (fun _ => true) :=
  by and_intros <;> first | exact meets (by decide +kernel) | decide +kernel

/-- targets that are not word-aligned, at 2^57, and at the last word below -/
theorem witness_RegisterTransfers :
    Meets (sreg [(1, 2)] st) (.jmps 1) (fun c => decide ((c.rs 1).toNat % 4 ≠ 0)) ∧
    Meets (sreg [(1, 2 ^ 57)] st) (.ret 1) (fun c => decide ((c.rs 1).toNat % 4 = 0 ∧ 2 ^ 57 ≤ (c.rs 1).toNat)) ∧
    Meets (sreg [(1, 2 ^ 57 - 4)] st) (.calls 2 1) (fun c => decide ((c.rs 1).toNat % 4 = 0 ∧ (c.rs 1).toNat < 2 ^ 57)) :=
  ⟨meets (by decide +kernel), meets (by decide +kernel), meets (by decide +kernel)⟩

/-- predicates true in no lane, in every lane, in the low 16 lanes; and a wave that has split already -/
def preds (m : Mask) (s : State) : State := onWave (fun w => { w with k := w.k.set 1 m }) s
def splitWave (s : State) : State := onWave (fun w =>
  { w with parent := { w.parent with xm := 0xFFFF, arm := 0xFFFF }, frag := some { pc := 0x10040, xm := 0xFFFF0000, arm := 0xFFFF0000 } }) s
theorem witness_DivergentBranches :
    Meets st (.bra 4 1 false 4) (fun c => decide (condition c 1 false = 0)) ∧
    Meets (preds 0xFFFFFFFF st) (.bra 4 1 false 4) (fun c => decide (condition c 1 false ≠ 0 ∧ condition c 1 false = c.e.xm)) ∧
    Meets (preds 0xFFFF st) (.bra 4 1 false 4) (fun c => decide (condition c 1 false ≠ 0 ∧ condition c 1 false ≠ c.e.xm ∧ c.w0.frag = none ∧ c.e.stack = []) &&
      decide (count (condition c 1 false) = count (c.e.xm &&& ~~~ condition c 1 false) ∧ (c.e.pc + 4).toNat < (c.e.pc + offset c (4 : BitVec 17)).toNat)) ∧
    Meets (preds 0xFF (splitWave st)) (.bra 4 1 false 4) (fun c => decide (condition c 1 false ≠ 0 ∧ condition c 1 false ≠ c.e.xm ∧ ¬ (c.w0.frag = none ∧ c.e.stack = [])) &&
      decide (count (condition c 1 false) = count (c.e.xm &&& ~~~ condition c 1 false) ∧ (c.e.pc + 4).toNat < (c.e.pc + offset c (4 : BitVec 17)).toNat)) :=
  by and_intros <;> exact meets (by decide +kernel)

/-- an entity with an open split -/
def nested (u : SplitEntry) (s : State) : State := onEnt (fun e => { e with xm := 0xFF, arm := 0xFF, stack := [u] }) s
def fragment (stopped : Bool) (pc : Dword) (s : State) : State := onWave (fun w =>
  { w with parent := { w.parent with xm := 0xFFFF, arm := 0xFFFF }, frag := some { pc := pc, xm := 0xFFFF0000, arm := 0xFFFF0000, stopped := stopped } }) s
theorem witness_RejoinsAndExits :
    Meets (nested { arm := 0xFF00, xm := 0xFF00, pc := 0x10004, stopped := true } st) .rejoin (fun c => match c.e.stack with
      | u :: _ => !u.partner && u.stopped && decide (c.e.pc ≠ u.pc)
      | [] => false) ∧
    Meets (nested { arm := 0xFF00, xm := 0xFF00, pc := 0x10000, stopped := true } st) .rejoin (fun c => match c.e.stack with
      | u :: _ => !u.partner && u.stopped && decide (c.e.pc = u.pc)
      | [] => false) ∧
    Meets (nested { arm := 0xFF00, xm := 0xFF00, pc := 0x10004 } st) .rejoin (fun c => match c.e.stack with
      | u :: _ => !u.partner && !u.stopped
      | [] => false) ∧
    Meets (nested { arm := 0xFF00, xm := 0xFF00, pc := 0x10004, partner := true } st) .rejoin (fun c => match c.e.stack with
      | u :: _ => u.partner
      | [] => false) ∧
    Meets st .rejoin (fun c => decide (c.e.stack = [] ∧ c.w0.frag = none)) ∧
    Meets (fragment false 0x10000 st) .rejoin (fun c => decide (c.e.stack = []) && ((c.w0.entity true).map (!·.stopped)).getD false) ∧
    Meets (fragment true 0x10004 st) .rejoin (fun c => decide (c.e.stack = []) && ((c.w0.entity true).map fun o => o.stopped && decide (o.pc ≠ c.e.pc)).getD false) ∧
    Meets (fragment true 0x10000 st) .rejoin (fun c => decide (c.e.stack = []) && ((c.w0.entity true).map fun o => o.stopped && decide (o.pc = c.e.pc)).getD false) ∧
    Meets (nested { arm := 0xFF00, xm := 0xFF00, pc := 0x10004, stopped := true } st) .exit (fun c => c.e.stack.any (·.stopped)) ∧
    Meets (nested { arm := 0xFF00, xm := 0xFF00, pc := 0x10004 } st) .exit (fun c => c.e.stack.any fun u => !u.stopped && !u.partner) ∧
    Meets (fragment false 0x10000 st) .exit (fun c => decide (c.e.stack = []) && (c.w0.entity true).isSome) ∧
    Meets (onCore (fun k => { k with stores := [{ id := 0, ent := { blk := 0, slot := 0, frag := false }, lane := 0, pa := 0, bytes := [0] }] }) st) .exit
      (fun c => decide (c.e.stack = [] ∧ c.w0.frag = none) && c.s.outstanding c.core 0 0) ∧
    Meets (onBlock (fun b => { b with waves := b.waves ++ [(1, {})] }) st) .exit
      (fun c => decide (c.e.stack = [] ∧ c.w0.frag = none ∧ c.b.level = none ∧ c.w0.grav.queue = []) && !c.s.outstanding c.core 0 0 && tsorted c.b.waves &&
        (tget c.b.waves 1).isSome && gets (begun .exit c).putRetire fun _ => true) :=
  by and_intros <;> exact meets (by decide +kernel)

/-! ### Hypotheses met: memory -/

/-- `LD v1, [s2]` of 4 bytes -/
def ldI : Instr := .ld 1 true false 0 2 2 noGuard
def ldMeets (s : State) (isFar promotes : Bool) (admitted : Bool := true) : Prop :=
  Meets s ldI fun c => gets ((begun ldI c).globalLanes .load false 4 (addresses c (address c true true false 0 2))) fun p =>
    let x := p.1.loadAll 4 p.2
    decide (HasRoom ldI c (group 1 2)) && (decide (Admitted c x.2.sends) == admitted) && (x.1.far == isFar) &&
      (isFar || decide (c.ord = 3 ∧ x.2.taggers (p.2.map (·.pa)) ≠ []) == promotes)
theorem witness_GlobalLoads : ldMeets (sreg [(2, 0x20FFC)] (near st)) false false ∧ ldMeets (sreg [(2, 0x20000)] (far st)) true false ∧
    ldMeets (hinted [racq] (sreg [(2, 0x20000)] (tagAt 0x400000 (near st)))) false true ∧
    ldMeets (throttled (sreg [(2, 0x20000)] (far st))) true false false ∧ ldMeets (drains (sreg [(2, 0x20000)] (far st))) true false false :=
  by and_intros <;> exact meets (by decide +kernel)

/-- `SLD.8 s1, [s2]` -/
def sldI : Instr := .sld 1 2 3 0
def sldMeets (s : State) (isFar promotes : Bool) (admitted : Bool := true) : Prop :=
  Meets s sldI fun c => gets ((begun sldI c).globalLanes .load true 8 [(0, c.rs 2 + operandB c 0 true)]) fun p =>
    let x := p.1.loadAll 8 p.2
    (decide (Admitted c x.2.sends) == admitted) && (x.1.far == isFar) && (isFar || decide (c.ord = 3 ∧ x.2.taggers (p.2.map (·.pa)) ≠ []) == promotes)
theorem witness_ScalarLoads : sldMeets (sreg [(2, 0x20FF8)] (near st)) false false ∧ sldMeets (sreg [(2, 0x20000)] (far st)) true false ∧
    sldMeets (hinted [racq] (sreg [(2, 0x20000)] (tagAt 0x400000 (near st)))) false true ∧
    sldMeets (throttled (sreg [(2, 0x20000)] (far st))) true false false :=
  by and_intros <;> exact meets (by decide +kernel)

/-- two lanes at neighbouring 16-byte places -/
def places : List Place := [{ lane := 0, pa := 0x400000, st := .normal }, { lane := 1, pa := 0x400010, st := .normal }]
theorem witness_LoadedBytes :
    Meets st .isync (fun c => decide ((∀ p ∈ places, p.pa % 16 = 0 ∧ p.pa < 2 ^ 52) ∧ (places.map (·.lane)).Nodup ∧ Settled c.s c.core c.r ∧
      CachesTake c.s c.core places.length) && !(c.loadAll 16 places).1.lost) :=
  meets (by decide +kernel)

/-- `ST v1, [s2]`, plain and `.rel`; `SST s1, [s2]`; a Level launch -/
def stI : Instr := .st 1 true false 0 2 2 noGuard
def sstI : Instr := .sst 2 1 2 0
def rel : Instr := .hmod 0 false 0 0 4 6
def relStore (s : State) (admitted : Bool) : Prop :=
  Meets (hinted [rel] (sreg [(2, 0x20FFC)] s)) sstI fun c =>
    gets ((begun sstI c).globalLanes .store true 4 [(0, c.rs 2 + operandB c 0 true)]) fun p =>
      !c.b.isLevel && decide (c.ord = 4) && !c.s.outstanding c.core 0 0 &&
        gets ({ p.1 with s := p.1.s.releaseCaches c.core (c.scope true) }.storeAll 4 (c.scope true) p.2 fun _ => leBytes (c.rs 1).toNat 4) fun c3 =>
          decide (Admitted c c3.sends) == admitted
theorem witness_GlobalStores :
    Meets (vregs [1] (fun _ l => l) (sreg [(2, 0x20000)] (near st))) stI (fun c =>
      gets ((begun stI c).globalLanes .store false 4 (addresses c (address c true true false 0 2))) fun _ => !c.b.isLevel && decide (c.ord ≠ 4)) ∧
    relStore (near st) true ∧ relStore (throttled (near st)) false ∧
    Meets (levelled (vregs [1] (fun _ l => l) (sreg [(2, 0x20000)] (near st)))) stI (fun c =>
      gets ((begun stI c).globalLanes .store false 4 (addresses c (address c true true false 0 2))) fun _ => c.level) :=
  by and_intros <;> exact meets (by decide +kernel)

theorem witness_StoredBytes :
    Meets st .isync (fun c => decide ((∀ p ∈ places, p.pa % 16 = 0 ∧ (List.replicate 16 (7 : Byte)).length = 16 ∧ p.st ≠ .uncached) ∧
      c.b.isLevel = false ∧ c.x.cp ≠ 2 ∧ Settled c.s c.core c.r ∧ CachesTake c.s c.core places.length)) ∧
    Meets st .isync (fun c => decide (c.b.isLevel = false ∧ Settled c.s c.core c.r)) := ⟨meets (by decide +kernel), meets (by decide +kernel)⟩

/-- `LDC` at the window's last row; `LDA` at the slice's end; the remote forms within the core and of another core -/
def ldcI : Instr := .ldc 1 true false 0 2 2 noGuard
def ldaI : Instr := .lda 1 true false 0 2 2 noGuard
def sc3 : Instr := .hsrc 0 false 3 true
theorem witness_BufferLoads :
    Meets (onWave (fun w => { w with cwb := 0, cwl := 1 }) (sreg [(2, 508)] (slices 0 0 1024 st))) ldcI (fun c => letI := @listAll;
      decide (HasRoom ldcI c (group 1 2) ∧ c.x.sc = none ∧ BufferReady c 4 4 (addresses c (address c false true false 0 2)))) ∧
    Meets (sreg [(2, 60)] (slices 0 64 0 st)) ldaI (fun c => letI := @listAll;
      decide (HasRoom ldaI c (group 1 2) ∧ c.x.sc = none ∧ BufferReady c 3 4 (addresses c (address c false true false 0 2)))) ∧
    Meets (hinted [sc3] (sreg [(2, 0x1FFFFC), (3, 0)] st)) ldaI (fun c => letI := @listAll; decide (c.x.sc = some 3 ∧ c.ord = 0 ∧ c.x.scp = 0 ∧ (c.rs 3).toNat % 16 < 12 ∧
      (∀ a ∈ addresses c (address c false true false 0 2), a.2.toNat % 4 = 0 ∧ a.2.toNat + 4 ≤ 0x200000) ∧ c.core / 12 * 12 + (c.rs 3).toNat % 16 = c.core)) ∧
    Meets (hinted [sc3] (sreg [(2, 0), (3, 11)] st)) ldaI (fun c => letI := @listAll; decide (c.x.sc = some 3 ∧ c.ord = 0 ∧ c.x.scp = 0 ∧ (c.rs 3).toNat % 16 < 12 ∧
      (∀ a ∈ addresses c (address c false true false 0 2), a.2.toNat % 4 = 0 ∧ a.2.toNat + 4 ≤ 0x200000) ∧ c.core / 12 * 12 + (c.rs 3).toNat % 16 ≠ c.core ∧
      addresses c (address c false true false 0 2) ≠ [])) :=
  by and_intros <;> exact meets (by decide +kernel)

/-- `STA`, in Level mode too; the A-buffer forms of `SLD` and `SST` at the slice's end -/
def staI : Instr := .sta 1 true false 0 2 2 noGuard
theorem witness_BufferStores :
    Meets (sreg [(2, 60)] (slices 0 64 0 st)) staI (fun c => letI := @listAll; decide (BufferReady c 3 4 (addresses c (address c false true false 0 2)) ∧ c.ord ≠ 4 ∧
      GraverIdle c.s ∧ c.level = false)) ∧
    Meets (levelled (sreg [(2, 60)] (slices 0 64 0 st))) staI (fun c => letI := @listAll; decide (BufferReady c 3 4 (addresses c (address c false true false 0 2)) ∧ c.ord ≠ 4 ∧
      GraverIdle c.s ∧ c.level = true)) ∧
    Meets (sreg [(2, 56)] (slices 0 64 0 st)) (.sld 1 2 3 2) (fun c => letI := @listAll; decide (BufferReady c 3 8 [(0, c.rs 2 + operandB c 0 true)])) ∧
    Meets (sreg [(2, 56)] (slices 0 64 0 st)) (.sst 2 1 3 2) (fun c => letI := @listAll; decide (BufferReady c 3 8 [(0, c.rs 2 + operandB c 0 true)] ∧ c.ord ≠ 4 ∧ GraverIdle c.s ∧
      c.level = false)) :=
  by and_intros <;> exact meets (by decide +kernel)

theorem witness_BufferBytes : Meets st .isync (fun c => letI := @listAll; decide (c.level = false ∧ GraverIdle c.s)) := meets (by decide +kernel)

/-! ### Hypotheses met: elements, caches, atomics -/

/-- a TID image of FP32 elements (Table 3.4): space, base, rank, extent, stride and tile of dimension 0 -/
def image (space base ext : Nat) (format : Nat := 7) (stride : Nat := 4) : List Byte :=
  leBytes (base + space * 2 ^ 64 + format * 2 ^ 72 + 2 ^ 80) 16 ++ leBytes ext 20 ++ leBytes stride 40 ++ leBytes ext 52
def withTid (im : List Byte) (s : State) : State := onBlock (fun b => { b with tids := [some im] }) s

/-- `LDT v1, v2, s3` from the A slice, converting, and from global memory of the other plate -/
def ldtI (cv : Bool) : Instr := .ldt 1 2 3 cv noGuard
def ldtMeets (s : State) (im : List Byte) (cv isFar : Bool) : Prop :=
  Meets s (ldtI cv) fun c => decide ((begun (ldtI cv) c).tidImage ((c.rs 3).toNat % 256) = some im ∧ (tidOf im).rank = 1 ∧ (tidOf im).esize = 4) &&
    !c.armOwes (names 2 (tidOf im).rank ++ names 1 ((tidOf im).regs cv)) &&
    gets (((begun (ldtI cv) c).freeAlso (names 2 (tidOf im).rank)).loadElements (tidOf im) 2 (cv && decide ((tidOf im).smode ≠ 0))) fun x =>
      (x.1.far || (cv && x.2.1.far)) == isFar && decide (Admitted c x.2.2.sends) && decide (RoomWith c (freedWith (ldtI cv) c (names 2 (tidOf im).rank)) [1])
/-- the wave's other entity waits for data of a register -/
def owedTo (n : BitVec 6) (s : State) : State :=
  onCore (fun k => { k with loads := [{ ent := { blk := 0, slot := 0, frag := true }, vregs := [(n, 0xFFFF0000, lanesOf fun _ => 0)] }] }) (splitWave s)
theorem witness_ElementLoads :
    Meets (owedTo 2 (withTid (image 3 0 32) (vregs [2] (fun _ l => l) (slices 0 128 0 st)))) (ldtI true) (fun c =>
      decide ((begun (ldtI true) c).tidImage ((c.rs 3).toNat % 256) = some (image 3 0 32)) && c.armOwes (names 2 1 ++ names 1 1)) ∧
    ldtMeets (withTid (image 3 0 32) (vregs [2] (fun _ l => l) (slices 0 128 0 st))) (image 3 0 32) true false ∧
    ldtMeets (withTid (image 1 0x20000 32) (vregs [2] (fun _ l => l) (far st))) (image 1 0x20000 32) false true :=
  by and_intros <;> exact meets (by decide +kernel)

/-- `STT v1, v2, s3` to global memory, to the A slice and to a remote space -/
def sttI : Instr := .stt 1 2 3 true noGuard
def sttReady (im : List Byte) (c : Ctx) : Bool :=
  decide (c.b.isLevel = false ∧ (begun sttI c).tidImage ((c.rs 3).toNat % 256) = some im ∧ (tidOf im).rank = 1) && !c.armOwes (names 2 1 ++ names 1 1)
theorem witness_ElementStores :
    Meets (withTid (image 6 0 32) st) sttI (fun c => letI := @listAll; sttReady (image 6 0 32) c && decide ((tidOf (image 6 0 32)).space = 6)) ∧
    Meets (withTid (image 1 0x20000 32) (vregs [2] (fun _ l => l) (near st))) sttI (fun c => letI := @listAll; let t := tidOf (image 1 0x20000 32)
      sttReady (image 1 0x20000 32) c && decide (t.space = 1 ∧ Within c t 2 ∧ ∀ l, inMask c.g l = true → (elementAddress c t 2 l).toNat % t.esize = 0) &&
        gets ((begun sttI c).reach .store false (addresses c (elementAddress c t 2))) fun p =>
          gets (p.1.storeAll 0 6 p.2 fun l => leBytes (storedElement t (V c 1 l)).code 4) fun c2 => decide (Admitted c c2.sends)) ∧
    Meets (withTid (image 3 0 32) (vregs [2] (fun _ l => l) (slices 0 128 0 st))) sttI (fun c => letI := @listAll; let t := tidOf (image 3 0 32)
      sttReady (image 3 0 32) c && decide (t.space = 3 ∧ Within c t 2 ∧ (∀ l, inMask c.g l = true → (elementAddress c t 2 l).toNat % t.esize = 0) ∧
        BufferReady c 3 t.esize (addresses c (elementAddress c t 2)) ∧ GraverIdle c.s)) :=
  ⟨meets (by decide +kernel), meets (by decide +kernel), meets (by decide +kernel)⟩

theorem witness_CacheInstructions : Meets (sreg [(2, 0x20000)] (near st)) (.pref 0 true false 0 2 noGuard) (fun c => decide (CachesTake c.s c.core 32)) ∧
    Meets (sreg [(2, 0x20000)] (near st)) (.cflush 0 true false 0 2 noGuard) (fun _ => true) ∧
    Meets (sreg [(2, 0x20000)] (near st)) (.cflush 1 true false 0 2 noGuard) (fun _ => true) ∧
    Meets (sreg [(2, 0x20000)] (near st)) (.cinv 0 true false 0 2 noGuard) (fun _ => true) ∧
    Meets (sreg [(2, 0x20000)] (near st)) (.cinv 1 true false 0 2 noGuard) (fun _ => true) :=
  by and_intros <;> exact meets (by decide +kernel)

/-- `TIDSET` from an image of space 0, a sound and a malformed one; `TIDGET`; `TIDINV` of the last entry and of the one beyond -/
def tidsetMeets (s : State) (space : Nat) (bad : Bool) : Prop :=
  Meets s (.tidset 1 0) fun c => decide (c.level = false ∧ (c.rs 1).toNat % 8 = 0 ∧ 0 < c.b.tids.length) &&
    gets ((begun (.tidset 1 0) c).reach .load true ((List.range 16).map fun j => (0, c.rs 1 + BitVec.ofNat 64 (8 * j)))) fun p =>
      let x := p.1.loadAll 8 p.2
      let t := tidOf (x.1.vals.flatMap (·.2))
      decide (x.1.lost = false ∧ Admitted c x.2.sends ∧ t.space = space ∧ t.malformed = bad)
def imageAt (im : List Byte) (s : State) : State := { s with mem := memWrite s.mem 0x400000 im }
theorem witness_TidEntries :
    tidsetMeets (sreg [(1, 0x20000)] (near st)) 0 true ∧ tidsetMeets (sreg [(1, 0x20000)] (imageAt (image 3 0 32) (near st))) 3 false ∧
    tidsetMeets (sreg [(1, 0x20000)] (imageAt (image 7 0 32) (near st))) 7 true ∧
    Meets (sreg [(1, 0x20000)] (near st)) (.tidget 1 0) (fun c => decide (c.b.isLevel = false ∧ (c.rs 1).toNat % 8 = 0 ∧ 0 < c.b.tids.length) &&
      gets ((begun (.tidget 1 0) c).reach .store true ((List.range 16).map fun j => (0, c.rs 1 + BitVec.ofNat 64 (8 * j)))) fun _ => true) ∧
    Meets st (.tidinv 0) (fun c => decide (c.level = false ∧ 0 < c.b.tids.length)) ∧
    Meets st (.tidinv 1) (fun c => decide (c.level = false ∧ c.b.tids.length ≤ 1)) :=
  by and_intros <;> exact meets (by decide +kernel)

/-- `ATOM.add.u32 v4, [s2 + v6]` with each lane its own word; `RED.add` -/
def atomI : Instr := .atom 4 6 0 1 false true noGuard
def redI : Instr := .red 4 6 0 1 false true noGuard
def atomMeets (i : Instr) (returns : Bool) (f : State → State := id) (admitted : Bool := true) : Prop :=
  Meets (f (hinted [.hsrc 0 false 2 true] (vregs [4, 6] (fun _ l => 4 * l) (sreg [(2, 0x20000)] (near st))))) i fun c => !c.b.isLevel &&
    gets ((begun i c).globalLanes .atomic false (typeSize 1) (addresses c (atomAddress c 6 true))) fun p =>
      decide ((c.ord ≠ 4 ∧ c.ord ≠ 5) ∧ Settled c.s c.core c.r ∧ p.2.Pairwise (fun p q => p.pa + typeSize 1 ≤ q.pa ∨ q.pa + typeSize 1 ≤ p.pa) ∧
        HasRoom i c (if returns then [4] else [])) && decide (Admitted c (p.2.map fun p => moduleOf p.pa)) == admitted
theorem witness_AtomicRequests : atomMeets atomI true ∧ atomMeets redI false ∧ atomMeets atomI true throttled false ∧ atomMeets redI false drains false :=
  by and_intros <;> exact meets (by decide +kernel)

/-- a request on its way; one that its home holds already; and a retransmission that the home holds no more -/
def request (replay : Bool) (s : State) : State := onCore (fun k => { k with atoms :=
  [{ seq := 0, ent := me, lane := 0, pa := 0x400000, fop := 0, ty := 1, val := 1, cmp := 0, dst := none, replayBit := replay }] }) s
def kept (s : State) : State := { s with homes := [(homeOf 0x400000, { kept := [{ src := s.source 0, seq := 0, val := 9, at_ := 0 }] })] }
def atHome (s : State) (holds replay : Bool) : Bool :=
  match s.req 0 0 with
  | some q => decide (q.st = .sent) && s.reachable q.pa && !s.draining (moduleOf q.pa) && decide (q.ty ≠ 4 ∧ q.tagged = false ∧ q.replayBit = replay) &&
    decide ((s.keptSeq (homeOf q.pa) (s.source 0) 0).isSome = holds)
  | none => false
theorem witness_AtomicsAtHome : atHome (request false st) false false = true ∧ atHome (kept (request true st)) true true = true ∧
    atHome (request true st) false true = true := by decide +kernel

/-- `ATOMA.add.u32 v4, [v6]` -/
def atomaI : Instr := .atoma 4 6 0 1 false noGuard
theorem witness_BufferAtomics :
    Meets (vregs [4, 6] (fun _ l => 4 * l) (slices 0 128 0 st)) atomaI (fun c => letI := @listAll; let as_ := addresses c (atomOffset c 6)
      decide (c.level = false ∧ GraverIdle c.s ∧ BufferReady c 3 (typeSize 1) as_ ∧ (∀ x ∈ as_, ∀ y ∈ as_, x.1 ≠ y.1 → x.2 ≠ y.2) ∧ c.ord ≠ 4 ∧ c.ord ≠ 5 ∧
        HasRoom atomaI c [4])) := meets (by decide +kernel)

/-- an access whose first cause is a given one, or that has none and reaches beyond the space -/
def causeMeets (s : State) (i : Instr) (want : Option Nat) : Prop := Meets s i fun c => letI := @listAll
  match accessOf i c with
  | some x => decide (c.w0.grav.win = none) && match want with
    | some n => (x.causes.find? fun y => decide (y.2 ≠ 0)).map (·.1) == some n
    | none => (x.causes.all fun y => decide (y.2 = 0)) && decide (lanesThat x.as_ (fun e => decide (2 ^ 57 ≤ e.toNat)) ≠ 0)
  | none => false
/-- each form with each of its causes, at the boundaries of the slice, the window, the cluster and the space -/
def stcI : Instr := .stc 1 true false 0 2 2 noGuard
def winSt (off : Nat) : State := onWave (fun w => { w with cwb := 1, cwl := 2 }) (sreg [(2, off)] (slices 0 0 1024 st))
def tidSt (space ext lane0 : Nat) : State := withTid (image space 0 ext) (vregs [2] (fun _ l => lane0 + l) (slices 0 128 0 st))
theorem witness_AccessCauses :
    (causeMeets (sreg [(2, 2)] st) ldI (some 1) ∧ causeMeets (sreg [(2, 2 ^ 57)] st) ldI none ∧ causeMeets (sreg [(2, 2 ^ 57 + 1)] st) stI (some 1)) ∧
    (causeMeets (winSt 1026) stcI (some 1) ∧ causeMeets (winSt 1024) stcI (some 2) ∧ causeMeets (winSt 508) stcI (some 3) ∧
      causeMeets (winSt 508) (.sld 1 2 2 3) (some 3) ∧ causeMeets (winSt 1024) (.sst 2 1 2 3) (some 2)) ∧
    (causeMeets (hinted [sc3] (sreg [(2, 0), (3, 12)] st)) ldaI (some 2) ∧ causeMeets (hinted [sc3] (sreg [(2, 0x200000), (3, 11)] st)) ldaI (some 2) ∧
      causeMeets (hinted [sc3] (sreg [(2, 1), (3, 12)] st)) ldaI (some 1)) ∧
    (causeMeets (sreg [(2, 2 ^ 57)] st) (.sld 1 2 3 0) none ∧ causeMeets (sreg [(2, 4)] st) (.sst 2 1 3 0) (some 1)) ∧
    (causeMeets (sreg [(3, 1)] (tidSt 3 32 0)) (ldtI true) (some 2) ∧ causeMeets (tidSt 3 32 1) (ldtI true) (some 2) ∧
      causeMeets (tidSt 3 40 1) (ldtI true) (some 2) ∧ causeMeets (tidSt 6 32 0) sttI (some 2)) ∧
    (causeMeets (sreg [(2, 2)] st) (.mld 1 0 0 2 noGuard) (some 1) ∧ causeMeets (sreg [(2, 64)] (slices 0 64 0 st)) (.mstA 1 2 noGuard) (some 2) ∧
      causeMeets (sreg [(2, 2 ^ 57)] st) (.mst 1 2 noGuard) none ∧ causeMeets (sreg [(2, 2)] (slices 0 64 0 st)) (.mldA 1 0 0 2 noGuard) (some 1)) ∧
    (causeMeets (hinted [.hsrc 0 false 2 true] (sreg [(2, 2)] st)) atomI (some 1) ∧
      causeMeets (hinted [.hsrc 0 false 2 true] (sreg [(2, 2 ^ 57)] st)) redI none ∧
      causeMeets (vregs [6] (fun _ _ => 64) (slices 0 64 0 st)) atomaI (some 2)) :=
  by and_intros <;> exact meets (by decide +kernel)

theorem witness_Fences : Meets (busy st) (.fence 4 6) (fun c => letI := @listAll; c.s.outstanding c.core 0 0) ∧
    Meets st (.fence 5 0) (fun c => letI := @listAll; !c.s.outstanding c.core 0 0) ∧
    Meets st (.fence 3 6) (fun c => letI := @listAll; !c.w0.racqFull && decide (c.w0.racq = [])) ∧
    Meets (onWave (fun w => { w with racq := [5, 6, 7, 8] }) st) (.fence 3 6) (fun c => letI := @listAll; !c.w0.racqFull && decide (c.w0.racq ≠ [])) :=
  by and_intros <;> exact meets (by decide +kernel)

def quiet (c : Ctx) : Bool := decide (c.level = false ∧ c.ord ≠ 4 ∧ c.ord ≠ 5 ∧ Settled c.s c.core c.r)
theorem witness_BlockShared : Meets st (.bsrd 1 15) quiet ∧ Meets st (.bswr 1 15) quiet ∧ Meets st (.bsxch 1 2 15) quiet ∧ Meets st (.bsadd 1 2 15) quiet ∧
    Meets st (.rkey 28) quiet ∧
    (let x : BregWrite := { at_ := 0, slot := 0, reg := 15, add := true, val := 1, before := 0, dst := some 1 }
     ∃ b w, tget (onBlock (fun b => { b with waves := b.waves ++ [(1, {})], bregLog := [{ x with slot := 1 }] }) st).blocks 0 = some b ∧
      b.bregLog = [{ x with slot := 1 }] ∧ b.wave 1 = some w) ∧
    (let y : BregWrite := { at_ := 0, slot := 1, reg := 15, add := false, val := 1, before := 0, dst := none, found := [{ slot := 2, at_ := 0, dst := 3 }] }
     ∃ b w, tget (onBlock (fun b => { b with waves := b.waves ++ [(2, {})], bregLog := [y] }) st).blocks 0 = some b ∧ b.bregLog = [y] ∧ b.wave 2 = some w) ∧
    makesAccess (.bsrd 1 15) = true :=
  ⟨meets (by decide +kernel), meets (by decide +kernel), meets (by decide +kernel), meets (by decide +kernel), meets (by decide +kernel),
    ⟨_, _, rfl, rfl, rfl⟩, ⟨_, _, rfl, rfl, rfl⟩, rfl⟩

/-! ### Hypotheses met: barriers and tasks -/

/-- a second wave in the block, at a wait or running; the block's first wave at a wait -/
def second (w : Option Wait) (s : State) : State :=
  onBlock (fun b => { b with waves := b.waves ++ [(1, { parent := { xm := 0xFFFFFFFF, arm := 0xFFFFFFFF, wait := w } })] }) s
def waits (w : Wait) (s : State) : State := onEnt (fun e => { e with wait := some w }) s
def inCohort (s : State) : State := onBlock (fun b => { b with coh := [3] }) s
def cbarMeets (s : State) (unknown mixed isBusy : Bool) : Prop := Meets s (.cbar 1) fun c =>
  let id : BitVec 8 := (c.rs 1).setWidth 8
  (decide ((id = 255 ∧ c.b.task = true) ∨ (id ≠ 255 ∧ id ∉ c.b.coh)) == unknown) &&
    ((c.others.any fun w => w.atBar || (w.atCbar.isSome && decide (w.atCbar ≠ some id))) == mixed) && (s.outstanding c.core s.cur.blk s.cur.slot == isBusy)
def barMeets (s : State) (mixed isBusy alone : Bool) : Prop := Meets s .bar fun c =>
  ((c.others.any fun w => w.atCbar.isSome) == mixed) && (s.outstanding c.core s.cur.blk s.cur.slot == isBusy) &&
    (decide (c.others = [] ∧ c.level = false) == alone)
theorem witness_Barriers :
    (barMeets (second (some (.cbar 3)) st) true false false ∧ barMeets (busy st) false true true ∧ barMeets st false false true ∧
      barMeets (second none st) false false false ∧ barMeets (levelled st) false false false) ∧
    (cbarMeets (sreg [(1, 4)] (inCohort st)) true false false ∧ cbarMeets (sreg [(1, 255)] (onBlock (fun b => { b with task := true }) st)) true false false ∧
      cbarMeets (sreg [(1, 3)] (second (some .bar) (inCohort st))) false true false ∧ cbarMeets (sreg [(1, 3)] (busy (inCohort st))) false false true ∧
      cbarMeets (sreg [(1, 255)] st) false false false ∧ cbarMeets (sreg [(1, 3)] (second (some (.cbar 3)) (inCohort st))) false false false) ∧
    (let s := second (some .bar) (waits .bar st)
      ∃ b, tget s.blocks 0 = some b ∧ b.isLevel = false ∧ b.atBar = true) ∧
    (let s := waits (.cbar 255) st
      let ms := s.members 0 255;
      (s.launch 0).kd.level = false ∧ ms ≠ [] ∧ (ms.map (·.1)).Nodup ∧ (s.launch 0).allPlaced 255 = true ∧ (∀ m ∈ ms, m.2.atCbar 255 = true) ∧
        ∀ m ∈ ms, tget s.blocks m.1 = some m.2) :=
  ⟨(by and_intros <;> exact meets (by decide +kernel)),
    (by and_intros <;> exact meets (by decide +kernel)),
    ⟨_, rfl, by decide +kernel, by decide +kernel⟩, by decide +kernel⟩

/-- `POST`: no lane, lanes of different slots, a slot beyond the table, records that leave, records without room, a Level launch -/
def postI : Instr := .post 8 false noGuard
def posts (n : Nat) (f : Nat → Nat → Nat) (s : State) : State := onLaunch (fun l => { l with kd := { l.kd with ntask := n } }) (vregs [8] f s)
def owned (s : State) : State := { s with hub := { s.hub with parts := s.hub.parts.set 0 { ptcl := 1 } } }
def full (s : State) : State := { owned s with hub := { s.hub with parts := s.hub.parts.set 0 { ptcl := 1, shk := 0 } } }
def postReady (c : Ctx) (room : Option Bool) (away : Bool) : Bool :=
  let lanes := (List.finRange 32).filter (inMask c.g)
  match lanes.head? with
  | none => false
  | some f => (maskOf fun l => inMask c.g l && decide (kslot c 8 l ≠ kslot c 8 f)) == 0 && decide (kslot c 8 f < c.launch.kd.ntask) &&
      gets ((begun postI c).destinations (lanes.map fun l => (l, record c 8 false l))) fun x =>
        decide (room = none ∨ (x.1.fullShard x.2).isSome = (room != some true)) && (x.2.any fun r => decide (r.1 ≠ c.core)) == away
theorem witness_Posts :
    Meets (posts 1 (fun _ _ => 0) st) (.post 8 false (guardK 0)) (fun c => decide ((List.finRange 32).filter (inMask c.g) = [])) ∧
    Meets (posts 2 (fun _ l => l % 2) st) postI (fun c => decide ((maskOf fun l => inMask c.g l && decide (kslot c 8 l ≠ kslot c 8 0)) ≠ 0)) ∧
    Meets (posts 1 (fun _ _ => 1) st) postI (fun c => decide (kslot c 8 0 = 1 ∧ c.launch.kd.ntask = 1)) ∧
    Meets (owned (posts 1 (fun _ _ => 0) st)) postI (fun c => postReady c (some true) false && decide (c.b.isLevel = false) && !c.s.outstanding c.core 0 0) ∧
    Meets (full (posts 1 (fun _ _ => 0) st)) postI (fun c => postReady c (some false) false && decide (c.b.isLevel = false)) ∧
    Meets (levelled (posts 1 (fun _ _ => 0) st)) postI (fun c => postReady c none false && c.level) ∧
    Meets (near st) .isync (fun c => match c.s.translate c.core c.asid 0x20000 .load with
      | (.ok pa _ _, _) => decide (pa % 2 ^ 45 < 0x3000000000)
      | _ => false) :=
  by and_intros <;> exact meets (by decide +kernel)

/-- a record whose shard has a free slot, one whose shard is full and whose partition's overflow ring has room; a held record -/
def rec0 : TaskRec := { bytes := List.replicate 32 0, core := 0, launch := 0 }
def sent (s : State) : State := { owned s with records := [rec0] }
def ringed (h : List (Nat × Word × TaskRec)) (s : State) : State :=
  { s with mem := memWrite s.mem 0x400000 [1]
           hub := { s.hub with parts := s.hub.parts.set 0 { ptcl := 1, shk := 0, ptovf := 0x400001, held := h } } }
def inShard (running : Bool) (s : State) : State :=
  onCore (fun c => { c with shard := [{ idx := 0, bytes := List.replicate 32 0, launch := 0, running := running }], shardCount := 1 }) s
def lastRecord (s : State) : State := { s with records := s.records.eraseIdx 0 }
theorem witness_TaskRecords :
    ((sent st).slotFree 0 = true ∧ (sent st).records[0]? = some rec0) ∧
    (let s := ringed [] (inShard true (sent st));
      s.slotFree 0 = false ∧ s.partOf 0 = some 0 ∧ ((lastRecord s).overflow 0 rec0).isSome = true) ∧
    (let s := ringed [(0x400000, 0, rec0)] st;
      (s.part 0).held[0]? = some (0x400000, 0, rec0) ∧ s.slotFree 0 = true) := by decide +kernel

/-- page tables that map the first GiB of address space 0 to itself; a kernel descriptor of one block of one wave; a task table -/
def mapped (leaf : Nat) (s : State) : State :=
  { s with hub := { s.hub with asroot := [(0, 0x200001)] }
           mem := memWrite (memWrite s.mem 0x200000 (leBytes 0x201001 8)) 0x201000 (leBytes leaf 8) }
def wholeGib : Nat := 0xF3
def kdBytes (nblk : Nat) : List Byte :=
  leBytes 0x10000 32 ++ leBytes (nblk + 2 ^ 32 + 32 * 2 ^ 40 + 2 * 2 ^ 48) 8 ++ leBytes ((64 + 512 * 2 ^ 16) * 2 ^ 32) 20 ++
    leBytes (1 + 2 ^ 16 + 2 * 2 ^ 24) 4 ++ leBytes (1024 * 2 ^ 96) 16
def described (nblk : Nat) (s : State) : State :=
  { s with mem := memWrite (memWrite s.mem 0x300000 (leBytes 0x301000 8)) 0x301000 (kdBytes nblk) }
def taskReady (s : State) : State :=
  onLaunch (fun l => { l with kd := { l.kd with ttab := 0x300000, ntask := 1 } }) (described 1 (mapped wholeGib (owned (inShard false s))))
def outOfService (s : State) : State := (List.range 12).foldl (fun s n => s.modCore n fun c => { c with inService := false }) s
theorem task_first (s : State) (fitsSome fits : Bool) (h : (match (s.core 0).headRecord with
    | none => false
    | some r => !s.isParked (.task 0 r.idx) && (s.partOf 0).isSome && !s.swapped (s.launch r.launch).part &&
        !s.restoreFirst (s.launch r.launch).part (s.launch r.launch).prio && match (taskKd (s.launch r.launch) r.bytes).run.run s with
          | (.ok k, t) => t.fitsSome (s.launch r.launch).part (k.shape true) == fitsSome && t.fits 0 0 (k.shape true) == fits
          | _ => false) = true) :
    ∃ r k t, MayDispatch s 0 r ∧ (taskKd (s.launch r.launch) r.bytes).run.run s = (.ok k, t) ∧
      t.fitsSome (s.launch r.launch).part (k.shape true) = fitsSome ∧ t.fits 0 0 (k.shape true) = fits := by
  split at h
  · cases h
  · next r hr =>
    simp only [Bool.and_eq_true, Bool.not_eq_true'] at h
    obtain ⟨⟨⟨⟨h1, h2⟩, h3⟩, h4⟩, h5⟩ := h
    split at h5
    · next k t hk =>
      simp only [Bool.and_eq_true, beq_iff_eq] at h5
      exact ⟨r, k, t, ⟨hr, h1, h2, h3, h4⟩, hk, h5⟩
    · cases h5
theorem task_refused (s : State) (h : (match (s.core 0).headRecord with
    | none => false
    | some r => !s.isParked (.task 0 r.idx) && (s.partOf 0).isSome && !s.swapped (s.launch r.launch).part &&
        !s.restoreFirst (s.launch r.launch).part (s.launch r.launch).prio && match (taskKd (s.launch r.launch) r.bytes).run.run s with
          | (.error (.refuse ..), _) => true
          | _ => false) = true) :
    ∃ r st n t, MayDispatch s 0 r ∧ (taskKd (s.launch r.launch) r.bytes).run.run s = (.error (.refuse st n), t) := by
  split at h
  · cases h
  · next r hr =>
    simp only [Bool.and_eq_true, Bool.not_eq_true'] at h
    obtain ⟨⟨⟨⟨h1, h2⟩, h3⟩, h4⟩, h5⟩ := h
    split at h5
    · next a b t hk => exact ⟨r, a, b, t, ⟨hr, h1, h2, h3, h4⟩, hk⟩
    · cases h5
/-- a task descriptor whose entry is misaligned; one that fits, one that fits no core -/
def askew (s : State) : State := { s with mem := memWrite s.mem 0x301000 [2] }
theorem witness_TaskDispatches :
    (∃ r k t, MayDispatch (taskReady st) 0 r ∧ (taskKd ((taskReady st).launch r.launch) r.bytes).run.run (taskReady st) = (.ok k, t) ∧
      t.fitsSome ((taskReady st).launch r.launch).part (k.shape true) = true ∧ t.fits 0 0 (k.shape true) = true) ∧
    (let s := taskReady (outOfService st)
     ∃ r k t, MayDispatch s 0 r ∧ (taskKd (s.launch r.launch) r.bytes).run.run s = (.ok k, t) ∧
      t.fitsSome (s.launch r.launch).part (k.shape true) = false ∧ t.fits 0 0 (k.shape true) = false) ∧
    (let s := askew (taskReady st)
     ∃ r st n t, MayDispatch s 0 r ∧ (taskKd (s.launch r.launch) r.bytes).run.run s = (.error (.refuse st n), t)) :=
  ⟨task_first _ _ _ (by decide +kernel), task_first _ _ _ (by decide +kernel), task_refused _ (by decide +kernel)⟩

/-! ### Hypotheses met: engines, tags, rings and tiles -/

/-- a copy descriptor (Table 6.1) from the W slice to the A slice at an offset of the A-buffer -/
def cpyBytes (dspc n0 : Nat) : List Byte :=
  leBytes 0 8 ++ leBytes 192 8 ++ [2, BitVec.ofNat 8 dspc] ++ leBytes 0 2 ++ leBytes 64 4 ++ leBytes n0 4 ++ leBytes (1 + 2 ^ 32 + 2 ^ 64 + 2 ^ 96) 16 ++
    leBytes 0 20 ++ leBytes 64 8 ++ leBytes 0 32 ++ leBytes 64 8 ++ leBytes 0 80
def inA (bs : List Byte) (s : State) : State := onCore (fun c => { c with abuf := bs.zipIdx.map fun x => (x.2, x.1) }) s
def copying (dspc n0 : Nat) (s : State) : State := slices 128 320 0 (inA (cpyBytes dspc n0) s)
def cpyI (g : BitVec 6) : Instr := .cpy 1 g
def cpyMeets (s : State) (g : BitVec 6) (P : Ctx → Option Copy → Bool) : Prop :=
  Meets s (cpyI g) fun c => !c.level && P c (copyOf c g.toNat (c.rs 1).toNat ((begun (cpyI g) c).bufLoad 3 (c.rs 1).toNat 192))
def cpyFits (c : Ctx) (g off : Nat) : Bool := decide (g < c.b.tags.length ∧ off % 64 = 0 ∧ off + 192 ≤ c.b.aslice.len ∧ (c.rs 1).toNat = off)
/-- `CPYT` of a tile of the global tensor of one dimension into the A slice, and back -/
def cpytI (put : Bool) : Instr := .cpyt 1 0 0 2 put
def tiledImage (space : Nat) : List Byte := image space (if space = 1 then 0x20000 else 0) 33
def cpytMeets (s : State) (put : Bool) (P : Ctx → Tid → Nat → Bool) : Prop :=
  Meets (hinted [.hsrc 0 false 2 true] s) (cpytI put) fun c => !c.level && match (begun (cpytI put) c).tidImage 0 with
    | some im => P c (tidOf im) (c.w0.s[(c.x.sc.getD 0).toNat]).toNat
    | none => false
theorem witness_CopyIssues :
    (cpyMeets (copying 3 2 st) 1 (fun c _ => decide (c.b.tags.length ≤ 1)) ∧
    cpyMeets (sreg [(1, 32)] (copying 3 2 st)) 0 (fun c _ => decide ((c.rs 1).toNat % 64 ≠ 0)) ∧
    cpyMeets (sreg [(1, 192)] (copying 3 2 st)) 0 (fun c _ => decide ((c.rs 1).toNat % 64 = 0 ∧ c.b.aslice.len < (c.rs 1).toNat + 192)) ∧
    cpyMeets (copying 0 2 st) 0 (fun c q => cpyFits c 0 0 && q.isNone) ∧
    cpyMeets (copying 3 3 st) 0 (fun c q => cpyFits c 0 0 && (q.map c.copyLeaves) == some true) ∧
    cpyMeets (tagged [{ pending := 255 }] (copying 3 2 st)) 0 (fun c q => cpyFits c 0 0 && (q.map c.copyLeaves) == some false &&
      decide ((c.b.tags.getD 0 {}).pending = 255) && !c.s.outstanding c.core 0 0) ∧
    cpyMeets (tagged [{ pending := 254 }] (copying 3 2 st)) 0 (fun c q => cpyFits c 0 0 && (q.map c.copyLeaves) == some false &&
      decide ((c.b.tags.getD 0 {}).pending = 254 ∧ (c.s.core c.core).copies = []) && !c.s.outstanding c.core 0 0)) ∧
    (cpytMeets (withTid (image 1 0x20000 33) (sreg [(2, 33)] (slices 0 64 0 st))) false (fun _ t i => decide (t.ext.getD 0 1 = 33 ∧ i = 33)) ∧
    cpytMeets (withTid (image 6 0 33) (slices 0 64 0 st)) true (fun _ t _ => decide (t.space = 6)) ∧
    cpytMeets (withTid (image 1 0x20000 33) (sreg [(1, 2)] (slices 0 64 0 st))) false (fun c t i => decide (i < 33 ∧ (c.rs 1).toNat % t.esize ≠ 0)) ∧
    (∀ put ∈ [false, true], cpytMeets (withTid (image 1 0x20000 33) (sreg [(1, 60)] (slices 0 192 0 st))) put (fun c t i =>
      decide (i = 0 ∧ t.rank = 1 ∧ t.ext.getD 0 1 = 33 ∧ t.tile.getD 0 1 = 33 ∧ (c.rs 1).toNat % t.esize = 0 ∧ t.space = 1) &&
      !leaves [[(0, 32), (0, 0), (0, 0), (0, 0), (0, 0)]] 60 [4, 132, 132, 132, 132] 4 (c.spaceLimit 3) && !c.s.outstanding c.core 0 0))) := by
  refine ⟨(by and_intros <;> exact meets (by decide +kernel)),
    meets (by decide +kernel), meets (by decide +kernel), meets (by decide +kernel), ?_⟩
  intro put _
  cases put <;> exact meets (by decide +kernel)

/-- a command of two runs in flight, its first run not yet performed -/
def flying : Copy := { blk := 0, tag := 0, asid := 0, desc := some 0, src := 0, dst := 192, sspc := 2, srcore := 0, dspc := 3, run := 64
                       n := [2, 1, 1, 1, 1], iv := [0, 0, 0, 0, 0], ss := [64, 0, 0, 0, 0], ds := [64, 0, 0, 0, 0] }
def inFlight (s : State) : State := onCore (fun k => { k with copies := [(0, flying)] }) (tagged [{ pending := 1 }] (copying 3 2 s))
def runsOk (s : State) (n : Nat) : Bool := match (s.copyRuns 0 flying n).1 with
  | .ok () => true
  | .error _ => false
theorem witness_CopyRuns :
    (tget ((inFlight st).core 0).copies 0 = some flying ∧ flying.left = 2 ∧ runsOk (inFlight st) 2 = true ∧ runsOk (inFlight st) 1 = true ∧
      flying.parked = false ∧ (inFlight st).heldAt 0 flying.cls = false ∧ (∃ b, tget (inFlight st).blocks 0 = some b ∧ 0 < b.tags.length ∧ b.ended = false)) ∧
    (flying.ext = none ∧ flying.moved = none ∧ flying.put = false ∧ flying.sspc ∈ [2, 3, 4] ∧ flying.dspc ∈ [2, 3, 4] ∧ flying.sspc ≠ flying.dspc ∧ GraverIdle (inFlight st)) :=
  ⟨⟨by decide +kernel, by decide +kernel, by decide +kernel, by decide +kernel, rfl, by decide +kernel, _, rfl, by decide +kernel, by decide +kernel⟩, by decide +kernel⟩

/-- tags: one ready, one in error, one neither -/
def three (s : State) : State := tagged [{ ready := true }, { ready := true, error := true, cause := 4 }, {}] s
def tgMeets (i : Instr) (m : Nat) (P : Ctx → Dword → Bool) : Prop := Meets (sreg [(1, m)] (three st)) i fun c => !c.level && P c (c.rs 1)
def named (c : Ctx) (m : Dword) : Bool := decide (m.toNat / 2 ^ c.b.tags.length = 0)
def faultOf (c : Ctx) (m : Dword) : Option Nat :=
  let n := ((List.range 64).find? fun j => (c.b.tgb &&& m).getLsbD j).getD 64
  (c.b.tags[n]?).bind fun x => if x.error then some x.cause else none
theorem witness_TagInstructions :
    (∀ i ∈ [Instr.tgfind 2 1, .tgtest 2 1 true, .tgwait 1, .tgany 1, .tgclr 1], tgMeets i 8 fun c m => !named c m) ∧
    (tgMeets (.tgwait 1) 4 (fun c m => named c m && decide (c.b.tgb &&& m ≠ m)) ∧
      tgMeets (.tgwait 1) 3 (fun c m => named c m && decide (c.b.tgb &&& m = m ∧ c.b.tagFault m = some 4)) ∧
      tgMeets (.tgwait 1) 1 (fun c m => named c m && decide (c.b.tgb &&& m = m ∧ c.b.tagFault m = none))) ∧
    (tgMeets (.tgany 1) 0 (fun _ m => decide (m = 0)) ∧ tgMeets (.tgany 1) 4 (fun c m => named c m && decide (m ≠ 0 ∧ c.b.tgb &&& m = 0)) ∧
      tgMeets (.tgany 1) 6 (fun c m => named c m && decide (c.b.tgb &&& m ≠ 0 ∧ c.b.tagFault m = some 4)) ∧
      tgMeets (.tgany 1) 5 (fun c m => named c m && decide (c.b.tgb &&& m ≠ 0 ∧ c.b.tagFault m = none))) ∧
    (tgMeets (.tgtest 2 1 true) 7 named ∧ tgMeets (.tgfind 2 1) 6 (fun c m => named c m && decide (faultOf c m = some 4)) ∧
      tgMeets (.tgfind 2 1) 5 (fun c m => named c m && decide (faultOf c m = none)) ∧ tgMeets (.tgclr 1) 7 named) := by
  refine ⟨?_, ⟨meets (by decide +kernel), meets (by decide +kernel), meets (by decide +kernel)⟩,
    (by and_intros <;> exact meets (by decide +kernel)), by and_intros <;> exact meets (by decide +kernel)⟩
  intro i hi
  simp only [List.mem_cons, List.not_mem_nil, or_false] at hi
  rcases hi with rfl | rfl | rfl | rfl | rfl <;> exact meets (by decide +kernel)

/-- `RIDX` on a word with k = 17 and with k = 16, z = 10; `RWAIT` and `RFLIP` on a header in the A slice and in global memory -/
def rwaitI (p : Bool) : Instr := .rwait 1 2 true p 0
def rflipI (p : Bool) : Instr := .rflip 1 2 true p 0
def headerMet (c : Ctx) (h : Dword) : Bool := decide (h.toNat = if (c.rs 2).getLsbD 1 then 1 else 2 + (1 - if (c.rs 2).getLsbD 0 then 1 else 0))
def ringA (v : Nat) (s : State) : State := slices 0 128 0 (inA (leBytes v 8) s)
def ringG (v : Nat) (s : State) : State := { s with mem := memWrite s.mem 0x400000 (leBytes v 8) }
def farRing : State := sreg [(1, 0x20000), (2, 2)] { far st with mem := memWrite (far st).mem (2 ^ 45 + 0x400000) [1] }
def rflipG (s : State) (admitted : Bool) : Prop := Meets (sreg [(1, 0x20000)] s) (rflipI false) fun c => letI := @listAll
  decide (c.b.isLevel = false ∧ (c.rs 1).toNat % 64 = 0) && !c.s.outstanding c.core 0 0 &&
    gets ((begun (rflipI false) c).reach .store true [(0, c.rs 1)]) fun x => match x.2 with
      | [q] => gets ({ x.1 with s := x.1.s.releaseCaches c.core 6 }.storeAt 4 6 q (leBytes 2 8)) fun c2 => decide (Admitted c c2.sends) == admitted
      | _ => false
def rwaitA (s : State) (met : Bool) : Prop := Meets s (rwaitI true) fun c => letI := @listAll; decide (c.b.isLevel = false ∧ (c.rs 1).toNat % 64 = 0 ∧ BufferReady c 3 8 [(0, c.rs 1)]) &&
  headerMet c (BitVec.ofNat 64 (leNat ((begun (rwaitI true) c).settle.bufLoad 3 (c.rs 1).toNat 8))) == met
def rwaitG (s : State) (met isFar : Bool) (admitted : Bool := true) : Prop := Meets s (rwaitI false) fun c => letI := @listAll; decide (c.b.isLevel = false ∧ (c.rs 1).toNat % 64 = 0) &&
  gets ((begun (rwaitI false) c).reach .load true [(0, c.rs 1)]) fun x => match x.2 with
    | [q] => let r := x.1.readAt .past true q.pa 8
      decide (Settled x.1.s c.core c.s.cur ∧ q.st ≠ .uncached ∧ r.1.lost = false ∧ CachesTake x.1.s c.core 1) &&
        headerMet c (BitVec.ofNat 64 (leNat r.1.bytes)) == met && r.1.far == isFar && decide (Admitted c r.2.sends) == admitted
    | _ => false
theorem witness_Rings :
    (Meets (sreg [(1, 17)] st) (.ridx 4 1 2) (fun c => letI := @listAll; decide ((c.rs 1).toNat % 32 = 17)) ∧
      Meets (sreg [(1, 16 + 10 * 2 ^ 58), (2, 0xFFFFFFFF)] st) (.ridx 4 1 2) (fun c => letI := @listAll; let w := (c.rs 1).toNat
        decide (w % 32 ≤ 16 ∧ w / 2 ^ 58 % 16 ≤ 10 ∧ w / 2 ^ 57 % 2 = 0 ∧ w / 2 ^ 62 = 0))) ∧
    (Meets (sreg [(1, 32)] st) (rwaitI true) (fun c => letI := @listAll; decide (c.b.isLevel = false ∧ (c.rs 1).toNat % 64 ≠ 0)) ∧
      rwaitA (sreg [(2, 2)] (ringA 1 st)) true ∧ rwaitA (sreg [(2, 1)] (ringA 1 st)) false ∧
      rwaitG (sreg [(1, 0x20000), (2, 2)] (ringG 1 (near st))) true false ∧ rwaitG (sreg [(1, 0x20000), (2, 2)] (near st)) false false ∧
      rwaitG farRing true true ∧ rwaitG (throttled farRing) true true false) ∧
    (Meets (sreg [(1, 32)] st) (rflipI true) (fun c => letI := @listAll; decide (c.b.isLevel = false ∧ (c.rs 1).toNat % 64 ≠ 0) && !c.s.outstanding c.core 0 0) ∧
      Meets (sreg [(1, 64)] (slices 0 128 0 st)) (rflipI true) (fun c => letI := @listAll; decide (c.b.isLevel = false ∧ (c.rs 1).toNat % 64 = 0 ∧
        BufferReady c 3 8 [(0, c.rs 1)] ∧ GraverIdle c.s) && !c.s.outstanding c.core 0 0) ∧
      rflipG (near st) true ∧ rflipG (drains (near st)) false) :=
  ⟨⟨meets (by decide +kernel), meets (by decide +kernel)⟩,
    (by and_intros <;> exact meets (by decide +kernel)), by and_intros <;> exact meets (by decide +kernel)⟩

/-! ### Hypotheses met: tiles -/

/-- a page of tiles, an entry of the block's tile table, its directory entry, a request -/
def nclassPage (s : State) : State := page 0x20000 0x400000 (page 0x10000 0x200000 s) true
def entry (view : TileView) (kind : BitVec 2 := 0) : TileEntry :=
  { va := 0x20000, pa := 0x400000, size := 4096, view := view, kind := kind, aoff := 0, spc := 0x10000 }
def tileSt (es : List TileEntry) : State :=
  let s := slices 0 4096 0 (nclassPage (onBlock (fun b => { b with tiles := es }) st))
  if es.any fun x => x.view = .held then { s with tiles := [(0x400000, { size := 4096, holder := 0, kind := 0 })] } else s
def tacqMeets (s : State) (va aoff : Nat) (tag : BitVec 6) (P : Ctx → Ctx → LeafState → List TileEntry → Bool) : Prop :=
  Meets (hinted [.hsrc 0 false 5 true] (sreg [(2, va), (3, aoff)] s)) (.tacq 1 2 tag 0 false) fun c => !c.level &&
    gets ((begun (.tacq 1 2 tag 0 false) c).tileAt (c.rs 2)) fun x =>
      P c x.1 x.2.2.1 (c.b.tiles.filter fun e => decide (¬ (e.pa = x.2.1 ∧ (e.view = .refused ∨ e.view = .delivered))))
def others (n : Nat) : List TileEntry := (List.range n).map fun j => { entry .held with pa := 0x500000 + 4096 * j }
def surrendered (r : TileReq) (q : Surrender) (e : TileEntry) : State :=
  let s := onBlock (fun b => { b with sur := some ({ parent := { pc := 0x10000, xm := 0xFFFFFFFF, arm := 0xFFFFFFFF }, cslot := 64 }, q) }) (tileSt [e])
  { s with cur := { blk := 0, slot := 16, frag := false }, treqs := [(0, r)] }
def asked (excl : Bool) (phase : ReqPhase) : TileReq :=
  { blk := 0, pa := 0x400000, size := 4096, excl := excl, kind := 1, aoff := 0, tag := 0, spc := 0, phase := phase }
def serving : Surrender := { req := 0, tile := 0x400000 }
def cedeMeets (o : BitVec 2) (excl : Bool) : Prop :=
  Meets (surrendered (asked excl (.serving 0)) serving (entry .held 1)) (.cede o) fun c =>
    decide (c.b.isLevel = false ∧ c.b.ended = false ∧ (c.b.heldTile 0x400000).map (·.kind) = some 1 ∧ (c.b.heldTile 0x400000).map (·.refusals) = some 0 ∧ c.b.lim = 2 ∧
      c.b.sur.map (·.2.req) = some 0 ∧ (tget c.s.treqs 0).map (·.excl) = some excl) && c.isSurrender && !c.s.outstanding c.core 0 16 && !c.s.traces c.b
theorem witness_TileInstructions :
    (tacqMeets (near st) 0x20000 0 0 (fun _ _ st _ => decide (st ≠ .nclass)) ∧
      tacqMeets (tileSt []) 0x20010 0 0 (fun c _ st _ => decide (st = .nclass ∧ (c.rs 2).toNat % 4096 ≠ 0)) ∧
      tacqMeets (tileSt []) 0x20000 64 0 (fun c _ st _ => decide (st = .nclass ∧ c.b.aslice.len < (c.rs 3).toNat + 4096)) ∧
      tacqMeets (tileSt []) 0x20000 0 1 (fun c _ st _ => decide (st = .nclass ∧ c.b.tags.length ≤ 1)) ∧
      tacqMeets (tileSt [entry .held]) 0x20000 0 0 (fun c _ st ts => decide (st = .nclass ∧ c.b.aslice.len = 4096 ∧ ∃ x ∈ ts, x.pa = 0x400000)) ∧
      tacqMeets (tileSt (others 8)) 0x20000 0 0 (fun _ _ st ts => decide (st = .nclass ∧ (∀ x ∈ ts, x.pa ≠ 0x400000) ∧ 8 ≤ ts.length)) ∧
      tacqMeets (tileSt (entry .refused :: others 7)) 0x20000 0 0 (fun c c1 st ts => decide (st = .nclass ∧ (∀ x ∈ ts, x.pa ≠ 0x400000) ∧ ts.length < 8 ∧
        (c1.s.setBlock 0 { c.b with tiles := ts }).tileTable 0 < 32 ∧ Admitted c [0])) ∧
      tacqMeets (throttled (tileSt [])) 0x20000 0 0 (fun c _ st ts => decide (st = .nclass ∧ ts = [] ∧ ¬ Admitted c [0]))) ∧
    (Meets (sreg [(2, 0x20000)] (tileSt [])) (.trel 1 2) (fun c => gets ((begun (.trel 1 2) c).tileAt (c.rs 2)) fun x =>
        !c.b.isLevel && (c.b.heldTile x.2.1).isNone) ∧
      ∀ k ∈ [0, 1, 2, 3], Meets (sreg [(2, 0x20000)] (tileSt [entry .held (BitVec.ofNat 2 k)])) (.trel 1 2) (fun c =>
        gets ((begun (.trel 1 2) c).tileAt (c.rs 2)) fun x => !c.b.isLevel && (c.b.heldTile x.2.1).isSome && decide (c.b.sur = none ∧ Admitted c [moduleOf x.2.1]) && x.1.s.reachable x.2.1 &&
          !c.s.outstanding c.core 0 0 && decide ((∀ p ∈ (x.1.s.core c.core).l1d, p.2.dirty = 0) ∧ (∀ p ∈ x.1.s.clu, p.2.dirty = 0)))) ∧
    (Meets (sreg [(2, 0x20000)] (tileSt [])) (.tstat 1 2) (fun c => gets ((begun (.tstat 1 2) c).tileAt (c.rs 2)) fun x => (c.b.tile x.2.1).isNone) ∧
      ∀ v ∈ [TileView.held, .pending, .refused, .delivered], Meets (sreg [(2, 0x20000)] (tileSt [entry v])) (.tstat 1 2) (fun c =>
        gets ((begun (.tstat 1 2) c).tileAt (c.rs 2)) fun x => decide ((c.b.tile x.2.1).map (·.view) = some v))) ∧
    (Meets st (.cede 0) (fun c => !c.isSurrender) ∧ cedeMeets 2 true ∧ cedeMeets 0 true ∧ cedeMeets 0 false ∧ cedeMeets 1 false) := by
  refine ⟨(by and_intros <;> exact meets (by decide +kernel)),
    ⟨meets (by decide +kernel), ?_⟩, ⟨meets (by decide +kernel), ?_⟩, by and_intros <;> exact meets (by decide +kernel)⟩
  · intro k hk
    simp only [List.mem_cons, List.not_mem_nil, or_false] at hk
    rcases hk with rfl | rfl | rfl | rfl <;> exact meets (by decide +kernel)
  · intro v _
    cases v <;> exact meets (by decide +kernel)

/-- requests for a free and for a held tile, recalls on their way, in a queue and to be sent again, a delivery -/
def req0 (phase : ReqPhase) (excl : Bool) (es : List TileEntry) : State := { tileSt es with treqs := [(0, asked excl phase)] }
def recalled (s : State) : State := onCore (fun c => { c with recalls := [0] }) s
theorem witness_TileRequests :
    (∀ e ∈ [true, false], (tget (req0 .toHome e []).treqs 0).map (·.phase) = some .toHome ∧ tget (req0 .toHome e []).tiles 0x400000 = none) ∧
    ((tget (req0 .toHome true [entry .held]).tiles 0x400000).map (·.holder) = some 0 ∧
      (tget (req0 .toHome true [entry .held]).blocks 0).map (fun b => decide ((b.tags.getD 0 {}).pending < 255)) = some true) ∧
    ((tget (req0 (.recall 0) true [entry .held]).blocks 0).map (·.core) = some 0 ∧ ((req0 (.recall 0) true [entry .held]).core 0).recalls.length < 16 ∧
      (tget (req0 (.recall 0) true [entry .held]).treqs 0).map (fun q => (q.fwd, q.sent)) = some (none, 0) ∧
      (tget (req0 .resend true [entry .held]).treqs 0).map (·.phase) = some .resend) ∧
    (let s := recalled (req0 (.queued 0) true [entry .held]);
      (∀ p ∈ s.blocks, ¬ (p.2.core = 0 ∧ p.2.sur.isSome = true)) ∧ (s.core 0).recalls.head? = some 0 ∧ (tget s.tiles 0x400000).map (·.holder) = some 0 ∧
        (tget s.blocks 0).bind (fun b => (b.heldTile 0x400000).map fun x => (b.isLevel, x.spc.toNat % 4)) = some (false, 0)) ∧
    (let s := surrendered (asked true (.serving 0)) { serving with issued := 1024 } (entry .held);
      (s.blocks.find? (fun p => p.2.core = 0 && p.2.sur.isSome)).map (fun p => (p.2.bnd, p.2.sur.map (·.2.issued), p.2.isLevel, p.2.ended)) =
        some (1024, some 1024, false, false) ∧ s.outstanding 0 0 16 = false) ∧
    (∀ t ∈ [true, false], let s := req0 (.delivering [1, 2] t) true [entry .pending];
      (tget s.blocks 0).map (·.tiles) = some [entry .pending] ∧ GraverIdle s) ∧
    (∀ t ∈ [true, false], let s := req0 (.folding t) true [entry .pending];
      (tget s.treqs 0).map (·.phase) = some (.folding t) ∧ s.foldDue 0x400000 4096 = false ∧ GraverIdle s) ∧
    (let s := waits .tile { tileSt [entry .pending] with treqs := [(0, { asked false (.delivering [1] false) with direct := some (me, 1) })] };
      (waveAt s me).map (fun w => w.parent.wait) = some (some .tile)) := by and_intros <;> decide +kernel

/-! ### Hypotheses met: matrix memory and the Graver -/

/-- `MLD` and `MLD.A` of a 2×2 matrix, `MST` and `MST.A` of one element -/
def mldI : Instr := .mld 1 1 1 2 noGuard
def mldMeets (s : State) (isFar : Bool) (admitted : Bool := true) : Prop := Meets s mldI fun c => letI := @listAll; gets ((begun mldI c).globalLanes .load false 4 (matrixAddresses c 2 4)) fun p =>
  let x := p.1.loadAll 4 p.2
  let o : Outcome := { mat := some (1, 2, 2, fun l => (x.1.vals.filter fun v => v.1 = l).map fun v => wordOf v.2) }
  (x.1.far == isFar) && (decide (Admitted c x.2.sends) == admitted) && decide (takes mldI c o = 4 ∧ MayTake c (dropped (freed mldI c) o) (takes mldI c o))
def mstMeets (s : State) (admitted : Bool) : Prop := Meets s (.mst 1 2 noGuard) fun c => letI := @listAll; !c.b.isLevel &&
  gets ((begun (.mst 1 2 noGuard) c).globalLanes .store false 4 (matrixAddresses c 2 1)) fun p =>
    gets (p.2.zipIdx.foldlM (fun c p => c.storeAt 0 6 p.1 (leBytes ((elements (c.rm 1) p.1.lane).getD (p.2 % 1) 0).toNat 4)) p.1) fun c3 =>
      decide (Admitted c c3.sends) == admitted
def atPage (s : State) : State := sreg [(2, 0x20000)] s
theorem witness_MatrixMemory :
    (mldMeets (atPage (near st)) false ∧ mldMeets (atPage (far st)) true ∧ mldMeets (throttled (atPage (far st))) true false) ∧
    Meets (slices 0 512 0 st) (.mldA 1 1 1 2 noGuard) (fun c => letI := @listAll;
      let o : Outcome := { mat := some (1, 2, 2, fun _ => []) }
      decide (BufferReady c 3 4 (matrixAddresses c 2 4)) && decide (MayTake c (dropped (freed (.mldA 1 1 1 2 noGuard) c) o) 4)) ∧
    (mstMeets (atPage (near st)) true ∧
      Meets (levelled (atPage (near st))) (.mst 1 2 noGuard) (fun c => letI := @listAll; c.level &&
        gets ((begun (.mst 1 2 noGuard) c).globalLanes .store false 4 (matrixAddresses c 2 1)) fun _ => true)) ∧
    (Meets (slices 0 128 0 st) (.mstA 1 2 noGuard) (fun c => letI := @listAll; decide (BufferReady c 3 4 (matrixAddresses c 2 1) ∧ GraverIdle c.s ∧ c.level = false)) ∧
      Meets (levelled (slices 0 128 0 st)) (.mstA 1 2 noGuard) (fun c => letI := @listAll; decide (BufferReady c 3 4 (matrixAddresses c 2 1) ∧ GraverIdle c.s ∧ c.level = true))) :=
  by and_intros <;> exact meets (by decide +kernel)

/-- a wave of the Graver's role with a ring of two slots in its A slice, and a FILL of one element (Table 16.1) in s8–s18 -/
def ringWord : Nat := 2 ^ 58 + 33
def gravBase (header : Nat) (s : State) : State := onWave (fun w => { w with role := 2, cwl := 1 }) (slices 0 256 1024 (inA (leBytes header 8) s))
def filling (kind crow : Nat) (s : State) : State :=
  sreg [(4, ringWord), (8, kind + crow * 2 ^ 32), (10, if kind = 1 then 0x3F800000 * 2 ^ 32 else 0), (11, 0x0001000100010001), (12, 1)] s
def gcmdI : Instr := .gcmd 5 8 4
def gcmdMeets (s : State) (sound fits windowed isFree : Bool) : Prop := Meets s gcmdI fun c =>
  let w := c.rs 4
  let n := c.commandOf 8
  let win := (begun gcmdI c).window
  decide (c.level = false) && (ringOk w && w.getLsbD 5 && decide (ringZ w = 1)) == sound &&
    (!sound || (decide (ringBase w + 128 * 2 ^ ringK w ≤ c.b.aslice.len) && !gMalformed n) == fits) &&
    (!(sound && fits) || decide (gKind n = 1 ∧ (gIters n (gFirst n)).length = 1) && ((gIters n (gFirst n)).all fun iv => gIterOk c.b n (tidOf []) (tidOf []) iv) &&
      ((gIters n (gFirst n)).all fun iv => gWindowOk n win.1 iv) == windowed) &&
    (!(sound && fits && windowed) || decide ((dwordOf (win.2.bufLoad 3 0 8)).toNat = 1 ∧ c.s.outstanding c.core 0 0 = false) == isFree)
def onGrav (f : WaveGraver → WaveGraver) (s : State) : State := onWave (fun w => { w with grav := f w.grav }) s
def cmd0 : GravCmd := { idx := 0, slot := 0, cmd := 0 }
def gwaitMeets (g : WaveGraver) (n : Nat) (far failed waits_ : Bool) : Prop :=
  Meets (sreg [(1, n)] (onGrav (fun _ => g) (gravBase 1 st))) (.gwait 1) fun c =>
    let n : BitVec 16 := (c.rs 1).setWidth 16
    let g := c.w0.grav
    (decide (2 ^ 15 ≤ (g.gbat - n).toNat) == far) && (far || decide ((g.gbat - n).toNat < (g.gbat - g.last).toNat) == waits_) &&
      ((g.failed.any fun m => decide ((g.gbat - n).toNat ≤ (g.gbat - m).toNat)) == failed) && decide (c.level = false)
def gwinMeets (slot k win wpb : Nat) (isBad : Bool) : Prop :=
  let two := onBlock (fun b => { b with waves := b.waves ++ b.waves.map fun p => (1, p.2) }) (sreg [(1, k), (2, win)] (gravBase 1 st))
  Meets { onLaunch (fun l => { l with kd := { l.kd with wpb := wpb } }) two with cur := { me with slot := slot } } (.gwin 1 2) fun c =>
    let k := (c.rs 1).toNat % 16
    let base := (c.rs 2).toNat % 2 ^ 12
    let lim := (c.rs 2).toNat / 2 ^ 16 % 2 ^ 12
    decide (c.r.slot = slot) && (decide ((if c.b.task then 1 else c.launch.kd.wpb) ≤ k ∨ lim < base ∨ c.b.cslice.len / 512 < lim) == isBad) && (c.b.wave k).isSome != isBad
theorem full_batches : ∃ c, Issues (onGrav (fun g => { g with out := List.replicate 32767 { num := 0, size := 1 } }) (gravBase 1 st)) (.gfence 1) c ∧
    c.level = false ∧ 32767 ≤ c.w0.grav.out.length :=
  ⟨_, ⟨rfl, rfl⟩, rfl, Nat.le_of_eq (List.length_replicate).symm⟩
theorem witness_GraverInstructions :
    (gcmdMeets (sreg [(4, 32)] (gravBase 1 st)) false false false false ∧ gcmdMeets (filling 7 0 (gravBase 1 st)) true false false false ∧
      gcmdMeets (filling 1 1 (gravBase 1 st)) true true false false ∧ gcmdMeets (filling 1 0 (gravBase 0 st)) true true true false ∧
      gcmdMeets (filling 1 0 (gravBase 1 st)) true true true true) ∧
    Meets (gravBase 1 st) .grdy (fun c => decide (c.level = false)) ∧
    (Meets (onGrav (fun g => { g with queue := [cmd0], opened := 1 }) (gravBase 1 st)) (.gfence 1) (fun c => decide (c.level = false ∧ c.w0.grav.out = [] ∧
        ∃ q ∈ c.w0.grav.queue, q.done = false ∧ q.batch = none)) ∧
      Meets (gravBase 1 st) (.gfence 1) (fun c => decide (c.level = false ∧ c.w0.grav.out = [] ∧ c.w0.grav.queue = []))) ∧
    (gwaitMeets {} 0x8000 true false false ∧ gwaitMeets { gbat := 1, out := [{ num := 1, size := 1 }] } 1 false false true ∧
      gwaitMeets { gbat := 1, last := 1, failed := [1] } 1 false true false ∧ gwaitMeets { gbat := 1, last := 1 } 0x8002 false false false) ∧
    (gwinMeets 1 0 0 2 false ∧ gwinMeets 0 2 0 2 true ∧ gwinMeets 0 0 (1 + 2 * 2 ^ 16) 2 false ∧ gwinMeets 0 1 (2 + 2 * 2 ^ 16) 2 false) ∧
    (Meets (sreg [(1, 2)] (gravBase 1 st)) (.gctr 4 1) (fun c => decide (c.b.cslice.len ≤ (c.rs 1).toNat * 512)) ∧
      Meets (sreg [(1, 1)] (gravBase 1 st)) (.gctr 4 1) (fun c => decide ((c.rs 1).toNat * 512 < c.b.cslice.len)) ∧
      Meets (sreg [(1, 2)] (gravBase 1 st)) (.gclr 1) (fun c => decide (c.b.cslice.len ≤ (c.rs 1).toNat * 512)) ∧
      Meets (sreg [(1, 1)] (gravBase 1 st)) (.gclr 1) (fun c => decide ((c.rs 1).toNat * 512 < c.b.cslice.len ∧ GraverIdle c.s))) ∧
    Meets (gravBase 1 st) (.gqry 1 2) (fun _ => true) :=
  ⟨(by and_intros <;> exact meets (by decide +kernel)), meets (by decide +kernel),
    ⟨meets (by decide +kernel), meets (by decide +kernel)⟩, (by and_intros <;> exact meets (by decide +kernel)),
    (by and_intros <;> exact meets (by decide +kernel)),
    (by and_intros <;> exact meets (by decide +kernel)), meets (by decide +kernel)⟩
/-- A Graver command of one iteration and one element (Table 16.1), its conversion, and a one-dimensional operand of every format. -/
def gravCmd (kind cvt : Nat) : Nat := kind * 2 ^ 64 + cvt * 2 ^ 72 + 0x3F800000 * 2 ^ 224 + 0x00010001000100010001 * 2 ^ 256
def operand (space format : Nat) : List Byte :=
  leBytes (space * 2 ^ 64 + format * 2 ^ 72 + 2 * 2 ^ 80) 16 ++ leBytes (1 + 2 ^ 32) 20 ++ leBytes 256 40 ++ leBytes (1 + 2 ^ 16) 52
def working (q : GravCmd) (faulted : Bool) (out : List Batch) : State :=
  onGrav (fun _ => { queue := [q], faulted := faulted, out := out }) (gravBase 1 st)
def filled : GravCmd := { idx := 0, slot := 0, cmd := gravCmd 1 0, started := true }
def scaled (space : Nat) : GravCmd := { idx := 0, slot := 0, cmd := gravCmd 2 0, tida := operand space 7, started := true }
def multiplied : GravCmd := { idx := 0, slot := 0, cmd := gravCmd 0 0, tida := operand 3 1, tidb := operand 2 1, started := true }
/-- The Graver's head, and its run of some iterations, have a property. -/
abbrev headHas (s : State) (P : Wave → GravCmd → Bool) : Prop := ((s.gHead 0 0).map fun x => P x.2.1 x.2.2) = some true
abbrev runHas (s : State) (k : GravCmd → Nat) (P : Block → GravCmd → Wave → Bool) : Prop :=
  ((s.gHead 0 0).bind fun x =>
    if !x.2.2.started || x.2.2.parked || s.gBeside x.1 0 0 || s.heldAt x.1.core x.2.2.cls then none else
    match s.gRun 0 0 (s.launch x.1.launch).asid x.2.2 (k x.2.2) with
    | (.ok (), t, q) => (tget t.blocks 0).bind fun b => (b.wave 0).map fun w => P b q w
    | _ => none) = some true
def oneBatch : Batch := { num := 1, size := 1 }
abbrev faults_ (q : GravCmd) (kind : Nat) : Prop := runHas (working q false []) (fun _ => 0) fun b q' _ =>
  decide (0 < q.left ∧ q.el = 0 ∧ q'.batch = none) && gFaultFits (working q false []) b q kind
theorem witness_GraverCommands :
    (headHas (working cmd0 false []) (fun w q => !q.started && !w.grav.faulted) ∧
      headHas (working cmd0 true []) (fun w q => !q.started && w.grav.faulted)) ∧
    runHas (working { filled with batch := some 1 } false [oneBatch]) GravCmd.left (fun _ q w =>
      let ended := w.grav.queue.map fun x => if x.idx = q.idx ∧ x.done = false then { q with done := true } else x
      decide (w.grav.out = [oneBatch]) && ended.all fun y => decide (y.batch = some oneBatch.num) && y.done) ∧
    (faults_ (scaled 3) 2 ∧ faults_ (scaled 6) 3 ∧ faults_ (scaled 3) 4) ∧
    (0 < gM filled.cmd ∧ 0 < gN filled.cmd ∧ gKind filled.cmd = 1) ∧
    (0 < gM (scaled 3).cmd ∧ 0 < gN (scaled 3).cmd ∧ gKind (scaled 3).cmd = 2 ∧ gCvt (scaled 3).cmd = 0 ∧
      (gR (scaled 3).cmd (scaled 3).iv).toNat < (tidOf (scaled 3).tida).ext.getD 0 0) ∧
    (0 < gM multiplied.cmd ∧ 0 < gN multiplied.cmd ∧ gKind multiplied.cmd = 0 ∧ (tidOf multiplied.tida).format = 1 ∧
      (tidOf multiplied.tidb).format = 1 ∧ (tidOf multiplied.tida).smode = 0 ∧ (tidOf multiplied.tidb).smode = 0 ∧
      (gR multiplied.cmd multiplied.iv).toNat < (tidOf multiplied.tida).ext.getD 1 0 ∧
      (gC multiplied.cmd multiplied.iv).toNat < (tidOf multiplied.tidb).ext.getD 0 0) ∧
    filled.spoiled = false := by
  refine ⟨⟨?_, ?_⟩, ?_, ⟨?_, ?_, ?_⟩, ?_, ?_, ?_, rfl⟩
  all_goals decide +kernel


/-! ### Hypotheses met: the Stipple -/

/-- a vertex record (Table 18.3) with a forward density of 1; the Stipple enabled with four slots a plate, records by slot of plate 0 -/
def vrec (flags refs gen : Nat) (par : Nat := 0xFFFFFFFF) (depth : Nat := 0) : Nat :=
  0x3F800000 * 2 ^ 224 + flags * 2 ^ 208 + par * 2 ^ 320 + depth * 2 ^ 384 + gen * 2 ^ 400 + refs * 2 ^ 480
def stippled (gen : Nat) (rs : List Nat) (s : State) : State :=
  { s with mem := rs.zipIdx.foldl (fun m x => memWrite m (0x1000000 + 64 * x.2) (leBytes x.1 64)) s.mem
           hub := { s.hub with stip := { s.hub.stip with
             en := true, ncap := 2, gen := BitVec.ofNat 64 gen
             plates := Vector.replicate 2 { base := 0x1000000, live := rs.zipIdx.map fun x => (x.2, ()) } } } }
def vform (i : Instr) (s : State) (admitted : Bool := true) : Prop := Meets s i fun c => match stippleForm i c with
  | some f => decide (c.level = false ∧ c.g ≠ 0 ∧ HasRoom i c (stippleDest i)) && (!f.seals || !c.s.outstanding c.core 0 0) &&
      decide (Admitted c [c.s.ownModule]) == admitted
  | none => false
def noneOf (i : Instr) : Prop := Meets st i fun c => decide (c.level = false ∧ c.g = 0)
def vgenI : Instr := .vgen 0 1 false noGuard
def vrwtI : Instr := .vrwt 0 4 false noGuard
def rated (m : Nat) : State := hinted [.hsrc 0 false 2 true] (sreg [(2, m)] st)
def vops (g : Guard) : List Instr := [.vapp 0 16 false true g, .vseal 0 1 false g, .vconn 0 4 false g, .vmerge 0 4 false g, .vget 0 1 false g, .vref 0 1 false g, .vrel 0 1 false g]
def returning (en : Bool) : State :=
  let s := waits .stipple (onCore (fun k => { k with stip := [{ ent := me, gpc := 0x10000, i := .vseal 0 1 false noGuard, lanes := 1, src := [lanesOf fun _ => 0] }] })
    (stippled 0 [vrec 0x4B 0 0] st))
  { s with hub := { s.hub with stip := { s.hub.stip with en := en } } }
theorem witness_StippleInstructions :
    (noneOf (.vgen 0 1 false (guardK 0)) ∧ Meets (vregs [1] (fun _ l => l) st) vgenI (fun c => decide (c.level = false) &&
        decide ((maskOf fun n => inMask c.g n && decide (V c 1 n ≠ V c 1 0)) ≠ 0)) ∧
      (∀ m ∈ [0, 2 ^ 24 + 1], Meets (rated m) vrwtI fun c => decide (c.level = false ∧ (c.w0.s[(c.x.sc.getD 0).toNat]).toNat % 2 ^ 32 = m)) ∧
      (∀ m ∈ [1, 2 ^ 24], Meets (rated m) vrwtI fun c => decide (c.level = false ∧ (c.w0.s[(c.x.sc.getD 0).toNat]).toNat % 2 ^ 32 = m ∧
        HasRoom vrwtI c (stippleDest vrwtI))) ∧ vform vgenI st ∧ (∀ i ∈ vops noGuard, vform i st) ∧ (∀ i ∈ vops (guardK 0), noneOf i) ∧
      vform vgenI (throttled st) false ∧ vform vgenI (drains st) false) ∧
    ((∃ b w e q, (returning true).stipFirst me = some (b, w, e, q) ∧ stippleDest q.i ≠ [] ∧ e.wait = some .stipple ∧ q.lanes ≠ 0 ∧
        (returning true).hub.stip.en = true) ∧
      ∃ b w e q, (returning false).stipFirst me = some (b, w, e, q) ∧ stippleDest q.i ≠ [] ∧ q.lanes ≠ 0 ∧ (returning false).hub.stip.en = false) ∧
    (let s := stippled (2 ^ 32 + 1) [vrec 0x4B 0 0, vrec 0x4B 0 1 0 1] st;
      s.hub.stip.gen.setWidth 32 = (1 : Word) ∧ s.hub.stip.gen.setWidth 32 ≠ (2 : Word) ∧ s.hub.stip.en = true ∧ s.eligible 0 0 = true ∧
        rParent (s.record 0) = 0xFFFFFFFF) ∧
    (let s := stippled 2 [vrec 0x4B 1 0, vrec 0x4B 0 0 0 1] st;
      s.eligible 0 1 = true ∧ rParent (s.record 1) = 0 ∧ Apart s 1 0) := by
  refine ⟨⟨meets (by decide +kernel), meets (by decide +kernel), ?_, ?_, meets (by decide +kernel), ?_, ?_, meets (by decide +kernel), meets (by decide +kernel)⟩,
    ⟨⟨_, _, _, _, rfl, by and_intros <;> decide +kernel⟩, _, _, _, _, rfl, by decide +kernel, by decide +kernel, by decide +kernel⟩, by decide +kernel, by decide +kernel⟩
  all_goals
    intro i hi
    simp only [vops, List.mem_cons, List.not_mem_nil, or_false] at hi
  · rcases hi with rfl | rfl <;> exact meets (by decide +kernel)
  · rcases hi with rfl | rfl <;> exact meets (by decide +kernel)
  · rcases hi with rfl | rfl | rfl | rfl | rfl | rfl | rfl <;> exact meets (by decide +kernel)
  · rcases hi with rfl | rfl | rfl | rfl | rfl | rfl | rfl <;> exact meets (by decide +kernel)

/-- supplied words of a `VAPP`: its parent, its flags, its two densities -/
def supplied (par flags fwd rev : Nat) : List Word :=
  [0, 0, 0, 0, 0, 0, BitVec.ofNat 32 (flags * 2 ^ 16), BitVec.ofNat 32 fwd, BitVec.ofNat 32 rev, 0, BitVec.ofNat 32 par, 0, 0, 0, 0, 0]
def one_ : Nat := 0x3F800000
/-- slot 0 a sealed root, 1 unsealed, 2 with all its references taken, 3 a sealed light root -/
def four : State := stippled 0 [vrec 0x4A 1 0, vrec 0x42 1 0, vrec 0x4A 65535 0, vrec 0x4B 0 0] st
/-- the same without slot 3 -/
def vthree : State := stippled 0 [vrec 0x4A 1 0, vrec 0x42 1 0, vrec 0x4A 65535 0] st
def soundly (s : State) (ws : List Word) : Bool :=
  let par := ws.getD 10 0
  let P := s.record par
  decide ((ws.getD 6 0).toNat / 2 ^ 23 = 0) && positive (ws.getD 7 0) &&
    (decide (par = 0xFFFFFFFF) || (nonNeg (ws.getD 8 0) && (ws.getD 6 0).getLsbD 16 == rLight P && decide (rDepth P ≠ 65535)))
theorem named_four (id : Word) (h : id ∈ ([0, 1, 2, 3] : List Word)) : Named four id := by
  simp only [List.mem_cons, List.not_mem_nil, or_false] at h
  rcases h with rfl | rfl | rfl | rfl <;> (constructor <;> decide +kernel)
theorem named_three (id : Word) (h : id ∈ ([0, 1, 2] : List Word)) : Named vthree id := by
  simp only [List.mem_cons, List.not_mem_nil, or_false] at h
  rcases h with rfl | rfl | rfl <;> (constructor <;> decide +kernel)
/-- a connection of the two roots 0 and 3 of `four` under the power heuristic: of moderate ratios, and of one that overflows -/
def powered : State := { four with hub := { four.hub with stip := { four.hub.stip with heur := true } } }
theorem moderate : ¬ Overflows powered (powered.record 0) (powered.record 3) 0x3F800000 0x3F800000 := by
  rintro ⟨x, hx, h⟩
  have : x = heuristic powered (div32 0x3F800000 0x3F800000) := by
    rcases List.mem_cons.1 hx with rfl | hx
    · decide +kernel
    · rw [List.mem_singleton.1 hx]; decide +kernel
  subst this
  exact h _ _ _ rfl
theorem overflowing : Overflows powered (powered.record 0) (powered.record 3) 0x3F800000 0x7F000000 :=
  ⟨_, .head _, fun _ _ _ h => by cases h⟩
theorem witness_VertexRecords :
    (four.hub.stip.ncap.toNat ≤ 28 ∧ (supplied 0 0 one_ one_).length = 16) ∧
    (2 ^ four.hub.stip.ncap.toNat ≤ idSlot 4 ∧ Stale vthree 3 ∧ rSealed (four.record 1) = false ∧ rSealed (four.record 0) = true) ∧
    (soundly four (supplied 0xFFFFFFFF 0 0 0) = false ∧ soundly four (supplied 0 1 one_ one_) = false ∧ soundly four (supplied 2 0 one_ one_) = true ∧
      rRefs (four.record 2) = 65535) ∧
    (soundly four (supplied 0 0 one_ one_) = true ∧ (four.stipPlate 0).live.length = 2 ^ four.hub.stip.ncap.toNat ∧
      ∀ x ∈ (four.stipPlate 0).live, four.eligible 0 x.1 = false) ∧
    (soundly vthree (supplied 0 0 one_ one_) = true ∧ soundly vthree (supplied 0xFFFFFFFF 0 one_ 0) = true ∧
      ((vthree.stipPlate 0).live.filter fun x => decide (x.1 < 2 ^ vthree.hub.stip.ncap.toNat)).length < 2 ^ vthree.hub.stip.ncap.toNat ∧
      tsorted (vthree.stipPlate 0).live = true ∧
      (∀ x ∈ (vthree.stipPlate 0).live, x.1 < 2 ^ vthree.hub.stip.ncap.toNat) ∧ Apart vthree 3 0) ∧
    (rRefs (four.record 0) = 1 ∧ rRefs (four.record 3) = 0 ∧ rSealed (four.record 3) = true) ∧
    (rLight (four.record 0) = false ∧ rLight (four.record 3) = true ∧ nonNeg 0x3F800000 = true ∧ nonNeg 0xBF800000 = false ∧
      rConn (four.record 0) = true ∧ rConn (four.record 3) = true ∧ rEndp (four.record 0) = true ∧ rEndp (four.record 3) = true) ∧
    (let s := stippled 0 [vrec 0x4E 1 0, vrec 0x4D 1 0] st;
      rSealed (s.record 0) = true ∧ rSealed (s.record 1) = true ∧ rLight (s.record 0) = false ∧ rLight (s.record 1) = true) ∧
    (let s := stippled 0 [vrec 0x4C 1 0, vrec 0x4B 1 0] st; rConn (s.record 0) = false) ∧
    (let s := powered; rSealed (s.record 0) = true ∧ rSealed (s.record 3) = true ∧ rLight (s.record 0) = false ∧ rLight (s.record 3) = true ∧
      rConn (s.record 0) = true ∧ rConn (s.record 3) = true ∧ rEndp (s.record 0) = true ∧ rEndp (s.record 3) = true ∧
      nonNeg 0x7F000000 = true ∧ (∀ i ∈ [0, 3], s.eligible 0 i = false ∧ (tget (s.stipPlate 0).live i).isSome = true)) ∧
    (fle32 0x3F800000 (four.stipPlate 0).cell = true ∧ fle32 0x40000000 (four.stipPlate 0).cell = false ∧ (fv32 0x3F800000).isNan = false) := by decide +kernel

/-! ### Hypotheses met: rays, traps, handlers, system instructions -/

def traceI (m any : Bool) : Instr := if any then .traceAny 0 8 false m noGuard else .trace 0 8 false m noGuard
def traceMeets (i : Instr) (s : State) (P : Ctx → Option Tid → Bool) : Prop :=
  Meets (hinted [.hsrc 0 false 2 true] s) i fun c => decide (c.level = false) &&
    P c (((begun i c).tidImage ((c.w0.s[(c.x.sc.getD 0).toNat]).toNat % 256)).map tidOf)
def isTree (t? : Option Tid) : Bool := match t? with
  | some t => decide (t.space = 1 ∧ t.format = 7 ∧ t.rank = 1 ∧ t.stride.getD 0 0 = 4 ∧ t.base.toNat % 64 = 0)
  | none => false
def tree (s : State) : State := withTid (image 1 0x20000 64) s
def rayOff (n : Nat) (s : State) : State := vregs [8] (fun _ l => 32 * l + n) (slices 0 1024 0 s)
def rayWords (dir : Nat) : List Word := [0, 0, 0, 0, BitVec.ofNat 32 dir, 0, 0, 0x7F800000]
def traced (s : State) (lanes : Mask) (len : Nat) : State := onCore (fun k => { k with traces := [(0, {
  blk := 0, tag := 0, asid := 0, lid := 0, any := false, base := 0x20000, len := len, lanes := lanes, rays := lanesOf fun _ => rayWords 0 })] })
  (tagged [{ pending := 1 }] (near s))
def ran (s : State) (ok : Bool) : Bool := match tget (s.core 0).traces 0 with
  | some q => !q.parked && !s.heldAt 0 q.cls && ((tget s.blocks 0).map fun b => decide ((b.tags.getD 0 {}).cleared ≠ some s.now)).getD false &&
    match (s.traceRun 0 q).1 with
    | .ok _ => ok && !q.spoiled
    | .error .bounds => !ok
    | _ => false
  | none => false
theorem witness_Traces :
    (traceMeets (.trace 1 8 false false noGuard) (tree st) (fun c _ => decide (c.b.tags.length ≤ 1)) ∧
      traceMeets (traceI false false) (tagged [{ pending := 1 }] (tree st)) (fun c _ => decide ((c.b.tags.getD 0 {}).pending ≠ 0)) ∧
      traceMeets (traceI false true) st (fun c t => decide (0 < c.b.tags.length ∧ (c.b.tags.getD 0 {}).pending = 0 ∧ t.isNone = true)) ∧
      traceMeets (traceI false false) (withTid (image 3 0x20000 64) st) (fun _ t => t.isSome && !isTree t) ∧
      traceMeets (traceI true false) (rayOff 4 (tree st)) (fun c t => isTree t && decide ((V c 8 1).toNat % 16 ≠ 0)) ∧
      traceMeets (traceI true true) (rayOff 16 (tree st)) (fun c t => isTree t && decide (lanesThat (((List.finRange 32).filter (inMask c.g)).map fun l =>
        (l, (V c 8 l).setWidth 64)) (fun e => decide (e.toNat % 16 ≠ 0)) = 0 ∧ c.b.aslice.len < (V c 8 31).toNat + 32)) ∧
      traceMeets (traceI true false) (rayOff 0 (tree st)) (fun c t => isTree t && decide (∀ l, (V c 8 l).toNat % 16 = 0 ∧ (V c 8 l).toNat + 32 ≤ c.b.aslice.len) &&
        !c.s.outstanding c.core 0 0) ∧
      traceMeets (traceI false true) (tree st) (fun c t => isTree t && !c.s.outstanding c.core 0 0)) ∧
    (Meets st (.hitget 4 1 false noGuard) (fun c => decide (c.level = false ∧ c.b.tags.length ≤ 1)) ∧
      Meets st (.hitget 4 0 false noGuard) (fun c => decide (c.level = false ∧ (c.b.tags.getD 0 {}).ready = false)) ∧
      Meets (tagged [{ ready := true, error := true, cause := 2 }] st) (.hitget 4 0 false noGuard) (fun c => (c.b.tags.getD 0 {}).ready && (c.b.tags.getD 0 {}).error) ∧
      Meets (tagged [{ ready := true }] st) (.hitget 4 0 false noGuard) (fun c => (c.b.tags.getD 0 {}).ready && !(c.b.tags.getD 0 {}).error &&
        decide (HasRoom (.hitget 4 0 false noGuard) c [4, 5, 6, 7]))) ∧
    (ran (traced st 0 0) true = true ∧ ran (traced st 1 64) true = true ∧ ran (traced st 1 0) false = true ∧ rayMisses (rayWords 0) = true ∧
      rayMisses (rayWords 0x3F800000) = false) :=
  ⟨(by and_intros <;> exact meets (by decide +kernel)),
    (by and_intros <;> exact meets (by decide +kernel)), by decide +kernel⟩

/-- a wave in its handler, a surrender wave, a wave with lanes switched off -/
def inHandler (s : State) : State :=
  onWave (fun w => { w with saved := some { parent := w.parent, frag := none, s := w.s, v := w.v, m := w.m, k := w.k }, epc := 0x10004 }) s
def surSt : State := surrendered (asked true (.serving 0)) serving (entry .held 1)
def trapMeets (s : State) (i : Instr) (P : Ctx → Bool) : Bool :=
  (encode? i).isSome && !isHint i && match s.issuer i with
    | some c => !c.armBusy && P c
    | none => false
def inOrder (i : Instr) (c : Ctx) : Bool := fieldsOk i && ((shape i).guard.map guardOk).getD true && modsOk i (shape i) c.x
theorem witness_TrapsTaken :
    (trapMeets st (.post 8 false { n := false, g := 13 }) (fun c => !inOrder (.post 8 false { n := false, g := 13 }) c) ∧
      trapMeets (inHandler st) .bar (fun c => inOrder .bar c && c.w0.saved.isSome && isHandlerFault .bar) ∧
      trapMeets surSt .grdy (fun c => inOrder .grdy c && c.w0.saved.isNone && isGraver .grdy && decide (c.r.slot = 16)) ∧
      trapMeets surSt .bar (fun c => inOrder .bar c && c.w0.saved.isNone && isSurrenderBarred .bar && decide (c.r.slot = 16)) ∧
      trapMeets st .grdy (fun c => inOrder .grdy c && isGraver .grdy && decide (c.w0.role ≠ 2 ∧ c.r.slot ≠ 16)) ∧
      trapMeets (onEnt (fun e => { e with xm := 1 }) st) .bar (fun c => inOrder .bar c && isCollective .bar && !isGraver .bar &&
        decide (c.w0.live &&& ~~~ c.e.xm ≠ 0 ∧ c.r.slot ≠ 16))) ∧
    Meets st (.trap 5) (fun _ => true) ∧
    (((st.find me).map fun x => (x.2.1.saved.isNone, x.2.1.window.isNone)) = some (true, true) ∧
      ((inHandler st).find me).map (fun x => x.2.1.saved.isSome) = some true ∧ (surSt.find { me with slot := 16 }).map (fun x => x.1.ended) = some false) :=
  ⟨by decide +kernel, meets (by decide +kernel), by decide +kernel⟩

/-- a halted block whose wave is pending, its entities stopped or not yet; a collection window that is over, and one that is not -/
def rep0 : Report := { pc := 0x10000, causes := causeBit 16 }
def pendingSt (frozen : Bool) : State := onBlock (fun b => { b with halt := some 0, frozen := frozen }) (onWave (fun w => { w with pending := some rep0, cause := causeBit 16 }) st)
def tretMeets (s : State) (P : Ctx → Bool) : Prop := Meets s .tret fun c => P c
def tretSt (epc : Nat) (owed : Nat) : State :=
  onWave (fun w => { w with pending := some rep0, epc := BitVec.ofNat 64 epc, saved := w.saved.map fun k => { k with v := k.v.set 0 (some (Vector.replicate 32 0)) }, floor := owed })
    (inHandler (onBlock (fun b => { b with halt := some 0, frozen := true }) st))
def windowSt (now : Nat) : State := { onWave (fun w => { w with window := some { opened := 0, report := rep0, cmask := 1 } }) st with now := now }
theorem witness_Handlers :
    (∀ f ∈ [true, false], let s := pendingSt f;
      match tget s.blocks 0 with
      | some b => b.firstPending = some 0 ∧ (tget b.waves 0).bind (·.pending) = some rep0 ∧ b.halt.isSome = true ∧ b.handling = false ∧ b.reported = false ∧
          b.res = .resident ∧ s.resultsDue b 0 = false ∧ b.frozen = f ∧ s.shadowRoom 0 0 ((tget b.waves 0).map Wave.footprint).get! 1 = true ∧ s.traces b = false ∧
          ∀ p ∈ b.waves, p.2.saved = none
      | none => False) ∧
    Meets (sreg [(1, 0xFFFFFFFF)] st) (.cclr 1) (fun _ => true) ∧
    (Meets st .tret (fun c => c.w0.saved.isNone) ∧ Meets (tretSt 0x10002 64) .tret (fun c => c.w0.saved.isSome && decide (c.w0.epc.toNat % 4 ≠ 0)) ∧
      Meets (tretSt 0x10004 64) .tret (fun c => match c.w0.saved with
        | some k => decide (c.w0.epc.toNat % 4 = 0 ∧ mapFootprint k.v k.m = 1 ∧ c.w0.floor = 64 ∧ c.r.slot ≠ 16 ∧ c.b.swap = false ∧
            c.b.waves.filter (fun p => p.2.pending.isSome) = [(c.s.cur.slot, c.w0)]) && !c.s.outstanding c.core 0 0
        | none => false) ∧
      Meets (onCore (fun k => { k with pool := Vector.replicate 4 0 }) (tretSt 0x10004 0)) .tret (fun c => match c.w0.saved with
        | some k => decide (c.w0.epc.toNat % 4 = 0 ∧ ¬ (mapFootprint k.v k.m ≤ c.w0.floor ∨
            mapFootprint k.v k.m - c.w0.floor + c.s.owed c.core c.quad c.s.cur ≤ c.s.remainder c.core c.quad c.s.cur.blk c.s.cur.slot)) && !c.s.outstanding c.core 0 0
        | none => false)) ∧
    (((windowSt 7).find me).map (fun x => x.2.1.window.isSome) = some true ∧ (windowSt 7).now = 7 ∧ (windowSt 8).now = 8) ∧
    (st.find me).map (fun x => st.ready x.1 me x.2.1 x.2.2) = some true ∧
    ((tget (pendingSt true).blocks 0).map fun b => (b.swap, (b.level.map (·.committing)).getD false)) = some (false, false) := by
  refine ⟨?_, meets (by decide +kernel), (by and_intros <;> exact meets (by decide +kernel)), by decide +kernel, by decide +kernel, by decide +kernel⟩
  intro f _
  cases f <;> (and_intros <;> decide +kernel)

def debugged (f : Debug → Debug) (s : State) : State := onCore (fun k => { k with dbg := f k.dbg }) s
def dbrkMeets (s : State) (x : Nat) (P : Ctx → Dword → Bool) : Prop := Meets (sreg [(1, x)] s) (.dbrk 2 1) fun c => P c (c.rs 1)
def comp0 (blk : Nat) : Option Comparator := some { blk := blk, sreg := false, reg := 0, all := false, cc := 0, wmask := 0, imm := 0 }
def armed (blk : Nat) : State := onCore (fun k => { k with comps := Vector.replicate 4 (comp0 blk) }) (debugged (fun d => { d with tenant := true }) st)
def dbad (x : Dword) : Bool := x.getLsbD 2 && (x.getLsbD 3 && decide (31 < x.toNat / 16 % 64) || decide (6 ≤ (x.extractLsb' 11 4).toNat % 8))
def hintMeets (hs : List Instr) (i : Instr) (fits : Bool) : Bool :=
  isHint i && match (hinted hs st).issuer i with
    | some c => (fieldsOk i && decide (c.e.hints.length < 3) &&
        decide ((c.e.hints.filter fun h => hintKind h = hintKind i).length < (if hintKind i = 0 then 2 else 1))) == fits
    | none => false
theorem witness_SystemInstructions :
    (hintMeets [] racq true = true ∧ hintMeets [racq] rel false = true ∧ hintMeets [.hsrc 0 false 2 true, .himm 0] (.himm 1) true = true ∧
      hintMeets [.hsrc 0 false 2 true, .himm 0, .himm 0] racq false = true ∧ hintMeets [.himm 0, .himm 0] (.himm 0) false = true) ∧
    (Meets st (.resv 1) (fun c => decide (c.b.isLevel = false)) ∧ Meets (onBlock (fun b => { b with task := true }) (levelled st)) (.resv 1) (fun c => decide (c.b.task = true)) ∧
      Meets (levelled st) (.resv 1) (fun c => decide (c.b.isLevel = true ∧ c.b.task = false))) ∧
    (Meets st .lvq (fun c => decide (c.level = false)) ∧ Meets st .lvqSeg (fun c => decide (c.level = false)) ∧ Meets (levelled st) .lvq (fun c => c.level) ∧
      Meets (levelled st) .lvqSeg (fun c => c.level)) ∧
    Meets st (.mark 1 2 3) (fun _ => true) ∧
    (Meets st (.hctr 2 1) (fun c => decide ((c.s.core c.core).dbg.hctlWr = false)) ∧
      Meets (sreg [(1, 96)] (debugged (fun d => { d with hctlWr := true }) st)) (.hctr 2 1) (fun c => (c.s.core c.core).dbg.hctlWr &&
        decide (6 ≤ (c.rs 1).toNat / 16 % 8)) ∧
      Meets (sreg [(1, 95)] (debugged (fun d => { d with hctlWr := true }) st)) (.hctr 2 1) (fun c => (c.s.core c.core).dbg.hctlWr &&
        decide ((c.rs 1).toNat / 16 % 8 < 6))) ∧
    (dbrkMeets st 4 (fun c _ => !(c.s.core c.core).dbg.tenant) ∧ dbrkMeets (armed 0) (12 + 32 * 16) (fun c x => (c.s.core c.core).dbg.tenant && dbad x) ∧
      dbrkMeets (armed 0) (4 + 6 * 2 ^ 11) (fun _ x => dbad x) ∧ dbrkMeets (armed 1) 4 (fun c x => !dbad x && decide ((c.s.core c.core).comps[0] = comp0 1)) ∧
      dbrkMeets (armed 0) (12 + 31 * 16 + 5 * 2 ^ 11) (fun c x => !dbad x && decide ((c.s.core c.core).comps[0] = comp0 0))) :=
  ⟨by decide +kernel, ⟨meets (by decide +kernel), meets (by decide +kernel), meets (by decide +kernel)⟩, (by and_intros <;> exact meets (by decide +kernel)),
    meets (by decide +kernel), ⟨meets (by decide +kernel), meets (by decide +kernel), meets (by decide +kernel)⟩, by and_intros <;> exact meets (by decide +kernel)⟩

/-! ### Hypotheses met: waits, translation, requests in flight -/

def woken (s : State) (w : Wait) (P : Block → Bool) : Bool := match s.find me with
  | some (b, _, e) => decide (b.res = .resident ∧ b.isLevel = false ∧ e.wait = some w) && P b
  | none => false
def napping (now : Nat) : State := { onEnt (fun e => { e with napEnd := 8 }) st with now := now }
/-- the core's L1 holds the line of a ring header with another value -/
def lineSeen (v : Nat) (s : State) : State := onCore (fun k => { k with l1d := [(0x400000 / 128, { bytes := leBytes v 128, valid := 2 ^ 128 - 1, dirty := 0 })] }) s
def wanting (n : Nat) : State := onWave (fun w => { w with floor := 0 }) (onCore (fun k => { k with pool := Vector.replicate 4 68 }) (waits (.regs n 0) st))
theorem witness_Wakes :
    (woken (waits (.tags 1 false) (three st)) (.tags 1 false) (fun b => decide (b.tgb &&& 1 = 1)) = true ∧
      woken (waits (.tags 5 true) (three st)) (.tags 5 true) (fun b => decide (b.tgb &&& 5 ≠ 0)) = true ∧
      woken (waits (.hit 0) (three st)) (.hit 0) (fun b => (b.tags.getD 0 {}).ready) = true ∧
      woken (waits (.ring false 0 0 1 {}) (ringA 1 st)) (.ring false 0 0 1 {}) (fun b => decide (dwordOf (sliceBytes (ringA 1 st) b 3 0 8) ≠ 0)) = true ∧
      woken (waits (.ring true 0x400000 0 1 {}) (ringG 1 st)) (.ring true 0x400000 0 1 {}) (fun _ => decide (dwordOf (memRead (ringG 1 st).mem 0x400000 8) ≠ 0)) = true ∧
      (let s := lineSeen 1 (ringG 0 st);
        woken (waits (.ring true 0x400000 0 1 {}) s) (.ring true 0x400000 0 1 {}) (fun b => decide (dwordOf (memRead s.mem 0x400000 8) = 0 ∧
          dwordOf (s.l1View b.core 0x400000) ≠ 0)) = true) ∧
      woken (waits (.idle 5) (three st)) (.idle 5) (fun b => decide (∀ n, n < b.tags.length → (5 : Dword).getLsbD n = true → (b.tags.getD n {}).pending = 0)) = true ∧
      woken (waits (.gslot 0 0) (ringA 1 st)) (.gslot 0 0) (fun b => decide (dwordOf (sliceBytes (ringA 1 st) b 3 0 8) ≠ 0)) = true ∧
      woken (waits (.copySlot 0 false) (three st)) (.copySlot 0 false) (fun b => decide ((b.tags.getD 0 {}).pending < 255)) = true ∧
      woken (waits (.fold 0x400000 4096) st) (.fold 0x400000 4096) (fun _ => !st.foldDue 0x400000 4096) = true ∧
      (∀ w ∈ [Wait.graver, .c0, .route 3], woken (waits w st) w (fun b => st.admits b.core && (st.find me).any fun x => x.2.1.grav.queue.all (·.done)) = true) ∧
      (∀ w ∈ [Wait.drain, .arrive], woken (waits w st) w (fun b => !st.outstanding b.core 0 0) = true) ∧
      woken (waits (.batch 0) st) (.batch 0) (fun _ => decide (((st.find me).map fun x => x.2.1.grav.gbat - x.2.1.grav.last) = some 0)) = true ∧
      woken (waits (.copySlot 0 true) st) (.copySlot 0 true) (fun b => decide ((b.tags.getD 0 {}).pending < 255 ∧ (st.core 0).copies.length < 128)) = true ∧
      woken (waits .arm st) .arm (fun _ => (st.core 0).loads.isEmpty && (st.core 0).atoms.isEmpty && (st.core 0).stip.isEmpty) = true ∧ woken (waits .surrender st) .surrender (fun b => b.sur.isNone) = true) ∧
    (((napping 7).find me).map (fun x => x.2.2.napEnd) = some 8 ∧ (napping 7).now = 7 ∧ (napping 8).now = 8) ∧
    (((wanting 4).firstWaiter 0 0).map (fun x => (x.1, x.2.1.footprint, x.2.1.floor, x.2.2)) = some (me, 0, 0, 4) ∧ (wanting 4).remainder 0 0 0 0 = 4 ∧
      ((wanting 5).firstWaiter 0 0).map (fun x => (x.1, x.2.1.footprint, x.2.1.floor, x.2.2)) = some (me, 0, 0, 5) ∧ (wanting 5).remainder 0 0 0 0 = 4) ∧
    ((st.find me).map (fun x => (x.1.res, x.2.2.halted, x.2.2.loop, x.2.2.fetched)) = some (.resident, false, none, []) ∧
      (match (st.translate 0 0 0x10000 .fetch).1 with
        | .ok .. => true
        | _ => false) = true) ∧
    (let s0 := (waits .bar st).openSlot 0 0;
      s0.blocks.all (fun p => (p.2.here p.1).all fun x => !s0.ready p.2 x.1 x.2.1 x.2.2) = true) := by and_intros <;> decide +kernel

/-- an access that met a key; a plate whose fault buffer is full -/
def parked0 (by_ : Faulter) : Parked :=
  { by_ := by_, lanes := 1, asid := 0, va := 0x20000, kind := 0, acc := .load, level := 3, pte := 0, core := 0, who := 0, lid := 0 }
theorem tget_map (ns : List Nat) {α : Type} (x : α) (i : Nat) (h : i ∈ ns) : (tget (ns.map fun j => (j, x)) i).isSome = true := by
  induction ns with
  | nil => cases h
  | cons j ns ih =>
    simp only [List.map, tget]
    split
    · rfl
    · exact ih ((List.mem_cons.1 h).resolve_left (by assumption))
def fullPlate : Plate := { buffer := (List.range 4096).map fun j => (j, (parked0 (.wave me), 0)), waiting := [parked0 (.wave me)] }
theorem fullPlate_full : fullPlate.freeEntry = none := by
  refine List.find?_eq_none.2 fun i hi => ?_
  have h := tget_map (List.range 4096) (parked0 (.wave me), (0 : Nat)) i hi
  have hb : fullPlate.buffer = (List.range 4096).map fun j => (j, (parked0 (.wave me), 0)) := rfl
  rw [hb]
  cases ht : tget ((List.range 4096).map fun j => (j, (parked0 (.wave me), 0))) i with
  | none => rw [ht] at h; cases h
  | some v => simp
def plated (f : Plate → Plate) (s : State) : State := s.modPlate 0 f
def grouped (g : Nat) (by_ : Faulter) (s : State) : State :=
  plated (fun p => { p with groups := [(g, { first := parked0 by_ })], buffer := [(g, (parked0 by_, g))] }) s
def shootRun (purge : Bool) : ShootRun := { asid := 0, va := 0x20000, len := 4096, mod_ := 0, pa := 0x400000, purge := purge }
def shooting (purge : Bool) (s : State) : State := s.modHub fun h => h.setShoot 0 { h.shoot 0 with run := some (shootRun purge) }
def walkOk (w : Walk) (room : Nat := 0) : Bool := match w with
  | .ok _ path => decide (path.length + room ≤ 512)
  | .fault .. => false
theorem witness_Translation :
    (let s := mapped wholeGib st; s.needsWalk 0 0 0x20000 .store = true ∧ walkOk (walk s 0 0x20000 .store (some (corePlate 0))) = true ∧
      st.needsWalk 0 0 (2 ^ 57 - 1) .load = true ∧ walkOk (walk st 0 (2 ^ 57 - 1) .load (some (corePlate 0))) = false ∧
      walkOk (walk s 0 0x3FFFFFFF .fetch none) = true) ∧
    fullPlate.freeEntry = none ∧
    (let a := parked0 (.wave me);
      let p : Plate := { waiting := [a] };
      p.freeEntry = some 0 ∧ (grouped 0 (.wave me) st).hub.plates[0].freeEntry = some 1 ∧
        ((grouped 0 (.wave me) st).hub.plates[0].groups.find? (fun g => g.2.first.sameKey a)).isSome = true) ∧
    (let p := (plated (fun p => { p with frctl := 0x110, frprod := 0xFFFF }) (grouped 4095 (.wave me) st)).hub.plate 0;
      p.frctl.getLsbD 8 = true ∧ p.frctl.toNat % 32 = 16 ∧ (p.frprod - p.frcons).toNat < 2 ^ 16 ∧ (∀ q ∈ p.groups, tget p.groups q.1 = some q.2) ∧
        ∃ q ∈ p.groups, q.2.recorded = false) ∧
    (tget (st.hub.plate 0).groups 0 = none ∧ tget ((grouped 0 (.wave me) st).hub.plate 0).groups 0 ≠ none ∧
      (∀ e ∈ ((grouped 0 (.wave me) st).hub.plate 0).buffer, e.2.1.by_ = .wave me) ∧ ((grouped 0 (.wave me) st).find me).isSome = true ∧
      (grouped 0 (.wave me) st).haltFreed me = false ∧ (grouped 0 (.wave me) (pendingSt true)).haltFreed me = true) ∧
    ((st.hub.shoot 7).run = none ∧ (∀ p ∈ [true, false], ((shooting p st).hub.shoot 0).run = some (shootRun p)) ∧
      (shootRun true).ownsUp st.ownModule = true ∧ (∀ k ∈ (near st).cores, k.2.settledFor (shootRun true) = true) ∧
      (∀ p ∈ (near st).blocks, p.2.settledFor (shootRun true) = true) ∧ (near st).treqs = [] ∧
      ∀ p ∈ (grouped 0 (.wave me) st).blocks, (p.2.level.map (·.committing)).getD false = false) :=
  ⟨by decide +kernel, fullPlate_full, by and_intros <;> decide +kernel⟩

/-- loads, stores, atomic requests in flight -/
def load0 (lost : Bool) : State := waits .data (onCore (fun k => { k with loads :=
  [{ ent := me, vregs := [(1, 1, lanesOf fun _ => 7)], sreg := none, mreg := none, lost := lost }] }) st)
def store0 (pa : Nat) (arrived lost : Bool) : State := onCore (fun k => { k with stores :=
  [{ id := 0, ent := me, lane := 0, pa := pa, bytes := [1, 2], arrived := arrived, lost := lost }] }) st
def req1 (r : ReqState) (tries now : Nat) (dst : Option (BitVec 6)) : State := { onCore (fun k => { k with atoms :=
  [{ seq := 0, ent := me, lane := 31, pa := 0x400000, fop := 0, ty := 1, val := 1, cmp := 0, dst := dst, st := r, tries := tries }] }) (waits .data st) with now := now }
def reqIs (s : State) (P : AtomReq → Bool) : Bool := match s.req 0 0 with
  | some q => P q && (s.find q.ent).isSome && q.tagger.isNone
  | none => false
def keptSt (now : Nat) : State := { st with homes := [(0, { kept := [{ src := 0, seq := 0, val := 0, at_ := 0 }] })], now := now }
/-- an entity that waits for its core's rate, with bytes of C0 requests that count in the core's interval -/
def paced (used : Nat) : State := waits .c0 (onCore (fun k => { k with c0used := used }) st)
theorem witness_Transport :
    (∀ l ∈ [true, false], ((load0 l).find me).isSome = true ∧
      (((load0 l).core 0).loads.find? (fun p => p.ent = me)).map (fun p => (p.mreg.isSome, p.lost)) = some (false, l)) ∧
    ((store0 0x400000 false false).reachable 0x400000 = true ∧ (store0 (2 ^ 46) false false).reachable (2 ^ 46) = false ∧
      (∀ a ∈ [true, false], ((store0 0x400000 a false).core 0).stores.map (·.arrived) = [a]) ∧
      (drains (store0 0x400000 false false)).draining (moduleOf 0x400000) = true ∧ (store0 0x400000 false false).draining (moduleOf 0x400000) = false) ∧
    (∀ d ∈ [none, some (63 : BitVec 6)], reqIs (req1 (.answered 5) 0 0 d) (fun q => decide (q.dst = d ∧ q.lane < 32 ∧ typeSize q.ty = 4)) = true) ∧
    (reqIs (req1 .replay 0 0 none) (fun q => decide (q.st = .replay)) = true ∧
      (∀ t ∈ [0, 2, 3], ∀ n ∈ [8799, 8800], reqIs (req1 .sent t n none) (fun q => decide (q.tries = t ∧ q.sent = 0)) = true ∧ (req1 .sent t n none).now = n)) ∧
    ((∃ k ∈ ((keptSt 35200).home 0).kept, k.at_ + 35200 ≤ (keptSt 35200).now) ∧ (∀ k ∈ ((keptSt 35200).home 0).kept, k.src = 0 → k.seq = 0 → k.at_ + 35200 ≤ (keptSt 35200).now)) ∧
    (let s := waits .promote { st with promos := [(0, 6, me, 6)] };
      s.promos.any (fun p => p.1 = 0) = true ∧ (s.find me).map (fun x => x.2.2.wait) = some (some .promote)) ∧
    (∀ u ∈ [7999, 8000], ((paced u).find me).map (fun x => x.2.2.wait) = some (some .c0) ∧ ((paced u).core 0).c0used - (paced u).now / 1100 * 8000 = u ∧
      (tgetD (paced u).hub.xadm 0 8#16).toNat = 8) :=
  by and_intros <;> decide +kernel

/-! ### Hypotheses met: launches and residence -/

def headed (f : Launch → Launch) : State :=
  owned (onLaunch (fun l => f { l with ready := true, nextBlk := 0 }) { st with blocks := [] })
def ringSt (word : Nat) : State := { st with hub := { st.hub with parts := st.hub.parts.set 0 { ptcl := 1, rings := [(63, { word := BitVec.ofNat 64 word })] } } }
def checked (s : State) : Bool := match (launchChecks (s.launch 0) (s.part 0)).run.run s with
  | (.ok _, _) => true
  | _ => false
def overSt (done : Nat) (s : State) : State := onLaunch (fun l => { l with ready := true, nextBlk := 1, exited := 1, done := BitVec.ofNat 64 done }) { s with blocks := [] }
def hubTrans (t : Trans) : Nat := match t with
  | .ok .. => 0
  | .xlate => 1
  | .fault .. => 2
theorem witness_Launches :
    ((ringEnabled 0 = false ∧ tget ((ringSt 0).part 0).rings 63 = some { word := 0 }) ∧
      (let w : Dword := BitVec.ofNat 64 0x400010;
        ringEnabled w = true ∧ ringZ w = 0 ∧ leNat (memRead (ringSt 0x400010).mem (ringSlot w 0) 8) = ringPhase w 0 ∧ (ringSt 0x400010).hub.stage ≠ 4 ∧
          (tget ((ringSt 0x400010).part 0).rings 63).isSome = true ∧ leNat (memRead (ringG 1 st).mem (ringSlot w 0) 8) ≠ ringPhase w 0)) ∧
    ((st.part 0).ptcl = 0 ∧ ((owned st).part 0).ptcl ≠ 0 ∧ (tget st.launches 0).isSome = true ∧ (1 : Dword).toNat % 256 ≠ 0) ∧
    checked (onLaunch (fun l => { l with kdva := 0x301000, args := 0x20000 }) (described 1 (mapped wholeGib (owned st)))) = true ∧
    (let s := headed fun l => { l with kd := { l.kd with afp := 0x200040 } };
      s.isHead (s.launch 0) = true ∧ s.swapped 0 = false ∧ s.fitsSome 0 ((s.launch 0).kd.shape false) = false) ∧
    (let s := headed fun l => { l with kd := { l.kd with wpb := 2, afp := 64 } };
      s.isHead (s.launch 0) = true ∧ s.fitsSome 0 ((s.launch 0).kd.shape false) = true ∧ s.restoreFirst 0 2 = false ∧ s.taskFirst 11 2 = false ∧
        s.placedFirst (s.launch 0) = false ∧ 11 ∈ s.partCores 0 ∧ pinsMet [] 11 0 = true ∧ s.fits 11 3 ((s.launch 0).kd.shape false) = true) ∧
    ((overSt 0 st).launchOver 0 = true ∧ ((overSt 0x20000 (mapped wholeGib st)).launchOver 0 = true ∧
        hubTrans ((overSt 0x20000 (mapped wholeGib st)).translateHub 0 0x20000 .engineWrite).1 = 0) ∧
      (let d : Nat := 2 ^ 57; (overSt d st).launchOver 0 = true ∧ hubTrans ((overSt d st).translateHub 0 (BitVec.ofNat 64 d) .engineWrite).1 = 1)) ∧
    ((tget st.blocks 0).map (fun b => (b.halt, b.reported)) = some (none, false) ∧ (tget (pendingSt true).blocks 0).map (·.halt.isSome) = some true ∧
      (st.launch 0).completed = false) :=
  by and_intros <;> decide +kernel

/-! ### Hypotheses met: residence and Level mode -/

def blockOf (s : State) (P : Block → Bool) : Bool := match tget s.blocks 0 with
  | some b => P b
  | none => false
def evictMeets (s : State) (blocked drained bySelection byDelay : Bool) : Bool := blockOf s fun b =>
  decide (b.res = .resident ∧ b.ended = false ∧ (s.part (s.launch b.launch).part).swBusy = false) && s.blockBlocked 0 b == blocked && s.drained 0 b == drained &&
    (!(blocked && drained) || s.shadowRoom b.core (s.launch b.launch).part (b.liveWaves.map fun p => p.2.footprint).sum b.liveWaves.length) &&
    (s.core b.core).selected.contains 0 == bySelection && (s.evictable 0 b && !s.evictedFirst 0 b) == byDelay
def delayed : State :=
  let s := owned (waits .bar (onBlock (fun b => { b with blockedSince := some 0 }) st))
  { s with now := 2200, launches := s.launches ++ [(1, { ready := true, kd := { afp := 0x200040 } })] }
def evictedSt (s : State) : State := onBlock (fun b => { b with res := .evicted 0 }) s
/-- two blocks in a quadrant, both in register wait -/
def stuck (now : Nat) : State :=
  let s := waits (.regs 4 0) (onCore (fun k => { k with stuckAt := Vector.replicate 4 (some 0) }) st)
  { s with blocks := s.blocks ++ s.blocks.map fun p => (1, { p.2 with placed := 1, restored := 1 }), now := now }
def stuckMeets (now : Nat) (due : Bool) : Bool :=
  let old := ((stuck now).waiters 0 0).filter fun x => x.2.1.slot ≠ 16
  match firstByKey (if old.isEmpty then (stuck now).waiters 0 0 else old) with
  | some (r, _, _) => decide (((stuck now).core 0).stuckAt[0] = some 0 ∧ r = me) && decide (now < 64) != due && (!due || ((stuck now).quadStuck 0 0 &&
      decide (((stuck now).core 0).freedAt[0] + 64 ≤ now) &&
      (stuck now).blocks.any fun p => decide (p.2.core = 0 ∧ p.1 ≠ r.blk ∧ p.2.res = .resident) && p.2.liveWaves.any fun x => p.2.quad x.1 = 0))
  | none => false
def migrates (s : State) (held : Bool) : Bool := blockOf s fun b => b.isEvicted && s.heldToCore 0 b == held &&
  (held || (decide (1 ∈ s.partCores 0) && pinsMet (s.launch 0).cohorts 1 b.blk.toNat && !s.coreTakes b && s.fits 1 0 b.savedShape))
def queued : State := evictedSt (owned (inShard false { st with hub := { st.hub with parts := st.hub.parts.set 0 { ptcl := 1, mig := 1 } } }))
def forwarding (now : Nat) : State := { onCore (fun k => { k with forwards := [{ blk := 7, dest := 1, since := 0 }], loads :=
  [{ ent := { me with blk := 7 }, vregs := [], sreg := none, mreg := none }] }) st with now := now }
theorem witness_Residence :
    ((let s := { st with hub := { st.hub with parts := st.hub.parts.set 0 { ptcl := 1, swBusy := true } } }
      blockOf s fun b => decide (b.res = .resident ∧ b.ended = false) && (s.part (s.launch b.launch).part).swBusy) = true ∧
      evictMeets st false true false false = true ∧ evictMeets (busy (waits .bar st)) true false false false = true ∧
      evictMeets (waits .bar (onCore (fun k => { k with selected := [0] }) st)) true true true false = true ∧ evictMeets delayed true true false true = true) ∧
    (stuckMeets 63 false = true ∧ stuckMeets 64 true = true) ∧
    (let s := evictedSt st;
      blockOf s (fun b => b.isEvicted && !s.swapped 0 && s.restorable 0 b && s.restoreFits b 0 && !s.restoredFirst 0 b && b.sur.isNone) = true) ∧
    (migrates (evictedSt (inFlight st)) true = true ∧ migrates (evictedSt (owned (onCore (fun k => { k with inService := false }) st))) false = true ∧
      (let s := { queued with hub := { queued.hub with parts := queued.hub.parts.set 0 { ptcl := 1, mig := 1 } } }
       (s.part 0).mig < s.queuedWork 0)) ∧
    (((forwarding 70399).core 0).forwards.find? (fun f => f.blk = 7)).map (fun f => (f.dest, f.since)) = some (1, 0) ∧
    (((forwarding 70400).core 0).loads.find? (fun p => p.ent.blk = 7)).isSome = true ∧ (forwarding 70400).treqs = [] ∧
    ((∀ p ∈ st.blocks, p.2.isEvicted = false) ∧ (st.core 5).inService = true ∧ (∀ p ∈ st.blocks, p.2.core = 5 → p.2.ended = true) ∧
      (∃ p ∈ st.blocks, p.2.core = 0 ∧ p.2.ended = false) ∧ (st.core 0).pool[0] - 1536 ≤ st.remainder 0 0 st.nextBlock 0 ∧ 1536 % 64 = 0 ∧
      (let s := onWave (fun w => { w with floor := 1984 }) st; s.remainder 0 0 s.nextBlock 0 < (s.core 0).pool[0] - 1984)) := by
  (and_intros <;> decide +kernel)

def lv0 : BlockLevel := { index := 0, open_ := { n := 0 } }
/-- a block at its quantum's end: its waves' held effects, its level state -/
def atEnd (lv : BlockLevel) (held : List Held) : State :=
  onEnt (fun e => { e with qended := true, qcount := 4096, held := held.map fun h => ((0x10000, 0), h) }) (onBlock (fun b => { b with level := some lv }) (levelled st))
/-- how an access of the tests came to its address -/
def via0 : Via := { asid := 0, va := 0x20000 }
def bigStage : BlockLevel := { lv0 with open_ := { n := 0, entries := List.replicate 65536 (.store 0x400000 [1] via0 me 0) } }
theorem bigStage_full : bigStage.open_.size = 65536 := by
  have h : ∀ n, ((List.replicate n (StageEntry.store 0x400000 [1] via0 me 0)).map StageEntry.size).sum = n := by
    intro n
    induction n with
    | zero => rfl
    | succ n ih => rw [List.replicate_succ, List.map_cons, List.sum_cons, ih]; exact Nat.add_comm 1 n
  exact h 65536
theorem atEnd_one (lv : BlockLevel) (h : lv.committing = false) (h' : lv.traps = []) : ∃ b w, tget (atEnd lv [.store 0x400000 [1] via0 0]).blocks 0 = some b ∧ AtBoundary b lv ∧ b.waves = [(0, w)] ∧
    w.atEnd = true ∧ w.live ≠ 0 ∧ w.frag = none ∧ w.fragHeld = [] ∧ w.saved = none ∧ w.window = none ∧ w.parent.wait = none ∧
    w.parent.held = [((0x10000, 0), .store 0x400000 [1] via0 0)] :=
  ⟨_, _, rfl, ⟨rfl, rfl, rfl, nofun, rfl, nofun, h, h'⟩, rfl, rfl, (by decide : (0xFFFFFFFF#32 &&& ~~~0#32) ≠ 0), rfl, rfl, rfl, rfl, rfl, rfl⟩
def endsQuantum (n : Nat) : Bool := match (onEnt (fun e => { e with qcount := n }) (levelled st)).find me with
  | some (b, w, e) => b.isLevel && w.saved.isNone && e.wait.isNone && !e.qended && decide (b.qnt = 4096 ∧ e.qcount = n)
  | none => false
def atBoundary (lv : BlockLevel) (held : List Held) (P : State → Block → Bool) : Prop :=
  ∃ b, tget (atEnd lv held).blocks 0 = some b ∧ AtBoundary b lv ∧ P (atEnd lv held) b = true
theorem boundary {lv : BlockLevel} {held : List Held} {P : State → Block → Bool}
    (h : (match tget (atEnd lv held).blocks 0 with
      | some b => decide (b.level = some lv ∧ b.halt = none ∧ b.ended = false ∧ b.res ≠ .swapped ∧ b.reported = false ∧ b.waves ≠ [] ∧ lv.committing = false ∧ lv.traps = []) && P (atEnd lv held) b
      | none => false) = true) : atBoundary lv held P := by
  revert h
  unfold atBoundary
  cases tget (atEnd lv held).blocks 0 with
  | none => intro h; cases h
  | some b =>
    intro h
    simp only [Bool.and_eq_true, decide_eq_true_eq] at h
    exact ⟨b, rfl, ⟨h.1.1, h.1.2.1, h.1.2.2.1, h.1.2.2.2.1, h.1.2.2.2.2.1, h.1.2.2.2.2.2.1, h.1.2.2.2.2.2.2.1, h.1.2.2.2.2.2.2.2⟩, h.2⟩
def allKinds : List Held := [.breg 1 5, .buf 3 0 [1], .tid 0 none, .key [1], .store 0x400000 [1, 2] via0 0, .red 0 1 0x400000 1 via0 0, .record (List.replicate 32 0) 0,
  .tacq 0, .trel 0x400000 via0]
def closed (es : List StageEntry) : State :=
  onBlock (fun b => { b with level := some { lv0 with open_ := { n := 1 }, closed := [{ n := 0, entries := es }] } }) (levelled st)
def alone (s : State) : Bool := match s.lowestClosed 0 with
  | some (blk, _, lv, g) => decide (blk = 0) && s.keyClear 0 (g.n, lv.index)
  | none => false
/-- an instruction held whole, from the group at the pc, with what it read -/
def heldI (i : Instr) (regs : List (Nat × Nat) := []) (places : List (Nat × Nat × Via) := []) (hints : List Instr := []) : Held :=
  .instr i hints 0x10000 0xFFFFFFFF (regs.foldl (fun v x => v.setIfInBounds x.1 (BitVec.ofNat 64 x.2)) (Vector.replicate 32 0))
    (Vector.ofFn fun n => if n.val < 32 then some (lanesOf fun _ => 1) else none) (Vector.replicate 12 0) places
/-- the held effect of the one wave of a block at its boundary is performed, and answers as said -/
def heldMeets (f : State → State) (h : Held) (P : State → Block → Wave → Except Stop Ctx → Bool) : Prop :=
  ∃ b w x, OneHeld (f (atEnd lv0 [h])) 0 b lv0 0 w 0x10000 h ∧ heldEffect (f (atEnd lv0 [h])) me h = some x ∧ P (f (atEnd lv0 [h])) b w x = true
theorem held_one {f : State → State} {h : Held} {P : State → Block → Wave → Except Stop Ctx → Bool}
    (hh : (match tget (f (atEnd lv0 [h])).blocks 0 with
      | some b => match b.waves with
        | [(0, w)] =>
          decide (b.level = some lv0 ∧ b.halt = none ∧ b.ended = false ∧ b.res ≠ .swapped ∧ b.reported = false) &&
            decide (w.atEnd = true ∧ w.live ≠ 0 ∧ w.frag = none ∧ w.fragHeld = [] ∧ w.saved = none ∧ w.pending = none ∧ w.window = none ∧
              w.parent.wait = none) && decide (w.parent.held = [((0x10000, 0), h)]) && decide (∀ q ∈ ((f (atEnd lv0 [h])).core b.core).stip, q.ent.blk ≠ 0) &&
            match heldEffect (f (atEnd lv0 [h])) me h with
            | some x => P (f (atEnd lv0 [h])) b w x
            | none => false
        | _ => false
      | none => false) = true) : heldMeets f h P := by
  unfold heldMeets
  generalize f (atEnd lv0 [h]) = s at hh ⊢
  split at hh
  · next b hb =>
    split at hh
    · next w hw =>
      simp only [Bool.and_eq_true, decide_eq_true_eq] at hh
      obtain ⟨⟨⟨⟨h1, h2⟩, h3⟩, h4⟩, h5⟩ := hh
      split at h5
      · next x hx =>
        exact ⟨b, w, x, ⟨hb, ⟨h1.1, h1.2.1, h1.2.2.1, h1.2.2.2.1, h1.2.2.2.2, by rw [hw]; exact nofun, rfl, rfl⟩, ⟨rfl, rfl, rfl⟩, hw,
          ⟨by decide, h2⟩, ⟨_, h3⟩, h4⟩, hx, h5⟩
      · cases h5
    · cases hh
  · cases hh
/-- it is performed, with or without a result that the commit awaits -/
def performed (due : Bool) (s : State) (b : Block) (w : Wave) (x : Except Stop Ctx) : Bool :=
  match x with
  | .ok c => decide (c.w.live = w.live ∧ c.w.frag = none ∧ c.w.pending = none ∧ c.b.waves = b.waves) && c.b.level.isSome && !s.outstanding b.core 0 0 &&
      (if due then (c.s.core b.core).stip.any fun q => decide (q.ent.blk = 0 ∧ q.ent.slot ≠ 16) else (c.s.core b.core).stip.all fun q => decide (q.ent.blk ≠ 0))
  | _ => false
def stops (wait : Bool) (_ : State) (_ : Block) (_ : Wave) (x : Except Stop Ctx) : Bool :=
  match x with
  | .error (.wait _) | .error (.waitIn ..) => wait
  | .error (.trap _) | .error (.trapIn ..) => !wait
  | _ => false
def addI : Instr := .atom 3 4 0 1 false false noGuard
def resving (s : State) : State := vregs [3] (fun _ _ => 0) (onLaunch (fun l => { l with kd := { l.kd with resv := 4 } }) s)
/-- what a held instruction reads, and a property of it -/
def reads (s : State) (i : Instr) (P : Ctx → Bool) (regs : List (Nat × Nat) := []) (hints : List Instr := []) : Bool :=
  match heldI i regs [] hints with
  | .instr _ hints pc xm regs v k _ => match (s.commitCtx me i).map fun c => c.asIssued hints pc xm regs v k with
    | some c => c.b.isLevel && !s.outstanding c.core 0 0 && P c
    | none => false
  | _ => false
def stipReads (i : Instr) (regs : List (Nat × Nat) := []) (hints : List Instr := []) : Bool :=
  reads (vregs (List.range 16) (fun _ _ => 0) (levelled st)) i (fun c => (stippleForm i c).isSome && decide (c.g ≠ 0) &&
    ((stippleDest i).all fun n => ((c.w.v[n]?).getD none).isSome) && decide (0 < (c.rs (c.x.sc.getD 0)).toNat % 2 ^ 32 ∨ hints = [])) regs hints
theorem full_level : ∃ b w e, (onGrav (fun g => { g with out := List.replicate 32767 { num := 0, size := 1 } }) (levelled st)).find me = some (b, w, e) ∧
    b.isLevel = true ∧ 32767 ≤ w.grav.out.length := ⟨_, _, _, rfl, rfl, Nat.le_of_eq (List.length_replicate).symm⟩
def queues (header : Nat) (isFree : Bool) : Bool :=
  let ring : GravRing := { word := BitVec.ofNat 64 ringWord }
  let s := levelled (gravBase header st)
  match s.commitCtx me .grdy with
  | some c0 =>
    let h := dwordOf (c0.bufLoad 3 (ringBase ring.word + ring.prod.toNat % 2 ^ ringK ring.word * 128) 8)
    decide (ringZ ring.word = 1) && !s.outstanding 0 0 0 &&
      (decide (h.toNat = if ring.prod.toNat < 2 ^ ringK ring.word ∧ ring.wrap = false then 1 else 2 + (1 - ring.prod.toNat / 2 ^ ringK ring.word % 2)) == isFree)
  | none => false
def issuesHeld (s : State) (i : Instr) : Prop := Meets s i fun c => c.level && isHeldWhole i && match heldBody i [] with
  | some body => gets (body { begun i c with probe := true }) fun x =>
      decide (RoomIn c (freed i c) ((List.finRange 64).countP fun n => (freed i c).v[n].isNone && x.w.v[n].isSome))
  | none => false
def levelTags (i : Instr) (m : Nat) (waited : Bool) (P : Ctx → Dword → Bool) : Prop :=
  Meets (onEnt (fun e => { e with qwaited := waited }) (sreg [(1, m)] (levelled (three st)))) i fun c =>
    c.level && decide (c.e.qwaited = waited) && named c (c.rs 1) && P c (c.rs 1)
def idleOn (c : Ctx) (m : Dword) : Bool := decide (∀ n, n < c.b.tags.length → m.getLsbD n = true → (c.b.tags.getD n {}).pending = 0)
def levelTrel (s : State) (held again : Bool) : Prop := Meets (levelled (sreg [(2, 0x20000)] s)) (.trel 1 2) fun c => c.level &&
  gets ((begun (.trel 1 2) c).tileAt (c.rs 2)) fun x => (c.b.heldTile x.2.1).isSome == held && (c.heldSeen.any fun h => match h with
    | .trel p _ => decide (p = x.2.1)
    | _ => false) == again
def levelTacq (pending : Nat) : Prop :=
  Meets (hinted [.hsrc 0 false 5 true] (tagged [{ pending := pending }] (levelled (sreg [(2, 0x20000), (3, 0)] (tileSt []))))) (.tacq 1 2 0 0 false) fun c =>
    c.level && decide (0 < c.b.tags.length ∧ (c.b.tags.getD 0 {}).pending = pending) &&
      gets ((begun (.tacq 1 2 0 0 false) c).tileAt (c.rs 2)) fun x => decide (x.2.2.1 = .nclass ∧ (c.rs 2).toNat % (4096 * 4 ^ x.2.2.2.toNat) = 0 ∧ x.2.2.2 = 0 ∧
        (c.rs 3).toNat % 64 = 0 ∧ (c.rs 3).toNat + 4096 ≤ c.b.aslice.len)
theorem witness_LevelBoundaries_effects :
    (heldMeets id (heldI (.bsadd 5 6 3)) (performed false) ∧ heldMeets id (heldI (.bsxch 5 6 3)) (performed false) ∧
      heldMeets id (heldI .grdy) (performed false) ∧ heldMeets id (heldI (.gfence 1)) (performed false) ∧
      heldMeets (stippled 0 [vrec 0x4B 0 0]) (heldI (.vseal 0 1 false noGuard)) (performed true) ∧
      heldMeets (fun s => tagged [{ pending := 255 }] (copying 3 2 s)) (heldI (cpyI 0)) (stops true) ∧
      heldMeets (gravBase 0) (.gcmd { idx := 0, slot := 0, cmd := gravCmd 1 0 } { word := BitVec.ofNat 64 ringWord }) (stops true) ∧
      heldMeets (gravBase 1) (.gcmd { idx := 0, slot := 0, cmd := gravCmd 1 0 } { word := BitVec.ofNat 64 ringWord }) (performed false) ∧
      heldMeets id (heldI addI [] [(0, 0x400000, via0)]) (stops false) ∧
      heldMeets (fun s => onBlock (fun b => { b with level := some { lv0 with slots := [] } }) (resving s)) (heldI addI [] [(0, 0x400000, via0)]) (performed false)) ∧
    (((levelled (resving st)).find me).map (fun x => (x.1.isLevel, x.1.task, ((levelled (resving st)).launch x.1.launch).kd.resv, x.2.1.v[3].isSome)) =
        some (true, false, 4, true) ∧
      reserved 4 [] [(0x400000, 1)] = some ([0], [(0x400000, 1)]) ∧ reserved 4 [(0x400000, 3)] [(0x400000, 1)] = some ([3], [(0x400000, 4)]) ∧
      reserved 4 [(0x400000, 4)] [(0x400000, 1)] = none ∧ reserved 4 ((List.range 8).map fun j => (j, 0)) [(0x400000, 1)] = none) ∧
    (reads (tagged [{ pending := 254 }] (copying 3 2 (levelled st))) (cpyI 0) (fun c => cpyFits c 0 0 &&
        decide ((c.b.tags.getD 0 {}).pending < 255 ∧ (c.s.core c.core).copies.length < 128) && match copyOf c 0 0 (c.bufLoad 3 0 192) with
          | some x => !c.copyLeaves x
          | none => false) = true ∧
      (∀ any ∈ [false, true], reads (levelled (tree st)) (traceI false any) (fun c => decide (0 < c.b.tags.length ∧ (c.b.tags.getD 0 {}).pending = 0) &&
        isTree ((c.tidImage ((c.rs (c.x.sc.getD 0)).toNat % 256)).map tidOf)) [] [.hsrc 0 false 2 true] = true) ∧
      (∀ i ∈ vops noGuard, stipReads i = true) ∧ stipReads vgenI = true ∧ stipReads vrwtI [(2, 2 ^ 24)] [.hsrc 0 false 2 true] = true) ∧
    (queues 1 true = true ∧ queues 0 false = true ∧ ((levelled st).find me).map (fun x => (x.1.isLevel, x.2.1.grav.out.length)) = some (true, 0)) ∧
    (issuesHeld (levelled st) (.bsadd 5 6 3) ∧ issuesHeld (levelled (gravBase 1 st)) .grdy ∧ issuesHeld (levelled st) (.vget 0 1 false noGuard)) ∧
    ((levelTags (.tgwait 1) 3 false (fun c m => decide (c.b.tgb &&& m = m)) ∧ levelTags (.tgany 1) 4 true (fun c m => decide (m ≠ 0 ∧ c.b.tgb &&& m ≠ m)) ∧
      levelTags (.tgwait 1) 3 true (fun c m => decide (c.b.tgb &&& m = m ∧ c.b.tagFault m = some 4)) ∧
      levelTags (.tgany 1) 1 true (fun c m => decide (m ≠ 0 ∧ c.b.tgb &&& m = m ∧ c.b.tagFault m = none))) ∧
      (levelTags (.tgtest 2 1 true) 7 false idleOn ∧ levelTags (.tgtest 2 1 false) 7 true idleOn ∧
        Meets (onEnt (fun e => { e with qwaited := true }) (sreg [(1, 1)] (levelled (tagged [{ pending := 1 }] st)))) (.tgtest 2 1 true)
          (fun c => c.level && named c (c.rs 1) && !idleOn c (c.rs 1)) ∧
        levelTags (.tgfind 2 1) 7 false (fun _ _ => true)) ∧
      Meets (levelled (three st)) (.hitget 0 1 false noGuard) (fun c => c.level && decide (1 < c.b.tags.length ∧ c.e.qwaited = false)) ∧
      Meets (levelled (gravBase 1 st)) (.gwait 1) (fun c => c.level && decide (c.e.qwaited = false))) ∧
    (levelTrel (tileSt []) false false ∧ levelTrel (tileSt [entry .held]) true false ∧
      levelTrel (onEnt (fun e => { e with held := [((0x10000, 0), .trel 0x400000 via0)] }) (tileSt [entry .held])) true true) ∧
    (levelTacq 255 ∧ levelTacq 254) := by
  refine ⟨(by and_intros <;> exact held_one (by decide +kernel)), (by and_intros <;> decide +kernel), (by and_intros <;> decide +kernel),
    (by and_intros <;> decide +kernel), (by and_intros <;> exact meets (by decide +kernel)), (by and_intros <;> exact meets (by decide +kernel)),
    (by and_intros <;> exact meets (by decide +kernel)), by and_intros <;> exact meets (by decide +kernel)⟩
theorem witness_LevelBoundaries :
    (endsQuantum 4095 = true ∧ endsQuantum 4096 = true) ∧
    (∃ b, tget (levelled st).blocks 0 = some b ∧ AtBoundary b lv0 ∧ b.waves.any (fun p => !p.2.atEnd) = true) ∧
    (∀ seg ∈ [false, true], atBoundary { lv0 with seg := seg } allKinds fun s b =>
      let fin := (commitOrder 0 b).foldl (fun x y => committing x y.1 y.2) { block := b, state := s }
      (b.waves.all fun p => p.2.atEnd && decide (p.2.live ≠ 0 ∧ p.2.atCbar = none ∧ p.2.parent.wait ≠ some .bar)) &&
        ((commitOrder 0 b).all fun x => isPlain x.2) &&
        decide (GraverIdle s ∧ lv0.open_.size + (fin.entries.map StageEntry.size).sum ≤ 65536 ∧ (commitOrder 0 b).length = 9) &&
        (s.core b.core).stip.isEmpty) ∧
    ((atEnd bigStage [.store 0x400000 [1] via0 0]).core 0).stip = [] ∧
    (65536 ≤ bigStage.open_.size ∧ ∃ b w, tget (atEnd bigStage [.store 0x400000 [1] via0 0]).blocks 0 = some b ∧ AtBoundary b bigStage ∧ b.waves = [(0, w)] ∧
      w.atEnd = true ∧ w.live ≠ 0 ∧ w.frag = none ∧ w.fragHeld = [] ∧ w.saved = none ∧ w.window = none ∧
      w.parent.wait = none ∧ w.parent.held = [((0x10000, 0), .store 0x400000 [1] via0 0)]) ∧
    (∀ ready ∈ [false, true], atBoundary { lv0 with waitKey := some 0, ready := ready } [] fun s b =>
      b.sur.isNone && !s.recallsDue 0 lv0 0 && !b.atBar) ∧
    (alone (closed [.store 0x400000 [1] via0 me 0]) = true ∧ alone (closed [.record (List.replicate 32 0) 0]) = true ∧ (closed []).reachable 0x400000 = true) ∧
    (let s := closed []
     let t : State := { s with blocks := s.blocks ++ s.blocks.map fun p => (1, { p.2 with level := some { lv0 with index := 1 } }) }
     (t.lowestClosed 0).map (·.1) = some 0 ∧ t.keyClear 0 (0, 0) = true ∧ t.keyClear 0 (1, 0) = false) := by
  refine ⟨by decide +kernel, ⟨_, rfl, ⟨rfl, rfl, rfl, by decide +kernel, rfl, by decide +kernel, rfl, rfl⟩, by decide +kernel⟩, ?_, rfl, ?_, ?_, by decide +kernel, by decide +kernel⟩
  · intro x _
    cases x <;> exact boundary (by decide +kernel)
  · exact ⟨Nat.le_of_eq bigStage_full.symm, atEnd_one bigStage rfl rfl⟩
  · intro x _
    cases x <;> exact boundary (by decide +kernel)

/-! ### Hypotheses met: the hub, the board, the whole machine -/

def onHub (f : Hub → Hub) (s : State) : State := s.modHub f
def stipSt (en : Bool) : State := onHub (fun h => { h with stip := { h.stip with en := en } }) st
theorem witness_HubRegisters :
    (st.partHolds 0 = true ∧ st.partHolds 7 = false ∧ (∀ v ∈ [(1 + 2 ^ 10 + 6 * 2 ^ 23 : Nat), 1000 + 4096 * 2 ^ 10 + 16 * 2 ^ 23],
        1 ≤ natBits v 9 0 ∧ natBits v 9 0 ≤ 1000 ∧ 1 ≤ natBits v 22 10 ∧ natBits v 22 10 ≤ 4096 ∧ 6 ≤ natBits v 27 23 ∧ natBits v 27 23 ≤ 16)) ∧
    (st.hub.modidSet = false ∧ (onHub (fun h => { h with modidSet := true }) st).hub.modidSet = true) ∧
    (let s := owned State.reset;
      (∃ n, n < 8 ∧ n ≠ 1 ∧ (s.part n).ptcl &&& 1 ≠ 0) ∧ (∀ n, n < 8 → n ≠ 1 → (s.part n).ptcl &&& 2 = 0) ∧ s.partHolds 1 = false) ∧
    ((stipSt true).hub.stip.en = true ∧ (stipSt false).hub.stip.en = false ∧ natBits (1 + 9 * 16) 8 4 < 10 ∧ 28 < natBits (1 + 29 * 16) 8 4 ∧
      natBits (1 + 10 * 16) 8 4 = 10 ∧ natBits (1 + 28 * 16) 8 4 = 28) := by decide +kernel

def sampled (now : Nat) (word : Nat) (s : State) : State :=
  { debugged (fun d => { d with smpctl := 1 + 1024 * 2 ^ 8, smpring := BitVec.ofNat 64 word }) s with now := now }
def etched (now : Nat) : State := { onCore (fun k => { k with dbg := { k.dbg with etctl := 1 + 16 * 2 ^ 16, etring := 0x400010 }, etch := { buf := [6] } }) st with now := now }
theorem witness_Observation :
    ((sampled 1023 0 st).now < ((sampled 1023 0 st).core 0).smpLast + max 1024 1024 ∧ ((sampled 1024 0 st).core 0).dbg.smpctl.getLsbD 0 = true ∧
      natBits ((sampled 1024 0 st).core 0).dbg.smpctl.toNat 31 8 = 1024 ∧ ((sampled 1024 0 { st with blocks := [] }).candidates 0 0).isEmpty = true ∧
      (nextCandidate none ((sampled 1024 0x400010 st).candidates 0 0)).isSome = true ∧ ringEnabled (BitVec.ofNat 64 0x400010) = true ∧
      ringMayFill (BitVec.ofNat 64 0x400010) 0 false 0 = false ∧ ringMayFill (BitVec.ofNat 64 0x400010) 0 false (leNat (memRead (ringG 1 st).mem 0x400000 8)) = true) ∧
    (let s := onEnt (fun e => { e with issued := some (0, 0x10000) }) st; (s.find me).map (fun x => x.2.2.issued) = some (some (s.now, 0x10000))) ∧
    ((st.find me).map (fun x => (x.2.2.issued, stallClass x.1 x.2.1 x.2.2)) = some (none, 7)) ∧
    ((etched 15).now < ((etched 15).core 0).etch.ts + 16 ∧ ((etched 16).core 0).dbg.etctl.getLsbD 0 = true ∧ natBits ((etched 16).core 0).dbg.etctl.toNat 31 16 = 16 ∧
      ringEnabled ((etched 16).core 0).dbg.etring = true ∧ ((etched 16).core 0).etch.lost = 0 ∧ ((etched 16).core 0).etch.buf = [6] ∧
      1 + 6 ≤ ringSlotSize ((etched 16).core 0).dbg.etring - 8) := by decide +kernel

def attested (addr len : Nat) : State := onHub (fun h => { h with attq := [{ nonce := [], len := BitVec.ofNat 64 len, addr := BitVec.ofNat 64 addr }] }) st
def routed (ports : Nat) (up : Bool) : State := onHub (fun h => { h with xrte := [(3, { ports := BitVec.ofNat 12 ports })], ports := Vector.replicate 12 { en := true, up := up } }) st
def swapping (busy swapped in_ : Bool) (res : Residence) : State :=
  let s := onBlock (fun b => { b with res := res }) (owned st)
  { s with hub := { s.hub with parts := s.hub.parts.set 0 { s.hub.parts[0] with swBusy := busy, swapped := swapped, swIn := in_ } } }
def routeDrains (m : Nat) : State := st.modHub fun h => { h with xrte := [(m, { draining := true })] }
/-- a sequence number that the home unit of an address keeps; a checkpoint of the launch, without blocks and with its one block -/
def keptAt (n : BitVec 24) : State := { st with homes := [(homeOf 0x400000, { kept := [{ src := 5, seq := n, val := 9, at_ := 0 }] })] }
def saved (none_ : Bool) : State :=
  { st with checkpoints := [(0, { launch := st.launch 0, blocks := if none_ then [] else (st.blocksOf 0).map fun p => (p.1, p.2, [[], [], []]) })] }
theorem witness_Board :
    ((st.hub.stage ≠ 1 ∧ st.hub.stage ≠ 2) ∧ (∀ u ∈ [false, true], let b : Option (BitVec 4 × Dword × Dword) := if u then some (7, 0, 0) else none;
        (onHub (fun h => { h with stage := 1, fwBusy := b }) st).hub.stage = 1 ∧ (onHub (fun h => { h with stage := 1, fwBusy := b }) st).hub.fwBusy = b) ∧
      (onHub (fun h => { h with stage := 2, fwBusy := none }) st).hub.stage = 2 ∧ ((7 : BitVec 4).toNat < 8 ∧ 8 ≤ (8 : BitVec 4).toNat)) ∧
    (let w := 0x100000000000;
      (∀ x ∈ [(w, 7403), (w, 7402), (0x400000, 7403), (w + 8, 7403)], (attested x.1 x.2).hub.attq.length = 1) ∧
        inHostWindow w = true ∧ w < 2 ^ 52 ∧ w % 64 = 0 ∧ inHostWindow 0x400000 = false ∧ 184 + 7219 = 7403) ∧
    ((4200 ≤ st.hub.watts.toNat ∧ st.hub.watts.toNat < 4201) ∧ (st.part 0).swBusy = false ∧ (st.part 0).swapped = false ∧ (owned st).swapRoom 0 = true) ∧
    (st.inOwnDram 0x400000 2 = true ∧ (∀ h ∈ [0, dramSize - 2, dramSize, 2 * dramSize - 2], h < 2 * dramSize ∧ h % dramSize + 2 ≤ dramSize) ∧ (routed 4 true).usablePorts 3 = [2] ∧ (routed 4 false).usablePorts 3 = [] ∧ (tgetD (routed 4 true).hub.xrte 3 {}).draining = false ∧
      3 ≠ st.ownModule ∧ (routeDrains 3).ownModule ≠ 3 ∧ (tgetD (routeDrains 3).hub.xrte 3 {}).draining = true ∧
      st.inOwnDram 0x400000 (atomSize 1) = true ∧ st.keptSeq (homeOf 0x400000) 5 7 = none ∧ (keptAt 7).keptSeq (homeOf 0x400000) 5 7 = some 9 ∧
      (routed 4 true).portFor (3 * 512 / 512) 0x400000 = some 2) ∧
    ((st.launch 0).completed = false ∧ (st.launch 0).tasks = 0 ∧ (let s := evictedSt st; ((s.blocksOf 0).all fun p => s.quiet p.1 p.2) = true ∧ (s.blocksOf 0).length = 1) ∧
      (onLaunch (fun l => { l with completed := true }) st).launch 0 ≠ st.launch 0 ∧ ((onLaunch (fun l => { l with completed := true }) st).launch 0).completed = true ∧
      tget st.checkpoints 0 = none ∧ (tget (saved true).checkpoints 0).map (fun k => (k.launch, k.blocks.length)) = some (st.launch 0, 0) ∧
      (tget (saved false).checkpoints 0).map (fun k => k.blocks.map fun x => (x.1, x.2.2)) = some [(0, [[], [], []])] ∧
      ((saved false).launch 0).completed = false) ∧
    ((∀ r ∈ [Residence.resident], ((swapping true false false r).part 0).swBusy = true ∧ ((swapping false true false r).part 0).swapped = true ∧
        ((swapping false false false r).part 0).swBusy = false ∧ (swapping false false false r).swapRoom 0 = true) ∧
      (let s := onWave (fun w => { w with floor := 9000, v := w.v }) (swapping false false false .resident)
       let t := onBlock (fun b => { b with waves := (List.range 129).flatMap fun n => b.waves.map fun p => (n, p.2) }) s
       t.swapRoom 0 = false) ∧
      (let s := swapping true false false .resident; ∀ q ∈ s.blocks, s.resultsDue q.2 q.1 = false ∧ (q.2.level.map (·.committing)).getD false = false) ∧
      (let s := swapping true true true .swapped; blockOf s (fun b => decide (b.res = .swapped ∧ b.firstPending = none ∧ b.ended = false) && !b.handling && !b.reported &&
        s.wavesFit b.core b.q0 b.savedWaves (fun _ => 0)) = true ∧ s.blocks.length = 1)) :=
  by and_intros <;> decide +kernel

/-- a download under way, whose image is verified or not, of a length that the kind allows or not -/
theorem witness_Board_download (len : Bool) : ∃ (s : State) (d : BitVec 4 × Dword × Dword) (sig : Bool), s.hub.fwBusy = some d ∧
    sig = Config.verifies (sha3 (memRead s.mem d.2.1.toNat d.2.2.toNat)) (memRead s.mem d.2.1.toNat d.2.2.toNat) ∧ (len = true → 4627 ≤ d.2.2.toNat) :=
  ⟨onHub (fun h => { h with stage := 1, fwBusy := some (7, 0, 4627) }) st, _, _, rfl, rfl, fun _ => Nat.le_refl 4627⟩

/-- the slot of the chosen entity holds a word, or none -/
def running (w : Word) : State := State.reset.placeProgram (wordBytes w)
def fetches (s : State) (x : Word) : Bool :=
  let s0 := s.openSlot 0 0
  match s0.select 0 0 with
  | some r => match s0.find r with
    | some (b, w, e) =>
      let y := s0.breakpoint b r w e
      !y.1 && (match (y.2.fetchWord b r e e.pc).1 with
        | .word z => decide (z = x)
        | _ => false) && e.loop.isNone && (match (s0.translate b.core 0 e.pc .fetch).1 with
        | .ok pa _ _ => decide (pa % 4 = 0)
        | _ => false)
    | none => false
  | none => false
theorem witness_StepRunsDecoded :
    (running 0x12C00001).agenda = [] ∧ (running 0x12C00001).focus = (0, 0) ∧ fetches (running 0x12C00001) 0x12C00001 = true ∧
    fetches (running 0) 0 = true ∧ gives 0x12C00001 = some (.smovi 12 1) ∧ refuses 0 = some .reservedMajor ∧
    ({ st with blocks := [] } : State).agenda = [] ∧ ((({ st with blocks := [] } : State).openSlot 0 0).select 0 0).isNone = true ∧
    ({ st with agenda := [.event .isync] } : State).agenda = .event .isync :: [] ∧ (st.issuer .isync).isSome = true := by decide +kernel

theorem witness_RoundTrip : encode? (.smovi 31 0xFFFFF) = some 0x13FFFFFF ∧ gives 0x13FFFFFF = some (.smovi 31 0xFFFFF) := by decide +kernel

def goesOn (s : State) : Bool := match step s with
  | .next _ => true
  | _ => false
theorem witness_MemoryCanonical : Memory.wf (running 0x12C00001).mem = true ∧ goesOn (running 0x12C00001) = true := by decide +kernel

/-! ### Worked values of the spec -/

/-- SHA3-512 of no bytes begins a6 9f 73 cc (FIPS 202's own example values) -/
theorem test_sha3 : (sha3 []).take 4 = [0xa6, 0x9f, 0x73, 0xcc] ∧ (sha3 []).length = 64 := by decide +kernel

/-- the vertices of Table 18.5: y0 and y1 of the light path, x0 and x1 of the eye path, sealed -/
def tableVertex (power : Bool) (flags fwd rev : Nat) (parent : Option (Nat × Nat)) : Nat :=
  vertexRecord power 0 (flags * 2 ^ 208 + fwd * 2 ^ 224 + rev * 2 ^ 256 + ((parent.map (·.1)).getD 0xFFFFFFFF) * 2 ^ 320) (parent.map (·.2)) + 2 ^ 211
def tablePaths (power : Bool) : State :=
  let y0 := tableVertex power 1 0x3F000000 0 none
  let y1 := tableVertex power 1 0x3E800000 0x3F000000 (some (0, y0))
  let x0 := tableVertex power 4 0x3F800000 0 none
  let x1 := tableVertex power 0 0x3F000000 0x3F800000 (some (2, x0))
  onHub (fun h => { h with stip := { h.stip with heur := power } }) (stippled 0 [y0, y1, x0, x1] st)
/-- Table 18.5: `VCONN` under both heuristics, 1/4 and rne32(2/11) = 12,201,612 × 2^−26 (the table prints other digits for it, log 74), and
`VRWT` with m = 4 -/
theorem test_connection : ((tablePaths false).connect none [3, 1, 0x3F800000, 0x3E000000]).1 = [0x3E800000, 0] ∧
    ((tablePaths true).connect none [3, 1, 0x3F800000, 0x3E000000]).1 = [0x3E3A2E8C, 0] ∧
    ((tablePaths false).connect (some 0x40800000) [3, 1, 0x3F800000, 0x3E000000]).1 = [0x3E8D3DCB, 0] := by decide +kernel

/-- the worked walk of R85: indices 254, 72 and 418, and the physical address that a reader on each plate reaches -/
def walked (plate : Nat) : Option Nat :=
  let mem := memWrite (memWrite (memWrite [] (0x200000 + 8 * 254) (leBytes 0x201001 8)) (0x201000 + 8 * 72) (leBytes 0x202001 8)) (0x202000 + 8 * 418)
    (leBytes 0x200400600047 8)
  let s := onHub (fun h => { h with asroot := [(0, 0x200001)] }) { st with mem := mem }
  match walk s 0 0x7F1234567ABC .load (some plate) with
  | .ok t _ => match t.answer 0x7F1234567ABC with
    | .ok pa _ _ => some pa
    | _ => none
  | .fault .. => none
theorem test_walk : walked 1 = some 0x200400767ABC ∧ walked 0 = some 0x000400767ABC := by decide +kernel

/-- the worked `MLU` of R322: A = [[1, 2], [3, 4]] in lane 0 -/
def luSt : State := onWave (fun w => { w with m := w.m.set 1 { rows := 2, cols := 2, data := some (lanesOf fun _ => [0x3F800000, 0x40000000, 0x40400000, 0x40800000]) } }) st
def luOf (s : State) : Option (List Word × Option Word × Word) :=
  match exec (.mlu 2 1 5 noGuard) s with
  | .next t => (t.find me).map fun x => (elements x.2.1.m[2] 0, (x.2.1.v[5]).map fun v => v[0], x.2.1.mf[0])
  | _ => none
theorem test_mlu : luOf luSt = some ([0x40400000, 0x40800000, 0x3EAAAAAB, 0x3F2AAAAA], some 1, 0) := by decide +kernel

/-! ### A word of every instruction

Each word is written from its row's encoding: the fixed bits, and in its fields, from the left, 3, 5, 7, … (a single bit 1), with the
guard `(!k3)`; so a field that is read at a wrong place, or dropped, shows. -/

def guarded : Guard := { n := true, g := 3 }
def decodesTo (l : List (Word × Instr)) : Bool := l.all fun x => gives x.1 == some x.2
theorem test_words_control : decodesTo [
    (0x02D60007, .bra 3 5 true 7), (0x04300005, .call 3 5), (0x06018000, .jmps 3), (0x06328001, .calls 3 5), (0x06018002, .ret 3),
    (0x06000003, .exit), (0x06000004, .rejoin), (0x06000005, .isync), (0x06018006, .nap 3), (0x08000000, .bar), (0x08018001, .cbar 3),
    (0x0A180033, .post 3 true guarded)] = true := by decide +kernel
theorem test_words_scalar : decodesTo [
    (0x10329D00, .sadd 3 5 7 true), (0x10329D01, .ssub 3 5 7 true), (0x10329D02, .smul 3 5 7 true), (0x10329D83, .smulh 3 5 7 true true),
    (0x10329D04, .sand 3 5 7 true), (0x10329D05, .sor 3 5 7 true), (0x10329D06, .sxor 3 5 7 true), (0x10329D07, .sshl 3 5 7 true),
    (0x10329D08, .sshr 3 5 7 true), (0x10329D09, .ssar 3 5 7 true), (0x10329D8A, .smin 3 5 7 true true),
    (0x10329D8B, .smax 3 5 7 true true), (0x10329D9C, .scmp 3 5 7 true 9), (0x10329D0D, .ssel 3 5 7 true), (0x1032800E, .smov 3 5),
    (0x10329D9F, .slea 3 5 7 true 9), (0x12300005, .smovi 3 5), (0x143280E8, .sld 3 5 7 1), (0x140195E8, .sst 3 5 7 1),
    (0x16300205, .srd 3 true 5), (0x16018105, .swr 3 5)] = true := by decide +kernel
theorem test_words_integer : decodesTo [
    (0x2018A3F3, .vadd 3 5 7 true true guarded), (0x2218A3F3, .vsub 3 5 7 true true guarded), (0x2418A3F3, .vmul 3 5 7 true true guarded),
    (0x2618A3F3, .vmulh 3 5 7 true true guarded), (0x2818A3F3, .vand 3 5 7 true true guarded), (0x2A18A3F3, .vor 3 5 7 true true guarded),
    (0x2C18A3F3, .vxor 3 5 7 true true guarded), (0x2E18A3F3, .vshl 3 5 7 true true guarded), (0x3018A3F3, .vshr 3 5 7 true true guarded),
    (0x3218A3F3, .vsar 3 5 7 true true guarded), (0x3418A3F3, .vmin 3 5 7 true true guarded), (0x3618A3F3, .vmax 3 5 7 true true guarded),
    (0x3818A3F3, .vminn 3 5 7 true true guarded), (0x3A18A3F3, .vmaxn 3 5 7 true true guarded),
    (0x3C18A3F3, .vaddc 3 5 7 true true guarded), (0x3E18A3F3, .vsubb 3 5 7 true true guarded), (0x4018A0F3, .vaddi 3 5 7 guarded),
    (0x4218A0F3, .vshli 3 5 7 guarded), (0x4418A0F3, .vshri 3 5 7 guarded), (0x4618A0F3, .vsari 3 5 7 guarded),
    (0x4818A0F3, .vandi 3 5 7 guarded), (0x4A1800B3, .vmovi 3 5 guarded), (0x4C18A053, .vnot 3 5 true guarded),
    (0x4C18A0D3, .vneg 3 5 true guarded), (0x4C18A153, .vabs 3 5 true guarded), (0x4C18A1D3, .vclz 3 5 true guarded),
    (0x4C18A253, .vpopc 3 5 true guarded), (0x4C18A2D3, .vmov 3 5 true guarded), (0x4E18A073, .vbfe 3 5 true true guarded),
    (0x4E18A0D3, .vbfi 3 5 true guarded), (0x5018A3F3, .vsel 3 5 7 true true guarded), (0x5218A3F3, .vmad 3 5 7 true true guarded),
    (0x5418A733, .vlea 3 5 7 1 guarded)] = true := by decide +kernel
theorem test_words_predicate : decodesTo [
    (0x606A3933, .vcmp 3 5 7 9 guarded), (0x626A3933, .fcmp 3 5 7 9 guarded), (0x646AE033, .pand 3 5 7 1 guarded),
    (0x646AE133, .por 3 5 7 1 guarded), (0x646AE233, .pxor 3 5 7 1 guarded), (0x646A0313, .pnot 3 5 guarded),
    (0x64600433, .pset 3 true guarded), (0x6660A013, .ktov 3 5 guarded), (0x6660A113, .vtok 3 5 guarded), (0x6660A213, .ktos 3 5 guarded),
    (0x6660A313, .stok 3 5 guarded), (0x6660A413, .pcnt 3 5 guarded), (0x6600650F, .xmget 3), (0x6600660F, .xmset 3),
    (0x686A3813, .vmatch 3 5 7 guarded)] = true := by decide +kernel
theorem test_words_float : decodesTo [
    (0x7018A3F3, .fadd 3 5 7 true true guarded), (0x7218A3F3, .fsub 3 5 7 true true guarded), (0x7418A3F3, .fmul 3 5 7 true true guarded),
    (0x7618A3F3, .ffma 3 5 7 true true guarded), (0x7818A3F3, .fmin 3 5 7 true true guarded), (0x7A18A3F3, .fmax 3 5 7 true true guarded),
    (0x7C18A073, .fabs 3 5 true true guarded), (0x7C18A0F3, .fneg 3 5 true true guarded), (0x7C18A173, .frcp 3 5 true true guarded),
    (0x7C18A1F3, .frsq 3 5 true true guarded), (0x7C18A273, .fsqrt 3 5 true true guarded), (0x7C18A2D3, .fexp2 3 5 true guarded),
    (0x7C18A353, .flog2 3 5 true guarded), (0x7C18A3D3, .fsin 3 5 true guarded), (0x7C18A453, .fcos 3 5 true guarded),
    (0x7C18A4F3, .frnd 3 5 true true guarded), (0x7C18A573, .fclass 3 5 true true guarded), (0x7E18A3F3, .fdiv 3 5 7 true true guarded),
    (0x8018A3F3, .hadd 3 5 7 true true guarded), (0x8218A3F3, .hsub 3 5 7 true true guarded), (0x8418A3F3, .hmul 3 5 7 true true guarded),
    (0x8618A3F3, .hfma 3 5 7 true true guarded), (0x8818A3F3, .hmin 3 5 7 true true guarded), (0x8A18A3F3, .hmax 3 5 7 true true guarded),
    (0x8C18A3F3, .badd 3 5 7 true true guarded), (0x8E18A3F3, .bsub 3 5 7 true true guarded), (0x9018A3F3, .bmul 3 5 7 true true guarded),
    (0x9218A3F3, .bfma 3 5 7 true true guarded), (0x9418A3F3, .bmin 3 5 7 true true guarded), (0x9618A3F3, .bmax 3 5 7 true true guarded),
    (0x9818A3F3, .dadd 3 5 7 true true guarded), (0x9A18A3F3, .dsub 3 5 7 true true guarded), (0x9C18A3F3, .dmul 3 5 7 true true guarded),
    (0x9E18A3F3, .dfma 3 5 7 true true guarded)] = true := by decide +kernel
theorem test_words_conversion : decodesTo [
    (0xA018AEF3, .cvt 3 5 7 1 true true guarded), (0xA218A3F3, .cvts 3 5 7 true true guarded),
    (0xA418A3F3, .pack 3 5 7 true true guarded), (0xA618AED3, .unpk 3 5 7 1 true guarded), (0xA818A3F3, .rnd 3 5 7 true true guarded),
    (0xAA18BC73, .rslice 3 5 7 true true guarded), (0xAC6A3933, .rbern 3 5 7 9 guarded), (0xAE018000, .rkey 3)] = true := by decide +kernel
theorem test_words_lanes : decodesTo [
    (0xB018A3F3, .shfl 3 5 7 true true guarded), (0xB218A0F3, .shfx 3 5 7 guarded), (0xB418A0F3, .shfu 3 5 7 guarded),
    (0xB618A0F3, .shfd 3 5 7 guarded), (0xB818A733, .bcst 3 5 7 1 guarded), (0xBA18A733, .rdfl 3 5 7 true guarded),
    (0xBC18A3D3, .vred 3 5 7 true guarded), (0xBE18A3F3, .vscan 3 5 7 true true guarded)] = true := by decide +kernel
theorem test_words_memory : decodesTo [
    (0xC01EA733, .ld 3 true true 5 7 1 guarded), (0xC21EA733, .st 3 true true 5 7 1 guarded),
    (0xC41EA733, .lda 3 true true 5 7 1 guarded), (0xC61EA733, .sta 3 true true 5 7 1 guarded),
    (0xC81EA733, .ldw 3 true true 5 7 1 guarded), (0xCA1EA733, .stw 3 true true 5 7 1 guarded),
    (0xCC1EA733, .ldc 3 true true 5 7 1 guarded), (0xCE1EA733, .stc 3 true true 5 7 1 guarded), (0xD018A733, .ldt 3 5 7 true guarded),
    (0xD218A733, .stt 3 5 7 true guarded), (0xD41EA713, .pref 3 true true 5 7 guarded), (0xD41EA733, .cflush 3 true true 5 7 guarded),
    (0xD41EA753, .cinv 3 true true 5 7 guarded), (0xD6018005, .tidset 3 5), (0xD6018105, .tidget 3 5), (0xD6000203, .tidinv 3)] = true := by decide +kernel
theorem test_words_atomic : decodesTo [
    (0xD818BCF3, .atom 3 5 7 1 true true guarded), (0xDA18BCF3, .red 3 5 7 1 true true guarded),
    (0xDC18BCD3, .atoma 3 5 7 1 true guarded), (0xDE0001A8, .fence 3 5), (0xE0300050, .bsrd 3 5), (0xE0018150, .bswr 3 5),
    (0xE0328270, .bsxch 3 5 7), (0xE0328370, .bsadd 3 5 7)] = true := by decide +kernel
theorem test_words_engine : decodesTo [
    (0xE2300140, .cpy 3 5), (0xE23051D9, .cpyt 3 5 7 1 true), (0xE4018000, .tgwait 3), (0xE4018080, .tgany 3), (0xE4328100, .tgfind 3 5),
    (0xE4018180, .tgclr 3), (0xE4328240, .tgtest 3 5 true), (0xE6329C00, .ridx 3 5 7), (0xE60195DC, .rwait 3 5 true true 7),
    (0xE60196DC, .rflip 3 5 true true 7), (0xE8328EC0, .tacq 3 5 7 1 true), (0xE8328001, .trel 3 5), (0xE8000032, .cede 3),
    (0xE8328003, .tstat 3 5)] = true := by decide +kernel
theorem test_words_matrix : decodesTo [
    (0xEAEF0133, .mld 3 5 7 9 guarded), (0xEAEF0533, .mldA 3 5 7 9 guarded), (0xEA1808B3, .mst 3 5 guarded),
    (0xEA180CB3, .mstA 3 5 guarded), (0xEAE81013, .mmov 3 5 guarded), (0xEAEF1533, .mget 3 5 7 9 guarded),
    (0xEAEF1933, .mset 3 5 7 9 guarded), (0xEAEF1C13, .mzero 3 5 7 guarded), (0xEAEF2013, .mident 3 5 7 guarded),
    (0xEAE82413, .mtrn 3 5 guarded), (0xECEF0013, .madd 3 5 7 guarded), (0xECEF0413, .msub 3 5 7 guarded),
    (0xECE808F3, .mscl 3 5 7 guarded), (0xECEF0C13, .mmul 3 5 7 guarded), (0xECEF1013, .mmult 3 5 7 guarded),
    (0xECEF1433, .mfma 3 5 7 1 guarded), (0xEEE80013, .mchol 3 5 guarded), (0xEEE804F3, .mlu 3 5 7 guarded),
    (0xEEEF0833, .msolve 3 5 7 1 guarded), (0xEE030CB3, .mflg 3 5 guarded)] = true := by decide +kernel
theorem test_words_accelerator : decodesTo [
    (0xF0329C00, .gcmd 3 5 7), (0xF0000001, .grdy), (0xF0300002, .gfence 3), (0xF0018003, .gwait 3), (0xF0019404, .gwin 3 5),
    (0xF0328005, .gctr 3 5), (0xF0018006, .gclr 3), (0xF0301407, .gqry 3 5), (0xF218A073, .vapp 3 5 true true guarded),
    (0xF218A0D3, .vseal 3 5 true guarded), (0xF218A153, .vconn 3 5 true guarded), (0xF218A1D3, .vmerge 3 5 true guarded),
    (0xF218A253, .vrwt 3 5 true guarded), (0xF218A2D3, .vget 3 5 true guarded), (0xF218A353, .vref 3 5 true guarded),
    (0xF218A3D3, .vrel 3 5 true guarded), (0xF218A453, .vgen 3 5 true guarded), (0xF418A073, .trace 3 5 true true guarded),
    (0xF418A173, .traceAny 3 5 true true guarded), (0xF418A0D3, .hitget 3 5 true guarded)] = true := by decide +kernel
theorem test_words_system : decodesTo [
    (0xF6000C00, .trap 3), (0xF6000001, .tret), (0xF6018002, .cclr 3), (0xF6300003, .resv 3), (0xF6000004, .lvq), (0xF6000005, .lvqSeg),
    (0xF6329C06, .mark 3 5 7), (0xF6328007, .hctr 3 5), (0xF6328008, .dbrk 3 5), (0xFE000003, .himm 3), (0xFE3B8000, .hold 3 1 3),
    (0xFE41CB00, .hsrc 3 true 5 true), (0xFE6EB360, .hmod 3 true 1 3 1 11), (0xFE80C287, .hfree 3 5 7)] = true := by decide +kernel

end Sys2Proof.Tests
end

namespace Sys2Proof.Laws.RoundTrip

/-- The word that the encoder gives an instruction is read back as that instruction: a lemma for each constructor, in their order. -/
theorem decode_of_encode (i : Instr) : Statement i :=
  Instr.casesOn (motive := Statement) i
    bra call jmps calls ret exit rejoin isync nap bar cbar post sadd ssub smul smulh sand sor sxor sshl sshr ssar smin smax scmp ssel smov
    slea smovi sld sst srd swr vadd vsub vmul vmulh vand vor vxor vshl vshr vsar vmin vmax vminn vmaxn vaddc vsubb vaddi vshli vshri vsari
    vandi vmovi vnot vneg vabs vclz vpopc vmov vbfe vbfi vsel vmad vlea vcmp fcmp pand por pxor pnot pset ktov vtok ktos stok pcnt xmget
    xmset vmatch fadd fsub fmul ffma fmin fmax fabs fneg frcp frsq fsqrt fexp2 flog2 fsin fcos frnd fclass fdiv hadd hsub hmul hfma hmin
    hmax badd bsub bmul bfma bmin bmax dadd dsub dmul dfma cvt cvts pack unpk rnd rslice rbern rkey shfl shfx shfu shfd bcst rdfl vred vscan
    ld st lda sta ldw stw ldc stc ldt stt pref cflush cinv tidset tidget tidinv atom red atoma fence bsrd bswr bsxch bsadd cpy cpyt tgwait
    tgany tgfind tgclr tgtest ridx rwait rflip tacq trel cede tstat mld mldA mst mstA mmov mget mset mzero mident mtrn madd msub mscl mmul
    mmult mfma mchol mlu msolve mflg gcmd grdy gfence gwait gwin gctr gclr gqry vapp vseal vconn vmerge vrwt vget vref vrel vgen trace
    traceAny hitget trap tret cclr resv lvq lvqSeg mark hctr dbrk himm hold hsrc hmod hfree registerWrite freplyReplay freplyFatalXlate
    freplyFatalWprot freplyIgnored shootdownStart shootdownComplete firmwareDownload firmwareDownloadDone attestationRequest
    attestationReport partitionSwapOut partitionSwapIn partitionSwapDone hatchClear launchRingWordWrite modidWrite ptclWrite xrteWrite
    stippleEnable launchRecordTake blockPlacement launchCompletion blockEviction registerDeadlockBreak blockRestore blockMigration
    coreLeavesService forwardedArrival forwardingEntryExpiry taskRecordArrival overflowRecordEntry taskDispatch registerGrant
    wakeConditionMet barrierCompletion cohortBarrierCompletion napExpiry pageWalk faultBufferEntry faultRecordWrite tagCompletion loadReturn
    atomicRequestArrival atomicAcknowledgement replayAnswer retransmitTimeout linkCorrectableError sequenceWindowExpiry promotion
    tileRequestArrival recallArrival recallResend surrenderWaveStart surrenderBoundExpiry tileDelivery graverCommandStart
    graverCommandComplete graverCommandFault vertexRetirement traceCompletion handlerEntry fpWindowClose uncorrectableEccError
    quantumCountExpiry quantumBoundaryCommit notchSegmentRelease sample etchTs powerUp powerLimitThrottle thermalHalt failureRecovery
    fabricTrafficArrival hostCxlStore hostCxlRead nonInstructionEncoding storeArrivalAtHome storeAcknowledgement engineAccessError
    stippleResultReturn executiveEndsLaunch registerPoolRepair emptyIssueCycle instructionFetchReturn c0RequestAdmitted exvosLinkStateChange

/-- A word is the one its instruction's encoding gives, and only that one decodes to the instruction (R24, R27). -/
theorem encode_iff_decode (i : Instr) (w : Word) : encode? i = some w ↔ decode w = .ok i :=
  ⟨decode_of_encode i w, DecodeExact.decode_exact w i⟩

/-- The four bytes of a word hold the word (R24). -/
theorem bytesWord_wordBytes (w : Word) : bytesWord (wordBytes w) = w := by
  apply BitVec.eq_of_toNat_eq
  have := w.isLt
  simp only [bytesWord, wordBytes, List.foldr, BitVec.toNat_ofNat, BitVec.extractLsb'_toNat, Nat.shiftRight_eq_div_pow]
  omega

/-- Decoding at a word's bytes decodes the word and leaves the bytes after it. -/
theorem decodeBytes_wordBytes {w : Word} {i : Instr} (h : decode w = .ok i) (bs : List Byte) :
    decodeBytes (wordBytes w ++ bs) = .ok (i, bs) := by
  have htake : (wordBytes w ++ bs).take 4 = wordBytes w := rfl
  simp only [decodeBytes, htake, bytesWord_wordBytes, h]
  rfl

end Sys2Proof.Laws.RoundTrip

section
open Sys2Proof Sys2Proof.Laws.RoundTrip

/-- Settles O58: each constructor's word is read back, and each word that decodes is its instruction's. -/
theorem roundTrip : Obligations.RoundTrip :=
  ⟨encode_iff_decode, fun i w h => decodeBytes_wordBytes (decode_of_encode i w h)⟩

/-- Settles O57, by running the decoder on the words of the spec's examples. -/
theorem decodeWords : Obligations.DecodeWords := by
  unfold Obligations.DecodeWords
  and_intros
  all_goals rfl

end

namespace Sys2Proof.Machine

/-! ### What the caches and translation leave alone -/

/-- The machine without what its caches and memories may change: memory, home units, the cores, the cluster caches, the counts of
discarded traffic, and the free values taken. -/
def State.besideCaches (s : State) : State :=
  { s with mem := [], fresh := 0, cores := [], clu := [], homes := [], hub := { s.hub with xrte := [] } }

/-- The machine without what a translation, too, may change: the walkers are the hub's. -/
def State.besideMemory (s : State) : State := { s.besideCaches with hub := {} }

theorem State.besideMemory_congr {s t : State} (h : t.besideCaches = s.besideCaches) : t.besideMemory = s.besideMemory := by
  unfold State.besideMemory
  rw [h]

theorem State.blocks_of_besideMemory {s t : State} (h : t.besideMemory = s.besideMemory) : t.blocks = s.blocks :=
  show t.besideMemory.blocks = s.besideMemory.blocks by rw [h]

/-- A fold of operations that each keep a part of the state keeps it. -/
theorem foldl_keeps {α β γ : Type} {part : α → γ} {f : α → β → α} (h : ∀ s x, part (f s x) = part s) (l : List β) (s : α) :
    part (l.foldl f s) = part s := by
  induction l generalizing s with
  | nil => rfl
  | cons x l ih => rw [List.foldl_cons, ih, h]

theorem State.pick_state (s : State) (xs : List Nat) : (s.pick xs).2 = s ∨ (s.pick xs).2 = { s with fresh := s.fresh + 1 } := by
  unfold State.pick; split
  · exact .inl rfl
  · exact .inr rfl
@[simp] theorem State.pick_mem (s : State) (xs : List Nat) : (s.pick xs).2.mem = s.mem := by
  rcases s.pick_state xs with h | h <;> rw [h]
@[simp] theorem State.pick_besideCaches (s : State) (xs : List Nat) : (s.pick xs).2.besideCaches = s.besideCaches := by
  unfold State.pick; split <;> rfl

@[simp] theorem State.modCore_besideCaches (s : State) (c : Nat) (f : Core → Core) : (s.modCore c f).besideCaches = s.besideCaches := rfl
@[simp] theorem State.writeHome_besideCaches (s : State) (pa : Nat) (bs : List Byte) : (s.writeHome pa bs).besideCaches = s.besideCaches := rfl
@[simp] theorem State.countDrop_besideCaches (s : State) (m n : Nat) : (s.countDrop m n).besideCaches = s.besideCaches := rfl
@[simp] theorem State.charge_besideCaches (s : State) (core prio n : Nat) : (s.charge core prio n).besideCaches = s.besideCaches := by
  unfold State.charge; split <;> rfl
theorem State.clu_besideCaches (s : State) (t : Table Line) : { s with clu := t }.besideCaches = s.besideCaches := rfl

/-- The bytes of a mask written to their homes one by one. -/
theorem State.writeBytes_besideCaches (s : State) (p : Nat → Bool) (base : Nat) (bs : List Byte) (l : List Nat) :
    (l.foldl (fun s i => if p i then s.writeHome (base + i) [bs.getD i 0] else s) s).besideCaches = s.besideCaches :=
  foldl_keeps (part := State.besideCaches) (fun s i => by split <;> rfl) l s

@[simp] theorem State.cluClean_besideCaches (s : State) (core key : Nat) : (s.cluClean core key).besideCaches = s.besideCaches := by
  unfold State.cluClean
  split
  · rfl
  · dsimp only
    rw [State.clu_besideCaches]
    split
    · rw [State.writeBytes_besideCaches, State.charge_besideCaches]
    · split <;> simp

@[simp] theorem State.cluRoom_besideCaches (s : State) (core line : Nat) : (s.cluRoom core line).besideCaches = s.besideCaches := by
  unfold State.cluRoom
  split
  · rfl
  · dsimp only
    rw [State.clu_besideCaches, State.cluClean_besideCaches, State.pick_besideCaches]

@[simp] theorem State.cluFill_besideCaches (s : State) (core line : Nat) : (s.cluFill core line).besideCaches = s.besideCaches := by
  unfold State.cluFill
  split
  · rfl
  · dsimp only
    rw [State.clu_besideCaches, State.cluRoom_besideCaches]

@[simp] theorem State.l1iRoom_besideCaches (s : State) (core : Nat) : (s.l1iRoom core).besideCaches = s.besideCaches := by
  unfold State.l1iRoom; split
  · rfl
  · exact (State.modCore_besideCaches ..).trans (State.pick_besideCaches ..)

@[simp] theorem State.l1iRoom_mem (s : State) (core : Nat) : (s.l1iRoom core).mem = s.mem := by
  unfold State.l1iRoom; split
  · rfl
  · exact State.pick_mem ..

@[simp] theorem State.l1iFetch_besideCaches (s : State) (core pa : Nat) (st : LeafState) :
    (s.l1iFetch core pa st).2.besideCaches = s.besideCaches := by
  unfold State.l1iFetch
  split
  · rfl
  · split
    · rfl
    · exact (State.modCore_besideCaches ..).trans ((State.l1iRoom_besideCaches ..).trans (State.cluFill_besideCaches ..))

/-! ### Translation -/

@[simp] theorem State.modCore_besideMemory (s : State) (c : Nat) (f : Core → Core) : (s.modCore c f).besideMemory = s.besideMemory := rfl
@[simp] theorem State.modPlate_besideMemory (s : State) (p : Nat) (f : Plate → Plate) : (s.modPlate p f).besideMemory = s.besideMemory := rfl
@[simp] theorem State.pick_besideMemory (s : State) (xs : List Nat) : (s.pick xs).2.besideMemory = s.besideMemory :=
  State.besideMemory_congr (State.pick_besideCaches ..)

/-- A full set or walker gives up one of its entries. -/
@[simp] theorem State.pickIf_besideMemory (s : State) (p : Prop) [Decidable p] (n : Nat) (xs : List Nat) :
    (if p then (n, s) else s.pick xs).2.besideMemory = s.besideMemory := by
  split
  · rfl
  · exact State.pick_besideMemory ..

@[simp] theorem State.orLeaf_besideMemory (s : State) (leaf mask : Nat) : (s.orLeaf leaf mask).besideMemory = s.besideMemory := by
  unfold State.orLeaf
  dsimp only
  split <;> rfl

@[simp] theorem State.tlbInstall_besideMemory (s : State) (core : Nat) (t : TlbEntry) : (s.tlbInstall core t).besideMemory = s.besideMemory := by
  unfold State.tlbInstall
  dsimp only
  rw [State.modCore_besideMemory, State.pickIf_besideMemory]

@[simp] theorem State.walkerKeep_besideMemory (s : State) (plate : Nat) (path : List WalkEntry) :
    (s.walkerKeep plate path).besideMemory = s.besideMemory := by
  refine foldl_keeps (part := State.besideMemory) (fun s e => ?_) path s
  dsimp only
  split
  · rfl
  · rw [State.modPlate_besideMemory, State.pickIf_besideMemory]

@[simp] theorem State.walkInstall_besideMemory (s : State) (core : Nat) (asid : BitVec 9) (va : Nat) (acc : AccKind) :
    (s.walkInstall core asid va acc).2.besideMemory = s.besideMemory := by
  unfold State.walkInstall
  split
  · rfl
  · dsimp only
    rw [State.tlbInstall_besideMemory, State.orLeaf_besideMemory, State.walkerKeep_besideMemory]

@[simp] theorem State.translate_besideMemory (s : State) (core : Nat) (asid : BitVec 9) (va : Dword) (acc : AccKind) :
    (s.translate core asid va acc).2.besideMemory = s.besideMemory := by
  unfold State.translate
  dsimp only
  split
  · rfl
  · split
    · split
      · rfl
      · exact State.walkInstall_besideMemory ..
    · exact State.walkInstall_besideMemory ..

/-! ### Fetching a word -/

theorem State.fetchWord_besideMemory (s : State) (b : Block) (r : EntRef) (e : Entity) (pc : Dword) :
    (s.fetchWord b r e pc).2.besideMemory = s.besideMemory := by
  have htr := s.translate_besideMemory b.core (s.launch b.launch).asid pc .fetch
  unfold State.fetchWord
  dsimp only
  split
  · rfl
  · split
    all_goals rename_i heq; rw [heq] at htr
    · exact (State.besideMemory_congr (State.l1iFetch_besideCaches ..)).trans htr
    · exact htr
    · exact htr

/-- A word that the entity has prefetched, without a captured loop. -/
theorem State.fetchWord_fetched {s : State} {b : Block} {r : EntRef} {e : Entity} {pc : Dword} {x : Word} (hl : e.loop = none)
    (hf : (e.fetched.find? fun p => p.1 = pc) = some (pc, x)) : s.fetchWord b r e pc = (.word x, s) := by
  unfold State.fetchWord
  simp only [hl, hf, Option.bind_none, Option.map_some]

/-- A word that the entity has not prefetched comes through the instruction cache. -/
theorem State.fetchWord_cache {s s' : State} {b : Block} {r : EntRef} {e : Entity} {pc : Dword} {pa : Nat} {st : LeafState} {ts : BitVec 2}
    (hl : e.loop = none) (hf : (e.fetched.find? fun p => p.1 = pc) = none)
    (ht : s.translate b.core (s.launch b.launch).asid pc .fetch = (.ok pa st ts, s')) :
    s.fetchWord b r e pc = (.word (s'.l1iFetch b.core pa st).1, (s'.l1iFetch b.core pa st).2) := by
  unfold State.fetchWord
  simp only [hl, hf, Option.bind_none, Option.map_none, ht]

theorem State.l1iFetch_uncached (s : State) (core pa : Nat) : s.l1iFetch core pa .uncached = (wordOf (memRead s.mem pa 4), s) := rfl

theorem State.l1iFetch_hit {s : State} {core pa : Nat} {st : LeafState} {bs : List Byte} (hst : st ≠ .uncached)
    (h : tget (s.core core).l1i (pa / 128) = some bs) : s.l1iFetch core pa st = (wordOf ((bs.drop (pa % 128)).take 4), s) := by
  unfold State.l1iFetch lineOf
  rw [if_neg hst, h]

theorem State.l1iFetch_miss {s : State} {core pa : Nat} {st : LeafState} (hst : st ≠ .uncached)
    (h : tget (s.core core).l1i (pa / 128) = none) :
    s.l1iFetch core pa st = (wordOf (((s.below core (pa / 128)).drop (pa % 128)).take 4),
      ((s.cluFill core (pa / 128)).l1iRoom core).modCore core fun c => { c with l1i := tset c.l1i (pa / 128) (s.below core (pa / 128)) }) := by
  unfold State.l1iFetch lineOf
  rw [if_neg hst, h]

/-- Bytes out of the middle of a read of memory. -/
theorem memRead_drop_take (m : List Host.Cell) (a i n k : Nat) (h : i + k ≤ n) :
    ((memRead m a n).drop i).take k = memRead m (a + i) k := by
  induction i generalizing a n with
  | zero =>
    induction k generalizing a n with
    | zero => simp [memRead]
    | succ k ih =>
      obtain ⟨n, rfl⟩ : ∃ j, n = j + 1 := ⟨n - 1, by omega⟩
      have := ih (a + 1) n (by omega)
      simp_all [memRead]
  | succ i ih =>
    obtain ⟨n, rfl⟩ : ∃ j, n = j + 1 := ⟨n - 1, by omega⟩
    rw [memRead, List.drop_succ_cons, ih _ _ (by omega), Nat.add_assoc, Nat.add_comm 1]

/-- The bytes of a line whose home is near are those of memory. -/
theorem State.below_near {s : State} {core line : Nat} (h : s.remoteHome core (line * 128) = false) :
    s.below core line = memRead s.mem (line * 128) 128 := by
  unfold State.below; simp [h, State.readHome]

theorem State.cluRoom_room {s : State} {core : Nat} (h : (s.cluKeys core).length < cluLines) (line : Nat) : s.cluRoom core line = s := by
  unfold State.cluRoom; simp [h]

theorem State.cluFill_mem {s : State} {core : Nat} (h : (s.cluKeys core).length < cluLines) (line : Nat) : (s.cluFill core line).mem = s.mem := by
  unfold State.cluFill
  split
  · rfl
  · simp only [State.cluRoom_room h]

/-- What a miss of the instruction cache brings (R63). -/
theorem State.l1iFetch_missed {s : State} {core pa : Nat} {st : LeafState} (hst : st ≠ .uncached) (ha : pa % 4 = 0)
    (h : tget (s.core core).l1i (pa / 128) = none) :
    (s.remoteHome core (pa / 128 * 128) = false → (s.l1iFetch core pa st).1 = wordOf (memRead s.mem pa 4)) ∧
    tget ((s.l1iFetch core pa st).2.core core).l1i (pa / 128) ≠ none ∧
    ((s.cluKeys core).length < cluLines → (s.l1iFetch core pa st).2.mem = s.mem) := by
  rw [State.l1iFetch_miss hst h]
  refine ⟨fun hn => ?_, ?_, fun hr => ?_⟩
  · dsimp only
    rw [State.below_near hn, memRead_drop_take _ _ _ _ _ (by omega), show pa / 128 * 128 + pa % 128 = pa by omega]
  · rw [State.modCore_core, if_pos rfl]; simp
  · rw [State.modCore_mem, State.l1iRoom_mem, State.cluFill_mem hr]

/-! ### The word of an issue slot -/

/-- Reading the comparators takes free values and else changes nothing. -/
theorem State.settings_state (s : State) (core : Nat) : { (s.settings core).2 with fresh := 0 } = { s with fresh := 0 } := by
  refine foldl_keeps (part := fun x : List (Option Comparator) × State => { x.2 with fresh := 0 }) (fun x n => ?_) (List.range 4) ([], s)
  dsimp only
  split <;> rfl

/-- Comparators that do not match leave the machine but for free values. -/
theorem State.breakpoint_none {s s1 : State} {b : Block} {r : EntRef} {w : Wave} {e : Entity} (h : s.breakpoint b r w e = (false, s1)) :
    { s1 with fresh := 0 } = { s with fresh := 0 } := by
  unfold State.breakpoint at h
  split at h
  · cases h; rfl
  · have hs := s.settings_state b.core
    generalize s.settings b.core = x at h hs
    dsimp only at h
    split at h <;> cases h
    exact hs

@[simp] theorem State.modEntity_mem (s : State) (r : EntRef) (f : Entity → Entity) : (s.modEntity r f).mem = s.mem := by
  unfold State.modEntity State.modBlock; split <;> rfl

@[simp] theorem State.useSlot_mem (s : State) (core quad : Nat) (x : Issued) : (s.useSlot core quad x).mem = s.mem := by
  unfold State.useSlot; rw [State.modBlock_mem]; rfl

theorem Block.bregShow_wave (b : Block) (slot : Nat) (i : Instr) (ord n : Nat) : (b.bregShow slot i ord).wave n = b.wave n := by
  unfold Block.bregShow; split <;> rfl

/-- An entity of the machine changed. -/
theorem State.modEntity_blocks {s : State} {r : EntRef} {b : Block} {w : Wave} {e : Entity} (hb : tget s.blocks r.blk = some b)
    (hw : b.wave r.slot = some w) (he : w.entity r.frag = some e) (f : Entity → Entity) :
    tget (s.modEntity r f).blocks r.blk = some (b.setWave r.slot (w.setEntity r.frag (f e))) := by
  unfold State.modEntity State.modBlock
  simp [hb, hw, he]

/-- The state in which a chosen entity's word executes: what the entity captures, what its access shows, the slot that it takes. -/
def State.wordAt (s : State) (core quad : Nat) (r : EntRef) (w : Wave) (e : Entity) (x : Word) (i : Instr) : State :=
  { (((s.modEntity r fun e => { e.capture e.pc x with lastIssue := s.now, issued := some (s.now, e.resumeAt) }).modBlock r.blk
      fun b => b.bregShow r.slot i (modsOf e.hints).ord.toNat).useSlot core quad
        { ent := r, pc := e.pc, lanes := laneClasses w e i, last := e.lastIssue, issued := e.issued }) with cur := r }

/-- What `wordAt` leaves. -/
theorem State.wordAt_facts {s : State} {r : EntRef} {b : Block} {w : Wave} {e : Entity} (core quad : Nat) (x : Word) (i : Instr)
    (hb : tget s.blocks r.blk = some b) (hw : b.wave r.slot = some w) (he : w.entity r.frag = some e) :
    (s.wordAt core quad r w e x i).cur = r ∧ (s.wordAt core quad r w e x i).mem = s.mem ∧
    Claims.waveAt (s.wordAt core quad r w e x i) r =
      some (w.setEntity r.frag { e.capture e.pc x with lastIssue := s.now, issued := some (s.now, e.resumeAt) }) := by
  refine ⟨rfl, ?_, ?_⟩
  · show (State.useSlot _ _ _ _).mem = _
    simp
  · have hm := State.modEntity_blocks hb hw he fun e => { e.capture e.pc x with lastIssue := s.now, issued := some (s.now, e.resumeAt) }
    unfold State.wordAt Claims.waveAt State.useSlot
    simp only [State.modBlock_get, State.modCore_blocks, hm, if_true, Option.map_some, Option.bind_some]
    exact (Block.bregShow_wave ..).trans (Block.wave_setWave _ _ _ _ hw)

/-- The word that the entity issues: its comparators do not match and its fetch brings a word. -/
theorem State.issueWord_word {s s1 s2 : State} {core quad : Nat} {r : EntRef} {b : Block} {w : Wave} {e : Entity} {x : Word}
    (hb : tget s.blocks r.blk = some b) (hw : b.wave r.slot = some w) (he : w.entity r.frag = some e)
    (hbr : s.breakpoint b r w e = (false, s1)) (hf : s1.fetchWord b r e e.pc = (.word x, s2)) :
    s.issueWord core quad r = match decode x with
      | .ok i => .word (s2.wordAt core quad r w e x i) i
      | .error _ => .bad (s2.wordAt core quad r w e x .isync) x := by
  unfold State.issueWord
  simp only [hb, hw, he, hbr, hf]
  rfl

theorem slotStep_word {s : State} {core quad : Nat} {r : EntRef} (h : (s.openSlot core quad).select core quad = some r) :
    slotStep core quad s = match (s.openSlot core quad).issueWord core quad r with
      | .done t => .next t
      | .word t i => exec i t
      | .bad t w => execNonInstructionEncoding w t := by
  unfold slotStep State.issueSlot
  simp only [h, Option.map_some]
  split <;> simp_all

theorem slotStep_empty {s : State} {core quad : Nat} (h : (s.openSlot core quad).select core quad = none) :
    slotStep core quad s = execEmptyIssueCycle core quad s := by
  unfold slotStep State.issueSlot
  simp only [h, Option.map_none]

theorem step_slot {s : State} {core quad : Nat} (ha : s.agenda = []) (hf : s.focus = (core, quad)) : step s = slotStep core quad s := by
  unfold step; rw [ha, hf]

theorem step_event {s : State} {i : Instr} {rest : List Action} (ha : s.agenda = .event i :: rest) :
    step s = exec i { s with agenda := rest } := by
  unfold step; rw [ha]

end Sys2Proof.Machine

section
open Sys2Proof Sys2Proof.Machine Sys2Proof.Claims

/-- Settles O56: the slot's word is the fetched one, and fetching and choosing leave the blocks as they were. -/
theorem stepRunsDecoded : Obligations.StepRunsDecoded := by
  refine ⟨?word, ?fetch, fun s core quad ha hf hn => (step_slot ha hf).trans (slotStep_empty hn), fun s i rest ha => step_event ha, ?bad⟩
  case word =>
    intro s s1 s2 core quad r b w e x s0 e' ha hf hsel hb hw he hbr hfw
    have hs2 : tget s2.blocks r.blk = some b := by
      have h1 : s1.blocks = s0.blocks := show ({ s1 with fresh := 0 } : State).blocks = _ by rw [State.breakpoint_none hbr]
      have h2 := State.fetchWord_besideMemory s1 b r e e.pc
      rw [hfw] at h2
      rw [State.blocks_of_besideMemory h2, h1, hb]
    have hstep : step s = _ := (step_slot ha hf).trans (slotStep_word hsel)
    rw [State.issueWord_word hb hw he hbr hfw] at hstep
    refine ⟨fun i hi => ⟨_, ?_, State.wordAt_facts core quad x i hs2 hw he⟩, fun d hd => ⟨_, ?_, State.wordAt_facts core quad x .isync hs2 hw he⟩⟩
    · rw [hstep, hi]
    · rw [hstep, hd]
  case fetch =>
    intro s b r e pc hl
    refine ⟨fun x hx => State.fetchWord_fetched hl hx, fun pa st ts s' hn ht ha => ⟨_, State.fetchWord_cache hl hn ht, ?_, ?_, ?_⟩⟩
    · rintro rfl
      exact ⟨rfl, rfl⟩
    · intro bs hst hh
      rw [State.l1iFetch_hit hst hh]
      exact ⟨rfl, rfl⟩
    · exact fun hst hh => State.l1iFetch_missed hst ha hh
  case bad =>
    intro s word d c hd hc
    show execNonInstructionEncoding word s = _
    unfold execNonInstructionEncoding
    rw [hd, hc]
    rfl

end

namespace Sys2Proof.Claims
open Machine

/-! ### A wave of the issuing block replaced -/

/-- Where the issuing wave alone is replaced, everything elsewhere is as it was. -/
theorem elsewhere_setWave {s : State} {b : Block} (hb : tget s.blocks s.cur.blk = some b) (w : Wave) :
    Elsewhere s (s.setBlock s.cur.blk (b.setWave s.cur.slot w)) := by
  refine ⟨rfl, fun _ => rfl, fun _ => rfl, fun n hn => tget_tset_ne _ _ hn, fun b' hb' => ?_⟩
  obtain rfl : b = b' := Option.some.inj (hb.symm.trans hb')
  refine ⟨_, tget_tset_same .., ?_, fun n hn => Block.wave_setWave_ne _ _ hn⟩
  unfold Block.setWave; split <;> rfl

theorem waveAt_setWave {s : State} {r : EntRef} {b : Block} {w0 : Wave} (hw : b.wave r.slot = some w0) (w : Wave) :
    waveAt (s.setBlock r.blk (b.setWave r.slot w)) r = some w := by
  unfold waveAt
  rw [State.setBlock_blocks, tget_tset_same, Option.bind_some, Block.wave_setWave _ _ _ _ hw]

@[simp] theorem noEntities_setEntity (w : Wave) (f : Bool) (e : Entity) : noEntities (w.setEntity f e) = noEntities w := by cases f <;> rfl

/-! ### Hints (R34, R36–R42) -/

theorem exec_hint {i : Instr} (h : isHint i = true) (s : State) : exec i s = runHint i s := by
  cases i <;> first | rfl | cases h

theorem hintFits_iff (hs : List Instr) (i : Instr) : hintFits hs i = true ↔
    hs.length < 3 ∧ (hs.filter fun h => hintKind h = hintKind i).length < (if hintKind i = 0 then 2 else 1) := by
  simp only [hintFits, Bool.and_eq_true, decide_eq_true_eq]

/-- The entity once a hint has joined its group. -/
def joined (i : Instr) (c : Ctx) : Entity :=
  { c.e with gpc := if c.e.hints.isEmpty then c.e.pc else c.e.gpc, hints := c.e.hints ++ [i], pc := c.npc
             fetched := c.e.fetched.filter fun p => p.1 ≠ c.e.pc }

theorem runHint_joins {s : State} {i : Instr} {c : Ctx} (h : s.issuer i = some c) (hf : fieldsOk i = true)
    (hh : hintFits c.e.hints i = true) : runHint i s = .next { c with e := joined i c }.put := by
  unfold runHint
  rw [h]
  simp only [hf, hh]
  rfl

theorem runHint_traps {s : State} {i : Instr} {c : Ctx} (h : s.issuer i = some c) (hf : ¬ (fieldsOk i = true ∧ hintFits c.e.hints i = true)) :
    runHint i s = .next (trapped c 0) := by
  unfold runHint
  rw [h]
  dsimp only
  rw [if_neg (by simpa using hf)]
  rfl

/-- What a hint that joins its group leaves. -/
theorem hint_leaves {s : State} {i : Instr} {c : Ctx} (h : s.issuer i = some c) :
    ∃ w e, waveAt { c with e := joined i c }.put s.cur = some w ∧ w.entity s.cur.frag = some e ∧ e.hints = c.e.hints ++ [i] ∧
      e.gpc = (if c.e.hints = [] then c.e.pc else c.e.gpc) ∧ GoesOn { c.e with wait := none } { e with hints := [], wait := none } (c.e.pc + 4) ∧
      noEntities w = noEntities c.w0 ∧ w.entity (!s.cur.frag) = c.w0.entity (!s.cur.frag) ∧ Elsewhere s { c with e := joined i c }.put := by
  have hi := issuing h
  have hput : { c with e := joined i c }.put = s.setBlock s.cur.blk (c.b.setWave s.cur.slot (c.w0.setEntity s.cur.frag (joined i c))) := by
    simp only [Ctx.put, hi.s_, hi.r, hi.w]
  rw [hput]
  refine ⟨_, _, waveAt_setWave hi.w0 _, Wave.entity_setEntity .., rfl, ?_, ?_, noEntities_setEntity .., Wave.entity_setEntity_not ..,
    elsewhere_setWave hi.blk _⟩
  · simp only [joined, List.isEmpty_iff]
  · constructor <;> simp [joined, hi.npc]

/-! ### Instructions that write one scalar register, and what they may change beside it -/

/-- A body that writes one scalar register, over a machine changed outside the issuing block. -/
theorem retires_ws {s s1 : State} {i : Instr} {c : Ctx} {d : Reg5} {x : Dword} {body : Ctx → Except Stop Ctx} (h : Issues s i c)
    (hb : body (c.freeReads (shape i)) = .ok (({ c.freeReads (shape i) with s := s1 } : Ctx).ws d x)) (hs : tget s1.blocks s.cur.blk = some c.b)
    (hcur : s1.cur = s.cur) :
    ∃ t w, run i body s = .next t ∧ Retires s1 c t w ∧
      noEntities w = noEntities { freed i c with s := c.w0.s.set d.toNat x (by omega) } := by
  have hfp : (({ c.freeReads (shape i) with s := s1 } : Ctx).ws d x).w.footprint ≤ c.w0.footprint := by
    have := freed_footprint_le i c
    rwa [← freed_eq h] at this
  obtain ⟨t, w, h1, h2, h3⟩ := retires_of_body' h hb (Ctx.allot_within (Nat.le_trans hfp (Nat.le_add_right _ _)) (issuing h.1).sends) hs hcur
    (waveOnly_w _ _ rfl rfl)
  refine ⟨t, w, h1, h2, ?_⟩
  have hws : (c.freeReads (shape i)).w.s = c.w0.s := by simp [(issuing h.1).w]
  rw [h3, ← freed_eq h, ← hws]
  rfl

/-- A body that raises a cause: nothing of the instruction has happened. -/
theorem run_raises {s : State} {i : Instr} {c : Ctx} {n : Nat} {lanes : Option Mask} {body : Ctx → Except Stop Ctx} (h : Issues s i c)
    (hb : body (c.freeReads (shape i)) = raises n lanes) : run i body s = .next (trapped c n lanes) :=
  run_stop h.1 h.2 hb

theorem resv_traps {s : State} {d : Reg5} {c : Ctx} (h : Issues s (.resv d) c) (hl : c.b.isLevel = false ∨ c.b.task = true) :
    exec (.resv d) s = .next (trapped c 28) := by
  rw [exec_resv, execResv]
  refine run_raises h (if_pos ?_)
  rw [Ctx.freeReads_b]
  rcases hl with hl | hl
  · simp [Option.isSome_eq_false_iff.mp hl]
  · simp [hl]

theorem resv_retires {s : State} {d : Reg5} {c : Ctx} (h : Issues s (.resv d) c) (hl : c.b.isLevel = true) (ht : c.b.task = false) :
    ∃ t w, exec (.resv d) s = .next t ∧ Retires s c t w ∧ noEntities w = noEntities { freed (.resv d) c with
      s := c.w0.s.set d.toNat (BitVec.ofNat 64 (c.b.blk.toNat * c.launch.kd.resv)) (by omega) } := by
  have hi := issuing h.1
  obtain rfl := hi.s_
  rw [exec_resv, execResv]
  refine retires_ws h (if_neg ?_) hi.blk rfl
  rw [Ctx.freeReads_b]
  unfold Block.isLevel at hl
  simp [ht, Option.isSome_iff_ne_none.mp hl]

/-- `HCTR` (R416): its traps, and the counter that it reads. -/
theorem hctr_settled {s : State} {d a : Reg5} {c : Ctx} (h : Issues s (.hctr d a) c) :
    let sel := (c.rs a).toNat
    let k := s.core c.core
    (k.dbg.hctlWr = false → exec (.hctr d a) s = .next (trapped c 29)) ∧
    (k.dbg.hctlWr = true → 6 ≤ sel / 16 % 8 → exec (.hctr d a) s = .next (trapped c 2)) ∧
    (k.dbg.hctlWr = true → sel / 16 % 8 < 6 → ∃ t w, exec (.hctr d a) s = .next t ∧ Retires s c t w ∧
      noEntities w = noEntities { freed (.hctr d a) c with
        s := c.w0.s.set d.toNat ((tgetD k.hatch (if sel / 16 % 8 = 5 then 80 else 5 * (sel % 16) + sel / 16 % 8) 0#48).setWidth 64) (by omega) }) := by
  have hi := issuing h.1
  obtain rfl := hi.s_
  rw [exec_hctr, execHctr]
  refine ⟨fun hw => ?_, fun hw hc => ?_, fun hw hc => ?_⟩
  · exact run_raises h (if_pos hw)
  · exact run_raises h ((if_neg (ne_false_of_eq_true hw)).trans (if_pos hc))
  · exact retires_ws h ((if_neg (ne_false_of_eq_true hw)).trans (if_neg (Nat.not_le_of_lt hc))) hi.blk rfl

/-! ### `DBRK` (R417) -/

theorem dbrkStatus_tenant {c : Ctx} {k : Comparator} {arm : Bool} {cur : Option Comparator} (h : (c.s.core c.core).dbg.tenant = false) :
    dbrkStatus c k arm cur = 2 := if_pos h

/-- The status of a `DBRK` of a tenant's block whose register name has 6 bits. -/
theorem dbrkStatus_eq {c : Ctx} {k : Comparator} {arm : Bool} {cur : Option Comparator} (h : (c.s.core c.core).dbg.tenant = true)
    (hk : k.reg < 64) [Decidable (arm = true ∧ ((k.sreg = true ∧ 31 < k.reg) ∨ 6 ≤ k.cc.toNat % 8))]
    [Decidable (∃ y, cur = some y ∧ y.blk ≠ c.r.blk)] :
    dbrkStatus c k arm cur = if arm = true ∧ ((k.sreg = true ∧ 31 < k.reg) ∨ 6 ≤ k.cc.toNat % 8) then 3
      else if ∃ y, cur = some y ∧ y.blk ≠ c.r.blk then 1 else 0 := by
  unfold dbrkStatus
  rw [if_neg (by simp [h])]
  have hreg : ((if k.sreg then 31 else 63) < k.reg) ↔ (k.sreg = true ∧ 31 < k.reg) := by
    cases k.sreg
    · simpa using Nat.le_of_lt_succ hk
    · simp
  have hcur : (cur.isSome ∧ cur.map (·.blk) ≠ some c.r.blk) ↔ ∃ y, cur = some y ∧ y.blk ≠ c.r.blk := by cases cur <;> simp
  simp only [hreg, hcur]

/-- A `DBRK` that does not set its comparator answers why. -/
theorem dbrk_answers {s : State} {d a : Reg5} {c : Ctx} {st : Nat} (h : Issues s (.dbrk d a) c) (h0 : st ≠ 0)
    (hst : dbrkStatus c (comparatorOf c.r.blk (c.rs a)) ((c.rs a).getLsbD 2) (((s.core c.core).comps[(c.rs a).toNat % 4]?).getD none) = st) :
    ∃ t w, exec (.dbrk d a) s = .next t ∧ Retires s c t w ∧
      noEntities w = noEntities { freed (.dbrk d a) c with s := c.w0.s.set d.toNat (BitVec.ofNat 64 st) (by omega) } := by
  have hi := issuing h.1
  obtain rfl := hi.s_
  rw [exec_dbrk, execDbrk]
  refine retires_ws h (congrArg Except.ok ?_) hi.blk rfl
  change Ctx.ws (if dbrkStatus c _ _ _ = 0 then _ else _) d (BitVec.ofNat 64 (dbrkStatus c _ _ _)) = _
  erw [hst]
  rw [if_neg h0]
  rfl

/-- A `DBRK` that sets its comparator answers 0. -/
theorem dbrk_sets {s : State} {d a : Reg5} {c : Ctx} (h : Issues s (.dbrk d a) c)
    (hst : dbrkStatus c (comparatorOf c.r.blk (c.rs a)) ((c.rs a).getLsbD 2) (((s.core c.core).comps[(c.rs a).toNat % 4]?).getD none) = 0) :
    ∃ t w, exec (.dbrk d a) s = .next t ∧
      Retires (s.modCore c.core fun k =>
        { k with comps := k.comps.setIfInBounds ((c.rs a).toNat % 4) (if (c.rs a).getLsbD 2 then some (comparatorOf c.r.blk (c.rs a)) else none)
                 compsOld := k.compsOld.setIfInBounds ((c.rs a).toNat % 4) (s.now, ((s.core c.core).comps[(c.rs a).toNat % 4]?).getD none) }) c t w ∧
      noEntities w = noEntities { freed (.dbrk d a) c with s := c.w0.s.set d.toNat (BitVec.ofNat 64 0) (by omega) } := by
  have hi := issuing h.1
  obtain rfl := hi.s_
  rw [exec_dbrk, execDbrk]
  refine retires_ws h (congrArg Except.ok ?_) hi.blk rfl
  change Ctx.ws (if dbrkStatus c _ _ _ = 0 then _ else _) d (BitVec.ofNat 64 (dbrkStatus c _ _ _)) = _
  erw [hst]
  rw [if_pos rfl]
  rfl

/-! ### Words that leave packets, or end a quantum -/

/-- The entity as an instruction that retires leaves it: after packets no SYNC is due. -/
def retiredSync (c : Ctx) : Entity := { c.retired with sync := c.e.sync || (!c.pkts.isEmpty && c.s.traces c.b) }

/-- Retiring without flagged exceptions: the packets wait for the end of the cycle, and the entity's wave is put back. -/
theorem retire_noFx {c : Ctx} (hg : c.gone = false) (hf : c.fx = none) :
    c.retire = (c.s.etch c.r c.e.pc c.pkts (c.w0.frag.isNone && c.w.frag.isSome)).setBlock c.r.blk
      (c.counted.setWave c.r.slot (c.w.setEntity c.r.frag (retiredSync c))) := by
  unfold Ctx.retire
  simp only [hg, hf, Bool.false_eq_true, if_false]
  change Ctx.put { c with s := c.s.etch c.r c.e.pc c.pkts (c.w0.frag.isNone && c.w.frag.isSome), b := c.counted
                          w := c.w.setEntity c.r.frag (retiredSync c), e := retiredSync c } = _
  simp only [Ctx.put, Wave.setEntity_setEntity]

/-- The words that a surrender wave issues are no part of its block's Level state. -/
theorem counted_level (c : Ctx) : c.counted.level = c.b.level := by
  unfold Ctx.counted
  split
  · split <;> rfl
  · rfl

theorem etch_untraced {s : State} {r : EntRef} {b : Block} (hb : tget s.blocks r.blk = some b) (ht : s.traces b = false) (pc : Dword)
    (pkts : List (Nat → List Byte)) (starts : Bool) : s.etch r pc pkts starts = s := by
  unfold State.etch
  rw [hb]
  dsimp only
  split
  · rfl
  · simp [ht]

/-- The note of a free does not start or end a trace. -/
theorem noteFrees_traces (c : Ctx) (sh : Shape) (c1 : Ctx) (b : Block) : (c.noteFrees sh c1).s.traces b = c1.s.traces b := by
  have h := noteFrees_core c sh c1 b.core
  have hdbg : ((c.noteFrees sh c1).s.core b.core).dbg = (c1.s.core b.core).dbg := by simpa using congrArg Core.dbg h
  have hl : (c.noteFrees sh c1).s.launch b.launch = c1.s.launch b.launch := by
    unfold Ctx.noteFrees; split <;> rfl
  simp only [State.traces, hdbg, hl]

/-- What an instruction word without flagged exceptions comes to. -/
theorem run_noFx {s : State} {i : Instr} {c c1 : Ctx} {body : Ctx → Except Stop Ctx} (h : Issues s i c)
    (hb : body (c.freeReads (shape i)) = .ok c1) (ha : c.allot c1 = .ok c1) (hg : c1.gone = false) (hf : c1.fx = none) :
    run i body s = .next (((c.noteFrees (shape i) c1).s.etch c1.r c1.e.pc c1.pkts (c1.w0.frag.isNone && c1.w.frag.isSome)).setBlock c1.r.blk
      (c1.counted.setWave c1.r.slot (c1.w.setEntity c1.r.frag (retiredSync c1)))) := by
  have hret : { c1 with s := (c.noteFrees (shape i) c1).s }.retire = _ := retire_noFx hg hf
  have hsync : retiredSync { c1 with s := (c.noteFrees (shape i) c1).s } = retiredSync c1 := by
    simp only [retiredSync, noteFrees_traces]
    rfl
  rw [run_next h.1 h.2 hb ha, Ctx.noteFrees_eq, hret, hsync]
  rfl

/-- A body that only leaves packets. -/
theorem leaves_of_packets {s : State} {i : Instr} {c c1 : Ctx} {body : Ctx → Except Stop Ctx} (h : Issues s i c)
    (hb : body (c.freeReads (shape i)) = .ok c1) (h1 : WaveOnly { c.freeReads (shape i) with pkts := c1.pkts } c1)
    (hw : c1.w = (c.freeReads (shape i)).w) :
    ∃ t w e, run i body s = .next t ∧ Leaves s c t w e ∧ GoesOn c.e e (c.e.pc + 4) ∧ noEntities w = noEntities (freed i c) := by
  have hi := issuing h.1
  obtain rfl := hi.s_
  rw [freed_eq h] at hw
  have hfp : c1.w.footprint ≤ c.w0.footprint := hw ▸ freed_footprint_le i c
  have hs : c1.s = c.s := h1.s
  have hr : c1.r = c1.s.cur := by rw [hs]; exact h1.r.trans hi.r
  have hb1 : c1.b = c.b := h1.b
  have hblk : tget c1.s.blocks c1.s.cur.blk = some c.b := by rw [hs]; exact hi.blk
  have hrun := run_noFx h hb (Ctx.allot_within (Nat.le_trans hfp (Nat.le_add_right _ _)) (h1.sends.trans hi.sends)) (h1.gone.trans hi.gone)
    (h1.fx.trans hi.fx)
  refine ⟨_, c1.w.setEntity c.s.cur.frag (retiredSync c1), _, hrun, ⟨?_, Wave.entity_setEntity .., ?_, fun ht => ?_⟩, ?_, ?_⟩
  · rw [hr, hs]
    exact waveAt_setWave (counted_wave (hb1 ▸ hi.w0)) _
  · rw [Wave.entity_setEntity_not, hw]; simp
  · rw [etch_untraced (b := c.b) (by rw [Ctx.noteFrees_blocks, hr, hblk]) (by rw [noteFrees_traces, hs, ht]), hr, hs]
    have := elsewhere_noted (c := c) (c1 := c1) (shape i) (c1.w.setEntity c1.s.cur.frag (retiredSync c1)) hr hblk hb1
    rwa [hs] at this
  · constructor <;> simp [retiredSync, Ctx.retired, h1.e, h1.npc, hi.npc, h1.post, hi.post]
  · rw [noEntities_setEntity, hw]

/-! ### `LVQ` and `LVQ.seg` (R226) -/

/-- A body that ends its entity's quantum, and may say that its block's segment closes. -/
theorem leaves_of_quantumEnd {s : State} {i : Instr} {c c1 : Ctx} {lv : Option BlockLevel} {body : Ctx → Except Stop Ctx} (h : Issues s i c)
    (hb : body (c.freeReads (shape i)) = .ok c1) (he : c1.e = { c.e with qended := true }) (hlv : c1.b = { c.b with level := lv })
    (h1 : WaveOnly { c.freeReads (shape i) with e := c1.e, b := c1.b } c1) (hw : c1.w = (c.freeReads (shape i)).w) :
    ∃ t w e b', run i body s = .next t ∧ waveAt t s.cur = some w ∧ w.entity s.cur.frag = some e ∧ e.qended = true ∧
      GoesOn { c.e with qended := true } e (c.e.pc + 4) ∧ noEntities w = noEntities (freed i c) ∧ t.mem = s.mem ∧
      tget t.blocks s.cur.blk = some b' ∧ b'.level = lv := by
  have hi := issuing h.1
  obtain rfl := hi.s_
  rw [freed_eq h] at hw
  have hfp : c1.w.footprint ≤ c.w0.footprint := hw ▸ freed_footprint_le i c
  have hr : c1.r = c.s.cur := h1.r.trans hi.r
  have hrun := run_noFx h hb (Ctx.allot_within (Nat.le_trans hfp (Nat.le_add_right _ _)) (h1.sends.trans hi.sends)) (h1.gone.trans hi.gone)
    (h1.fx.trans hi.fx)
  rw [show c1.pkts = [] from h1.pkts.trans hi.pkts, State.etch_nil, hr] at hrun
  have hw0 : c1.b.wave c.s.cur.slot = some c.w0 := by rw [hlv]; exact hi.w0
  refine ⟨_, c1.w.setEntity c.s.cur.frag (retiredSync c1), _, _, hrun, waveAt_setWave (counted_wave hw0) _, Wave.entity_setEntity .., ?_, ?_, ?_,
    ?_, State.setBlock_get .., ?_⟩
  · simp [retiredSync, Ctx.retired, he]
  · constructor <;> simp [retiredSync, Ctx.retired, he, h1.npc, hi.npc, h1.post, hi.post]
  · rw [noEntities_setEntity, hw]
  · rw [State.setBlock_mem, Ctx.noteFrees_mem, show c1.s = c.s from h1.s]
  · rw [Block.setWave_level, counted_level, hlv]

/-- Outside Level mode `LVQ` and `LVQ.seg` do nothing. -/
theorem lvq_outside {s : State} {i : Instr} {c : Ctx} (h : Issues s i c) (hi : i = .lvq ∨ i = .lvqSeg) (hl : c.level = false) :
    ∃ t w, exec i s = .next t ∧ Retires s c t w ∧ noEntities w = noEntities (freed i c) := by
  have hfp : (c.freeReads (shape i)).w.footprint ≤ c.w0.footprint + c.e.grant :=
    Nat.le_trans (freed_eq h ▸ freed_footprint_le i c) (Nat.le_add_right _ _)
  have hl' : (c.freeReads (shape i)).level = false := hl
  have hb : ∀ body : Ctx → Except Stop Ctx, body (c.freeReads (shape i)) = .ok (c.freeReads (shape i)) →
      ∃ t w, run i body s = .next t ∧ Retires s c t w ∧ noEntities w = noEntities (freed i c) := fun body hb => by
    obtain ⟨t, w, h1, h2, h3⟩ := retires_of_body h hb (Ctx.allot_within hfp (issuing h.1).sends) (WaveOnly.refl _)
    exact ⟨t, w, h1, h2, h3.trans (by rw [freed_eq h])⟩
  rcases hi with rfl | rfl
  · rw [exec_lvq, execLvq]
    exact hb _ (by simp [Ctx.endQuantum, hl'])
  · rw [exec_lvqSeg, execLvqSeg]
    exact hb _ (by simp [hl'])

/-- In Level mode they end the quantum, and `LVQ.seg` says that the segment closes. -/
theorem lvq_inside {s : State} {i : Instr} {c : Ctx} (h : Issues s i c) (hi : i = .lvq ∨ i = .lvqSeg) (hl : c.level = true) :
    ∃ t w e b', exec i s = .next t ∧ waveAt t s.cur = some w ∧ w.entity s.cur.frag = some e ∧ e.qended = true ∧
      GoesOn { c.e with qended := true } e (c.e.pc + 4) ∧ noEntities w = noEntities (freed i c) ∧ t.mem = s.mem ∧
      tget t.blocks s.cur.blk = some b' ∧
      b'.level = if i = .lvqSeg then c.b.level.map (fun lv => { lv with seg := true }) else c.b.level := by
  have hl' : (c.freeReads (shape i)).level = true := hl
  rcases hi with rfl | rfl
  · rw [exec_lvq, execLvq]
    refine leaves_of_quantumEnd h (congrArg Except.ok (if_pos hl')) rfl rfl ?_ rfl
    constructor <;> rfl
  · rw [exec_lvqSeg, execLvqSeg]
    refine leaves_of_quantumEnd (lv := c.b.level.map fun lv => { lv with seg := true })
      (c1 := { c.freeReads (shape .lvqSeg) with
        e := { c.e with qended := true }, b := { c.b with level := c.b.level.map fun lv => { lv with seg := true } } }) h ?_ rfl rfl ?_ rfl
    · simp [Ctx.endQuantum, hl']
    · constructor <;> rfl

end Sys2Proof.Claims

section
open Sys2Proof Sys2Proof.Machine Sys2Proof.Claims

/-- Settles O46, one form after the other: hints, `RESV`, `LVQ`, `MARK`, `HCTR` and `DBRK`. -/
theorem systemInstructions : Obligations.SystemInstructions := by
  refine ⟨?hints, fun s d c h => ⟨resv_traps h, resv_retires h⟩, fun s i c h hi => ⟨lvq_outside h hi, lvq_inside h hi⟩, ?mark,
    fun s d a c h => hctr_settled h, ?dbrk⟩
  case hints =>
    intro s i c hi h
    dsimp only
    rw [← hintFits_iff, exec_hint hi]
    refine ⟨runHint_traps h, fun ⟨hf, hh⟩ => ?_⟩
    obtain ⟨w, e, hl⟩ := hint_leaves h
    exact ⟨_, w, e, runHint_joins h hf hh, hl⟩
  case mark =>
    intro s d a b c h
    rw [exec_mark, execMark]
    refine leaves_of_packets h rfl ?_ rfl
    constructor <;> rfl
  case dbrk =>
    intro s d a c h
    have hi := issuing h.1
    obtain rfl := hi.s_
    have hreg : (comparatorOf c.r.blk (c.rs a)).reg < 64 := Nat.mod_lt _ (by decide)
    intro i x n arm q k cur bad other answers
    have hq : comparatorOf c.r.blk x = q := by rw [hi.r]; rfl
    have hown : ((∃ y, cur = some y ∧ y.blk ≠ c.r.blk) ↔ other) := by rw [hi.r]
    have hset : (if arm = true then some (comparatorOf c.r.blk x) else none) = if arm then some q else none := by rw [hq]
    refine ⟨fun ht => dbrk_answers h (by decide) (dbrkStatus_tenant ht), fun ht hb => dbrk_answers h (by decide) ?_,
      fun ht hb ho => dbrk_answers h (by decide) ?_, fun ht hb ho => ?_⟩
    · classical
      rw [dbrkStatus_eq ht hreg, if_pos]
      rw [hq]; exact hb
    · classical
      rw [dbrkStatus_eq ht hreg, if_neg, if_pos (hown.mpr ho)]
      rw [hq]; exact hb
    · have := dbrk_sets h (by
        classical
        rw [dbrkStatus_eq ht hreg, if_neg, if_neg (fun h' => ho (hown.mp h'))]
        rw [hq]; exact hb)
      rw [hset] at this
      exact this

end

namespace Sys2Proof.Machine

/-! ### Write-backs, stores and requests at their homes leave what the caches leave -/

@[simp] theorem State.setHome_besideCaches (s : State) (h : Nat) (x : HomeUnit) : (s.setHome h x).besideCaches = s.besideCaches := rfl
@[simp] theorem State.clearTags_besideCaches (s : State) (pa n : Nat) : (s.clearTags pa n).besideCaches = s.besideCaches := rfl
@[simp] theorem State.setReq_besideCaches (s : State) (core : Nat) (n : BitVec 24) (f : AtomReq → AtomReq) :
    (s.setReq core n f).besideCaches = s.besideCaches := rfl
@[simp] theorem State.keepSeq_besideCaches (s : State) (unit src : Nat) (n : BitVec 24) (v : Dword) :
    (s.keepSeq unit src n v).besideCaches = s.besideCaches := rfl

@[simp] theorem State.putBelow_besideCaches (s : State) (core line : Nat) (mask : BitVec 128) (bs : List Byte) :
    (s.putBelow core line mask bs).besideCaches = s.besideCaches := by
  unfold State.putBelow
  split
  · rfl
  · split
    · exact (State.clu_besideCaches ..).trans (State.cluRoom_besideCaches ..)
    · exact (State.writeBytes_besideCaches _ (fun i => mask.getLsbD i) ..).trans (State.charge_besideCaches ..)

@[simp] theorem State.l1Clean_besideCaches (s : State) (core line : Nat) : (s.l1Clean core line).besideCaches = s.besideCaches := by
  unfold State.l1Clean
  split
  · rfl
  · exact (State.modCore_besideCaches ..).trans (State.putBelow_besideCaches ..)

@[simp] theorem State.l1CleanAll_besideCaches (s : State) (core : Nat) : (s.l1CleanAll core).besideCaches = s.besideCaches :=
  foldl_keeps (part := State.besideCaches) (fun s (p : Nat × Line) => s.l1Clean_besideCaches core p.1) _ s

@[simp] theorem State.releaseCaches_besideCaches (s : State) (core scope : Nat) : (s.releaseCaches core scope).besideCaches = s.besideCaches := by
  have hl1 : (if 4 ≤ scope then s.l1CleanAll core else s).besideCaches = s.besideCaches := by
    split
    · exact State.l1CleanAll_besideCaches ..
    · rfl
  unfold State.releaseCaches
  dsimp only
  split
  · exact (foldl_keeps (part := State.besideCaches) (fun s k => s.cluClean_besideCaches core k) _ _).trans hl1
  · exact hl1

@[simp] theorem State.updateLines_besideCaches (s : State) (core pa : Nat) (bs : List Byte) :
    (s.updateLines core pa bs).besideCaches = s.besideCaches := by
  unfold State.updateLines
  split
  all_goals
    dsimp only
    split
    · split <;> rfl
    · rfl

@[simp] theorem State.setReleaseTag_besideCaches (s : State) (core pa : Nat) : (s.setReleaseTag core pa).besideCaches = s.besideCaches := by
  unfold State.setReleaseTag
  dsimp only
  rw [State.setHome_besideCaches]
  split
  · rfl
  · split
    · rfl
    · rw [State.setHome_besideCaches]
      split
      · simp
      · rfl

@[simp] theorem State.strongStore_besideCaches (s : State) (core pa : Nat) (bs : List Byte) (tagged : Bool) :
    (s.strongStore core pa bs tagged).besideCaches = s.besideCaches := by
  unfold State.strongStore
  dsimp only
  split <;> simp

@[simp] theorem State.arriveStore_besideCaches (s : State) (core : Nat) (p : PendStore) : (s.arriveStore core p).besideCaches = s.besideCaches := by
  unfold State.arriveStore
  dsimp only
  split
  · rfl
  · split <;> simp

@[simp] theorem State.applyAtom_besideCaches (s : State) (core : Nat) (fop ty : BitVec 3) (pa : Nat) (v c : Dword) (tagged : Bool) :
    (s.applyAtom core fop ty pa v c tagged).2.besideCaches = s.besideCaches := State.strongStore_besideCaches ..

@[simp] theorem State.arriveReq_besideCaches (s : State) (core : Nat) (q : AtomReq) : (s.arriveReq core q).besideCaches = s.besideCaches := by
  unfold State.arriveReq
  split
  · split
    · simp
    · dsimp only
      split
      · rfl
      · split
        · rfl
        · rw [State.setReq_besideCaches, State.keepSeq_besideCaches, State.applyAtom_besideCaches]
  · rfl

@[simp] theorem State.storeNow_besideCaches (s : State) (core : Nat) (r : EntRef) (prio lane pa : Nat) (bs : List Byte) (via : Via) :
    (s.storeNow core r prio lane pa bs via).besideCaches = s.besideCaches := by
  unfold State.storeNow State.sendStore
  split <;> simp

@[simp] theorem State.redNow_besideCaches (s : State) (core : Nat) (r : EntRef) (prio lane : Nat) (fop ty : BitVec 3) (pa : Nat) (v : Dword)
    (via : Via) : (s.redNow core r prio lane fop ty pa v via).besideCaches = s.besideCaches := by
  unfold State.redNow State.sendRed
  split <;> simp

@[simp] theorem State.spoilTraces_besideCaches (s : State) (pa n : Nat) : (s.spoilTraces pa n).besideCaches = s.besideCaches := by
  unfold State.spoilTraces; split <;> rfl

@[simp] theorem State.foldBytes_besideCaches (s : State) (blk core pa : Nat) (kind : BitVec 2) (bs : List Byte) :
    (s.foldBytes blk core pa kind bs).besideCaches = s.besideCaches := by
  unfold State.foldBytes
  dsimp only
  split
  · exact (foldl_keeps (part := State.besideCaches) (fun s i => State.redNow_besideCaches ..) _ _).trans (State.spoilTraces_besideCaches ..)
  · split
    · simp
    · exact (foldl_keeps (part := State.besideCaches) (fun s i => State.storeNow_besideCaches ..) _ _).trans (State.spoilTraces_besideCaches ..)

@[simp] theorem State.settleSurrender_besideCaches (s : State) (core blk : Nat) : (s.settleSurrender core blk).besideCaches = s.besideCaches := by
  unfold State.settleSurrender
  dsimp only
  rw [State.modCore_besideCaches]
  refine (foldl_keeps (part := State.besideCaches) (fun s q => ?_) _ _).trans (foldl_keeps (part := State.besideCaches) (fun s p => ?_) _ s)
  · split
    · exact State.arriveReq_besideCaches ..
    · rfl
  · split
    · exact State.arriveStore_besideCaches ..
    · rfl

theorem State.blocks_of_besideCaches {s t : State} (h : t.besideCaches = s.besideCaches) : t.blocks = s.blocks :=
  State.blocks_of_besideMemory (State.besideMemory_congr h)

theorem tget_mapSnd {α β : Type} (t : Table α) (f : Nat × α → β) (n : Nat) :
    tget (t.map fun p => (p.1, f p)) n = (tget t n).map fun x => f (n, x) := by
  induction t with
  | nil => rfl
  | cons p t ih =>
    obtain ⟨k, v⟩ := p
    simp only [List.map_cons, tget]
    split
    · subst_vars; rfl
    · exact ih

/-! ### The end of a surrender wave (R151–R153) -/

/-- A block stands, without a surrender wave. -/
def State.SurrenderOver (s : State) (blk : Nat) : Prop := ∃ b, tget s.blocks blk = some b ∧ b.sur = none

theorem State.SurrenderOver.congr {s t : State} {blk : Nat} (h : s.SurrenderOver blk) (hb : t.blocks = s.blocks) : t.SurrenderOver blk := by
  unfold State.SurrenderOver; rwa [hb]

theorem State.SurrenderOver.modBlock {s : State} {blk : Nat} (h : s.SurrenderOver blk) (n : Nat) {f : Block → Block} (hf : ∀ b, (f b).sur = b.sur) :
    (s.modBlock n f).SurrenderOver blk := by
  obtain ⟨b, hb, hs⟩ := h
  unfold State.SurrenderOver
  rw [State.modBlock_get]
  split
  · subst_vars
    exact ⟨f b, by rw [hb]; rfl, (hf b).trans hs⟩
  · exact ⟨b, hb, hs⟩

theorem State.setTreq_blocks (s : State) (r : Nat) (f : TileReq → TileReq) : (s.setTreq r f).blocks = s.blocks := by
  unfold State.setTreq; split <;> rfl

theorem State.sendImage_blocks (s : State) (r : Nat) (q : TileReq) (tenure : Bool) : (s.sendImage r q tenure).blocks = s.blocks :=
  State.setTreq_blocks ..

theorem State.grantTile_blocks (s : State) (r : Nat) (q : TileReq) : (s.grantTile r q).blocks = s.blocks := by
  unfold State.grantTile
  split <;> rw [State.sendImage_blocks]

theorem State.resendRecalls_blocks (s : State) (pa : Nat) : (s.resendRecalls pa).blocks = s.blocks := by
  refine foldl_keeps (part := State.blocks) (fun s p => ?_) s.treqs s
  split
  · split
    · exact State.setTreq_blocks ..
    · rfl
  · rfl

theorem State.SurrenderOver.setBlock {s : State} {blk : Nat} (h : s.SurrenderOver blk) {n : Nat} {b x : Block} (hb : tget s.blocks n = some b)
    (hx : x.sur = b.sur) : (s.setBlock n x).SurrenderOver blk := by
  obtain ⟨y, hy, hs⟩ := h
  unfold State.SurrenderOver
  rw [State.setBlock_setBlock_get]
  split
  · subst_vars
    obtain rfl : y = b := Option.some.inj (hy.symm.trans hb)
    exact ⟨x, rfl, hx.trans hs⟩
  · exact ⟨y, hy, hs⟩

theorem State.bufWrite_blocks (s : State) (core space off : Nat) (bs : List Byte) : (s.bufWrite core space off bs).blocks = s.blocks := rfl

theorem State.SurrenderOver.stageCede {s : State} {blk : Nat} (h : s.SurrenderOver blk) (n r pa : Nat) (cancelled : Bool) (out : BitVec 2) :
    (s.stageCede n r pa cancelled out).SurrenderOver blk := by
  unfold State.stageCede
  split
  · exact h
  · rename_i b hb
    split
    · have hq := h.congr (s.setTreq_blocks r fun q => { q with phase := .staged })
      have hb' := (congrArg (tget · n) (s.setTreq_blocks r fun q => { q with phase := .staged })).trans hb
      dsimp only
      split
      · exact hq.setBlock hb' rfl
      · refine State.SurrenderOver.congr ?_ (State.bufWrite_blocks ..)
        exact hq.setBlock hb' rfl
    · exact h

theorem State.SurrenderOver.cedeFin {s : State} {blk : Nat} (h : s.SurrenderOver blk) (n r pa : Nat) (cancelled : Bool) :
    (s.cedeFin n r pa cancelled).SurrenderOver blk := by
  unfold State.cedeFin
  split
  · exact h
  · split
    · exact h
    · rename_i b _ _ t _
      have hfold : ((s.foldBytes n b.core pa t.kind (s.tileCopy b t.aoff t.size)).releaseCaches b.core 6).blocks = s.blocks :=
        State.blocks_of_besideCaches (by simp)
      dsimp only
      generalize (s.foldBytes n b.core pa t.kind (s.tileCopy b t.aoff t.size)).releaseCaches b.core 6 = s1 at hfold ⊢
      have hfree : ({ s1 with tiles := tdel s1.tiles pa } : State).SurrenderOver blk := h.congr hfold
      have hend := (hfree.modBlock n (f := fun b => { b with tiles := b.tiles.filter fun u => !(u.pa = pa && u.view = .held) })
        fun _ => rfl).congr (State.resendRecalls_blocks _ pa)
      split
      · split
        · exact hend
        · exact hend.congr (State.grantTile_blocks ..)
      · exact hend

/-- A surrender wave that ends by FIN leaves its block standing without it. -/
theorem State.cede_fin {s : State} {blk : Nat} {b : Block} {p : Wave × Surrender} (hb : tget s.blocks blk = some b) (hs : b.sur = some p)
    (he : b.ended = false) : (s.cede blk 0).SurrenderOver blk := by
  have hdrop : ((s.dropRecall b.core p.2.req).modBlock blk fun b => { b with sur := none }).SurrenderOver blk :=
    ⟨{ b with sur := none }, by rw [State.modBlock_get, if_pos rfl, show tget (s.dropRecall b.core p.2.req).blocks blk = some b from hb]; rfl, rfl⟩
  have hout (q : Prop) : ¬ ((0 : BitVec 2) = 1 ∧ q) := fun h => absurd h.1 (by decide)
  unfold State.cede
  rw [hb]
  dsimp only
  rw [hs]
  simp only [he, hout, if_false, if_true, Bool.false_eq_true]
  split
  · split
    · exact (hdrop.stageCede ..).congr rfl
    · exact (hdrop.cedeFin ..).congr rfl
  · split
    · exact hdrop.stageCede ..
    · exact hdrop.cedeFin ..

/-- A trap in a surrender wave ends it, and sets its cause and OVERRUN in every wave of the block (R151). -/
theorem State.surrenderTrap_leaves {s : State} {blk : Nat} {b : Block} {p : Wave × Surrender} (hb : tget s.blocks blk = some b)
    (hs : b.sur = some p) (he : b.ended = false) (bits : Dword) :
    ∃ b', tget (s.surrenderTrap blk bits).blocks blk = some b' ∧ b'.sur = none ∧
      ∀ n v, tget b'.waves n = some v → v.cause &&& (bits ||| causeBit 21) = bits ||| causeBit 21 := by
  have hb1 : tget (s.settleSurrender b.core blk).blocks blk = some b := by rw [State.blocks_of_besideCaches (s.settleSurrender_besideCaches ..), hb]
  obtain ⟨b2, hb2, hs2⟩ := State.cede_fin hb1 hs he
  unfold State.surrenderTrap State.causeAll
  rw [hb]
  dsimp only
  rw [State.modBlock_get, if_pos rfl, hb2]
  refine ⟨_, rfl, hs2, fun n v hv => ?_⟩
  rw [tget_mapSnd] at hv
  obtain ⟨w, -, rfl⟩ := Option.map_eq_some_iff.mp hv
  ext i
  simp only [causeBit, BitVec.getElem_and, BitVec.getElem_or, Bool.and_eq_right_iff_imp]
  exact fun h => by rw [h, Bool.or_true]

/-! ### Taking a cause (R383–R386, R391) -/

theorem State.etch_state (s : State) (r : EntRef) (pc : Dword) (pkts : List (Nat → List Byte)) (starts : Bool) :
    s.etch r pc pkts starts = s ∨ ∃ n f, s.etch r pc pkts starts = s.modCore n f := by
  unfold State.etch
  split
  · exact .inl rfl
  · split
    · exact .inl rfl
    · split
      · exact .inl rfl
      · exact .inr ⟨_, _, rfl⟩

/-- Packets wait at their core. -/
@[simp] theorem State.etch_besideCaches (s : State) (r : EntRef) (pc : Dword) (pkts : List (Nat → List Byte)) (starts : Bool) :
    (s.etch r pc pkts starts).besideCaches = s.besideCaches := by
  rcases s.etch_state r pc pkts starts with h | ⟨n, f, h⟩ <;> rw [h]
  rfl
@[simp] theorem State.etch_mem (s : State) (r : EntRef) (pc : Dword) (pkts : List (Nat → List Byte)) (starts : Bool) :
    (s.etch r pc pkts starts).mem = s.mem := by
  rcases s.etch_state r pc pkts starts with h | ⟨n, f, h⟩ <;> rw [h]
  rfl
@[simp] theorem State.etch_hub (s : State) (r : EntRef) (pc : Dword) (pkts : List (Nat → List Byte)) (starts : Bool) :
    (s.etch r pc pkts starts).hub = s.hub := by
  rcases s.etch_state r pc pkts starts with h | ⟨n, f, h⟩ <;> rw [h]
  rfl

/-- The entity that has raised a cause. -/
def Entity.raised (e : Entity) (b : Block) (t : Trap) (gpc npc : Dword) : Entity :=
  let one := if t.bits &&& causeBit cSWTRAP ≠ 0 then 1 else 0
  { e.withdraw with pc := if causeAfter t.bits then npc else gpc, hints := [], wait := none, grant := 0, napEnd := 0, halted := true
                    loop := none, qwaited := e.qwaited && !causeAfter t.bits, fetched := [], skid := if b.halt.isSome then e.skid + one else 0
                    qcount := e.withdraw.qcount + (if b.isLevel then one else 0) }

/-- What the handler of a wave will be told of a cause. -/
def Trap.report (t : Trap) (gpc : Dword) (frag : Bool) : Report :=
  { pc := gpc, causes := t.bits, code := t.code, byFrag := frag
    lane := match t.lane with
      | some l => some l
      | none => (t.cmask.bind lowestLane).map (·.val) }

/-- The wave that has raised a cause: it is pending, its first report kept (log 39). -/
def Wave.raised (w : Wave) (r : EntRef) (e : Entity) (b : Block) (t : Trap) (gpc npc : Dword) : Wave :=
  ({ w with cause := w.cause ||| t.bits, cmask := t.cmask.getD e.xm
            pending := some (match w.pending with
              | some p => { p with causes := p.causes ||| t.bits }
              | none => t.report gpc r.frag) }).setEntity r.frag (e.raised b t gpc npc)

/-- A cause outside a handler and a surrender wave halts the block. -/
theorem State.raise_halts {s : State} {r : EntRef} {b : Block} {w : Wave} {e : Entity} (hb : tget s.blocks r.blk = some b)
    (hw : b.wave r.slot = some w) (he : w.entity r.frag = some e) (hr : r.slot ≠ 16) (hs : w.saved = none) (t : Trap) (gpc npc : Dword) :
    s.raise r t gpc npc = s.setBlock r.blk ((b.setWave r.slot (w.raised r e b t gpc npc)).startHalt s.now) := by
  unfold State.raise
  simp only [hb, hw, he, if_neg hr]
  rw [if_neg (by simp [hs])]
  rfl

/-- A cause in a handler ends it; the Executive is told (R391). -/
theorem State.raise_handler {s : State} {r : EntRef} {b : Block} {w : Wave} {e : Entity} (hb : tget s.blocks r.blk = some b)
    (hw : b.wave r.slot = some w) (he : w.entity r.frag = some e) (hr : r.slot ≠ 16) (hs : w.saved.isSome = true) (t : Trap) (gpc npc : Dword) :
    s.raise r t gpc npc = ((s.etch r (e.raised b t gpc npc).pc [pktEnd 2]).setBlock r.blk
      { b.setWave r.slot (({ w with cause := w.cause ||| t.bits, cmask := t.cmask.getD e.xm, epc := (e.raised b t gpc npc).pc }).setEntity
          r.frag (e.raised b t gpc npc)) with reported := true }).report r.blk t.bits.toNat := by
  unfold State.raise
  simp only [hb, hw, he, if_neg hr]
  rw [if_pos hs]
  rfl

theorem State.raise_surrender {s : State} {r : EntRef} {b : Block} (hb : tget s.blocks r.blk = some b) (hr : r.slot = 16) (t : Trap)
    (gpc npc : Dword) : s.raise r t gpc npc = (s.etch r npc [pktEnd 0]).surrenderTrap r.blk t.bits := by
  unfold State.raise
  simp only [hb, if_pos hr]

/-- What a halt that begins makes of an entity. -/
def Entity.haltedIn (e : Entity) (w : Wave) : Entity :=
  let e := if w.window.isSome then e else { e with skid := 0 }
  if e.wait.isSome || decide (e.napEnd ≠ 0) then e.stopHere else e

theorem Entity.haltedIn_idle {e : Entity} (hw : e.wait = none) (hn : e.napEnd = 0) (w : Wave) : ∃ k, e.haltedIn w = { e with skid := k } := by
  unfold Entity.haltedIn
  dsimp only
  split
  all_goals rw [if_neg (by simp [hw, hn])]
  · exact ⟨_, rfl⟩
  · exact ⟨_, rfl⟩

theorem Wave.closeWindow_none {w : Wave} (h : w.window = none) : w.closeWindow = w := by
  unfold Wave.closeWindow; rw [h]

/-- A wave without a collection window once its block is halted (R385–R387): its entities may have stopped, one that neither waits nor naps
has at most its skid counted anew. -/
theorem startHalt_wave {b : Block} {n : Nat} {w : Wave} (hw : b.wave n = some w) (hwin : w.window = none) (now : Nat) :
    ∃ f : Entity → Entity, (b.startHalt now).wave n = some { w with parent := f w.parent, frag := w.frag.map f } ∧
      ∀ e : Entity, e.wait = none → e.napEnd = 0 → ∃ k, f e = { e with skid := k } := by
  have hid : some w = some { w with parent := id w.parent, frag := w.frag.map id } := by rw [Option.map_id]; rfl
  unfold Block.startHalt
  split
  · exact ⟨id, hw.trans hid, fun e _ _ => ⟨_, rfl⟩⟩
  · by_cases hn : n = 16
    · subst hn
      exact ⟨id, hw.trans hid, fun e _ _ => ⟨_, rfl⟩⟩
    · refine ⟨fun e => e.haltedIn w, ?_, fun e h1 h2 => Entity.haltedIn_idle h1 h2 w⟩
      unfold Block.wave at hw ⊢
      rw [if_neg hn] at hw ⊢
      dsimp only
      rw [tget_mapSnd, hw]
      exact congrArg some (Wave.closeWindow_none hwin)

theorem startHalt_halt (b : Block) (now : Nat) : (b.startHalt now).halt.isSome = true := by
  unfold Block.startHalt
  split
  · simp_all
  · rfl

theorem Wave.entity_map (w : Wave) (f : Entity → Entity) (g : Bool) :
    ({ w with parent := f w.parent, frag := w.frag.map f } : Wave).entity g = (w.entity g).map f := by cases g <;> rfl

theorem causeAfter_iff (bits : Dword) (x y : Dword) :
    (if causeAfter bits then x else y) = if bits &&& 0x09013F00 = 0 then y else x := by
  unfold causeAfter
  simp

/-- What a cause leaves outside a handler, a surrender wave and a collection window. -/
theorem State.raise_leaves {s : State} {r : EntRef} {b : Block} {w : Wave} {e : Entity} (hb : tget s.blocks r.blk = some b)
    (hw : b.wave r.slot = some w) (he : w.entity r.frag = some e) (hr : r.slot ≠ 16) (hs : w.saved = none) (hwin : w.window = none)
    (t : Trap) (gpc npc : Dword) :
    ∃ b' w' e' rep, tget (s.raise r t gpc npc).blocks r.blk = some b' ∧ b'.halt.isSome = true ∧ b'.wave r.slot = some w' ∧
      w'.entity r.frag = some e' ∧ w'.cause = w.cause ||| t.bits ∧ w'.cmask = t.cmask.getD e.xm ∧ w'.pending = some rep ∧
      (w.pending = none → rep.pc = gpc ∧ rep.causes = t.bits ∧ rep.code = t.code ∧ rep.byFrag = r.frag) ∧
      e'.pc = (if t.bits &&& 0x09013F00 = 0 then gpc else npc) ∧ e'.hints = [] ∧ e'.wait = none ∧ e'.halted = true ∧
      w'.s = w.s ∧ w'.v = w.v ∧ w'.k = w.k ∧ w'.m = w.m ∧ w'.fpf = w.fpf ∧ w'.fpx = w.fpx ∧ w'.mf = w.mf ∧
      (∀ n v, n ≠ r.slot → b.wave n = some v → v.window = none →
        ∃ v', b'.wave n = some v' ∧ v'.cause = v.cause ∧ v'.cmask = v.cmask ∧ v'.s = v.s ∧ v'.v = v.v ∧ v'.k = v.k ∧ v'.m = v.m) ∧
      { s.raise r t gpc npc with blocks := [] } = { s with blocks := [] } ∧
      ∀ n, n ≠ r.blk → tget (s.raise r t gpc npc).blocks n = tget s.blocks n := by
  rw [State.raise_halts hb hw he hr hs]
  have hraised : (w.raised r e b t gpc npc).window = none := by rw [← hwin]; exact Wave.setEntity_window ..
  have hent : (w.raised r e b t gpc npc).entity r.frag = some (e.raised b t gpc npc) := Wave.entity_setEntity ..
  obtain ⟨f, hwave, hf⟩ := startHalt_wave (Block.wave_setWave _ _ _ _ hw) hraised s.now
  obtain ⟨k, hk⟩ := hf (e.raised b t gpc npc) rfl rfl
  refine ⟨_, _, f (e.raised b t gpc npc), _, State.setBlock_get .., startHalt_halt .., hwave, ?_, Wave.setEntity_cause .., Wave.setEntity_cmask ..,
    Wave.setEntity_pending .., ?_, ?_, ?_, ?_, ?_, Wave.setEntity_s .., Wave.setEntity_v .., Wave.setEntity_k .., Wave.setEntity_m ..,
    Wave.setEntity_fpf .., Wave.setEntity_fpx .., Wave.setEntity_mf .., ?_, rfl, fun n hn => tget_tset_ne _ _ hn⟩
  · rw [Wave.entity_map, hent]; rfl
  · intro hp
    rw [hp]
    exact ⟨rfl, rfl, rfl, rfl⟩
  · rw [hk, ← causeAfter_iff]; rfl
  · rw [hk]; rfl
  · rw [hk]; rfl
  · rw [hk]; rfl
  · intro n v hn hv hvw
    obtain ⟨g, hg, -⟩ := startHalt_wave ((Block.wave_setWave_ne b (w.raised r e b t gpc npc) hn).trans hv) hvw s.now
    exact ⟨_, hg, rfl, rfl, rfl, rfl, rfl, rfl⟩

/-- What a cause leaves in a handler. -/
theorem State.raise_handler_leaves {s : State} {r : EntRef} {b : Block} {w : Wave} {e : Entity} (hb : tget s.blocks r.blk = some b)
    (hw : b.wave r.slot = some w) (he : w.entity r.frag = some e) (hr : r.slot ≠ 16) (hs : w.saved.isSome = true) (t : Trap) (gpc npc : Dword) :
    ∃ b' w', tget (s.raise r t gpc npc).blocks r.blk = some b' ∧ b'.reported = true ∧ b'.halt = b.halt ∧ b'.wave r.slot = some w' ∧
      w'.cause = w.cause ||| t.bits ∧ (s.raise r t gpc npc).hub.reports = s.hub.reports ++ [(r.blk, t.bits.toNat)] ∧
      (s.raise r t gpc npc).mem = s.mem := by
  rw [State.raise_handler hb hw he hr hs]
  refine ⟨_, _, State.setBlock_get .., rfl, Block.setWave_halt .., Block.wave_setWave _ _ _ _ hw, Wave.setEntity_cause .., ?_, ?_⟩
  · simp [State.report]
  · simp [State.report]

end Sys2Proof.Machine

namespace Sys2Proof.Claims
open Machine

/-! ### What comes before a word's own effect -/

/-- Every instruction word but a hint is its body in the one frame. The events are no words. -/
theorem exec_eq_run {i : Instr} (h : (encode? i).isSome = true) (hh : isHint i = false) : ∃ body, ∀ s, exec i s = run i body s := by
  cases i
  all_goals first | (cases h; done) | (cases hh; done) | (dsimp only [exec]; exact ⟨_, fun _ => rfl⟩)

theorem surrenderBarred_notGraver {i : Instr} (h : isSurrenderBarred i = true) : isGraver i = false := by
  cases i <;> first | rfl | cases h

/-- A word that its checks stop takes the cause that they name. -/
theorem exec_barred {i : Instr} {s : State} {c : Ctx} (h : (encode? i).isSome = true) (hh : isHint i = false) (hs : s.issuer i = some c)
    {n : Nat} {lanes : Option Mask} (hc : c.check = raises n lanes) : exec i s = .next (trapped c n lanes) := by
  obtain ⟨body, hbody⟩ := exec_eq_run h hh
  rw [hbody]
  exact run_check hs hc

/-- The fields, the guard and the hints of a word are in order (R27–R42). -/
def Sound (i : Instr) (x : Mods) : Prop :=
  fieldsOk i = true ∧ (∀ g, (shape i).guard = some g → guardOk g = true) ∧ modsOk i (shape i) x = true

theorem sound_iff (i : Instr) (x : Mods) :
    Sound i x ↔ (!fieldsOk i || !((shape i).guard.map guardOk).getD true || !modsOk i (shape i) x) = false := by
  unfold Sound
  cases (shape i).guard <;> simp [and_assoc]

theorem check_unsound {c : Ctx} (ha : c.armBusy = false) (h : ¬ Sound c.i c.x) : c.check = raises cILLOP := by
  rw [sound_iff, Bool.not_eq_false] at h
  simp [Ctx.check, ha, h]

theorem check_handler {c : Ctx} (ha : c.armBusy = false) (h : Sound c.i c.x) (hs : c.w0.saved.isSome = true) (hf : isHandlerFault c.i = true) :
    c.check = raises cPRIV := by
  rw [sound_iff] at h
  simp [Ctx.check, ha, h, Ctx.isHandler, hs, hf]

theorem check_surrender_graver {c : Ctx} (ha : c.armBusy = false) (h : Sound c.i c.x) (hs : c.w0.saved.isSome = false) (hr : c.r.slot = 16)
    (hg : isGraver c.i = true) : c.check = raises cROLE := by
  rw [sound_iff] at h
  simp [Ctx.check, ha, h, Ctx.isHandler, hs, Ctx.isSurrender, hr, hg]

theorem check_surrender_barred {c : Ctx} (ha : c.armBusy = false) (h : Sound c.i c.x) (hs : c.w0.saved.isSome = false) (hr : c.r.slot = 16)
    (hb : isSurrenderBarred c.i = true) : c.check = raises cNCLASS := by
  rw [sound_iff] at h
  simp [Ctx.check, ha, h, Ctx.isHandler, hs, Ctx.isSurrender, hr, hb, surrenderBarred_notGraver hb]

theorem check_role {c : Ctx} (ha : c.armBusy = false) (h : Sound c.i c.x) (hs : c.w0.saved.isSome = false) (hr : c.r.slot ≠ 16)
    (hg : isGraver c.i = true) (hrole : c.w0.role ≠ 2) : c.check = raises cROLE := by
  rw [sound_iff] at h
  have hrole' : decide (c.w0.role ≠ 2) = true := decide_eq_true hrole
  simp only [Ctx.check, ha, h, Ctx.isHandler, hs, Ctx.isSurrender, hr, hg, hrole']
  simp

theorem check_collective {c : Ctx} (ha : c.armBusy = false) (h : Sound c.i c.x) (hs : c.w0.saved.isSome = false) (hr : c.r.slot ≠ 16)
    (hg : isGraver c.i = true → c.w0.role = 2) (hc : isCollective c.i = true) (hl : c.isSplit = true ∨ c.w0.live &&& ~~~ c.e.xm ≠ 0) :
    c.check = raises cCONVERGE (some (c.w0.live &&& ~~~ c.e.xm)) := by
  rw [sound_iff] at h
  have hrole : (isGraver c.i && decide (c.w0.role ≠ 2)) = false := by
    cases hi : isGraver c.i
    · rfl
    · simp [hg hi]
  have hlanes : (c.isSplit || decide (c.w0.live &&& ~~~ c.e.xm ≠ 0)) = true := by simpa using hl
  simp only [Ctx.check, ha, h, Ctx.isHandler, hs, Ctx.isSurrender, hr, hrole, hc, hlanes]
  simp

/-! ### O44 -/

/-- What a cause leaves of a surrender wave: it ends, and the block's waves take its causes (R151). -/
theorem raise_surrender_leaves {s : State} {r : EntRef} {b : Block} {w : Wave} (hb : tget s.blocks r.blk = some b)
    (hw : b.wave r.slot = some w) (hr : r.slot = 16) (he : b.ended = false) (t : Trap) (gpc npc : Dword) :
    ∃ b', tget (s.raise r t gpc npc).blocks r.blk = some b' ∧ b'.sur = none ∧
      ∀ n v, tget b'.waves n = some v → v.cause &&& (t.bits ||| causeBit 21) = t.bits ||| causeBit 21 := by
  rw [State.raise_surrender hb hr]
  have hsur : ∃ p, b.sur = some p := by
    rw [hr, Block.wave, if_pos rfl] at hw
    obtain ⟨p, hp, -⟩ := Option.map_eq_some_iff.mp hw
    exact ⟨p, hp⟩
  obtain ⟨p, hp⟩ := hsur
  exact State.surrenderTrap_leaves (by rw [State.blocks_of_besideCaches (State.etch_besideCaches ..), hb]) hp he t.bits

/-- Settles O44: a word's checks name the cause that it takes before its effect, and what a cause leaves follows where its wave stands:
a block that halts, a handler, or a surrender wave. -/
theorem trapsTaken : Obligations.TrapsTaken := by
  unfold Obligations.TrapsTaken
  refine ⟨?_, ?_, ?_⟩
  case refine_1 =>
    intro s i c hi hh hs ha sound absent
    have hiss := issuing hs
    obtain rfl := hiss.i_
    have hslot : c.r.slot = s.cur.slot := by rw [hiss.r]
    refine ⟨fun h => exec_barred hi hh hs (check_unsound ha h), fun h => ⟨fun hsv hf => ?_, fun hsv hr => ⟨fun hg => ?_, fun hb => ?_⟩,
      fun hsv hr => ⟨fun hg hrole => ?_, fun hg hcol hl => ?_⟩⟩⟩
    · exact exec_barred hi hh hs (check_handler ha h hsv hf)
    · exact exec_barred hi hh hs (check_surrender_graver ha h hsv (hslot.trans hr) hg)
    · exact exec_barred hi hh hs (check_surrender_barred ha h hsv (hslot.trans hr) hb)
    · exact exec_barred hi hh hs (check_role ha h hsv (hslot ▸ hr) hg hrole)
    · exact exec_barred hi hh hs (check_collective ha h hsv (hslot ▸ hr) hg hcol hl)
  case refine_2 =>
    intro s n c ⟨hs, hc⟩
    obtain rfl : c.s = s := (issuing hs).s_
    rw [exec_trap, execTrap]
    refine (run_stop hs hc rfl).trans ?_
    rfl
  case refine_3 =>
    intro s r b w e t gpc npc hb hw he u
    exact ⟨fun hr hsv hwin => State.raise_leaves hb hw he hr hsv hwin t gpc npc,
      fun hr hsv => State.raise_handler_leaves hb hw he hr hsv t gpc npc,
      fun hr hend => raise_surrender_leaves hb hw hr hend t gpc npc⟩

end Sys2Proof.Claims

namespace Sys2Proof.Claims
open Machine

/-! ### O49 -/

/-- The entity that waits for the promotion of `twiceListed`. -/
def acquirer : EntRef := { blk := 0, slot := 0, frag := false }

/-- A state whose core 0 lists line 5 twice in its L1, the hidden entry with a dirty byte, and is asked for a promotion by an entity of
its own. -/
def twiceListed : State :=
  { blocks := [(0, { launch := 0, waves := [(0, {})] })]
    cores := [(0, { l1d := [(5, {}), (5, { dirty := 1 })] })]
    promos := [(0, 4, acquirer, 4)] }

/-- The dirty bytes of line 5 in the L1 of core 0 after an action. -/
def dirtyAfter (o : Host.Outcome State Fault Refusal) : Option (BitVec 128) :=
  match o with
  | .next u => (tget (u.core 0).l1d 5).map (·.dirty)
  | _ => none

/-- The release writes back the first entry, the acquire drops it as clean, and the second entry stands there dirty. -/
theorem promotion_twiceListed_dirty : dirtyAfter (exec (.promotion 0) twiceListed) = some 1 := rfl

/-- Refutes O49: its promotion clause says that no line of the core is dirty after a release of scope 4 or more, of every state. In a state
whose L1 table lists a line twice the release cleans only the entry that is found, and the acquire that follows on the same core drops it
and uncovers the other, which is dirty. -/
theorem not_transport : ¬ Obligations.Transport := by
  unfold Obligations.Transport
  rintro ⟨-, -, -, -, -, -, hpromotion, -, -⟩
  obtain ⟨u, hu, -, -, hone⟩ := hpromotion twiceListed 0 rfl
  obtain ⟨-, hclean, -⟩ := hone 0 4 acquirer 4 _ _ _ rfl rfl rfl
  have hdirty := promotion_twiceListed_dirty
  rw [hu] at hdirty
  obtain ⟨l, hl, hd⟩ := Option.map_eq_some_iff.mp hdirty
  rw [hclean (by decide) 5 l hl] at hd
  exact absurd hd (by decide)

end Sys2Proof.Claims

namespace Sys2Proof.Claims
open Machine

/-! ### O48 -/

/-- The surrender wave of block 0. -/
def surrenderer : EntRef := { blk := 0, slot := 16, frag := false }

/-- An `RWAIT` on a global ring, through the translation of page 0. -/
def ringWait : Wait := .ring true 0 0 0 {}

/-- A shootdown of every page of every address space of every module, without purge. -/
def shootAll : ShootRun := { asid := 0x200, va := 0, len := 0, mod_ := 0, pa := 0, purge := false }

/-- A state in which that shootdown runs while the surrender wave of block 0 waits on a global ring. -/
def surrenderWaits : State :=
  { blocks := [(0, { launch := 0, sur := some ({ parent := { wait := some ringWait } }, { req := 0, tile := 0 }) })]
    hub := ({} : Hub).setShoot 0 { run := some shootAll } }

/-- What an entity waits for after an action. -/
def waitAfter (o : Host.Outcome State Fault Refusal) (r : EntRef) : Option (Option Wait) :=
  match o with
  | .next u => (entityAt u r).map (·.wait)
  | _ => none

/-- Completing the shootdown passes over the block's surrender wave. -/
theorem shootdown_surrenderWaits : waitAfter (exec (.shootdownComplete 0) surrenderWaits) surrenderer = some (some ringWait) := rfl

/-- Refutes O48: its last clause says of every entity that waits on a ring through a removed translation that it waits no more once the
shootdown completes. `Block.translateAgain` lets the entities of a block's waves translate again and leaves its surrender wave, in slot 16,
as it is. No surrender wave comes to wait on a ring, for its `RWAIT` traps (R151), but the statement is of every state. -/
theorem not_translation : ¬ Obligations.Translation := by
  unfold Obligations.Translation
  rintro ⟨-, -, -, -, -, -, -, hcomplete⟩
  obtain ⟨u, hu, -, -, -, hentities, -⟩ := hcomplete surrenderWaits 0 shootAll (by decide) rfl
    fun _ => ⟨nofun, by decide, nofun⟩
  obtain ⟨w', hw', -, he'⟩ := hentities surrenderer _ _ _ rfl
  have hwait := shootdown_surrenderWaits
  have hnone : (entityAt u surrenderer).map (·.wait) = some none := by
    rw [entityAt, hw', Option.bind_some, he']
    rfl
  rw [hu] at hwait
  exact absurd (hwait.symm.trans hnone) (by decide)

end Sys2Proof.Claims

namespace Sys2Proof.Machine

/-! ### Fields of a register -/

theorem natBits_testBit (n hi lo i : Nat) : (natBits n hi lo).testBit i = (decide (i < hi + 1 - lo) && n.testBit (lo + i)) := by
  rw [natBits, Nat.testBit_mod_two_pow, Nat.testBit_div_two_pow, Nat.add_comm i]

theorem natBit_toNat {w : Nat} (v : BitVec w) (i : Nat) : natBit v.toNat i = v.getLsbD i := by
  rw [natBit, BitVec.getLsbD, Nat.testBit_eq_decide_div_mod_eq]

/-- A field read as a number is the field. -/
theorem ofNat_natBits {w hi lo : Nat} (k : Nat) (v : BitVec w) (h : k ≤ hi + 1 - lo) :
    BitVec.ofNat k (natBits v.toNat hi lo) = v.extractLsb' lo k := by
  refine BitVec.eq_of_getLsbD_eq fun i hi' => ?_
  have hin : i < hi + 1 - lo := by omega
  rw [BitVec.getLsbD_ofNat, natBits_testBit, BitVec.getLsbD_extractLsb', decide_eq_true hin, Bool.true_and]
  rfl

/-- A field kept in place is the word under the field's mask. -/
theorem keepBits_testBit (v : Dword) (hi lo i : Nat) : (keepBits v hi lo).testBit i = (decide (lo ≤ i ∧ i ≤ hi) && v.getLsbD i) := by
  rw [keepBits, Nat.testBit_mul_two_pow, natBits_testBit, Bool.decide_and, BitVec.getLsbD]
  by_cases hlo : lo ≤ i
  · have hhi : i - lo < hi + 1 - lo ↔ i ≤ hi := by omega
    simp only [Nat.add_sub_cancel' hlo, hhi, hlo, decide_true, Bool.true_and]
  · simp only [hlo, decide_false, Bool.false_and]

theorem keepBits_56_2 (v : Dword) : BitVec.ofNat 64 (keepBits v 56 2) = v &&& 0x01FFFFFFFFFFFFFC := by
  have hmask : ∀ j : Fin 64, (0x01FFFFFFFFFFFFFC : Dword).getLsbD j = decide (2 ≤ j.val ∧ j.val ≤ 56) := by decide
  refine BitVec.eq_of_getLsbD_eq fun i hi => ?_
  rw [BitVec.getLsbD_ofNat, decide_eq_true hi, Bool.true_and, keepBits_testBit, BitVec.getLsbD_and, hmask ⟨i, hi⟩, Bool.and_comm]

theorem valid_keepBits_51_21 (v : Dword) : BitVec.ofNat 64 (natBits v.toNat 0 0 + keepBits v 51 21) = v &&& 0x000FFFFFFFE00001 := by
  have hlow : natBits v.toNat 0 0 < 2 ^ 21 := Nat.lt_of_lt_of_le (Nat.mod_lt _ (by decide)) (by decide)
  have hor : natBits v.toNat 0 0 + keepBits v 51 21 = keepBits v 51 21 ||| keepBits v 0 0 := by
    rw [Nat.add_comm, keepBits, Nat.mul_comm, Nat.two_pow_add_eq_or_of_lt hlow, keepBits, Nat.pow_zero, Nat.mul_one]
  have hmask : ∀ j : Fin 64, (0x000FFFFFFFE00001 : Dword).getLsbD j =
      (decide (21 ≤ j.val ∧ j.val ≤ 51) || decide (0 ≤ j.val ∧ j.val ≤ 0)) := by decide
  refine BitVec.eq_of_getLsbD_eq fun i hi => ?_
  rw [hor, BitVec.getLsbD_ofNat, decide_eq_true hi, Bool.true_and, Nat.testBit_or, keepBits_testBit, keepBits_testBit, BitVec.getLsbD_and,
    hmask ⟨i, hi⟩, ← Bool.and_or_distrib_right, Bool.and_comm]

/-! ### The window (R430) -/

theorem exec_registerWrite_next (off size : Nat) (v : Dword) (s : State) :
    exec (.registerWrite off size v) s = .next (s.windowWrite off size v) := rfl

theorem State.regWrite_reserved (s : State) {o : Nat} (h : o < 0x10000) (new ones : Dword) (low : Bool) : s.regWrite o new ones low = s :=
  if_pos h

/-- An access that the window does not take, or one below its registers. -/
theorem State.windowWrite_ignored (s : State) {off size : Nat}
    (h : (size ≠ 4 ∧ size ≠ 8) ∨ off % size ≠ 0 ∨ 0x40000000 ≤ off ∨ off < 0x10000) (v : Dword) : s.windowWrite off size v = s := by
  unfold State.windowWrite
  split
  · rename_i hok
    simp only [windowOk, Bool.and_eq_true, Bool.or_eq_true, decide_eq_true_eq] at hok
    exact s.regWrite_reserved (by omega) ..
  · rfl

/-- An 8-byte write gives the register its value. -/
theorem State.windowWrite_dword (s : State) {o : Nat} (ha : o % 8 = 0) (hw : o < 0x40000000) (v : Dword) :
    s.windowWrite o 8 v = s.regWrite o v v true := by
  have hones : v &&& BitVec.allOnes 64 = v := BitVec.and_allOnes
  have hnew (old : Dword) : (old &&& ~~~ BitVec.allOnes 64) ||| v = v := by simp
  simp only [State.windowWrite, windowOk, ha, hw, show o / 8 * 8 = o by omega, BitVec.shiftLeft_zero, Nat.mul_zero, decide_true,
    Bool.or_true, Bool.and_self, if_true, hones, hnew]

theorem exec_registerWrite_dword (s : State) {o : Nat} (ha : o % 8 = 0) (hw : o < 0x40000000) (v : Dword) :
    exec (.registerWrite o 8 v) s = .next (s.regWrite o v v true) :=
  congrArg Host.Outcome.next (s.windowWrite_dword ha hw v)

/-- A 4-byte write of bits 31:0 keeps bits 63:32 (R430). -/
theorem State.windowWrite_low (s : State) {o : Nat} (ha : o % 8 = 0) (hw : o < 0x40000000) (v : Dword) :
    s.windowWrite o 4 v =
      s.regWrite o ((BitVec.ofNat 64 (s.regKept o) &&& 0xFFFFFFFF00000000) ||| (v &&& 0xFFFFFFFF)) (v &&& 0xFFFFFFFF) true := by
  simp only [State.windowWrite, windowOk, ha, hw, show o % 4 = 0 by omega, show o / 8 * 8 = o by omega, BitVec.shiftLeft_zero, Nat.mul_zero,
    decide_true, Bool.true_or, Bool.and_self, if_true, show (4 : Nat) ≠ 8 by decide, if_false]
  rfl

/-- The upper half of a register. -/
theorem shiftLeft_32_upper (v : Dword) : v <<< 32 &&& (0xFFFFFFFF00000000 : Dword) = v <<< 32 := by
  have hmask : ∀ j : Fin 64, (0xFFFFFFFF00000000 : Dword).getLsbD j = !decide (j.val < 32) := by decide
  refine BitVec.eq_of_getLsbD_eq fun i hi => ?_
  rw [BitVec.getLsbD_and, hmask ⟨i, hi⟩, BitVec.getLsbD_shiftLeft]
  cases decide (i < 32) <;> simp

/-- A 4-byte write of bits 63:32 keeps bits 31:0, and starts no action (R430). -/
theorem State.windowWrite_high (s : State) {o : Nat} (ha : o % 8 = 0) (hw : o + 4 < 0x40000000) (v : Dword) :
    s.windowWrite (o + 4) 4 v = s.regWrite o ((BitVec.ofNat 64 (s.regKept o) &&& 0xFFFFFFFF) ||| (v <<< 32)) (v <<< 32) false := by
  have hmask : BitVec.ofNat 64 ((2 ^ 32 - 1) * 2 ^ (8 * 4)) = (0xFFFFFFFF00000000 : Dword) := rfl
  have hkept : ~~~ (0xFFFFFFFF00000000 : Dword) = 0xFFFFFFFF := by decide
  simp only [State.windowWrite, windowOk, hw, show (o + 4) % 4 = 0 by omega, show (o + 4) % 8 = 4 by omega, show (o + 4) / 8 * 8 = o by omega,
    decide_true, Bool.true_or, Bool.and_self, if_true, show (4 : Nat) ≠ 8 by decide, if_false, hmask,
    hkept]
  rw [show v <<< (8 * 4) = v <<< 32 from rfl, shiftLeft_32_upper v]
  rfl

/-! ### The register that an offset names (Tables 4.5, 18.1, 20.6, 23.1–23.4) -/

theorem State.regWrite_part (s : State) {p r : Nat} (hp : p < 8) (hr : r < 0x40) (new ones : Dword) (low : Bool) :
    s.regWrite (0x10000 + 0x40 * p + r) new ones low = s.writePart p r new := by
  unfold State.regWrite
  rw [if_neg (by omega), if_pos (by omega), show (0x10000 + 0x40 * p + r - 0x10000) / 0x40 = p by omega,
    show (0x10000 + 0x40 * p + r) % 0x40 = r by omega]

theorem exec_registerWrite_part (s : State) {p r : Nat} (hp : p < 8) (ha : r % 8 = 0) (hr : r < 0x40) (v : Dword) :
    exec (.registerWrite (0x10000 + 0x40 * p + r) 8 v) s = .next (s.writePart p r v) := by
  rw [exec_registerWrite_dword s (by omega) (by omega), s.regWrite_part hp hr]

theorem State.regWrite_ring (s : State) {p r : Nat} (hp : p < 8) (hr : r < 64) (new ones : Dword) (low : Bool) :
    s.regWrite (0x20000 + 0x200 * p + 8 * r) new ones low = s.writeRing p r new := by
  unfold State.regWrite
  rw [if_neg (by omega), if_neg (by omega), if_pos (by omega), show (0x20000 + 0x200 * p + 8 * r - 0x20000) / 0x200 = p by omega,
    show (0x20000 + 0x200 * p + 8 * r) % 0x200 / 8 = r by omega]

theorem State.regWrite_module (s : State) {r : Nat} (hr : r < 0x78) (new ones : Dword) (low : Bool) :
    s.regWrite (0x30000 + r) new ones low = s.writeModule r new ones low := by
  unfold State.regWrite
  rw [if_neg (by omega), if_neg (by omega), if_neg (by omega), if_pos (by omega), Nat.add_sub_cancel_left]

theorem exec_registerWrite_module (s : State) {r : Nat} (ha : r % 8 = 0) (hr : r < 0x78) (v : Dword) :
    exec (.registerWrite (0x30000 + r) 8 v) s = .next (s.writeModule r v v true) := by
  rw [exec_registerWrite_dword s (by omega) (by omega), s.regWrite_module hr]

theorem State.regWrite_asroot (s : State) {n : Nat} (hn : n < 512) (new ones : Dword) (low : Bool) :
    s.regWrite (0x40000 + 8 * n) new ones low = s.modHub fun h => { h with asroot := tset h.asroot n (new &&& 0x000FFFFFFFE00001) } := by
  unfold State.regWrite
  iterate 4 rw [if_neg (by omega)]
  rw [if_pos (by omega), valid_keepBits_51_21, show (0x40000 + 8 * n - 0x40000) / 8 = n by omega]

theorem State.regWrite_plate (s : State) {p r : Nat} (hp : p < 2) (hr : r < 0x40) (new ones : Dword) (low : Bool) :
    s.regWrite (0x41000 + 0x40 * p + r) new ones low = s.writePlate p r new ones low := by
  unfold State.regWrite
  iterate 5 rw [if_neg (by omega)]
  rw [if_pos (by omega), show (0x41000 + 0x40 * p + r - 0x41000) / 0x40 = p by omega, show (0x41000 + 0x40 * p + r) % 0x40 = r by omega]

theorem State.regWrite_stcfg (s : State) (new ones : Dword) (low : Bool) :
    s.regWrite 0x50000 new ones low = if low then s.writeStcfg new.toNat else s := rfl

theorem State.regWrite_swap (s : State) {p r : Nat} (hp : p < 8) (hr : r < 0x40) (new ones : Dword) (low : Bool) :
    s.regWrite (0x60000 + 0x40 * p + r) new ones low = s.writeSwap p r new ones low := by
  unfold State.regWrite
  iterate 9 rw [if_neg (by omega)]
  rw [if_pos (by omega), show (0x60000 + 0x40 * p + r - 0x60000) / 0x40 = p by omega, show (0x60000 + 0x40 * p + r) % 0x40 = r by omega]

theorem exec_registerWrite_swap (s : State) {p r : Nat} (hp : p < 8) (ha : r % 8 = 0) (hr : r < 0x40) (v : Dword) :
    exec (.registerWrite (0x60000 + 0x40 * p + r) 8 v) s = .next (s.writeSwap p r v v true) := by
  rw [exec_registerWrite_dword s (by omega) (by omega), s.regWrite_swap hp hr]

theorem State.regWrite_xadm (s : State) {n : Nat} (hn : n < 288) (new ones : Dword) (low : Bool) :
    s.regWrite (0x81000 + 8 * n) new ones low = s.modHub fun h => { h with xadm := tset h.xadm n (new.setWidth 16) } := by
  unfold State.regWrite
  iterate 11 rw [if_neg (by omega)]
  rw [if_pos (by omega), show (0x81000 + 8 * n - 0x81000) / 8 = n by omega]

theorem State.regWrite_route (s : State) {m : Nat} (hm : m < 64) (new ones : Dword) (low : Bool) :
    s.regWrite (0x82000 + 8 * m) new ones low = s.writeRoute m (new.setWidth 12) (BitVec.ofNat 32 (natBits ones.toNat 47 16)) := by
  unfold State.regWrite
  iterate 12 rw [if_neg (by omega)]
  rw [if_pos (by omega), show (0x82000 + 8 * m - 0x82000) / 8 = m by omega]

theorem State.regWrite_debug (s : State) {core r : Nat} (hc : core < 288) (hr : r < 0x200) (new ones : Dword) (low : Bool) :
    s.regWrite (0x200000 + 0x200 * core + r) new ones low = s.writeDebug core r new ones low := by
  unfold State.regWrite
  iterate 13 rw [if_neg (by omega)]
  rw [if_pos (by omega), show (0x200000 + 0x200 * core + r - 0x200000) / 0x200 = core by omega,
    show (0x200000 + 0x200 * core + r) % 0x200 = r by omega]

/-- What the hub keeps of `TRHDATA`. -/
theorem State.regKept_trhdata (s : State) {p : Nat} (hp : p < 8) : s.regKept (0x60000 + 0x40 * p + 8) = (s.part p).trhdata.toNat := by
  unfold State.regKept
  dsimp only
  iterate 10 rw [if_neg (by omega)]
  rw [if_pos (by omega), show (0x60000 + 0x40 * p + 8 - 0x60000) / 0x40 = p by omega, show (0x60000 + 0x40 * p + 8) % 0x40 = 8 by omega]
  rfl

/-! ### What the registers do -/

theorem State.writeSwap_trhvec (s : State) (p : Nat) (v ones : Dword) (low : Bool) :
    s.writeSwap p 0x00 v ones low = s.modPart p fun q => { q with trhvec := v &&& 0x01FFFFFFFFFFFFFC } := by
  rw [← keepBits_56_2]
  rfl

theorem State.writeSwap_trhdata (s : State) (p : Nat) (v ones : Dword) (low : Bool) :
    s.writeSwap p 0x08 v ones low = s.modPart p fun q => { q with trhdata := v } := rfl

theorem State.writePtsched_held {s : State} {p : Nat} (h : s.partHolds p = true) (v : Nat) : s.writePtsched p v = s := if_pos h

theorem State.writePtsched_inRange {s : State} {p v : Nat} (h : s.partHolds p = false) (hevd : 1 ≤ natBits v 9 0 ∧ natBits v 9 0 ≤ 1000)
    (hmig : 1 ≤ natBits v 22 10 ∧ natBits v 22 10 ≤ 4096) (hshk : 6 ≤ natBits v 27 23 ∧ natBits v 27 23 ≤ 16) :
    s.writePtsched p v = s.modPart p fun q => { q with evd := natBits v 9 0, mig := natBits v 22 10, shk := natBits v 27 23 } := by
  simp only [State.writePtsched, h, Bool.false_eq_true, if_false, if_pos hevd, if_pos hmig, if_pos hshk]

theorem State.writePlate_freply (s : State) (p : Nat) (new ones : Dword) :
    s.writePlate p 0x20 new ones true = s.freply p (natBits ones.toNat 11 0) (natBits ones.toNat 13 12) := rfl

/-- Action 3 of `FREPLY` is ignored (R93). -/
theorem State.freply_ignored (s : State) {p g action : Nat} (h : 3 ≤ action) : s.freply p g action = s := by
  simp [State.freply, h]

/-- `FREPLY` answers the group that its low bits name with the action above them (R93). -/
theorem exec_freply (s : State) {p : Nat} (hp : p < 2) (v : Dword) :
    exec (.registerWrite (0x41020 + 0x40 * p) 8 v) s =
      (if natBits v.toNat 13 12 = 0 then exec (.freplyReplay p (BitVec.ofNat 12 v.toNat)) s
       else if natBits v.toNat 13 12 = 1 then exec (.freplyFatalXlate p (BitVec.ofNat 12 v.toNat)) s
       else if natBits v.toNat 13 12 = 2 then exec (.freplyFatalWprot p (BitVec.ofNat 12 v.toNat)) s
       else exec (.freplyIgnored p (BitVec.ofNat 12 v.toNat)) s) := by
  have hgroup : (BitVec.ofNat 12 v.toNat).toNat = natBits v.toNat 11 0 := by simp [natBits]
  have haction : natBits v.toNat 13 12 < 4 := Nat.mod_lt _ (by decide)
  rw [exec_registerWrite_dword s (by omega) (by omega), show 0x41020 + 0x40 * p = 0x41000 + 0x40 * p + 0x20 by omega,
    s.regWrite_plate hp (by decide), State.writePlate_freply]
  simp only [exec_freplyReplay, exec_freplyFatalXlate, exec_freplyFatalWprot, exec_freplyIgnored, execFreplyReplay, execFreplyFatalXlate,
    execFreplyFatalWprot, execFreplyIgnored, if_pos hp, event, hgroup]
  by_cases h0 : natBits v.toNat 13 12 = 0
  · rw [if_pos h0, h0]
  by_cases h1 : natBits v.toNat 13 12 = 1
  · rw [if_neg h0, if_pos h1, h1]
  by_cases h2 : natBits v.toNat 13 12 = 2
  · rw [if_neg h0, if_neg h1, if_pos h2, h2]
  · rw [if_neg h0, if_neg h1, if_neg h2, s.freply_ignored (by omega), s.freply_ignored (by omega)]

theorem State.writeModule_watts (s : State) (v ones : Dword) (low : Bool) :
    s.writeModule 0x10 v ones low = if 1500 ≤ v.toNat % 65536 ∧ v.toNat % 65536 ≤ 4200 then
      s.modHub fun h => { h with watts := v.setWidth 16 } else s := by
  have hv : natBits v.toNat 15 0 = v.toNat % 65536 := by simp [natBits]
  have hset : BitVec.ofNat 16 (v.toNat % 65536) = v.setWidth 16 := by
    apply BitVec.eq_of_toNat_eq
    simp
  show (if 1500 ≤ natBits v.toNat 15 0 ∧ natBits v.toNat 15 0 ≤ 4200 then _ else _) = _
  simp only [hv, hset]

theorem State.writeDebug_hbase (s : State) (core : Nat) {n : Nat} (hn : n < 16) (v ones : Dword) (low : Bool) :
    s.writeDebug core (0x40 + 8 * n) v ones low = s.modCore core fun c =>
      { c with dbg := { c.dbg with hbase := c.dbg.hbase.setIfInBounds n (v &&& 0x01FFFFFFFFFFFFFC) } } := by
  rw [← keepBits_56_2]
  unfold State.writeDebug
  split
  case h_8 => rw [if_pos (by omega), show (0x40 + 8 * n - 0x40) / 8 = n by omega]
  all_goals omega

/-! ### `MODID`, `PTCL`, `XRTE`, `STCFG` -/

theorem State.writeModid_late {s : State} (h : s.hub.modidSet = true) (v : Dword) : s.writeModid v = s := if_pos h
theorem State.writeModid_first {s : State} (h : s.hub.modidSet = false) (v : Dword) :
    s.writeModid v = s.modHub fun h => { h with modid := v.setWidth 6, modidSet := true } := if_neg (by simp [h])

theorem exec_ptclWrite_next (s : State) {part : Nat} (hp : part < 8) (v : Dword) :
    exec (.ptclWrite part v) s = .next (s.writePtcl part v) := by
  rw [exec_ptclWrite, execPtclWrite, if_pos hp]
  rfl

theorem exec_xrteWrite_next (s : State) {m : Nat} (hm : m < 64) (v : Dword) :
    exec (.xrteWrite m v) s = .next (s.writeRoute m (v.setWidth 12) (BitVec.ofNat 32 (natBits v.toNat 47 16))) := by
  rw [exec_xrteWrite, execXrteWrite, if_pos hm]
  rfl

/-- Has another partition one of the clusters (R419)? -/
theorem ptclClash_iff (s : State) (part : Nat) (clu : BitVec 24) :
    ((List.range 8).any fun n => decide (n ≠ part) && decide ((s.part n).ptcl &&& clu ≠ 0)) = true ↔
      ∃ n, n < 8 ∧ n ≠ part ∧ (s.part n).ptcl &&& clu ≠ 0 := by
  simp only [List.any_eq_true, List.mem_range, Bool.and_eq_true, decide_eq_true_eq]

theorem State.writePtcl_refused {s : State} {part : Nat} {v : Dword}
    (h : (∃ n, n < 8 ∧ n ≠ part ∧ (s.part n).ptcl &&& v.setWidth 24 ≠ 0) ∨ s.partHolds part = true) : s.writePtcl part v = s := by
  unfold State.writePtcl
  refine if_pos ?_
  rw [Bool.or_eq_true, Bool.or_eq_true, ptclClash_iff]
  exact .inl h

theorem State.modPart_part (s : State) (n m : Nat) (f : Partition → Partition) (hn : n < 8) :
    (s.modPart n f).part m = if m = n then f (s.part n) else s.part m := by
  unfold State.part
  rw [State.modPart_hub]
  unfold Hub.setPart Hub.part
  split
  · subst_vars
    simp [hn]
  · rw [Vector.getElem?_setIfInBounds_ne (by omega)]

/-- The defect-map signature of a partition is no other partition's register, and nothing outside the hub. -/
theorem State.newSig_part (s : State) {part : Nat} (n : Nat) (hp : part < 8) :
    (s.newSig part).part n = if n = part then { s.part part with ptsig := Config.freeValue s.fresh } else s.part n :=
  State.modPart_part _ _ _ _ hp

theorem State.writePtcl_taken {s : State} {part : Nat} {v : Dword} (hp : part < 8)
    (hclash : ∀ n, n < 8 → n ≠ part → (s.part n).ptcl &&& v.setWidth 24 = 0) (hholds : s.partHolds part = false) :
    ((s.writePtcl part v).part part).ptcl = v.setWidth 24 ∧ (∀ n, n ≠ part → (s.writePtcl part v).part n = s.part n) ∧
      (s.writePtcl part v).mem = s.mem ∧ (s.writePtcl part v).blocks = s.blocks ∧ (s.writePtcl part v).cores = s.cores := by
  have hfree : ((List.range 8).any fun n => decide (n ≠ part) && decide ((s.part n).ptcl &&& v.setWidth 24 ≠ 0)) = false := by
    rw [Bool.eq_false_iff, Ne, ptclClash_iff]
    rintro ⟨n, hn, hne, hclu⟩
    exact hclu (hclash n hn hne)
  unfold State.writePtcl
  simp only [hfree, hholds, Bool.false_or, decide_eq_true_eq]
  split
  · exact ⟨‹_›, fun _ _ => rfl, rfl, rfl, rfl⟩
  · refine ⟨?_, fun n hn => ?_, rfl, rfl, rfl⟩
    · rw [State.newSig_part _ _ hp, if_pos rfl, State.modPart_part _ _ _ _ hp, if_pos rfl]
    · rw [State.newSig_part _ _ hp, if_neg hn, State.modPart_part _ _ _ _ hp, if_neg hn]

theorem State.writeStcfg_enabled {s : State} (h : s.hub.stip.en = true) (v : Dword) :
    s.writeStcfg v.toNat = s.modHub fun h => { h with stip := { s.hub.stip with wret := v.extractLsb' 2 2, en := v.getLsbD 0 } } := by
  simp only [State.writeStcfg, h, if_true, natBit_toNat, ofNat_natBits 2 v (show 2 ≤ 3 + 1 - 2 by decide)]

/-- The registers as a write of `STCFG` leaves them before it enables. -/
def Stipple.configured (x : Stipple) (v : Dword) : Stipple :=
  { x with wret := v.extractLsb' 2 2, heur := v.getLsbD 1, ncap := v.extractLsb' 4 5 }

theorem State.writeStcfg_off {s : State} (h : s.hub.stip.en = false) {v : Dword}
    (hv : v.getLsbD 0 = false ∨ natBits v.toNat 8 4 < 10 ∨ 28 < natBits v.toNat 8 4) :
    s.writeStcfg v.toNat = s.modHub fun h => { h with stip := s.hub.stip.configured v } := by
  have hcond : (v.getLsbD 0 && decide (10 ≤ natBits v.toNat 8 4) && decide (natBits v.toNat 8 4 ≤ 28)) = false := by
    rcases hv with hv | hv | hv
    · rw [hv]; rfl
    · simp [Nat.not_le.mpr hv]
    · simp [Nat.not_le.mpr hv]
  simp only [State.writeStcfg, h, hcond, Bool.false_eq_true, if_false, natBit_toNat, ofNat_natBits 2 v (show 2 ≤ 3 + 1 - 2 by decide),
    ofNat_natBits 5 v (show 5 ≤ 8 + 1 - 4 by decide), Stipple.configured]

theorem State.writeStcfg_enables {s : State} (h : s.hub.stip.en = false) {v : Dword} (h0 : v.getLsbD 0 = true)
    (hlo : 10 ≤ natBits v.toNat 8 4) (hhi : natBits v.toNat 8 4 ≤ 28) :
    ∃ plates : Vector StipPlate 2, (∀ p ∈ plates.toList, p.live = [] ∧ p.merge = []) ∧
      s.writeStcfg v.toNat = s.modHub fun h => { h with stip := { s.hub.stip.configured v with en := true, plates := plates } } := by
  have hcond : (v.getLsbD 0 && decide (10 ≤ natBits v.toNat 8 4) && decide (natBits v.toNat 8 4 ≤ 28)) = true := by
    rw [h0, decide_eq_true hlo, decide_eq_true hhi]
    rfl
  simp only [State.writeStcfg, h, hcond, Bool.false_eq_true, if_false, if_true, natBit_toNat,
    ofNat_natBits 2 v (show 2 ≤ 3 + 1 - 2 by decide), ofNat_natBits 5 v (show 5 ≤ 8 + 1 - 4 by decide)]
  refine ⟨_, fun p hp => ?_, rfl⟩
  rcases List.mem_cons.mp hp with rfl | hp
  · exact ⟨rfl, rfl⟩
  · obtain rfl := List.mem_singleton.mp hp
    exact ⟨rfl, rfl⟩

end Sys2Proof.Machine

section
open Sys2Proof Sys2Proof.Machine

/-- Settles O53, one register of the window after the other. -/
theorem hubRegisters : Obligations.HubRegisters := by
  refine ⟨fun s off size v h => congrArg Host.Outcome.next (s.windowWrite_ignored h v), ?asroot, ?partition, ?freply, ?module, ?core, ?modid,
    ?ptcl, ?route, ?stcfg⟩
  case asroot =>
    intro s v n hn
    rw [exec_registerWrite_dword s (by omega) (by omega), s.regWrite_asroot hn]
  case partition =>
    intro s v p hp
    have hptsched : exec (.registerWrite (0x10010 + 0x40 * p) 8 v) s = .next (s.writePtsched p v.toNat) := by
      rw [show 0x10010 + 0x40 * p = 0x10000 + 0x40 * p + 0x10 by omega]
      exact exec_registerWrite_part s hp (by decide) (by decide) v
    have htrhdata : 0x60008 + 0x40 * p = 0x60000 + 0x40 * p + 8 := by omega
    refine ⟨?trhvec, ?trhdata, ?trhdataLow, ?trhdataHigh, fun r hr => ?ringWord, ?clusters, fun hheld => ?schedHeld,
      fun hfree h1 h2 h3 h4 h5 h6 => ?schedInRange⟩
    case trhvec =>
      exact (exec_registerWrite_swap s (r := 0) hp (by decide) (by decide) v).trans (congrArg Host.Outcome.next (s.writeSwap_trhvec ..))
    case trhdata => rw [htrhdata, exec_registerWrite_swap s hp (by decide) (by decide), State.writeSwap_trhdata]
    case trhdataLow =>
      rw [exec_registerWrite_next, s.windowWrite_low (by omega) (by omega), htrhdata, s.regWrite_swap hp (by decide), s.regKept_trhdata hp,
        BitVec.ofNat_toNat, BitVec.setWidth_eq, State.writeSwap_trhdata]
      rfl
    case trhdataHigh =>
      rw [exec_registerWrite_next, show 0x6000C + 0x40 * p = 0x60000 + 0x40 * p + 8 + 4 by omega, s.windowWrite_high (by omega) (by omega),
        s.regWrite_swap hp (by decide), s.regKept_trhdata hp, BitVec.ofNat_toNat, BitVec.setWidth_eq, State.writeSwap_trhdata]
      rfl
    case ringWord =>
      rw [exec_registerWrite_dword s (by omega) (by omega), s.regWrite_ring hp hr, exec_launchRingWordWrite, execLaunchRingWordWrite,
        if_pos ⟨hp, hr⟩]
      rfl
    case clusters =>
      rw [exec_ptclWrite_next s hp]
      exact exec_registerWrite_part s (r := 0) hp (by decide) (by decide) v
    case schedHeld => rw [hptsched, State.writePtsched_held hheld]
    case schedInRange => rw [hptsched, State.writePtsched_inRange hfree ⟨h1, h2⟩ ⟨h3, h4⟩ ⟨h5, h6⟩]
  case freply => exact fun s v p hp => exec_freply s hp v
  case module =>
    intro s v
    have hmodule {r : Nat} (ha : r % 8 = 0) (hr : r < 0x78) := exec_registerWrite_module s ha hr v
    refine ⟨?watts, hmodule (r := 0) (by decide) (by decide), ?stipple, hmodule (r := 0x60) (by decide) (by decide), fun m hm => ?xrte⟩
    case watts => rw [hmodule (r := 0x10) (by decide) (by decide), State.writeModule_watts]
    case stipple =>
      rw [exec_registerWrite_dword s (by decide) (by decide)]
      rfl
    case xrte => rw [exec_registerWrite_dword s (by omega) (by omega), s.regWrite_route hm, exec_xrteWrite_next s hm]
  case core =>
    intro s v core hc
    refine ⟨?xadm, ?clear, fun n hn => ?hbase⟩
    case xadm => rw [exec_registerWrite_dword s (by omega) (by omega), s.regWrite_xadm hc]
    case clear =>
      rw [exec_hatchClear, execHatchClear, if_pos hc]
      rfl
    case hbase =>
      rw [exec_registerWrite_dword s (by omega) (by omega),
        show 0x200040 + 0x200 * core + 8 * n = 0x200000 + 0x200 * core + (0x40 + 8 * n) by omega, s.regWrite_debug hc (by omega),
        s.writeDebug_hbase core hn]
  case modid =>
    exact fun s v => ⟨fun h => congrArg Host.Outcome.next (State.writeModid_late h v),
      fun h => congrArg Host.Outcome.next (State.writeModid_first h v)⟩
  case ptcl =>
    intro s v part hp
    rw [exec_ptclWrite_next s hp]
    exact ⟨fun h => congrArg Host.Outcome.next (State.writePtcl_refused h),
      fun hclash hholds => ⟨_, rfl, State.writePtcl_taken hp hclash hholds⟩⟩
  case route =>
    intro s v m hm
    rw [exec_xrteWrite_next s hm, ofNat_natBits 32 v (show 32 ≤ 47 + 1 - 16 by decide)]
    rfl
  case stcfg =>
    refine fun s v => ⟨fun hen => congrArg Host.Outcome.next (State.writeStcfg_enabled hen v),
      fun hen hv => congrArg Host.Outcome.next (State.writeStcfg_off hen hv), fun hen h0 hlo hhi => ?_⟩
    obtain ⟨plates, hempty, hwrite⟩ := State.writeStcfg_enables hen h0 hlo hhi
    exact ⟨_, congrArg Host.Outcome.next hwrite, rfl, rfl, rfl, rfl, rfl, rfl, hempty⟩

end
